-- ==== Sys2Proof/Word.lean ====
section
/-! DEFINITION. The word types of the AK9 model and their plainest arithmetic: bytes, 32-bit register words, the
little-endian byte order of R18, and the field notation [msb:lsb] of R16. -/
namespace Sys2Proof

/-- One byte of memory or of a message. -/
abbrev Byte := BitVec 8

/-- One doubleword of a register page (R529). -/
abbrev Word := BitVec 32

/-- Bits [msb:lsb] of a number, as a number (R16). -/
def bits (x : Nat) (msb lsb : Nat) : Nat := (x >>> lsb) % 2 ^ (msb + 1 - lsb)

/-- Bit n of a number (R16). -/
def bitOf (x : Nat) (n : Nat) : Bool := x.testBit n

/-- The `n` low bytes of a number, byte 0 first (R18). -/
def leBytes : Nat → Nat → List Byte
  | 0, _ => []
  | n + 1, x => BitVec.ofNat 8 x :: leBytes n (x / 256)

/-- The number whose bytes these are, byte 0 first (R18). -/
def ofLeBytes : List Byte → Nat
  | [] => 0
  | b :: bs => b.toNat + 256 * ofLeBytes bs

/-- A `w`-bit two's-complement code read as an integer. -/
def signed (w : Nat) (x : Nat) : Int :=
  if x % 2 ^ w < 2 ^ (w - 1) then ((x % 2 ^ w : Nat) : Int) else ((x % 2 ^ w : Nat) : Int) - ((2 ^ w : Nat) : Int)

/-- An integer as a `w`-bit two's-complement code. -/
def unsigned (w : Nat) (x : Int) : Nat := (x % ((2 ^ w : Nat) : Int)).toNat

/-- Division rounded up; 0 where the divisor is 0. -/
def ceilDiv (a b : Nat) : Nat := (a + b - 1) / b

/-- One ASCII character a byte (R570, R600). -/
def ascii (t : String) : List Byte := t.toList.map (fun c => BitVec.ofNat 8 c.toNat)

end Sys2Proof
end

