-- ==== Sys2Proof/Syntax.lean ====
section
/-! DEFINITION. The commands of the AK9: one constructor for each row of the opcode table, with the operands that come
from outside the package (register writes, mailbox requests, descriptors read from host memory, messages of other
packages, pins and sensors). What a command reads inside the package (a descriptor of an instruction memory, a register)
is no operand: it is State. -/
namespace Sys2Proof

/-- A request of the Curator mailbox (R543): tag, payload, and the host buffer of its bulk data. -/
structure MbxReq where
  tag : Nat
  payload : List Byte
  haddr : Nat
  hlen : Nat
  deriving DecidableEq, Repr

/-- What the verification of a signature block under R571 concludes: one verdict per algorithm, and the signer's key
identifier. -/
structure SigCheck where
  rsaOk : Bool
  slhOk : Bool
  keyId : List Byte
  deriving DecidableEq, Repr

/-- A Curator firmware image (R567): the H of R570, security version, hand-over format (R658), Wilevo's signatures. -/
structure FwImage where
  hash : List Byte
  svn : Nat
  handover : Nat
  sig : SigCheck
  deriving DecidableEq, Repr

/-- A configuration record (R567). -/
structure CfgRecord where
  hash : List Byte
  idhash : List Byte
  isSealed : Bool
  sealEn : Bool
  debugAllow : Bool
  winFirst : Nat
  winPages : Nat
  mac0 : Nat
  mac1 : Nat
  intakeQ : Nat
  svn : Nat
  sig : SigCheck
  deriving DecidableEq, Repr

/-- An owner key record (R567); each owner key by its key identifier (R570). -/
structure OwnerRecord where
  hash : List Byte
  ownerId : List Byte
  keys : List (List Byte)
  svn : Nat
  sig : SigCheck
  deriving DecidableEq, Repr

/-- A token (R571): its 112-byte body and signatures. -/
structure Token where
  body : List Byte
  sig : SigCheck
  deriving DecidableEq, Repr

/-- What the IDENTITY stage finds (R566, R572). -/
structure IdentityIn where
  pufOk : Bool
  recordOk : Bool
  sealClosed : Bool
  deriving DecidableEq, Repr

/-- The four stamps of a time exchange (R306); `bad` where a TIME flit was discarded (R478). -/
structure Stamps where
  t1 : Nat
  t2 : Nat
  t3 : Nat
  t4 : Nat
  bad : Bool
  deriving DecidableEq, Repr

/-- A DMA descriptor (R533); `resv` where a reserved bit or byte is set. -/
structure DmaDesc where
  haddr : Nat
  daddr : Nat
  len : Nat
  op : Nat
  irq : Bool
  q : Nat
  caddr : Nat
  ctag : Nat
  resv : Bool
  deriving DecidableEq, Repr

/-- A landed message of another member (R339). -/
structure LandedMsg where
  grp : Nat
  idx : Nat
  pkg : Nat
  code : Nat
  final : Bool
  preempt : Bool
  /-- Shared gatherer slots that received a report: slot number, class; none is an empty class. -/
  cur : List (Nat × Option Int)
  deriving DecidableEq, Repr

/-- The twin's landed message (R383). -/
structure TwinMsg where
  grp : Nat
  idx : Nat
  sig : BitVec 64
  counts : List Nat
  bfields : Option (List Nat)
  deriving DecidableEq, Repr

/-- Lanes that a HOP message names, and the verdict of its tag (R481, R483). -/
structure HopLanes where
  lanes : Nat
  tagOk : Bool
  deriving DecidableEq, Repr

/-- Credits that come back (R464): flits, whether in a CREDIT HOP flit rather than an IDLE flit, and the verdict of its tag. -/
structure CreditMsg where
  flits : Nat
  hop : Bool
  tagOk : Bool
  deriving DecidableEq, Repr

/-- A chunk whose last flit has arrived (R456); the verdicts of its tag and, at its destination, of its CRC. -/
structure Chunk where
  src : Nat
  dst : Nat
  vc : Nat
  seq : Nat
  fresh : Bool
  kind : Nat
  cls : Nat
  /-- TYPE of its flits (R455); a HOP of KIND TIME carries the stamp t1 of a child (R306). -/
  ty : Nat
  tagOk : Bool
  /-- The CRC field after decryption (R456, R470). -/
  crc : Nat
  /-- Its flits with a reserved header bit set (R452). -/
  badFlits : Nat
  /-- What the credit fields of its flits return: VC, CLS, flits (R464). -/
  credits : List (Nat × Nat × Nat)
  t1 : Nat
  data : List Byte
  deriving DecidableEq, Repr

/-- What KEYX finds of the partner (R580). -/
structure KeyxIn where
  certOk : Bool
  sigOk : Bool
  cfgOk : Bool
  peerSealed : Bool
  peerSealBroken : Bool
  /-- LNK_CFG.ENC of the partner's end (R472). -/
  peerEnc : Bool
  deriving DecidableEq, Repr

/-- A UDP datagram over IPv6. -/
structure Udp where
  dstIp : Nat
  dstPort : Nat
  srcIp : Nat
  srcPort : Nat
  payload : List Byte
  deriving DecidableEq, Repr

/-- A received Ethernet frame, and the host receive descriptor at the ring's head (address, length). -/
structure EthFrame where
  fcsOk : Bool
  udp : Option Udp
  bytes : List Byte
  hbuf : Nat
  hlen : Nat
  deriving DecidableEq, Repr

/-- What the Curator's checks of a HELLO find (R581, R582). -/
structure HelloIn where
  complete : Bool
  reportOk : Bool
  reportOwner : List Byte
  reportSealed : Bool
  reportSealBroken : Bool
  deriving DecidableEq, Repr

/-- A temperature sample: hottest sensors of each compute die, I/O die and stack, in degrees Celsius (R622). -/
structure Temps where
  g : List Nat
  x : List Nat
  m : List Nat
  deriving DecidableEq, Repr

/-- An instruction of the debug port (R606). -/
inductive TapInstr where
  | idcode | bypass | sample | extest
  | debug (code : Nat)
  deriving DecidableEq, Repr

/-- One command of the AK9, in the order of the opcode table. -/
inductive Instr where
  | registerWrite (page off val : Nat) (whole : Bool)
  | pgCommitReq (page val : Nat)
  | pgCommitCancel (page val : Nat)
  | pgCtlSrst (page val : Nat)
  | pgCntClr (page val : Nat)
  | pgEvtEnWrite (page off val : Nat)
  | timNowLoRead
  | devProvRead
  | docSlackMinRead (c : Nat)
  | eventHoldExpiry
  | eventRingDrain (consumed : Nat)
  | evtRing (m : MbxReq)
  | mailboxUnknownCode (code : Nat) (m : MbxReq)
  | attest (m : MbxReq)
  | certGet (m : MbxReq)
  | fwStage (m : MbxReq) (img : FwImage)
  | fwCommit (m : MbxReq)
  | fwCommitLive (m : MbxReq)
  | newImageReady
  | cfgStage (m : MbxReq) (cfg : CfgRecord)
  | cfgCommit (m : MbxReq)
  | ownerEnrol (m : MbxReq) (own : OwnerRecord)
  | pufReenrol (m : MbxReq)
  | certInstall (m : MbxReq) (chain : List Byte) (sig : SigCheck)
  | unseal (m : MbxReq) (tok : Token)
  | unsealDone
  | debugUnlock (m : MbxReq) (tok : Token)
  | sealRearm (m : MbxReq)
  | slotLoad (m : MbxReq)
  | slotFree (m : MbxReq)
  | sessionScrub (m : MbxReq)
  | sessionScrubFinish
  | exhLoad (m : MbxReq) (image : List Byte) (sig : SigCheck)
  | hbmWaitCommandResume
  | presenceNChange (low : Bool)
  | presenceDebounceExpiry
  | presenceWindowOpen
  | presenceWindowExpiry
  | sealCheck (closed : Bool)
  | healthTestFail (test : Nat)
  | bringUpStart
  | perstAssert
  | firmwareStart
  | identityReady (i : IdentityIn)
  | configurationApplied
  | sramFillDone
  | hbmTrained (s : Nat) (ok : Bool)
  | hbmFillDone (s : Nat)
  | regionRelease (r : Nat) (failed : Nat)
  | fullServiceBegin
  | fullServiceTimeout
  | pcieFunctionReset
  | pwrWarnFall
  | pwrWarnRise
  | flashResume
  | powerLoss
  | temperatureSample (t : Temps)
  | powerMeasure (avg1ms avg100us : Nat)
  | pmbAlert (asserted : Bool)
  | throttleRelease (d : Nat)
  | rotundaStamp
  | timeExchange (t : Stamps)
  | timSet (val : Nat)
  | docGo (c val : Nat)
  | docResume (c val : Nat)
  | docAbort (c val : Nat)
  | descriptorFetch (c : Nat)
  | matmul (c : Nat)
  | epilogueStart (c : Nat)
  | matrixLaunchComplete (c : Nat)
  | activityLevelStep (c a : Nat)
  | veAdd (c : Nat) | veSub (c : Nat) | veMul (c : Nat) | veFma (c : Nat) | veDiv (c : Nat)
  | veMax (c : Nat) | veMin (c : Nat) | veCmplt (c : Nat) | veCmpeq (c : Nat) | veSel (c : Nat)
  | veAbs (c : Nat) | veNeg (c : Nat) | veTwosum (c : Nat) | veTwoprod (c : Nat) | veQadd (c : Nat)
  | vectorLaunchComplete (c : Nat)
  | sfuExp (c : Nat) | sfuExp2 (c : Nat) | sfuLog (c : Nat) | sfuLog2 (c : Nat) | sfuRecip (c : Nat)
  | sfuSqrt (c : Nat) | sfuRsqrt (c : Nat) | sfuSigmoid (c : Nat) | sfuTanh (c : Nat) | sfuErf (c : Nat)
  | sfuGeluErf (c : Nat) | sfuGeluTanh (c : Nat) | sfuGeluSig (c : Nat) | sfuSilu (c : Nat)
  | sfuSoftplus (c : Nat) | sfuSinturn (c : Nat) | sfuCosturn (c : Nat) | sfuRope (c : Nat)
  | sfuLaunchComplete (c : Nat)
  | copy (c : Nat) | catload (c : Nat) | catsave (c : Nat) | pagein (c : Nat) | pageout (c : Nat)
  | moveComplete (c : Nat)
  | rowmax (c : Nat) | rowmin (c : Nat) | rowsum (c : Nat) | meanvar (c : Nat) | lnorm (c : Nat)
  | rmsnorm (c : Nat) | mvpart (c : Nat) | mvfin (c : Nat) | softmax (c : Nat) | smpart (c : Nat)
  | qdiv (c : Nat) | topk (c : Nat) | topkmerge (c : Nat)
  | rowLaunchComplete (c : Nat)
  | shift (c : Nat) | permute (c : Nat) | reduce (c : Nat) | allreduce (c : Nat) | f32reduce (c : Nat)
  | f32allreduce (c : Nat) | ringstep (c : Nat) | allmax (c : Nat)
  | collectiveComplete (c : Nat)
  | cloakroomCombine (d : Nat)
  | endpointPass (c : Nat)
  | flight (c : Nat)
  | barrier (c : Nat)
  | barrierStart (g : Nat)
  | loop (c : Nat)
  | fence (c : Nat)
  | intake (c : Nat)
  | signal (c : Nat)
  | halt (c : Nat)
  | momentum (c : Nat) | adapt (c : Nat) | signm (c : Nat)
  | restorerServiceStart (r : Nat)
  | updateComplete (r : Nat)
  | conAdd (c : Nat) | conSub (c : Nat) | conMul (c : Nat) | conDiv (c : Nat) | conFma (c : Nat)
  | conSqrt (c : Nat) | conMinnum (c : Nat) | conMaxnum (c : Nat) | conCvt (c : Nat) | conMatmul (c : Nat)
  | conservatorServiceStart (r : Nat)
  | conservatorComplete (r : Nat)
  | flightBegin (g : Nat)
  | landingInstant (g : Nat)
  | landing (g : Nat)
  | landedMessageReceive (m : LandedMsg)
  | noticeReceive (g idx pkg : Nat)
  | landingDeadline (g : Nat)
  | stopMessageReceive (g idx pkg : Nat)
  | contextSaveComplete (c : Nat)
  | twinMessageReceive (m : TwinMsg)
  | clusterSignatureExchange (g idx : Nat) (sigs : List (Nat × BitVec 64))
  | dmaH2d (ch : Nat) (d : DmaDesc) (hostOk : Bool) (data : List Byte)
  | dmaD2h (ch : Nat) (d : DmaDesc)
  | dmaQpush (ch : Nat) (d : DmaDesc) (hostOk : Bool) (data : List Byte)
  | dmaCompletion (ch : Nat)
  | pciDmaResume (ch val : Nat)
  | devLogTailWrite (val : Nat)
  | arcOpen (val : Nat)
  | arcScrub (val : Nat)
  | arcRekey (val : Nat)
  | arcCommandComplete
  | requantComplete (session stream span : Nat)
  | stackRetire (val : Nat)
  | spanMigrate
  | retirementComplete
  | patrolScrub (inst addr : Nat)
  | bucketLeak
  | eccTestWrite (val : Nat)
  | eccTestRead (val : Nat)
  | pprSoft (s val : Nat) (spareLeft : Bool)
  | pprHard (s val : Nat) (spareLeft : Bool)
  | pprSoftDone (s : Nat)
  | grpLoad (val : Nat)
  | grpClear (val : Nat)
  | pmdTrainingDone (k lanesOk : Nat)
  | laneAlignDone (k lanesOk order : Nat)
  | identReceive (k id port : Nat)
  | keyxDone (k : Nat) (i : KeyxIn)
  | linkRetryTimer (k : Nat)
  | laneDropCmd (k val : Nat)
  | linkRekeyCmd (k val : Nat)
  | linkRetrainCmd (k val : Nat)
  | codewordReceive (k lane : Nat) (ok : Bool) (corrected badFlits : Nat)
  | laneLockLoss (k lane : Nat)
  | laneDownReceive (k : Nat) (m : HopLanes)
  | lanesetReceive (k : Nat) (m : HopLanes) (t : Nat)
  | laneSwitch (k : Nat)
  | rekeyReceive (k : Nat) (tagOk : Bool)
  | rekeySwitch (k : Nat)
  | creditReceive (k vc cls : Nat) (m : CreditMsg)
  | chunkReceive (k : Nat) (ch : Chunk)
  | ackReceive (src vc seq : Nat)
  | ackTimer (src vc : Nat)
  | retryTimeout (dst vc seq : Nat)
  | breakReceive (k src vc : Nat)
  | inboundResult (c epoch addr : Nat) (data : List Byte)
  | epochRetireTimeout (r : Nat)
  | regionRepair (r val : Nat)
  | repairCopyDone (r : Nat)
  | rescanDone (r : Nat) (ok : Bool)
  | repairRecordWrite
  | ethFrameReceive (e : Nat) (f : EthFrame)
  | ethFrameTransmit (e : Nat) (frame : List Byte)
  | hello (e : Nat) (h : HelloIn)
  | request (e : Nat) (tagOk : Bool)
  | xfer (e : Nat) (tagOk : Bool)
  | xack (e : Nat) (tagOk : Bool)
  | close (e : Nat) (tagOk : Bool)
  | xferStart (val : Nat)
  | xackTimer
  | xferResendTimeout
  | xferComplete (rx : Bool)
  | bar2Access (addr : Nat) (len : Nat) (write : Option (List Byte))
  | ethLinkStateChange (e : Nat) (up : Bool)
  | curatorRestartDone
  | entropyFaultClear
  | tapInstruction (i : TapInstr)
  | flashWriteComplete (ok : Bool)
  deriving DecidableEq, Repr

end Sys2Proof
end

