-- ==== Sys2Proof/Config.lean ====
section
/-! DEFINITION. What an AK9 implementation fixes and its manual does not: the free values. Each is an opaque constant
without a body, so nothing about its value can be proved. The assumption log names every one. -/
namespace Sys2Proof

/-- Free value number n of a run, of any width: the fallback where the manual states no value (log 3). -/
opaque Config.free : Nat → Nat

/-- The relative error of the SFU's internal value at a node of one of its tables: table version (6 for AK6), table, node
(R221 to R224; log 4). -/
opaque Config.sfuNode : Nat → Nat → Nat → Nat

/-- The SRAM code of R424, whose generator is not in the manual: the check bits that data bit i takes part in (log 6). -/
opaque Config.eccCol : Nat → Nat

/-- The HBM code of R424: item 0 the low bits of its field polynomial, item 1 the exponent of its first root (log 6). -/
opaque Config.eccRs : Nat → Nat

/-- The row of R438 that holds an HBM burst, as MEM_PPR_ROW names it without HARD: stack, byte offset (log 45). -/
opaque Config.hbmRow : Nat → Nat → Nat

/-- The syndrome of a code word found in error (R431), by instance code and address (log 6). -/
opaque Config.syndrome : Nat → Nat → Nat

/-- The bytes that a read under a wrong Archive key yields (R421): key slot asked, key slot stored, address, stored
byte (log 7). -/
opaque Config.wrongKey : Nat → Nat → Nat → Nat → Nat

/-- A draw of the free-running generator that VARY asks for (R370), by draw number (log 3). -/
opaque Config.freeDraw : Nat → Nat

/-- An output of the hardware entropy source (R565), by draw number: keys, salts and nonces (log 8). -/
opaque Config.entropy : Nat → Nat

/-- The result of a key derivation, agreement, encryption or signature that a named standard defines (R564 to R601):
a number naming the function, and its input (log 8). -/
opaque Config.crypto : Nat → List Nat → Nat

/-- The power capper's code for a die: estimate of R618, by measured power, limit, ceiling code and hottest sensors
(log 9). -/
opaque Config.capCode : Nat → Nat → Nat → Nat → Nat

/-- The IEEE 1149.1 identification code of R606 (log 10). -/
opaque Config.idcode : Nat

/-- What IEEE 754 leaves to the Conservator (R85, R109; log 12): items 0 and 1 sign and payload of its default NaN, item 2 whether
a fused multiply-add of zero, infinity and a quiet NaN is invalid. -/
opaque Config.ieee : Nat → Nat

/-- What the hall around the package is, which no register tells: item 0 a twin is programmed (R486; log 16), items 1 and 2
the lengths of its Y and Z rings (R49; log 15). -/
opaque Config.hall : Nat → Nat

/-- What a read-only register shows that depends on traffic or on the board, which the model does not hold: page type,
instance, offset, elapsed time (log 60). -/
opaque Config.unheld : Nat → Nat → Nat → Nat → Nat

/-- Where the hardware puts what the manual does not place (log 76): item 0 the word of a Cloakroom that holds an element of a
window, item 1 the retention slot of a chunk. -/
opaque Config.place : Nat → List Nat → Nat

/-- The mask ROM's hash, MR0's digest (R577; log 8). -/
opaque Config.romHash : Nat

end Sys2Proof
end

