-- ==== Sys2Proof/Machine/Hash.lean ====
section
/-! DEFINITION. The checksums and generators that results rest on: CRC-64 (R392), CRC-32C (R391, R456), Philox-4x32-10
(R373 to R376), and SHA-384, with which measurements are extended (R577). -/
namespace Sys2Proof.Machine

/-- One bit step of CRC-64/ECMA-182, most significant bit first (R392). -/
def crc64Bit (c : BitVec 64) : BitVec 64 :=
  if c.msb then (c <<< 1) ^^^ 0x42F0E1EBA9EA3693#64 else c <<< 1

def crc64Byte (c : BitVec 64) (b : Byte) : BitVec 64 :=
  let x := c ^^^ ((b.setWidth 64) <<< 56)
  crc64Bit (crc64Bit (crc64Bit (crc64Bit (crc64Bit (crc64Bit (crc64Bit (crc64Bit x)))))))

/-- R392: CRC-64/ECMA-182 of bytes in memory order, initial value 0. -/
def crc64 (bs : List Byte) : BitVec 64 := bs.foldl crc64Byte 0

def crc32cBit (c : BitVec 32) : BitVec 32 :=
  if c.getLsbD 0 then (c >>> 1) ^^^ 0x82F63B78#32 else c >>> 1

def crc32cByte (c : BitVec 32) (b : Byte) : BitVec 32 :=
  let x := c ^^^ b.setWidth 32
  crc32cBit (crc32cBit (crc32cBit (crc32cBit (crc32cBit (crc32cBit (crc32cBit (crc32cBit x)))))))

/-- CRC-32C of R391 and R456 (the Castagnoli code, reflected, all-ones start and end; log 11). -/
def crc32c (bs : List Byte) : BitVec 32 := ~~~ (bs.foldl crc32cByte 0xFFFFFFFF#32)

/-! ### Philox-4x32-10 (R373) -/

/-- The four counter words of a Philox call. -/
structure Philox where
  c0 : Nat
  c1 : Nat
  c2 : Nat
  c3 : Nat
  deriving DecidableEq, Repr

def philoxRound (k0 k1 : Nat) (x : Philox) : Philox :=
  let p0 := 0xD2511F53 * x.c0
  let p1 := 0xCD9E8D57 * x.c2
  { c0 := (p1 / 2 ^ 32) ^^^ x.c1 ^^^ k0, c1 := p1 % 2 ^ 32,
    c2 := (p0 / 2 ^ 32) ^^^ x.c3 ^^^ k1, c3 := p0 % 2 ^ 32 }

def philoxRounds : Nat → Nat → Nat → Philox → Philox
  | 0, _, _, x => x
  | n + 1, k0, k1, x =>
    philoxRounds n ((k0 + 0x9E3779B9) % 2 ^ 32) ((k1 + 0xBB67AE85) % 2 ^ 32) (philoxRound k0 k1 x)

/-- R373: ten rounds under the key of a seed slot. -/
def philox (seed : Nat) (x : Philox) : Philox := philoxRounds 10 (bits seed 31 0) (bits seed 63 32) x

/-- R374: the counter words of element `e` of a stream. -/
def philoxCounter (stepc stream cls arr part e : Nat) : Philox :=
  let b := e / 4
  { c0 := b % 2 ^ 32, c1 := stepc % 2 ^ 32, c2 := (stepc / 2 ^ 32) % 2 ^ 32,
    c3 := stream % 2 ^ 13 + (cls % 8) * 2 ^ 13 + (arr % 4) * 2 ^ 16 + ((b / 2 ^ 32) % 64) * 2 ^ 18
      + (part % 4) * 2 ^ 24 }

/-- R373: bits [23:0] of output word w_(e mod 4). -/
def philoxDraw (seed stepc stream cls arr part e : Nat) : Nat :=
  let w := philox seed (philoxCounter stepc stream cls arr part e)
  (match e % 4 with | 0 => w.c0 | 1 => w.c1 | 2 => w.c2 | _ => w.c3) % 2 ^ 24

/-! ### SHA-384 -/

/-- The round constants of SHA-384 (FIPS 180-4). -/
def shaK : List (BitVec 64) :=
  [0x428A2F98D728AE22, 0x7137449123EF65CD, 0xB5C0FBCFEC4D3B2F, 0xE9B5DBA58189DBBC] ++
  [0x3956C25BF348B538, 0x59F111F1B605D019, 0x923F82A4AF194F9B, 0xAB1C5ED5DA6D8118] ++
  [0xD807AA98A3030242, 0x12835B0145706FBE, 0x243185BE4EE4B28C, 0x550C7DC3D5FFB4E2] ++
  [0x72BE5D74F27B896F, 0x80DEB1FE3B1696B1, 0x9BDC06A725C71235, 0xC19BF174CF692694] ++
  [0xE49B69C19EF14AD2, 0xEFBE4786384F25E3, 0x0FC19DC68B8CD5B5, 0x240CA1CC77AC9C65] ++
  [0x2DE92C6F592B0275, 0x4A7484AA6EA6E483, 0x5CB0A9DCBD41FBD4, 0x76F988DA831153B5] ++
  [0x983E5152EE66DFAB, 0xA831C66D2DB43210, 0xB00327C898FB213F, 0xBF597FC7BEEF0EE4] ++
  [0xC6E00BF33DA88FC2, 0xD5A79147930AA725, 0x06CA6351E003826F, 0x142929670A0E6E70] ++
  [0x27B70A8546D22FFC, 0x2E1B21385C26C926, 0x4D2C6DFC5AC42AED, 0x53380D139D95B3DF] ++
  [0x650A73548BAF63DE, 0x766A0ABB3C77B2A8, 0x81C2C92E47EDAEE6, 0x92722C851482353B] ++
  [0xA2BFE8A14CF10364, 0xA81A664BBC423001, 0xC24B8B70D0F89791, 0xC76C51A30654BE30] ++
  [0xD192E819D6EF5218, 0xD69906245565A910, 0xF40E35855771202A, 0x106AA07032BBD1B8] ++
  [0x19A4C116B8D2D0C8, 0x1E376C085141AB53, 0x2748774CDF8EEB99, 0x34B0BCB5E19B48A8] ++
  [0x391C0CB3C5C95A63, 0x4ED8AA4AE3418ACB, 0x5B9CCA4F7763E373, 0x682E6FF3D6B2B8A3] ++
  [0x748F82EE5DEFB2FC, 0x78A5636F43172F60, 0x84C87814A1F0AB72, 0x8CC702081A6439EC] ++
  [0x90BEFFFA23631E28, 0xA4506CEBDE82BDE9, 0xBEF9A3F7B2C67915, 0xC67178F2E372532B] ++
  [0xCA273ECEEA26619C, 0xD186B8C721C0C207, 0xEADA7DD6CDE0EB1E, 0xF57D4F7FEE6ED178] ++
  [0x06F067AA72176FBA, 0x0A637DC5A2C898A6, 0x113F9804BEF90DAE, 0x1B710B35131C471B] ++
  [0x28DB77F523047D84, 0x32CAAB7B40C72493, 0x3C9EBE0A15C9BEBC, 0x431D67C49C100D4C] ++
  [0x4CC5D4BECB3E42B6, 0x597F299CFC657E2A, 0x5FCB6FAB3AD6FAEC, 0x6C44198C4A475817]

/-- The initial hash value of SHA-384 (FIPS 180-4). -/
def sha384Init : List (BitVec 64) :=
  [0xCBBB9D5DC1059ED8, 0x629A292A367CD507, 0x9159015A3070DD17, 0x152FECD8F70E5939] ++
  [0x67332667FFC00B31, 0x8EB44A8768581511, 0xDB0C2E0D64F98FA7, 0x47B5481DBEFA4FA4]

/-- The eight working variables of a SHA-384 block. -/
structure ShaState where
  a : BitVec 64
  b : BitVec 64
  c : BitVec 64
  d : BitVec 64
  e : BitVec 64
  f : BitVec 64
  g : BitVec 64
  h : BitVec 64
  deriving DecidableEq, Repr

/-- Big-endian words of eight bytes. -/
def beWords : Nat → List Byte → List (BitVec 64)
  | 0, _ => []
  | n + 1, bs =>
    BitVec.ofNat 64 ((bs.take 8).foldl (fun x b => x * 256 + b.toNat) 0) :: beWords n (bs.drop 8)

/-- The message schedule, newest word first: `n` more words. -/
def shaSchedule : Nat → List (BitVec 64) → List (BitVec 64)
  | 0, w => w
  | n + 1, w =>
    let w2 := w.getD 1 0
    let w7 := w.getD 6 0
    let w15 := w.getD 14 0
    let w16 := w.getD 15 0
    let s0 := (w15.rotateRight 1) ^^^ (w15.rotateRight 8) ^^^ (w15 >>> 7)
    let s1 := (w2.rotateRight 19) ^^^ (w2.rotateRight 61) ^^^ (w2 >>> 6)
    shaSchedule n ((w16 + s0 + w7 + s1) :: w)

def shaRound (s : ShaState) (kw : BitVec 64) : ShaState :=
  let s1 := (s.e.rotateRight 14) ^^^ (s.e.rotateRight 18) ^^^ (s.e.rotateRight 41)
  let ch := (s.e &&& s.f) ^^^ (~~~ s.e &&& s.g)
  let t1 := s.h + s1 + ch + kw
  let s0 := (s.a.rotateRight 28) ^^^ (s.a.rotateRight 34) ^^^ (s.a.rotateRight 39)
  let mj := (s.a &&& s.b) ^^^ (s.a &&& s.c) ^^^ (s.b &&& s.c)
  { a := t1 + s0 + mj, b := s.a, c := s.b, d := s.c, e := s.d + t1, f := s.e, g := s.f, h := s.g }

def shaBlock (h : ShaState) (blk : List Byte) : ShaState :=
  let w := (shaSchedule 64 (beWords 16 blk).reverse).reverse
  let s := (w.zipWith (fun a b => a + b) shaK).foldl shaRound h
  { a := h.a + s.a, b := h.b + s.b, c := h.c + s.c, d := h.d + s.d, e := h.e + s.e, f := h.f + s.f,
    g := h.g + s.g, h := h.h + s.h }

def shaBlocks : Nat → ShaState → List Byte → ShaState
  | 0, h, _ => h
  | n + 1, h, bs => shaBlocks n (shaBlock h (bs.take 128)) (bs.drop 128)

/-- `n` bytes of a number, most significant first. -/
def beBytes (n x : Nat) : List Byte := (leBytes n x).reverse

/-- SHA-384 of a byte string, as 48 bytes (FIPS 180-4; log 8). -/
def sha384 (m : List Byte) : List Byte :=
  let len := m.length
  let zeros := (239 - len % 128) % 128
  let p := m ++ [0x80#8] ++ List.replicate zeros 0#8 ++ beBytes 16 (8 * len)
  let g (i : Nat) : BitVec 64 := sha384Init.getD i 0
  let h := shaBlocks (p.length / 128) { a := g 0, b := g 1, c := g 2, d := g 3, e := g 4, f := g 5, g := g 6, h := g 7 } p
  beBytes 8 h.a.toNat ++ beBytes 8 h.b.toNat ++ beBytes 8 h.c.toNat ++ beBytes 8 h.d.toNat ++ beBytes 8 h.e.toNat
    ++ beBytes 8 h.f.toNat

/-- R577: MR = SHA-384(MR ‖ digest). -/
def extendMR (mr digest : List Byte) : List Byte := sha384 (mr ++ digest)

end Sys2Proof.Machine
end

