-- ==== Sys2Proof/Machine/RegTable.lean ====
section
/-! DEFINITION. The register fields of every page of BAR0, field by field as the maps of R676 give them: offset, bits,
access code (R21), commit code (R26), agreement group by number (R634) and reset value. Fields with an action of their
own (GO, REQ, SRST and their like) are marked: their writes are commands of their own. -/
namespace Sys2Proof.Machine

/-- The blocks that own register pages (R665). -/
inductive Block where
  | dev | cur | tim | pci | sec | pwr | ecc | die | eth | lnk | clo | mem | rgn | con | upd | clu | arr | vec | doc
  deriving DecidableEq, Repr

/-- Access codes (R21). -/
inductive Acc where
  | rw | ro | w1c | w1s | wo | rc
  deriving DecidableEq, Repr

/-- A field: byte offset in its page, and bits [hi:lo]. -/
structure Fld where
  off : Nat
  hi : Nat
  lo : Nat
  deriving DecidableEq, Repr

/-- One field, or `n` fields `stride` bytes apart: access, whether it is staged (S), its agreement group (0: none; the
i-th field of an array lies in group `grp + i * gstep`), reset value, and whether writing it is an action. -/
structure FieldRow where
  fld : Fld
  acc : Acc
  staged : Bool
  grp : Nat
  gstep : Nat
  rst : Nat
  n : Nat
  stride : Nat
  act : Bool
  deriving DecidableEq, Repr

/-- A live field (L, or hardware-owned). -/
def rowL (f : Fld) (acc : Acc) (rst : Nat) (n : Nat := 1) (stride : Nat := 0) : FieldRow :=
  { fld := f, acc := acc, staged := false, grp := 0, gstep := 0, rst := rst, n := n,
    stride := stride, act := false }

/-- A live field whose write is a command of its own. -/
def rowA (f : Fld) (acc : Acc) (n : Nat := 1) (stride : Nat := 0) : FieldRow :=
  { rowL f acc 0 n stride with act := true }

/-- A staged field in agreement group `grp`. -/
def rowS (f : Fld) (acc : Acc) (grp rst : Nat) (n : Nat := 1) (stride : Nat := 0) (gstep : Nat := 0) : FieldRow :=
  { rowL f acc rst n stride with staged := true, grp := grp, gstep := gstep }

/-! ### The fields by name (R20) -/
namespace Reg

/-! The common header and commit registers (R630, R665, R668, R670). -/
def PG_CTL_EN : Fld := { off := 0x010, hi := 0, lo := 0 }
def PG_CTL_SRST : Fld := { off := 0x010, hi := 1, lo := 1 }
def PG_EVT : Fld := { off := 0x018, hi := 31, lo := 0 }
def PG_EVT_EN : Fld := { off := 0x01C, hi := 31, lo := 0 }
def PG_COMMIT_GRP : Fld := { off := 0x020, hi := 15, lo := 8 }
def PG_COMMIT_STAT_PENDING : Fld := { off := 0x024, hi := 0, lo := 0 }
def PG_COMMIT_STAT_REJECTED : Fld := { off := 0x024, hi := 1, lo := 1 }
def PG_COMMIT_STAT_MULTI : Fld := { off := 0x024, hi := 2, lo := 2 }
def PG_COMMIT_STAT_FGRP : Fld := { off := 0x024, hi := 15, lo := 8 }
def PG_EPOCH_EPOCH : Fld := { off := 0x028, hi := 7, lo := 0 }
def PG_EPOCH_RETIRING : Fld := { off := 0x028, hi := 15, lo := 8 }
def PG_EPOCH_RVALID : Fld := { off := 0x028, hi := 16, lo := 16 }
def PG_RDBK_SEL_OFF : Fld := { off := 0xEF8, hi := 11, lo := 2 }

def DEV_DET_CTL_STRICT : Fld := { off := 0x140, hi := 0, lo := 0 }
def DEV_DET_CTL_DIVERGE : Fld := { off := 0x140, hi := 2, lo := 1 }
def DEV_DET_CTL_F32CHUNK : Fld := { off := 0x140, hi := 4, lo := 3 }
def DEV_DET_CTL_LSWAIT : Fld := { off := 0x140, hi := 5, lo := 5 }
def DEV_DET_CTL_TWINLOSS : Fld := { off := 0x140, hi := 6, lo := 6 }
def DEV_DET_CTL_LOGGRP : Fld := { off := 0x140, hi := 14, lo := 7 }
def DEV_LOG_BASE_LO_ADDR : Fld := { off := 0x144, hi := 31, lo := 0 }
def DEV_LOG_BASE_HI_ADDR : Fld := { off := 0x148, hi := 15, lo := 0 }
def DEV_LOG_SIZE_PAGES : Fld := { off := 0x14C, hi := 19, lo := 0 }
def DEV_SEED_LO_SEED (i : Nat) : Fld := { off := 0x200 + 8 * i, hi := 31, lo := 0 }
def DEV_SEED_HI_SEED (i : Nat) : Fld := { off := 0x204 + 8 * i, hi := 31, lo := 0 }
def DEV_DET_STAT_VARIED : Fld := { off := 0x840, hi := 0, lo := 0 }
def DEV_DET_STAT_UNCHECKED : Fld := { off := 0x840, hi := 1, lo := 1 }
def DEV_DET_STAT_REPLAYING : Fld := { off := 0x840, hi := 2, lo := 2 }
def DEV_LOG_HEAD_OFF : Fld := { off := 0x844, hi := 31, lo := 0 }
def DEV_LOG_TAIL_OFF : Fld := { off := 0x848, hi := 31, lo := 0 }
def DEV_LS_FAIL_CLU : Fld := { off := 0x850, hi := 8, lo := 0 }
def DEV_LS_FAIL_GRP : Fld := { off := 0x850, hi := 16, lo := 9 }
def DEV_LS_FAIL_VALID : Fld := { off := 0x850, hi := 17, lo := 17 }
def DEV_LS_FAIL_PROV : Fld := { off := 0x850, hi := 18, lo := 18 }
def DEV_LS_FAIL_LOG : Fld := { off := 0x850, hi := 19, lo := 19 }
def DEV_LS_IDX_LO_IDX : Fld := { off := 0x854, hi := 31, lo := 0 }
def DEV_LS_IDX_HI_IDX : Fld := { off := 0x858, hi := 31, lo := 0 }
def DEV_PROV (i : Nat) : Fld := { off := 0x900 + 4 * i, hi := 31, lo := 0 }
def DEV_CNT_LOGREC : Fld := { off := 0xF40, hi := 31, lo := 0 }
def DEV_CNT_REPLAY_DROP : Fld := { off := 0xF44, hi := 31, lo := 0 }
def DEV_CNT_LSCMP : Fld := { off := 0xF48, hi := 31, lo := 0 }
def DEV_ARC_SESS_LO_ADDR : Fld := { off := 0x160, hi := 31, lo := 0 }
def DEV_ARC_SESS_HI_ADDR : Fld := { off := 0x164, hi := 15, lo := 0 }
def DEV_ARC_CFG_EN : Fld := { off := 0x168, hi := 0, lo := 0 }
def DEV_ARC_CFG_AGEGRP : Fld := { off := 0x168, hi := 8, lo := 1 }
def DEV_ARC_CFG_AGEMAX : Fld := { off := 0x168, hi := 17, lo := 9 }
def DEV_ARC_RSV_PAGES : Fld := { off := 0x16C, hi := 15, lo := 0 }
def DEV_ARC_CMD_SESS : Fld := { off := 0x170, hi := 13, lo := 0 }
def DEV_ARC_CMD_OP : Fld := { off := 0x170, hi := 17, lo := 14 }
def DEV_ARC_CMD_NEWSLOT : Fld := { off := 0x170, hi := 25, lo := 18 }
def DEV_ARC_CMD_GO : Fld := { off := 0x170, hi := 31, lo := 31 }
def DEV_ARC_STAT_BUSY : Fld := { off := 0x860, hi := 0, lo := 0 }
def DEV_ARC_STAT_DONE : Fld := { off := 0x860, hi := 1, lo := 1 }
def DEV_ARC_STAT_FAIL : Fld := { off := 0x860, hi := 2, lo := 2 }
def DEV_ARC_STAT_WHY : Fld := { off := 0x860, hi := 6, lo := 3 }
def DEV_ARC_STAT_TRANSIT : Fld := { off := 0x860, hi := 17, lo := 7 }
def DEV_ARC_FREE_PAGES : Fld := { off := 0x864, hi := 23, lo := 0 }
def DEV_ARC_CNT_AGED : Fld := { off := 0xF50, hi := 31, lo := 0 }
def DEV_ARC_CNT_NOPAGE : Fld := { off := 0xF54, hi := 31, lo := 0 }
def DEV_ARC_CNT_FAULT : Fld := { off := 0xF58, hi := 31, lo := 0 }
def DEV_GRP_CMD_GRP : Fld := { off := 0x180, hi := 7, lo := 0 }
def DEV_GRP_CMD_OP : Fld := { off := 0x180, hi := 9, lo := 8 }
def DEV_GRP_CMD_GO : Fld := { off := 0x180, hi := 31, lo := 31 }
def DEV_GRP_IMG_LO_ADDR : Fld := { off := 0x184, hi := 31, lo := 0 }
def DEV_GRP_IMG_HI_ADDR : Fld := { off := 0x188, hi := 15, lo := 0 }
def DEV_GRP_STAT_BUSY : Fld := { off := 0x880, hi := 0, lo := 0 }
def DEV_GRP_STAT_DONE : Fld := { off := 0x880, hi := 1, lo := 1 }
def DEV_GRP_STAT_FAIL : Fld := { off := 0x880, hi := 2, lo := 2 }
def DEV_GRP_STAT_WHY : Fld := { off := 0x880, hi := 6, lo := 3 }
def DEV_GRP_SEL_GRP : Fld := { off := 0x884, hi := 7, lo := 0 }
def DEV_GRP_INFO_LOADED : Fld := { off := 0x888, hi := 0, lo := 0 }
def DEV_GRP_INFO_ENDPOINT : Fld := { off := 0x888, hi := 1, lo := 1 }
def DEV_GRP_INFO_UNIFORM : Fld := { off := 0x888, hi := 2, lo := 2 }
def DEV_GRP_INFO_NMEM1 : Fld := { off := 0x888, hi := 12, lo := 3 }
def DEV_GRP_INFO_MIDX : Fld := { off := 0x888, hi := 22, lo := 13 }
def DEV_GRP_INFO_W : Fld := { off := 0x888, hi := 27, lo := 23 }
def DEV_GRP_INFO_CLO : Fld := { off := 0x888, hi := 29, lo := 28 }
def DEV_GRP_INFO_MEMBER : Fld := { off := 0x888, hi := 30, lo := 30 }
def DEV_GRP_INFO2_SLOTS : Fld := { off := 0x88C, hi := 10, lo := 0 }
def DEV_GRP_INFO2_RBASE : Fld := { off := 0x88C, hi := 30, lo := 11 }
def DEV_XFER_CTL_SESS : Fld := { off := 0x1A0, hi := 13, lo := 0 }
def DEV_XFER_CTL_PATH : Fld := { off := 0x1A0, hi := 15, lo := 14 }
def DEV_XFER_CTL_GO : Fld := { off := 0x1A0, hi := 31, lo := 31 }
def DEV_XFER_DEST_ID : Fld := { off := 0x1A4, hi := 31, lo := 0 }
def DEV_XFER_RSESS_SESS : Fld := { off := 0x1A8, hi := 13, lo := 0 }
def DEV_XFER_ARM_SESS : Fld := { off := 0x1AC, hi := 13, lo := 0 }
def DEV_XFER_ARM_EN : Fld := { off := 0x1AC, hi := 31, lo := 31 }
def DEV_XFER_STAT_BUSY : Fld := { off := 0x8A0, hi := 0, lo := 0 }
def DEV_XFER_STAT_DONE : Fld := { off := 0x8A0, hi := 1, lo := 1 }
def DEV_XFER_STAT_FAIL : Fld := { off := 0x8A0, hi := 2, lo := 2 }
def DEV_XFER_STAT_WHY : Fld := { off := 0x8A0, hi := 6, lo := 3 }
def DEV_XFER_STAT_RX : Fld := { off := 0x8A0, hi := 7, lo := 7 }
def DEV_XFER_STAT_XNUM : Fld := { off := 0x8A0, hi := 31, lo := 16 }
def DEV_XFER_DONEB_KIB : Fld := { off := 0x8A4, hi := 31, lo := 0 }
def DEV_RET_CMD_STACK : Fld := { off := 0x1C0, hi := 3, lo := 0 }
def DEV_RET_CMD_GO : Fld := { off := 0x1C0, hi := 31, lo := 31 }
def DEV_RET_STAT_BUSY : Fld := { off := 0x8C0, hi := 0, lo := 0 }
def DEV_RET_STAT_DONE : Fld := { off := 0x8C0, hi := 1, lo := 1 }
def DEV_RET_STAT_FAIL : Fld := { off := 0x8C0, hi := 2, lo := 2 }
def DEV_RET_STAT_WHY : Fld := { off := 0x8C0, hi := 6, lo := 3 }
def DEV_RET_LEFT_PAGES : Fld := { off := 0x8C4, hi := 20, lo := 0 }
def DEV_RGN_AVAIL_MASK : Fld := { off := 0x8D0, hi := 31, lo := 0 }
def DEV_CNT_RETMOVED : Fld := { off := 0xF60, hi := 31, lo := 0 }
def DEV_PKG_ID_ID : Fld := { off := 0x100, hi := 11, lo := 0 }
def DEV_IDENT_STEPPING : Fld := { off := 0x800, hi := 7, lo := 0 }
def DEV_IDENT_PARTNO : Fld := { off := 0x800, hi := 9, lo := 8 }
def DEV_PRESENT_STACKS : Fld := { off := 0x804, hi := 11, lo := 0 }
def DEV_PRESENT_XDIES : Fld := { off := 0x804, hi := 15, lo := 12 }
def DEV_PRESENT_GDIES : Fld := { off := 0x804, hi := 19, lo := 16 }
def CUR_MBX_CTL_GO : Fld := { off := 0x100, hi := 0, lo := 0 }
def CUR_MBX_REQ (i : Nat) : Fld := { off := 0x400 + 4 * i, hi := 31, lo := 0 }
def CUR_MBX_STAT_READY : Fld := { off := 0x800, hi := 0, lo := 0 }
def CUR_MBX_STAT_BUSY : Fld := { off := 0x800, hi := 1, lo := 1 }
def CUR_MBX_STAT_DONE : Fld := { off := 0x800, hi := 2, lo := 2 }
def CUR_MBX_STAT_REFUSED : Fld := { off := 0x800, hi := 3, lo := 3 }
def CUR_MBX_RSP (i : Nat) : Fld := { off := 0xA00 + 4 * i, hi := 31, lo := 0 }
def TIM_CFG_ROLE : Fld := { off := 0x100, hi := 0, lo := 0 }
def TIM_CFG_PARENT : Fld := { off := 0x100, hi := 3, lo := 1 }
def TIM_LAND_CFG_DL : Fld := { off := 0x104, hi := 8, lo := 0 }
def TIM_LAND_CFG_LATE_MAX : Fld := { off := 0x104, hi := 17, lo := 9 }
def TIM_CLKGRP : Fld := { off := 0x108, hi := 31, lo := 0 }
def TIM_PRE_T_LO_T : Fld := { off := 0x110, hi := 31, lo := 0 }
def TIM_PRE_T_HI_T : Fld := { off := 0x114, hi := 31, lo := 0 }
def TIM_PRE_CTL_GRP : Fld := { off := 0x118, hi := 7, lo := 0 }
def TIM_PRE_CTL_ARM : Fld := { off := 0x118, hi := 8, lo := 8 }
def TIM_SET_LO_T : Fld := { off := 0x120, hi := 31, lo := 0 }
def TIM_SET_HI_T : Fld := { off := 0x124, hi := 31, lo := 0 }
def TIM_SET_CTL_GO : Fld := { off := 0x128, hi := 0, lo := 0 }
def TIM_NOW_LO_T : Fld := { off := 0x800, hi := 31, lo := 0 }
def TIM_NOW_HI_T : Fld := { off := 0x804, hi := 31, lo := 0 }
def TIM_STAT_LOCK : Fld := { off := 0x808, hi := 0, lo := 0 }
def TIM_STAT_PARENT_UP : Fld := { off := 0x808, hi := 1, lo := 1 }
def TIM_OFFSET_THETA : Fld := { off := 0x80C, hi := 31, lo := 0 }
def TIM_TRIM_TRIM : Fld := { off := 0x810, hi := 31, lo := 0 }
def TIM_CNT_XFER : Fld := { off := 0xF00, hi := 31, lo := 0 }
def TIM_CNT_STEP : Fld := { off := 0xF04, hi := 31, lo := 0 }
def TIM_CNT_UNLOCK : Fld := { off := 0xF08, hi := 31, lo := 0 }
def PCI_IQ_CFG_PAGE (i : Nat) : Fld := { off := 0x100 + 8 * i, hi := 23, lo := 0 }
def PCI_IQ_SIZE_PAGES (i : Nat) : Fld := { off := 0x104 + 8 * i, hi := 15, lo := 0 }
def PCI_SEALWIN_FIRST : Fld := { off := 0x180, hi := 23, lo := 0 }
def PCI_SEALWIN_PAGES : Fld := { off := 0x184, hi := 23, lo := 0 }
def PCI_DMA_RING_LO_ADDR (i : Nat) : Fld := { off := 0x200 + 32 * i, hi := 31, lo := 6 }
def PCI_DMA_RING_HI_ADDR (i : Nat) : Fld := { off := 0x204 + 32 * i, hi := 31, lo := 0 }
def PCI_DMA_SIZE_LOG2N (i : Nat) : Fld := { off := 0x208 + 32 * i, hi := 4, lo := 0 }
def PCI_DMA_TAIL_IDX (i : Nat) : Fld := { off := 0x20C + 32 * i, hi := 15, lo := 0 }
def PCI_DMA_CTL_EN (i : Nat) : Fld := { off := 0x210 + 32 * i, hi := 0, lo := 0 }
def PCI_DMA_CTL_RESUME (i : Nat) : Fld := { off := 0x210 + 32 * i, hi := 1, lo := 1 }
def PCI_DMA_HEAD_IDX (i : Nat) : Fld := { off := 0x214 + 32 * i, hi := 15, lo := 0 }
def PCI_DMA_STAT_BUSY (i : Nat) : Fld := { off := 0x218 + 32 * i, hi := 0, lo := 0 }
def PCI_DMA_STAT_HALTED (i : Nat) : Fld := { off := 0x218 + 32 * i, hi := 1, lo := 1 }
def PCI_DMA_STAT_LAST (i : Nat) : Fld := { off := 0x218 + 32 * i, hi := 9, lo := 2 }
def PCI_STAT_WIDTH : Fld := { off := 0x800, hi := 4, lo := 0 }
def PCI_STAT_SPEED : Fld := { off := 0x800, hi := 7, lo := 5 }
def PCI_STAT_BAR2_OPEN : Fld := { off := 0x800, hi := 8, lo := 8 }
def PCI_IQ_USE_RECS (i : Nat) : Fld := { off := 0x840 + 4 * i, hi := 15, lo := 0 }
def PCI_CNT_UR : Fld := { off := 0xF00, hi := 31, lo := 0 }
def PCI_CNT_BADREG : Fld := { off := 0xF04, hi := 31, lo := 0 }
def PCI_CNT_QFULL : Fld := { off := 0xF08, hi := 31, lo := 0 }
def SEC_HELLO_CTL_EN : Fld := { off := 0x100, hi := 0, lo := 0 }
def SEC_STAT_SEALED : Fld := { off := 0x800, hi := 0, lo := 0 }
def SEC_STAT_SEAL : Fld := { off := 0x800, hi := 2, lo := 1 }
def SEC_STAT_PRESENCE : Fld := { off := 0x800, hi := 3, lo := 3 }
def SEC_STAT_PRESSED : Fld := { off := 0x800, hi := 4, lo := 4 }
def SEC_STAT_DEBUG : Fld := { off := 0x800, hi := 5, lo := 5 }
def SEC_STAT_OWNED : Fld := { off := 0x800, hi := 6, lo := 6 }
def SEC_STAT_RECOVERY : Fld := { off := 0x800, hi := 7, lo := 7 }
def SEC_STAT_IDREADY : Fld := { off := 0x800, hi := 8, lo := 8 }
def SEC_STAT_BOOTSLOT : Fld := { off := 0x800, hi := 9, lo := 9 }
def SEC_STAT_FALLBACK : Fld := { off := 0x800, hi := 10, lo := 10 }
def SEC_PRES_LEFT_MS : Fld := { off := 0x804, hi := 15, lo := 0 }
def SEC_SVN_FW : Fld := { off := 0x808, hi := 15, lo := 0 }
def SEC_SVN_CFG : Fld := { off := 0x808, hi := 31, lo := 16 }
def SEC_CTR_FW : Fld := { off := 0x80C, hi := 15, lo := 0 }
def SEC_CTR_CFG : Fld := { off := 0x80C, hi := 31, lo := 16 }
def SEC_ACC_USE_SESS : Fld := { off := 0x810, hi := 10, lo := 0 }
def SEC_SLOT_USE_SLOTS : Fld := { off := 0x814, hi := 8, lo := 0 }
def SEC_CNT_TAMPER : Fld := { off := 0xF00, hi := 31, lo := 0 }
def SEC_CNT_HELLO : Fld := { off := 0xF04, hi := 31, lo := 0 }
def SEC_CNT_HELLOBAD : Fld := { off := 0xF08, hi := 31, lo := 0 }
def SEC_CNT_AUTHREF : Fld := { off := 0xF0C, hi := 31, lo := 0 }
def SEC_CNT_SCRUB : Fld := { off := 0xF10, hi := 31, lo := 0 }
def PWR_CFG_PSTATE : Fld := { off := 0x100, hi := 1, lo := 0 }
def PWR_CFG_CAPEN : Fld := { off := 0x100, hi := 2, lo := 2 }
def PWR_CFG_FIXCLK : Fld := { off := 0x100, hi := 3, lo := 3 }
def PWR_CAP_LIMIT : Fld := { off := 0x104, hi := 11, lo := 0 }
def PWR_STAT_PHASE : Fld := { off := 0x800, hi := 2, lo := 0 }
def PWR_STAT_WARN : Fld := { off := 0x800, hi := 3, lo := 3 }
def PWR_RGN_REL_MASK : Fld := { off := 0x804, hi := 31, lo := 0 }
def PWR_CLK_CODE : Fld := { off := 0x808, hi := 15, lo := 0 }
def PWR_PERMIT_CODE : Fld := { off := 0x80C, hi := 15, lo := 0 }
def PWR_MEAS_W : Fld := { off := 0x810, hi := 11, lo := 0 }
def PWR_TEMP_G_T : Fld := { off := 0x814, hi := 31, lo := 0 }
def PWR_TEMP_X_T : Fld := { off := 0x818, hi := 31, lo := 0 }
def PWR_TEMP_M_T (i : Nat) : Fld := { off := 0x81C + 4 * i, hi := 31, lo := 0 }
def PWR_THR_ACTIVE : Fld := { off := 0x828, hi := 3, lo := 0 }
def PWR_THR_THERMAL : Fld := { off := 0x828, hi := 4, lo := 4 }
def PWR_THR_POWER : Fld := { off := 0x828, hi := 5, lo := 5 }
def PWR_THR_VR : Fld := { off := 0x828, hi := 6, lo := 6 }
def PWR_THR_WARNED : Fld := { off := 0x828, hi := 7, lo := 7 }
def PWR_CNT_THROTTLE : Fld := { off := 0xF00, hi := 31, lo := 0 }
def PWR_CNT_THR_US : Fld := { off := 0xF04, hi := 31, lo := 0 }
def PWR_CNT_WARN : Fld := { off := 0xF08, hi := 31, lo := 0 }
def ECC_LB_CFG_THRESH : Fld := { off := 0x100, hi := 7, lo := 0 }
def ECC_LB_CFG_LEAK_MS : Fld := { off := 0x100, hi := 23, lo := 8 }
def ECC_SCRUB_SRAM_MINUTES : Fld := { off := 0x104, hi := 11, lo := 0 }
def ECC_TEST_INST_INST : Fld := { off := 0x180, hi := 15, lo := 0 }
def ECC_TEST_ADDR_LO_ADDR : Fld := { off := 0x184, hi := 31, lo := 0 }
def ECC_TEST_ADDR_HI_ADDR : Fld := { off := 0x188, hi := 15, lo := 0 }
def ECC_TEST_DATA (i : Nat) : Fld := { off := 0x190 + 4 * i, hi := 31, lo := 0 }
def ECC_TEST_CHK : Fld := { off := 0x1B0, hi := 31, lo := 0 }
def ECC_TEST_CMD_WRITE : Fld := { off := 0x1B4, hi := 0, lo := 0 }
def ECC_TEST_CMD_READ : Fld := { off := 0x1B4, hi := 1, lo := 1 }
def ECC_TEST_STAT_DONE : Fld := { off := 0x800, hi := 0, lo := 0 }
def ECC_TEST_STAT_REFUSED : Fld := { off := 0x800, hi := 1, lo := 1 }
def ECC_TEST_STAT_VERDICT : Fld := { off := 0x800, hi := 3, lo := 2 }
def ECC_TEST_STAT_NCORR : Fld := { off := 0x800, hi := 7, lo := 4 }
def ECC_LB_SEL_INST : Fld := { off := 0x808, hi := 15, lo := 0 }
def ECC_LB_VAL_COUNT : Fld := { off := 0x80C, hi := 7, lo := 0 }
def ECC_CNT_CE_SRAM : Fld := { off := 0xF00, hi := 31, lo := 0 }
def ECC_CNT_UE_SRAM : Fld := { off := 0xF04, hi := 31, lo := 0 }
def ECC_CNT_LIMIT : Fld := { off := 0xF08, hi := 31, lo := 0 }
def ECAP_ADDR_LO_ADDR : Fld := { off := 0x030, hi := 31, lo := 0 }
def ECAP_ADDR_HI_ADDR : Fld := { off := 0x034, hi := 15, lo := 0 }
def ECAP_ADDR_HI_KIND : Fld := { off := 0x034, hi := 19, lo := 16 }
def ECAP_ADDR_HI_CAUSE : Fld := { off := 0x034, hi := 23, lo := 20 }
def ECAP_ADDR_HI_VALID : Fld := { off := 0x034, hi := 24, lo := 24 }
def ECAP_ADDR_HI_MULTI : Fld := { off := 0x034, hi := 25, lo := 25 }
def ECAP_ADDR_HI_SLOT : Fld := { off := 0x034, hi := 30, lo := 26 }
def ECAP_SYND_SYND : Fld := { off := 0x038, hi := 31, lo := 0 }
def ECAP_TIME_T : Fld := { off := 0x03C, hi := 31, lo := 0 }
def DIE_INFO_AVAIL : Fld := { off := 0x800, hi := 7, lo := 0 }
def DIE_INFO_STACKS : Fld := { off := 0x800, hi := 9, lo := 8 }
def DIE_VDD : Fld := { off := 0x804, hi := 11, lo := 0 }
def DIE_EVTQ : Fld := { off := 0x808, hi := 10, lo := 0 }
def DIE_CNT_EVT : Fld := { off := 0xF00, hi := 31, lo := 0 }
def DIE_CNT_EVTDROP : Fld := { off := 0xF04, hi := 31, lo := 0 }
def DIE_CNT_VSTEP : Fld := { off := 0xF08, hi := 31, lo := 0 }
def ETH_CFG_EN : Fld := { off := 0x100, hi := 0, lo := 0 }
def ETH_CFG_MEDIUM : Fld := { off := 0x100, hi := 1, lo := 1 }
def ETH_CFG_UDPPORT : Fld := { off := 0x100, hi := 17, lo := 2 }
def ETH_CFG_EGRGRP : Fld := { off := 0x100, hi := 25, lo := 18 }
def ETH_MAC_LO_MAC : Fld := { off := 0x104, hi := 31, lo := 0 }
def ETH_MAC_HI_MAC : Fld := { off := 0x108, hi := 15, lo := 0 }
def ETH_IP_ADDR (i : Nat) : Fld := { off := 0x110 + 4 * i, hi := 31, lo := 0 }
def ETH_EGR_CFG_PAGE : Fld := { off := 0x120, hi := 23, lo := 0 }
def ETH_EGR_SIZE_PAGES : Fld := { off := 0x124, hi := 15, lo := 0 }
def ETH_HR_LO_ADDR (i : Nat) : Fld := { off := 0x130 + 16 * i, hi := 31, lo := 4 }
def ETH_HR_HI_ADDR (i : Nat) : Fld := { off := 0x134 + 16 * i, hi := 31, lo := 0 }
def ETH_HR_SIZE_LOG2N (i : Nat) : Fld := { off := 0x138 + 16 * i, hi := 4, lo := 0 }
def ETH_HR_TAIL_IDX (i : Nat) : Fld := { off := 0x13C + 16 * i, hi := 15, lo := 0 }
def ETH_STAT_UP : Fld := { off := 0x800, hi := 0, lo := 0 }
def ETH_EGR_HEAD_OFF : Fld := { off := 0x804, hi := 31, lo := 0 }
def ETH_HR_HEAD_IDX (i : Nat) : Fld := { off := 0x810 + 4 * i, hi := 15, lo := 0 }
def ETH_CNT_ACC : Fld := { off := 0xF00, hi := 31, lo := 0 }
def ETH_CNT_ACCBAD : Fld := { off := 0xF04, hi := 31, lo := 0 }
def ETH_CNT_ACCREPLAY : Fld := { off := 0xF08, hi := 31, lo := 0 }
def ETH_CNT_QFULL : Fld := { off := 0xF0C, hi := 31, lo := 0 }
def ETH_CNT_RXDROP : Fld := { off := 0xF10, hi := 31, lo := 0 }
def ETH_CNT_FCS : Fld := { off := 0xF14, hi := 31, lo := 0 }
def LNK_CFG_EN : Fld := { off := 0x100, hi := 0, lo := 0 }
def LNK_CFG_WIDTH : Fld := { off := 0x100, hi := 3, lo := 1 }
def LNK_CFG_MEDIUM : Fld := { off := 0x100, hi := 4, lo := 4 }
def LNK_CFG_ENC : Fld := { off := 0x100, hi := 5, lo := 5 }
def LNK_CFG_AUTODROP : Fld := { off := 0x100, hi := 6, lo := 6 }
def LNK_CFG_ROLE : Fld := { off := 0x100, hi := 8, lo := 7 }
def LNK_CFG_PEER : Fld := { off := 0x100, hi := 20, lo := 9 }
def LNK_CFG_LGRP : Fld := { off := 0x100, hi := 28, lo := 21 }
def LNK_VCW_W0 : Fld := { off := 0x104, hi := 7, lo := 0 }
def LNK_VCW_W1 : Fld := { off := 0x104, hi := 15, lo := 8 }
def LNK_VCW_W3 : Fld := { off := 0x104, hi := 23, lo := 16 }
def LNK_RETRY_TMO : Fld := { off := 0x108, hi := 9, lo := 0 }
def LNK_RETRY_TMO2 : Fld := { off := 0x108, hi := 19, lo := 10 }
def LNK_HEALTH_THRESH : Fld := { off := 0x10C, hi := 15, lo := 0 }
def LNK_HEALTH_WIN_MS : Fld := { off := 0x10C, hi := 31, lo := 16 }
def LNK_LANECMD_LANE : Fld := { off := 0x110, hi := 3, lo := 0 }
def LNK_LANECMD_DROP : Fld := { off := 0x110, hi := 4, lo := 4 }
def LNK_LANECMD_REKEY : Fld := { off := 0x110, hi := 5, lo := 5 }
def LNK_LANECMD_TRAIN : Fld := { off := 0x110, hi := 6, lo := 6 }
def LNK_STAT_STATE : Fld := { off := 0x800, hi := 2, lo := 0 }
def LNK_STAT_NACT : Fld := { off := 0x800, hi := 7, lo := 3 }
def LNK_STAT_LANES : Fld := { off := 0x800, hi := 23, lo := 8 }
def LNK_STAT_ENC : Fld := { off := 0x800, hi := 24, lo := 24 }
def LNK_STAT_PENDING : Fld := { off := 0x800, hi := 25, lo := 25 }
def LNK_PEER_ID : Fld := { off := 0x804, hi := 11, lo := 0 }
def LNK_PEER_PORT : Fld := { off := 0x804, hi := 14, lo := 12 }
def LNK_PEER_VALID : Fld := { off := 0x804, hi := 15, lo := 15 }
def LNK_LANE_FAULT_LANES : Fld := { off := 0x808, hi := 15, lo := 0 }
def LNK_LANE_SEL_LANE : Fld := { off := 0x810, hi := 3, lo := 0 }
def LNK_LANE_CNT_CORR : Fld := { off := 0x814, hi := 31, lo := 0 }
def LNK_LANE_CNT_UC_UC : Fld := { off := 0x818, hi := 31, lo := 0 }
def LNK_RET_USE_SLOTS : Fld := { off := 0x81C, hi := 11, lo := 0 }
def LNK_CNT_FLIT_TX : Fld := { off := 0xF00, hi := 31, lo := 0 }
def LNK_CNT_FLIT_RX : Fld := { off := 0xF04, hi := 31, lo := 0 }
def LNK_CNT_CW_UNC : Fld := { off := 0xF08, hi := 31, lo := 0 }
def LNK_CNT_BAD : Fld := { off := 0xF0C, hi := 31, lo := 0 }
def LNK_CNT_RETRY : Fld := { off := 0xF10, hi := 31, lo := 0 }
def LNK_CNT_DUP : Fld := { off := 0xF14, hi := 31, lo := 0 }
def LNK_CNT_CRC : Fld := { off := 0xF18, hi := 31, lo := 0 }
def LNK_CNT_AUTH : Fld := { off := 0xF1C, hi := 31, lo := 0 }
def LNK_CNT_REROUTE : Fld := { off := 0xF20, hi := 31, lo := 0 }
def LNK_CNT_FWD : Fld := { off := 0xF24, hi := 31, lo := 0 }
def CLO_CFG_EN : Fld := { off := 0x100, hi := 0, lo := 0 }
def CLO_STAT_FREE : Fld := { off := 0x800, hi := 10, lo := 0 }
def CLO_STAT_GROUPS : Fld := { off := 0x800, hi := 19, lo := 11 }
def CLO_STAT_EARLY : Fld := { off := 0x800, hi := 28, lo := 20 }
def CLO_QCAP_GRP : Fld := { off := 0x804, hi := 7, lo := 0 }
def CLO_QCAP_VALID : Fld := { off := 0x804, hi := 8, lo := 8 }
def CLO_QCAP_MULTI : Fld := { off := 0x804, hi := 9, lo := 9 }
def CLO_QCAP_SEQ_CSEQ : Fld := { off := 0x808, hi := 31, lo := 0 }
def CLO_CNT_ADD : Fld := { off := 0xF00, hi := 31, lo := 0 }
def CLO_CNT_QOVF : Fld := { off := 0xF04, hi := 31, lo := 0 }
def CLO_CNT_DISCARD : Fld := { off := 0xF08, hi := 31, lo := 0 }
def CLO_CNT_F32 : Fld := { off := 0xF0C, hi := 31, lo := 0 }
def CLO_CNT_WAIT : Fld := { off := 0xF10, hi := 31, lo := 0 }
def CLO_CNT_EARLY : Fld := { off := 0xF14, hi := 31, lo := 0 }
def MEM_POOL_FIRST : Fld := { off := 0x100, hi := 20, lo := 0 }
def MEM_SCRUB_HOURS : Fld := { off := 0x104, hi := 7, lo := 0 }
def MEM_CRYPT_CTL_EN : Fld := { off := 0x108, hi := 0, lo := 0 }
def MEM_PPR_ROW_PC : Fld := { off := 0x10C, hi := 4, lo := 0 }
def MEM_PPR_ROW_LAYER : Fld := { off := 0x10C, hi := 8, lo := 5 }
def MEM_PPR_ROW_BANK : Fld := { off := 0x10C, hi := 12, lo := 9 }
def MEM_PPR_ROW_ROW : Fld := { off := 0x10C, hi := 29, lo := 13 }
def MEM_PPR_ROW_HARD : Fld := { off := 0x10C, hi := 30, lo := 30 }
def MEM_PPR_CTL_GO : Fld := { off := 0x110, hi := 0, lo := 0 }
def MEM_STAT_TRAINED : Fld := { off := 0x800, hi := 0, lo := 0 }
def MEM_STAT_FILLED : Fld := { off := 0x800, hi := 1, lo := 1 }
def MEM_STAT_RETIRED : Fld := { off := 0x800, hi := 2, lo := 2 }
def MEM_STAT_HOT : Fld := { off := 0x800, hi := 3, lo := 3 }
def MEM_FREE_PAGES : Fld := { off := 0x804, hi := 20, lo := 0 }
def MEM_SCRUB_POS_PAGE : Fld := { off := 0x808, hi := 20, lo := 0 }
def MEM_PPR_STAT_DONE : Fld := { off := 0x80C, hi := 0, lo := 0 }
def MEM_PPR_STAT_FAIL : Fld := { off := 0x80C, hi := 1, lo := 1 }
def MEM_PPR_STAT_BUSY : Fld := { off := 0x80C, hi := 2, lo := 2 }
def MEM_CNT_CE : Fld := { off := 0xF00, hi := 31, lo := 0 }
def MEM_CNT_UE : Fld := { off := 0xF04, hi := 31, lo := 0 }
def MEM_CNT_RMW : Fld := { off := 0xF08, hi := 31, lo := 0 }
def MEM_CNT_MERGE : Fld := { off := 0xF0C, hi := 31, lo := 0 }
def MEM_CNT_ODECC : Fld := { off := 0xF10, hi := 31, lo := 0 }
def MEM_CNT_SCRUBPG : Fld := { off := 0xF14, hi := 31, lo := 0 }
def RGN_GATH_CFG_EN (i : Nat) : Fld := { off := 0x400 + 4 * i, hi := 0, lo := 0 }
def RGN_GATH_CFG_WIN (i : Nat) : Fld := { off := 0x400 + 4 * i, hi := 3, lo := 1 }
def RGN_GATH_CFG_TGT (i : Nat) : Fld := { off := 0x400 + 4 * i, hi := 8, lo := 4 }
def RGN_GATH_CFG_CIDX (i : Nat) : Fld := { off := 0x400 + 4 * i, hi := 20, lo := 9 }
def RGN_GATH_CFG_SHR (i : Nat) : Fld := { off := 0x400 + 4 * i, hi := 21, lo := 21 }
def RGN_GATH_CFG_GRP (i : Nat) : Fld := { off := 0x400 + 4 * i, hi := 29, lo := 22 }
def RGN_GATH_STAT_CUR (i : Nat) : Fld := { off := 0xA00 + 4 * i, hi := 11, lo := 0 }
def RGN_GATH_STAT_NEXT (i : Nat) : Fld := { off := 0xA00 + 4 * i, hi := 17, lo := 12 }
def RGN_GATH_STAT_VALID (i : Nat) : Fld := { off := 0xA00 + 4 * i, hi := 18, lo := 18 }
def RGN_GATH_STAT_CLAMP (i : Nat) : Fld := { off := 0xA00 + 4 * i, hi := 19, lo := 19 }
def RGN_GATH_HIST_WMAX (i : Nat) : Fld := { off := 0xB00 + 4 * i, hi := 11, lo := 0 }
def RGN_GATH_HIST_DEPTH (i : Nat) : Fld := { off := 0xB00 + 4 * i, hi := 15, lo := 12 }
def RGN_SPARE_USED : Fld := { off := 0x100, hi := 0, lo := 0 }
def RGN_SPARE_LOCAL : Fld := { off := 0x100, hi := 4, lo := 1 }
def RGN_REPAIR_CTL_LOCAL : Fld := { off := 0x104, hi := 3, lo := 0 }
def RGN_REPAIR_CTL_GRP : Fld := { off := 0x104, hi := 11, lo := 4 }
def RGN_REPAIR_CTL_GO : Fld := { off := 0x104, hi := 31, lo := 31 }
def RGN_EPOCH_TMO_US : Fld := { off := 0x108, hi := 9, lo := 0 }
def RGN_SLOT_FAIL_SLOTS : Fld := { off := 0x810, hi := 16, lo := 0 }
def RGN_REPAIR_STAT_STATE : Fld := { off := 0x814, hi := 2, lo := 0 }
def RGN_REPAIR_STAT_DONE : Fld := { off := 0x814, hi := 3, lo := 3 }
def RGN_REPAIR_STAT_FAIL : Fld := { off := 0x814, hi := 4, lo := 4 }
def RGN_REPAIR_STAT_WHY : Fld := { off := 0x814, hi := 7, lo := 5 }
def RGN_EPOCH_OUT_COUNT : Fld := { off := 0x818, hi := 15, lo := 0 }
def RGN_STALE_LO_ADDR : Fld := { off := 0x820, hi := 31, lo := 0 }
def RGN_STALE_HI_ADDR : Fld := { off := 0x824, hi := 15, lo := 0 }
def RGN_STALE_HI_EPOCH : Fld := { off := 0x824, hi := 23, lo := 16 }
def RGN_STALE_HI_VALID : Fld := { off := 0x824, hi := 24, lo := 24 }
def RGN_STALE_HI_MULTI : Fld := { off := 0x824, hi := 25, lo := 25 }
def RGN_CNT_STALE : Fld := { off := 0xF00, hi := 31, lo := 0 }
def RGN_CNT_REPAIR : Fld := { off := 0xF04, hi := 31, lo := 0 }
def RGN_INFO_DIE : Fld := { off := 0x800, hi := 1, lo := 0 }
def RGN_INFO_DLOCAL : Fld := { off := 0x800, hi := 4, lo := 2 }
def RGN_INFO_REL : Fld := { off := 0x800, hi := 5, lo := 5 }
def RGN_CNT_DMA : Fld := { off := 0xF08, hi := 31, lo := 0 }
def RGN_CNT_ADV : Fld := { off := 0xF0C, hi := 31, lo := 0 }
def CON_CFG_RDIR : Fld := { off := 0x100, hi := 1, lo := 0 }
def CON_FLAGS : Fld := { off := 0x800, hi := 4, lo := 0 }
def CON_STAT_BUSY : Fld := { off := 0x804, hi := 0, lo := 0 }
def CON_STAT_WAIT : Fld := { off := 0x804, hi := 5, lo := 1 }
def CON_CNT_OP : Fld := { off := 0xF00, hi := 31, lo := 0 }
def CON_CNT_BUSY : Fld := { off := 0xF04, hi := 31, lo := 0 }
def UPD_ETA (i : Nat) : Fld := { off := 0x100 + 32 * i, hi := 31, lo := 0 }
def UPD_B1 (i : Nat) : Fld := { off := 0x104 + 32 * i, hi := 31, lo := 0 }
def UPD_B2 (i : Nat) : Fld := { off := 0x108 + 32 * i, hi := 31, lo := 0 }
def UPD_LAMBDA (i : Nat) : Fld := { off := 0x10C + 32 * i, hi := 31, lo := 0 }
def UPD_EPS (i : Nat) : Fld := { off := 0x110 + 32 * i, hi := 31, lo := 0 }
def UPD_GSCALE (i : Nat) : Fld := { off := 0x114 + 32 * i, hi := 31, lo := 0 }
def UPD_T0_LO (i : Nat) : Fld := { off := 0x118 + 32 * i, hi := 31, lo := 0 }
def UPD_T0_HI (i : Nat) : Fld := { off := 0x11C + 32 * i, hi := 31, lo := 0 }
def UPD_FLAGS : Fld := { off := 0x800, hi := 3, lo := 0 }
def UPD_STAT_BUSY : Fld := { off := 0x804, hi := 0, lo := 0 }
def UPD_STAT_WAIT : Fld := { off := 0x804, hi := 5, lo := 1 }
def UPD_CNT_BLK : Fld := { off := 0xF00, hi := 31, lo := 0 }
def UPD_CNT_FROZEN : Fld := { off := 0xF04, hi := 31, lo := 0 }
def UPD_CNT_SKIP : Fld := { off := 0xF08, hi := 31, lo := 0 }
def CLU_CFG_CNTEN : Fld := { off := 0x100, hi := 0, lo := 0 }
def CLU_INFO_LOCAL : Fld := { off := 0x800, hi := 3, lo := 0 }
def CLU_INFO_REGION : Fld := { off := 0x800, hi := 8, lo := 4 }
def CLU_INFO_DIE : Fld := { off := 0x800, hi := 10, lo := 9 }
def CLU_INFO_SLOT : Fld := { off := 0x800, hi := 15, lo := 11 }
def CLU_DEP_USED : Fld := { off := 0x804, hi := 5, lo := 0 }
def CLU_CNT_CE_WS : Fld := { off := 0xF00, hi := 31, lo := 0 }
def CLU_CNT_CE_AB : Fld := { off := 0xF04, hi := 31, lo := 0 }
def CLU_CNT_CE_AM : Fld := { off := 0xF08, hi := 31, lo := 0 }
def CLU_CNT_CE_IM : Fld := { off := 0xF0C, hi := 31, lo := 0 }
def CLU_CNT_CE_CAT : Fld := { off := 0xF10, hi := 31, lo := 0 }
def CLU_CNT_UE : Fld := { off := 0xF14, hi := 31, lo := 0 }
def ARR_FLAGS_OVF (i : Nat) : Fld := { off := 0x800 + 4 * i, hi := 0, lo := 0 }
def ARR_FLAGS_UNF (i : Nat) : Fld := { off := 0x800 + 4 * i, hi := 1, lo := 1 }
def ARR_FLAGS_INX (i : Nat) : Fld := { off := 0x800 + 4 * i, hi := 2, lo := 2 }
def ARR_FLAGS_INV (i : Nat) : Fld := { off := 0x800 + 4 * i, hi := 3, lo := 3 }
def ARR_FLAGS_QOVF (i : Nat) : Fld := { off := 0x800 + 4 * i, hi := 4, lo := 4 }
def ARR_FLAGS_LONGSUM (i : Nat) : Fld := { off := 0x800 + 4 * i, hi := 5, lo := 5 }
def ARR_FLAGS_REPLAY (i : Nat) : Fld := { off := 0x800 + 4 * i, hi := 6, lo := 6 }
def ARR_TRAP_EN_LONGSUM : Fld := { off := 0x100, hi := 0, lo := 0 }
def ARR_TRAP_EN_QOVF : Fld := { off := 0x100, hi := 1, lo := 1 }
def ARR_STAT_BUSY : Fld := { off := 0x810, hi := 3, lo := 0 }
def ARR_STAT_STALL : Fld := { off := 0x810, hi := 7, lo := 4 }
def ARR_STAT_LEVEL0 : Fld := { off := 0x810, hi := 11, lo := 8 }
def ARR_STAT_LEVEL1 : Fld := { off := 0x810, hi := 15, lo := 12 }
def ARR_STAT_LEVEL2 : Fld := { off := 0x810, hi := 19, lo := 16 }
def ARR_STAT_LEVEL3 : Fld := { off := 0x810, hi := 23, lo := 20 }
def ARR_STAT_RECS : Fld := { off := 0x810, hi := 29, lo := 24 }
def ARR_STAT_RECFULL : Fld := { off := 0x810, hi := 30, lo := 30 }
def ARR_STAT_SEL : Fld := { off := 0x810, hi := 31, lo := 31 }
def ARR_QCAP_ARRAY : Fld := { off := 0x030, hi := 1, lo := 0 }
def ARR_QCAP_SLOT : Fld := { off := 0x030, hi := 14, lo := 2 }
def ARR_QCAP_LINE : Fld := { off := 0x030, hi := 24, lo := 15 }
def ARR_QCAP_VALID : Fld := { off := 0x030, hi := 25, lo := 25 }
def ARR_QCAP_MULTI : Fld := { off := 0x030, hi := 26, lo := 26 }
def ARR_QCAP_REC_RID : Fld := { off := 0x034, hi := 5, lo := 0 }
def ARR_QCAP_TIME_T : Fld := { off := 0x03C, hi := 31, lo := 0 }
def ARR_CNT_STEP (i : Nat) : Fld := { off := 0xF00 + 4 * i, hi := 31, lo := 0 }
def ARR_CNT_STALL (i : Nat) : Fld := { off := 0xF10 + 4 * i, hi := 31, lo := 0 }
def ARR_CNT_BALLAST (i : Nat) : Fld := { off := 0xF20 + 4 * i, hi := 31, lo := 0 }
def ARR_CNT_WREAD : Fld := { off := 0xF30, hi := 31, lo := 0 }
def ARR_CNT_REPLAY : Fld := { off := 0xF34, hi := 31, lo := 0 }
def VEC_FLAGS_OVF : Fld := { off := 0x800, hi := 0, lo := 0 }
def SFU_FLAGS_OVF : Fld := { off := 0x804, hi := 0, lo := 0 }
def VEC_FLAGS_UNF : Fld := { off := 0x800, hi := 1, lo := 1 }
def SFU_FLAGS_UNF : Fld := { off := 0x804, hi := 1, lo := 1 }
def VEC_FLAGS_INX : Fld := { off := 0x800, hi := 2, lo := 2 }
def SFU_FLAGS_INX : Fld := { off := 0x804, hi := 2, lo := 2 }
def VEC_FLAGS_INV : Fld := { off := 0x800, hi := 3, lo := 3 }
def SFU_FLAGS_INV : Fld := { off := 0x804, hi := 3, lo := 3 }
def VEC_FLAGS_QOVF : Fld := { off := 0x800, hi := 4, lo := 4 }
def VEC_SFU_CTL_AK6 : Fld := { off := 0x100, hi := 0, lo := 0 }
def VEC_SFU_CTL_TBL_VER : Fld := { off := 0x100, hi := 15, lo := 8 }
def VEC_ROW_STAT_ROW_NAR : Fld := { off := 0x808, hi := 0, lo := 0 }
def VEC_ROW_STAT_ROW_EMPTY : Fld := { off := 0x808, hi := 1, lo := 1 }
def VEC_ROW_STAT_FIRST_ROW : Fld := { off := 0x808, hi := 23, lo := 8 }
def VEC_QCAP_SLOT : Fld := { off := 0x030, hi := 12, lo := 0 }
def VEC_QCAP_VALID : Fld := { off := 0x030, hi := 13, lo := 13 }
def VEC_QCAP_MULTI : Fld := { off := 0x030, hi := 14, lo := 14 }
def VEC_QCAP_ELEM_IDX : Fld := { off := 0x034, hi := 31, lo := 0 }
def VEC_QCAP_TIME_T : Fld := { off := 0x03C, hi := 31, lo := 0 }
def VEC_STAT_BUSY : Fld := { off := 0x80C, hi := 0, lo := 0 }
def VEC_STAT_CLASS : Fld := { off := 0x80C, hi := 3, lo := 1 }
def VEC_CNT_PASS : Fld := { off := 0xF00, hi := 31, lo := 0 }
def VEC_CNT_SFU : Fld := { off := 0xF04, hi := 31, lo := 0 }
def VEC_CNT_SFUWAIT : Fld := { off := 0xF08, hi := 31, lo := 0 }
def VEC_CNT_ENDPT : Fld := { off := 0xF0C, hi := 31, lo := 0 }
def DOC_START_START : Fld := { off := 0x100, hi := 12, lo := 0 }
def DOC_CTX_LO_ADDR : Fld := { off := 0x104, hi := 31, lo := 0 }
def DOC_CTX_HI_ADDR : Fld := { off := 0x108, hi := 15, lo := 0 }
def DOC_CTL_GO : Fld := { off := 0x800, hi := 0, lo := 0 }
def DOC_CTL_RESUME : Fld := { off := 0x800, hi := 1, lo := 1 }
def DOC_CTL_ABORT : Fld := { off := 0x800, hi := 2, lo := 2 }
def DOC_STAT_STATE : Fld := { off := 0x804, hi := 2, lo := 0 }
def DOC_STAT_PC : Fld := { off := 0x804, hi := 15, lo := 3 }
def DOC_STAT_QDEPTH : Fld := { off := 0x804, hi := 21, lo := 16 }
def DOC_STAT_GRP : Fld := { off := 0x804, hi := 29, lo := 22 }
def DOC_STAT_LATE : Fld := { off := 0x804, hi := 30, lo := 30 }
def DOC_LAND_LO_IDX : Fld := { off := 0x808, hi := 31, lo := 0 }
def DOC_LAND_HI_IDX : Fld := { off := 0x80C, hi := 31, lo := 0 }
def DOC_TRAP_CAUSE : Fld := { off := 0x810, hi := 7, lo := 0 }
def DOC_SLACK_MIN_SLACK : Fld := { off := 0x814, hi := 23, lo := 0 }
def DOC_RESUME_LO_T : Fld := { off := 0x818, hi := 31, lo := 0 }
def DOC_RESUME_HI_T : Fld := { off := 0x81C, hi := 31, lo := 0 }
def DOC_CNT_ISSUE : Fld := { off := 0xF00, hi := 31, lo := 0 }
def DOC_CNT_WAIT : Fld := { off := 0xF04, hi := 31, lo := 0 }
def DOC_CNT_LATE : Fld := { off := 0xF08, hi := 31, lo := 0 }

end Reg

/-! ### The maps -/

/-- DEV pages (R396, R441, R522, R563, R652, R678). -/
def rowsDev : List FieldRow :=
  [rowS Reg.DEV_PKG_ID_ID .rw 1 0, rowS Reg.DEV_DET_CTL_STRICT .rw 2 1,
   rowS Reg.DEV_DET_CTL_DIVERGE .rw 2 0, rowS Reg.DEV_DET_CTL_F32CHUNK .rw 2 1,
   rowS Reg.DEV_DET_CTL_LSWAIT .rw 2 0, rowS Reg.DEV_DET_CTL_TWINLOSS .rw 2 0,
   rowS Reg.DEV_DET_CTL_LOGGRP .rw 2 0, rowS Reg.DEV_LOG_BASE_LO_ADDR .rw 2 0,
   rowS Reg.DEV_LOG_BASE_HI_ADDR .rw 2 0, rowS Reg.DEV_LOG_SIZE_PAGES .rw 2 0,
   rowS Reg.DEV_ARC_SESS_LO_ADDR .rw 3 0, rowS Reg.DEV_ARC_SESS_HI_ADDR .rw 3 0,
   rowS Reg.DEV_ARC_CFG_EN .rw 3 0, rowS Reg.DEV_ARC_CFG_AGEGRP .rw 3 0,
   rowS Reg.DEV_ARC_CFG_AGEMAX .rw 3 0x100, rowS Reg.DEV_ARC_RSV_PAGES .rw 3 0x400,
   rowL Reg.DEV_ARC_CMD_SESS .rw 0, rowL Reg.DEV_ARC_CMD_OP .rw 0,
   rowL Reg.DEV_ARC_CMD_NEWSLOT .rw 0, rowA Reg.DEV_ARC_CMD_GO .w1s,
   rowL Reg.DEV_GRP_CMD_GRP .rw 0, rowL Reg.DEV_GRP_CMD_OP .rw 0,
   rowA Reg.DEV_GRP_CMD_GO .w1s, rowL Reg.DEV_GRP_IMG_LO_ADDR .rw 0] ++
  [rowL Reg.DEV_GRP_IMG_HI_ADDR .rw 0, rowL Reg.DEV_XFER_CTL_SESS .rw 0,
   rowL Reg.DEV_XFER_CTL_PATH .rw 0, rowA Reg.DEV_XFER_CTL_GO .w1s,
   rowL Reg.DEV_XFER_DEST_ID .rw 0, rowL Reg.DEV_XFER_RSESS_SESS .rw 0,
   rowL Reg.DEV_XFER_ARM_SESS .rw 0, rowL Reg.DEV_XFER_ARM_EN .rw 0,
   rowL Reg.DEV_RET_CMD_STACK .rw 0, rowA Reg.DEV_RET_CMD_GO .w1s,
   rowS (Reg.DEV_SEED_LO_SEED 0) .wo 4 0 64 8 1, rowS (Reg.DEV_SEED_HI_SEED 0) .wo 4 0 64 8 1,
   rowL Reg.DEV_IDENT_STEPPING .ro 0xb1, rowL Reg.DEV_IDENT_PARTNO .ro 0,
   rowL Reg.DEV_PRESENT_STACKS .ro 0, rowL Reg.DEV_PRESENT_XDIES .ro 0,
   rowL Reg.DEV_PRESENT_GDIES .ro 0xf, rowL Reg.DEV_DET_STAT_VARIED .w1c 0,
   rowL Reg.DEV_DET_STAT_UNCHECKED .ro 0, rowL Reg.DEV_DET_STAT_REPLAYING .ro 0,
   rowL Reg.DEV_LOG_HEAD_OFF .ro 0, rowA Reg.DEV_LOG_TAIL_OFF .rw,
   rowL Reg.DEV_LS_FAIL_CLU .ro 0, rowL Reg.DEV_LS_FAIL_GRP .ro 0] ++
  [rowL Reg.DEV_LS_FAIL_VALID .w1c 0, rowL Reg.DEV_LS_FAIL_PROV .ro 0,
   rowL Reg.DEV_LS_FAIL_LOG .ro 0, rowL Reg.DEV_LS_IDX_LO_IDX .ro 0,
   rowL Reg.DEV_LS_IDX_HI_IDX .ro 0, rowL Reg.DEV_ARC_STAT_BUSY .ro 0,
   rowL Reg.DEV_ARC_STAT_DONE .w1c 0, rowL Reg.DEV_ARC_STAT_FAIL .w1c 0,
   rowL Reg.DEV_ARC_STAT_WHY .ro 0, rowL Reg.DEV_ARC_STAT_TRANSIT .ro 0,
   rowL Reg.DEV_ARC_FREE_PAGES .ro 0, rowL Reg.DEV_GRP_STAT_BUSY .ro 0,
   rowL Reg.DEV_GRP_STAT_DONE .w1c 0, rowL Reg.DEV_GRP_STAT_FAIL .w1c 0,
   rowL Reg.DEV_GRP_STAT_WHY .ro 0, rowL Reg.DEV_GRP_SEL_GRP .rw 0,
   rowL Reg.DEV_GRP_INFO_LOADED .ro 0, rowL Reg.DEV_GRP_INFO_ENDPOINT .ro 0,
   rowL Reg.DEV_GRP_INFO_UNIFORM .ro 0, rowL Reg.DEV_GRP_INFO_NMEM1 .ro 0,
   rowL Reg.DEV_GRP_INFO_MIDX .ro 0, rowL Reg.DEV_GRP_INFO_W .ro 0,
   rowL Reg.DEV_GRP_INFO_CLO .ro 0, rowL Reg.DEV_GRP_INFO_MEMBER .ro 0] ++
  [rowL Reg.DEV_GRP_INFO2_SLOTS .ro 0, rowL Reg.DEV_GRP_INFO2_RBASE .ro 0,
   rowL Reg.DEV_XFER_STAT_BUSY .ro 0, rowL Reg.DEV_XFER_STAT_DONE .w1c 0,
   rowL Reg.DEV_XFER_STAT_FAIL .w1c 0, rowL Reg.DEV_XFER_STAT_WHY .ro 0,
   rowL Reg.DEV_XFER_STAT_RX .ro 0, rowL Reg.DEV_XFER_STAT_XNUM .ro 0,
   rowL Reg.DEV_XFER_DONEB_KIB .ro 0, rowL Reg.DEV_RET_STAT_BUSY .ro 0,
   rowL Reg.DEV_RET_STAT_DONE .w1c 0, rowL Reg.DEV_RET_STAT_FAIL .w1c 0,
   rowL Reg.DEV_RET_STAT_WHY .ro 0, rowL Reg.DEV_RET_LEFT_PAGES .ro 0,
   rowL Reg.DEV_RGN_AVAIL_MASK .ro 0, rowL (Reg.DEV_PROV 0) .ro 0 8 4,
   rowL Reg.DEV_CNT_LOGREC .ro 0, rowL Reg.DEV_CNT_REPLAY_DROP .ro 0,
   rowL Reg.DEV_CNT_LSCMP .ro 0, rowL Reg.DEV_ARC_CNT_AGED .ro 0,
   rowL Reg.DEV_ARC_CNT_NOPAGE .ro 0, rowL Reg.DEV_ARC_CNT_FAULT .ro 0,
   rowL Reg.DEV_CNT_RETMOVED .ro 0]

/-- CUR pages (R562). -/
def rowsCur : List FieldRow :=
  [rowA Reg.CUR_MBX_CTL_GO .w1s, rowL (Reg.CUR_MBX_REQ 0) .rw 0 256 4,
   rowL Reg.CUR_MBX_STAT_READY .ro 0, rowL Reg.CUR_MBX_STAT_BUSY .ro 0,
   rowL Reg.CUR_MBX_STAT_DONE .w1c 0, rowL Reg.CUR_MBX_STAT_REFUSED .w1c 0,
   rowL (Reg.CUR_MBX_RSP 0) .ro 0 256 4]

/-- TIM pages (R358). -/
def rowsTim : List FieldRow :=
  [rowS Reg.TIM_CFG_ROLE .rw 1 1, rowS Reg.TIM_CFG_PARENT .rw 1 0,
   rowS Reg.TIM_LAND_CFG_DL .rw 2 2, rowS Reg.TIM_LAND_CFG_LATE_MAX .rw 2 0x32,
   rowS Reg.TIM_CLKGRP .rw 3 0, rowS Reg.TIM_PRE_T_LO_T .rw 4 0,
   rowS Reg.TIM_PRE_T_HI_T .rw 4 0, rowS Reg.TIM_PRE_CTL_GRP .rw 4 0,
   rowS Reg.TIM_PRE_CTL_ARM .rw 4 0, rowL Reg.TIM_SET_LO_T .rw 0,
   rowL Reg.TIM_SET_HI_T .rw 0, rowA Reg.TIM_SET_CTL_GO .w1s,
   rowL Reg.TIM_NOW_LO_T .ro 0, rowL Reg.TIM_NOW_HI_T .ro 0,
   rowL Reg.TIM_STAT_LOCK .ro 0, rowL Reg.TIM_STAT_PARENT_UP .ro 0,
   rowL Reg.TIM_OFFSET_THETA .ro 0, rowL Reg.TIM_TRIM_TRIM .ro 0,
   rowL Reg.TIM_CNT_XFER .ro 0, rowL Reg.TIM_CNT_STEP .ro 0,
   rowL Reg.TIM_CNT_UNLOCK .ro 0]

/-- PCI pages (R560). -/
def rowsPci : List FieldRow :=
  [rowS (Reg.PCI_IQ_CFG_PAGE 0) .rw 1 0 16 8 1, rowS (Reg.PCI_IQ_SIZE_PAGES 0) .rw 1 0 16 8 1,
   rowL Reg.PCI_SEALWIN_FIRST .ro 0, rowL Reg.PCI_SEALWIN_PAGES .ro 0,
   rowL (Reg.PCI_DMA_RING_LO_ADDR 0) .rw 0 16 32, rowL (Reg.PCI_DMA_RING_HI_ADDR 0) .rw 0 16 32,
   rowL (Reg.PCI_DMA_SIZE_LOG2N 0) .rw 4 16 32, rowL (Reg.PCI_DMA_TAIL_IDX 0) .rw 0 16 32,
   rowL (Reg.PCI_DMA_CTL_EN 0) .rw 0 16 32, rowA (Reg.PCI_DMA_CTL_RESUME 0) .w1s 16 32,
   rowL (Reg.PCI_DMA_HEAD_IDX 0) .ro 0 16 32, rowL (Reg.PCI_DMA_STAT_BUSY 0) .ro 0 16 32,
   rowL (Reg.PCI_DMA_STAT_HALTED 0) .ro 0 16 32, rowL (Reg.PCI_DMA_STAT_LAST 0) .ro 0 16 32,
   rowL Reg.PCI_STAT_WIDTH .ro 0, rowL Reg.PCI_STAT_SPEED .ro 0,
   rowL Reg.PCI_STAT_BAR2_OPEN .ro 0, rowL (Reg.PCI_IQ_USE_RECS 0) .ro 0 16 4,
   rowL Reg.PCI_CNT_UR .ro 0, rowL Reg.PCI_CNT_BADREG .ro 0,
   rowL Reg.PCI_CNT_QFULL .ro 0]

/-- SEC pages (R603). -/
def rowsSec : List FieldRow :=
  [rowS Reg.SEC_HELLO_CTL_EN .rw 1 1, rowL Reg.SEC_STAT_SEALED .ro 0,
   rowL Reg.SEC_STAT_SEAL .ro 0, rowL Reg.SEC_STAT_PRESENCE .ro 0,
   rowL Reg.SEC_STAT_PRESSED .ro 0, rowL Reg.SEC_STAT_DEBUG .ro 0,
   rowL Reg.SEC_STAT_OWNED .ro 0, rowL Reg.SEC_STAT_RECOVERY .ro 0,
   rowL Reg.SEC_STAT_IDREADY .ro 0, rowL Reg.SEC_STAT_BOOTSLOT .ro 0,
   rowL Reg.SEC_STAT_FALLBACK .ro 0, rowL Reg.SEC_PRES_LEFT_MS .ro 0,
   rowL Reg.SEC_SVN_FW .ro 0, rowL Reg.SEC_SVN_CFG .ro 0,
   rowL Reg.SEC_CTR_FW .ro 0, rowL Reg.SEC_CTR_CFG .ro 0,
   rowL Reg.SEC_ACC_USE_SESS .ro 0, rowL Reg.SEC_SLOT_USE_SLOTS .ro 0,
   rowL Reg.SEC_CNT_TAMPER .ro 0, rowL Reg.SEC_CNT_HELLO .ro 0,
   rowL Reg.SEC_CNT_HELLOBAD .ro 0, rowL Reg.SEC_CNT_AUTHREF .ro 0,
   rowL Reg.SEC_CNT_SCRUB .ro 0]

/-- PWR pages (R624). -/
def rowsPwr : List FieldRow :=
  [rowS Reg.PWR_CFG_PSTATE .rw 1 0, rowS Reg.PWR_CFG_CAPEN .rw 1 1,
   rowS Reg.PWR_CFG_FIXCLK .rw 1 0, rowS Reg.PWR_CAP_LIMIT .rw 1 0x5dc,
   rowL Reg.PWR_STAT_PHASE .ro 0, rowL Reg.PWR_STAT_WARN .ro 0,
   rowL Reg.PWR_RGN_REL_MASK .ro 0, rowL Reg.PWR_CLK_CODE .ro 0,
   rowL Reg.PWR_PERMIT_CODE .ro 0, rowL Reg.PWR_MEAS_W .ro 0,
   rowL Reg.PWR_TEMP_G_T .ro 0, rowL Reg.PWR_TEMP_X_T .ro 0,
   rowL (Reg.PWR_TEMP_M_T 0) .ro 0 3 4, rowL Reg.PWR_THR_ACTIVE .ro 0,
   rowL Reg.PWR_THR_THERMAL .w1c 0, rowL Reg.PWR_THR_POWER .w1c 0,
   rowL Reg.PWR_THR_VR .w1c 0, rowL Reg.PWR_THR_WARNED .w1c 0,
   rowL Reg.PWR_CNT_THROTTLE .ro 0, rowL Reg.PWR_CNT_THR_US .ro 0,
   rowL Reg.PWR_CNT_WARN .ro 0]

/-- ECC pages (R431, R440). -/
def rowsEcc : List FieldRow :=
  [rowL Reg.ECAP_ADDR_LO_ADDR .ro 0, rowL Reg.ECAP_ADDR_HI_ADDR .ro 0,
   rowL Reg.ECAP_ADDR_HI_KIND .ro 0, rowL Reg.ECAP_ADDR_HI_CAUSE .ro 0,
   rowL Reg.ECAP_ADDR_HI_VALID .w1c 0, rowL Reg.ECAP_ADDR_HI_MULTI .w1c 0,
   rowL Reg.ECAP_ADDR_HI_SLOT .ro 0, rowL Reg.ECAP_SYND_SYND .ro 0,
   rowL Reg.ECAP_TIME_T .ro 0, rowS Reg.ECC_LB_CFG_THRESH .rw 1 0x10,
   rowS Reg.ECC_LB_CFG_LEAK_MS .rw 1 0x3e8, rowS Reg.ECC_SCRUB_SRAM_MINUTES .rw 2 0x3c,
   rowL Reg.ECC_TEST_INST_INST .rw 0, rowL Reg.ECC_TEST_ADDR_LO_ADDR .rw 0,
   rowL Reg.ECC_TEST_ADDR_HI_ADDR .rw 0, rowL (Reg.ECC_TEST_DATA 0) .rw 0 8 4,
   rowL Reg.ECC_TEST_CHK .rw 0, rowA Reg.ECC_TEST_CMD_WRITE .w1s,
   rowA Reg.ECC_TEST_CMD_READ .w1s, rowL Reg.ECC_TEST_STAT_DONE .w1c 0,
   rowL Reg.ECC_TEST_STAT_REFUSED .w1c 0, rowL Reg.ECC_TEST_STAT_VERDICT .ro 0,
   rowL Reg.ECC_TEST_STAT_NCORR .ro 0, rowL Reg.ECC_LB_SEL_INST .rw 0] ++
  [rowL Reg.ECC_LB_VAL_COUNT .ro 0, rowL Reg.ECC_CNT_CE_SRAM .ro 0,
   rowL Reg.ECC_CNT_UE_SRAM .ro 0, rowL Reg.ECC_CNT_LIMIT .ro 0]

/-- DIE pages (R688). -/
def rowsDie : List FieldRow :=
  [rowL Reg.DIE_INFO_AVAIL .ro 0, rowL Reg.DIE_INFO_STACKS .ro 0,
   rowL Reg.DIE_VDD .ro 0, rowL Reg.DIE_EVTQ .ro 0,
   rowL Reg.DIE_CNT_EVT .ro 0, rowL Reg.DIE_CNT_EVTDROP .ro 0,
   rowL Reg.DIE_CNT_VSTEP .ro 0]

/-- ETH pages (R561). -/
def rowsEth : List FieldRow :=
  [rowS Reg.ETH_CFG_EN .rw 1 1, rowS Reg.ETH_CFG_MEDIUM .rw 1 0,
   rowS Reg.ETH_CFG_UDPPORT .rw 1 0xb900, rowS Reg.ETH_CFG_EGRGRP .rw 1 0,
   rowL Reg.ETH_MAC_LO_MAC .ro 0, rowL Reg.ETH_MAC_HI_MAC .ro 0,
   rowS (Reg.ETH_IP_ADDR 0) .rw 1 0 4 4, rowS Reg.ETH_EGR_CFG_PAGE .rw 1 0,
   rowS Reg.ETH_EGR_SIZE_PAGES .rw 1 0, rowL (Reg.ETH_HR_LO_ADDR 0) .rw 0 2 16,
   rowL (Reg.ETH_HR_HI_ADDR 0) .rw 0 2 16, rowL (Reg.ETH_HR_SIZE_LOG2N 0) .rw 4 2 16,
   rowL (Reg.ETH_HR_TAIL_IDX 0) .rw 0 2 16, rowL Reg.ETH_STAT_UP .ro 0,
   rowL Reg.ETH_EGR_HEAD_OFF .ro 0, rowL (Reg.ETH_HR_HEAD_IDX 0) .ro 0 2 4,
   rowL Reg.ETH_CNT_ACC .ro 0, rowL Reg.ETH_CNT_ACCBAD .ro 0,
   rowL Reg.ETH_CNT_ACCREPLAY .ro 0, rowL Reg.ETH_CNT_QFULL .ro 0,
   rowL Reg.ETH_CNT_RXDROP .ro 0, rowL Reg.ETH_CNT_FCS .ro 0]

/-- LNK pages (R431, R487). -/
def rowsLnk : List FieldRow :=
  [rowL Reg.ECAP_ADDR_LO_ADDR .ro 0, rowL Reg.ECAP_ADDR_HI_ADDR .ro 0,
   rowL Reg.ECAP_ADDR_HI_KIND .ro 0, rowL Reg.ECAP_ADDR_HI_CAUSE .ro 0,
   rowL Reg.ECAP_ADDR_HI_VALID .w1c 0, rowL Reg.ECAP_ADDR_HI_MULTI .w1c 0,
   rowL Reg.ECAP_ADDR_HI_SLOT .ro 0, rowL Reg.ECAP_SYND_SYND .ro 0,
   rowL Reg.ECAP_TIME_T .ro 0, rowS Reg.LNK_CFG_EN .rw 1 1,
   rowS Reg.LNK_CFG_WIDTH .rw 1 4, rowS Reg.LNK_CFG_MEDIUM .rw 1 0,
   rowS Reg.LNK_CFG_ENC .rw 1 1, rowS Reg.LNK_CFG_AUTODROP .rw 1 1,
   rowS Reg.LNK_CFG_ROLE .rw 1 0, rowS Reg.LNK_CFG_PEER .rw 1 0,
   rowS Reg.LNK_CFG_LGRP .rw 1 0, rowS Reg.LNK_VCW_W0 .rw 2 8,
   rowS Reg.LNK_VCW_W1 .rw 2 6, rowS Reg.LNK_VCW_W3 .rw 2 2,
   rowS Reg.LNK_RETRY_TMO .rw 3 0xa, rowS Reg.LNK_RETRY_TMO2 .rw 3 0xa,
   rowS Reg.LNK_HEALTH_THRESH .rw 4 0x40, rowS Reg.LNK_HEALTH_WIN_MS .rw 4 0x64] ++
  [rowL Reg.LNK_LANECMD_LANE .rw 0, rowA Reg.LNK_LANECMD_DROP .w1s,
   rowA Reg.LNK_LANECMD_REKEY .w1s, rowA Reg.LNK_LANECMD_TRAIN .w1s,
   rowL Reg.LNK_STAT_STATE .ro 0, rowL Reg.LNK_STAT_NACT .ro 0,
   rowL Reg.LNK_STAT_LANES .ro 0, rowL Reg.LNK_STAT_ENC .ro 0,
   rowL Reg.LNK_STAT_PENDING .ro 0, rowL Reg.LNK_PEER_ID .ro 0,
   rowL Reg.LNK_PEER_PORT .ro 0, rowL Reg.LNK_PEER_VALID .ro 0,
   rowL Reg.LNK_LANE_FAULT_LANES .w1c 0, rowL Reg.LNK_LANE_SEL_LANE .rw 0,
   rowL Reg.LNK_LANE_CNT_CORR .ro 0, rowL Reg.LNK_LANE_CNT_UC_UC .ro 0,
   rowL Reg.LNK_RET_USE_SLOTS .ro 0, rowL Reg.LNK_CNT_FLIT_TX .ro 0,
   rowL Reg.LNK_CNT_FLIT_RX .ro 0, rowL Reg.LNK_CNT_CW_UNC .ro 0,
   rowL Reg.LNK_CNT_BAD .ro 0, rowL Reg.LNK_CNT_RETRY .ro 0,
   rowL Reg.LNK_CNT_DUP .ro 0, rowL Reg.LNK_CNT_CRC .ro 0] ++
  [rowL Reg.LNK_CNT_AUTH .ro 0, rowL Reg.LNK_CNT_REROUTE .ro 0,
   rowL Reg.LNK_CNT_FWD .ro 0]

/-- CLO pages (R431, R523). -/
def rowsClo : List FieldRow :=
  [rowL Reg.ECAP_ADDR_LO_ADDR .ro 0, rowL Reg.ECAP_ADDR_HI_ADDR .ro 0,
   rowL Reg.ECAP_ADDR_HI_KIND .ro 0, rowL Reg.ECAP_ADDR_HI_CAUSE .ro 0,
   rowL Reg.ECAP_ADDR_HI_VALID .w1c 0, rowL Reg.ECAP_ADDR_HI_MULTI .w1c 0,
   rowL Reg.ECAP_ADDR_HI_SLOT .ro 0, rowL Reg.ECAP_SYND_SYND .ro 0,
   rowL Reg.ECAP_TIME_T .ro 0, rowS Reg.CLO_CFG_EN .rw 1 1,
   rowL Reg.CLO_STAT_FREE .ro 0x580, rowL Reg.CLO_STAT_GROUPS .ro 0,
   rowL Reg.CLO_STAT_EARLY .ro 0, rowL Reg.CLO_QCAP_GRP .ro 0,
   rowL Reg.CLO_QCAP_VALID .w1c 0, rowL Reg.CLO_QCAP_MULTI .w1c 0,
   rowL Reg.CLO_QCAP_SEQ_CSEQ .ro 0, rowL Reg.CLO_CNT_ADD .ro 0,
   rowL Reg.CLO_CNT_QOVF .ro 0, rowL Reg.CLO_CNT_DISCARD .ro 0,
   rowL Reg.CLO_CNT_F32 .ro 0, rowL Reg.CLO_CNT_WAIT .ro 0,
   rowL Reg.CLO_CNT_EARLY .ro 0]

/-- MEM pages (R431, R439). -/
def rowsMem : List FieldRow :=
  [rowL Reg.ECAP_ADDR_LO_ADDR .ro 0, rowL Reg.ECAP_ADDR_HI_ADDR .ro 0,
   rowL Reg.ECAP_ADDR_HI_KIND .ro 0, rowL Reg.ECAP_ADDR_HI_CAUSE .ro 0,
   rowL Reg.ECAP_ADDR_HI_VALID .w1c 0, rowL Reg.ECAP_ADDR_HI_MULTI .w1c 0,
   rowL Reg.ECAP_ADDR_HI_SLOT .ro 0, rowL Reg.ECAP_SYND_SYND .ro 0,
   rowL Reg.ECAP_TIME_T .ro 0, rowS Reg.MEM_POOL_FIRST .rw 1 0x4000,
   rowS Reg.MEM_SCRUB_HOURS .rw 2 0x18, rowS Reg.MEM_CRYPT_CTL_EN .rw 3 1,
   rowL Reg.MEM_PPR_ROW_PC .rw 0, rowL Reg.MEM_PPR_ROW_LAYER .rw 0,
   rowL Reg.MEM_PPR_ROW_BANK .rw 0, rowL Reg.MEM_PPR_ROW_ROW .rw 0,
   rowL Reg.MEM_PPR_ROW_HARD .rw 0, rowA Reg.MEM_PPR_CTL_GO .w1s,
   rowL Reg.MEM_STAT_TRAINED .ro 0, rowL Reg.MEM_STAT_FILLED .ro 0,
   rowL Reg.MEM_STAT_RETIRED .ro 0, rowL Reg.MEM_STAT_HOT .ro 0,
   rowL Reg.MEM_FREE_PAGES .ro 0, rowL Reg.MEM_SCRUB_POS_PAGE .ro 0] ++
  [rowL Reg.MEM_PPR_STAT_DONE .w1c 0, rowL Reg.MEM_PPR_STAT_FAIL .w1c 0,
   rowL Reg.MEM_PPR_STAT_BUSY .ro 0, rowL Reg.MEM_CNT_CE .ro 0,
   rowL Reg.MEM_CNT_UE .ro 0, rowL Reg.MEM_CNT_RMW .ro 0,
   rowL Reg.MEM_CNT_MERGE .ro 0, rowL Reg.MEM_CNT_ODECC .ro 0,
   rowL Reg.MEM_CNT_SCRUBPG .ro 0]

/-- RGN pages (R288, R289, R646, R685). -/
def rowsRgn : List FieldRow :=
  [rowL Reg.RGN_SPARE_USED .ro 0, rowL Reg.RGN_SPARE_LOCAL .ro 0,
   rowL Reg.RGN_REPAIR_CTL_LOCAL .rw 0, rowL Reg.RGN_REPAIR_CTL_GRP .rw 0,
   rowA Reg.RGN_REPAIR_CTL_GO .w1s, rowS Reg.RGN_EPOCH_TMO_US .rw 1 0x64,
   rowS (Reg.RGN_GATH_CFG_EN 0) .rw 2 0 64 4 1, rowS (Reg.RGN_GATH_CFG_WIN 0) .rw 2 3 64 4 1,
   rowS (Reg.RGN_GATH_CFG_TGT 0) .rw 2 4 64 4 1, rowS (Reg.RGN_GATH_CFG_CIDX 0) .rw 2 0 64 4 1,
   rowS (Reg.RGN_GATH_CFG_SHR 0) .rw 2 0 64 4 1, rowS (Reg.RGN_GATH_CFG_GRP 0) .rw 2 0 64 4 1,
   rowL Reg.RGN_INFO_DIE .ro 0, rowL Reg.RGN_INFO_DLOCAL .ro 0,
   rowL Reg.RGN_INFO_REL .ro 0, rowL Reg.RGN_SLOT_FAIL_SLOTS .ro 0,
   rowL Reg.RGN_REPAIR_STAT_STATE .ro 0, rowL Reg.RGN_REPAIR_STAT_DONE .w1c 0,
   rowL Reg.RGN_REPAIR_STAT_FAIL .w1c 0, rowL Reg.RGN_REPAIR_STAT_WHY .ro 0,
   rowL Reg.RGN_EPOCH_OUT_COUNT .ro 0, rowL Reg.RGN_STALE_LO_ADDR .ro 0,
   rowL Reg.RGN_STALE_HI_ADDR .ro 0, rowL Reg.RGN_STALE_HI_EPOCH .ro 0] ++
  [rowL Reg.RGN_STALE_HI_VALID .w1c 0, rowL Reg.RGN_STALE_HI_MULTI .w1c 0,
   rowL (Reg.RGN_GATH_STAT_CUR 0) .ro 0x800 64 4, rowL (Reg.RGN_GATH_STAT_NEXT 0) .ro 0 64 4,
   rowL (Reg.RGN_GATH_STAT_VALID 0) .ro 0 64 4, rowL (Reg.RGN_GATH_STAT_CLAMP 0) .w1c 0 64 4,
   rowL (Reg.RGN_GATH_HIST_WMAX 0) .ro 0x800 64 4, rowL (Reg.RGN_GATH_HIST_DEPTH 0) .ro 0 64 4,
   rowL Reg.RGN_CNT_STALE .ro 0, rowL Reg.RGN_CNT_REPAIR .ro 0,
   rowL Reg.RGN_CNT_DMA .ro 0, rowL Reg.RGN_CNT_ADV .ro 0]

/-- CON pages (R686). -/
def rowsCon : List FieldRow :=
  [rowS Reg.CON_CFG_RDIR .rw 1 0, rowL Reg.CON_FLAGS .w1c 0,
   rowL Reg.CON_STAT_BUSY .ro 0, rowL Reg.CON_STAT_WAIT .ro 0,
   rowL Reg.CON_CNT_OP .ro 0, rowL Reg.CON_CNT_BUSY .ro 0]

/-- UPD pages (R301). -/
def rowsUpd : List FieldRow :=
  [rowS (Reg.UPD_ETA 0) .rw 1 0 16 32 1, rowS (Reg.UPD_B1 0) .rw 1 0x3f666666 16 32 1,
   rowS (Reg.UPD_B2 0) .rw 1 0x3f7fbe77 16 32 1, rowS (Reg.UPD_LAMBDA 0) .rw 1 0 16 32 1,
   rowS (Reg.UPD_EPS 0) .rw 1 0x3727c5ac 16 32 1, rowS (Reg.UPD_GSCALE 0) .rw 1 0x3f800000 16 32 1,
   rowS (Reg.UPD_T0_LO 0) .rw 1 0 16 32 1, rowS (Reg.UPD_T0_HI 0) .rw 1 0 16 32 1,
   rowL Reg.UPD_FLAGS .w1c 0, rowL Reg.UPD_STAT_BUSY .ro 0,
   rowL Reg.UPD_STAT_WAIT .ro 0, rowL Reg.UPD_CNT_BLK .ro 0,
   rowL Reg.UPD_CNT_FROZEN .ro 0, rowL Reg.UPD_CNT_SKIP .ro 0]

/-- CLU pages (R431, R680). -/
def rowsClu : List FieldRow :=
  [rowL Reg.ECAP_ADDR_LO_ADDR .ro 0, rowL Reg.ECAP_ADDR_HI_ADDR .ro 0,
   rowL Reg.ECAP_ADDR_HI_KIND .ro 0, rowL Reg.ECAP_ADDR_HI_CAUSE .ro 0,
   rowL Reg.ECAP_ADDR_HI_VALID .w1c 0, rowL Reg.ECAP_ADDR_HI_MULTI .w1c 0,
   rowL Reg.ECAP_ADDR_HI_SLOT .ro 0, rowL Reg.ECAP_SYND_SYND .ro 0,
   rowL Reg.ECAP_TIME_T .ro 0, rowS Reg.CLU_CFG_CNTEN .rw 1 1,
   rowL Reg.CLU_INFO_LOCAL .ro 0, rowL Reg.CLU_INFO_REGION .ro 0,
   rowL Reg.CLU_INFO_DIE .ro 0, rowL Reg.CLU_INFO_SLOT .ro 0,
   rowL Reg.CLU_DEP_USED .ro 0, rowL Reg.CLU_CNT_CE_WS .ro 0,
   rowL Reg.CLU_CNT_CE_AB .ro 0, rowL Reg.CLU_CNT_CE_AM .ro 0,
   rowL Reg.CLU_CNT_CE_IM .ro 0, rowL Reg.CLU_CNT_CE_CAT .ro 0,
   rowL Reg.CLU_CNT_UE .ro 0]

/-- ARR pages (R155, R156, R202, R681). -/
def rowsArr : List FieldRow :=
  [rowL Reg.ARR_QCAP_ARRAY .ro 0, rowL Reg.ARR_QCAP_SLOT .ro 0,
   rowL Reg.ARR_QCAP_LINE .ro 0, rowL Reg.ARR_QCAP_VALID .ro 0,
   rowL Reg.ARR_QCAP_MULTI .w1c 0, rowL Reg.ARR_QCAP_REC_RID .ro 0,
   rowL Reg.ARR_QCAP_TIME_T .ro 0, rowS Reg.ARR_TRAP_EN_LONGSUM .rw 1 0,
   rowS Reg.ARR_TRAP_EN_QOVF .rw 1 0, rowL (Reg.ARR_FLAGS_OVF 0) .w1c 0 4 4,
   rowL (Reg.ARR_FLAGS_UNF 0) .w1c 0 4 4, rowL (Reg.ARR_FLAGS_INX 0) .w1c 0 4 4,
   rowL (Reg.ARR_FLAGS_INV 0) .w1c 0 4 4, rowL (Reg.ARR_FLAGS_QOVF 0) .w1c 0 4 4,
   rowL (Reg.ARR_FLAGS_LONGSUM 0) .w1c 0 4 4, rowL (Reg.ARR_FLAGS_REPLAY 0) .w1c 0 4 4,
   rowL Reg.ARR_STAT_BUSY .ro 0, rowL Reg.ARR_STAT_STALL .ro 0,
   rowL Reg.ARR_STAT_LEVEL0 .ro 0, rowL Reg.ARR_STAT_LEVEL1 .ro 0,
   rowL Reg.ARR_STAT_LEVEL2 .ro 0, rowL Reg.ARR_STAT_LEVEL3 .ro 0,
   rowL Reg.ARR_STAT_RECS .ro 0, rowL Reg.ARR_STAT_RECFULL .ro 0] ++
  [rowL Reg.ARR_STAT_SEL .rw 0, rowL (Reg.ARR_CNT_STEP 0) .ro 0 4 4,
   rowL (Reg.ARR_CNT_STALL 0) .ro 0 4 4, rowL (Reg.ARR_CNT_BALLAST 0) .ro 0 4 4,
   rowL Reg.ARR_CNT_WREAD .ro 0, rowL Reg.ARR_CNT_REPLAY .ro 0]

/-- VEC pages (R155, R236, R266, R683). -/
def rowsVec : List FieldRow :=
  [rowL Reg.VEC_QCAP_SLOT .ro 0, rowL Reg.VEC_QCAP_VALID .ro 0,
   rowL Reg.VEC_QCAP_MULTI .w1c 0, rowL Reg.VEC_QCAP_ELEM_IDX .ro 0,
   rowL Reg.VEC_QCAP_TIME_T .ro 0, rowS Reg.VEC_SFU_CTL_AK6 .rw 1 0,
   rowL Reg.VEC_SFU_CTL_TBL_VER .ro 2, rowL Reg.VEC_FLAGS_OVF .w1c 0,
   rowL Reg.VEC_FLAGS_UNF .w1c 0, rowL Reg.VEC_FLAGS_INX .w1c 0,
   rowL Reg.VEC_FLAGS_INV .w1c 0, rowL Reg.VEC_FLAGS_QOVF .w1c 0,
   rowL Reg.SFU_FLAGS_OVF .w1c 0, rowL Reg.SFU_FLAGS_UNF .w1c 0,
   rowL Reg.SFU_FLAGS_INX .w1c 0, rowL Reg.SFU_FLAGS_INV .w1c 0,
   rowL Reg.VEC_ROW_STAT_ROW_NAR .w1c 0, rowL Reg.VEC_ROW_STAT_ROW_EMPTY .w1c 0,
   rowL Reg.VEC_ROW_STAT_FIRST_ROW .ro 0, rowL Reg.VEC_STAT_BUSY .ro 0,
   rowL Reg.VEC_STAT_CLASS .ro 0, rowL Reg.VEC_CNT_PASS .ro 0,
   rowL Reg.VEC_CNT_SFU .ro 0, rowL Reg.VEC_CNT_SFUWAIT .ro 0] ++
  [rowL Reg.VEC_CNT_ENDPT .ro 0]

/-- DOC pages (R357). -/
def rowsDoc : List FieldRow :=
  [rowS Reg.DOC_START_START .rw 1 0, rowS Reg.DOC_CTX_LO_ADDR .rw 2 0,
   rowS Reg.DOC_CTX_HI_ADDR .rw 3 0, rowA Reg.DOC_CTL_GO .w1s,
   rowA Reg.DOC_CTL_RESUME .w1s, rowA Reg.DOC_CTL_ABORT .w1s,
   rowL Reg.DOC_STAT_STATE .ro 0, rowL Reg.DOC_STAT_PC .ro 0,
   rowL Reg.DOC_STAT_QDEPTH .ro 0, rowL Reg.DOC_STAT_GRP .ro 0,
   rowL Reg.DOC_STAT_LATE .ro 0, rowL Reg.DOC_LAND_LO_IDX .ro 0,
   rowL Reg.DOC_LAND_HI_IDX .ro 0, rowL Reg.DOC_TRAP_CAUSE .ro 0,
   rowL Reg.DOC_SLACK_MIN_SLACK .rc 0xffffff, rowL Reg.DOC_RESUME_LO_T .rw 0,
   rowL Reg.DOC_RESUME_HI_T .rw 0, rowL Reg.DOC_CNT_ISSUE .ro 0,
   rowL Reg.DOC_CNT_WAIT .ro 0, rowL Reg.DOC_CNT_LATE .ro 0]

/-- The fields of a block's own maps. -/
def blockRows : Block → List FieldRow
  | .dev => rowsDev
  | .cur => rowsCur
  | .tim => rowsTim
  | .pci => rowsPci
  | .sec => rowsSec
  | .pwr => rowsPwr
  | .ecc => rowsEcc
  | .die => rowsDie
  | .eth => rowsEth
  | .lnk => rowsLnk
  | .clo => rowsClo
  | .mem => rowsMem
  | .rgn => rowsRgn
  | .con => rowsCon
  | .upd => rowsUpd
  | .clu => rowsClu
  | .arr => rowsArr
  | .vec => rowsVec
  | .doc => rowsDoc

end Sys2Proof.Machine
end

