-- ==== Sys2Proof/Machine/Sparse.lean ====
section
/-! DEFINITION. Finite maps over the naturals in one canonical form: keys strictly rising, and no entry that equals what
an unlisted key reads as. Memory, register pages and every other sparse store of the model use them, so equal contents
are equal data. -/
namespace Sys2Proof.Machine

/-- What key `k` reads as; an unlisted key reads as `d k`. -/
def sget {α : Type} (d : Nat → α) : List (Nat × α) → Nat → α
  | [], k => d k
  | (j, a) :: t, k => if k = j then a else sget d t k

/-- The map without key `k`. -/
def sdel {α : Type} : List (Nat × α) → Nat → List (Nat × α)
  | [], _ => []
  | (j, a) :: t, k => if k = j then sdel t k else (j, a) :: sdel t k

/-- The map with key `k` listed as `v`. -/
def sput {α : Type} : List (Nat × α) → Nat → α → List (Nat × α)
  | [], k, v => [(k, v)]
  | (j, a) :: t, k, v =>
    if k = j then (k, v) :: t else if k < j then (k, v) :: (j, a) :: t else (j, a) :: sput t k v

/-- The map in which `k` reads as `v`: writing what an unlisted key reads as removes the entry. -/
def sset {α : Type} [DecidableEq α] (d : Nat → α) (m : List (Nat × α)) (k : Nat) (v : α) : List (Nat × α) :=
  if v = d k then sdel m k else sput m k v

/-- Every key of the map lies above `k`. -/
def skeysAbove {α : Type} (k : Nat) : List (Nat × α) → Bool
  | [] => true
  | (j, _) :: t => decide (k < j) && skeysAbove k t

/-- The canonical form: keys strictly rising, no entry equal to the default of its key. -/
def swf {α : Type} [DecidableEq α] (d : Nat → α) : List (Nat × α) → Bool
  | [] => true
  | (j, a) :: t => decide (a ≠ d j) && skeysAbove j t && swf d t

/-- The map with a function applied at one key. -/
def supd {α : Type} [DecidableEq α] (d : Nat → α) (m : List (Nat × α)) (k : Nat) (f : α → α) : List (Nat × α) :=
  sset d m k (f (sget d m k))

/-- Writes `vs` at consecutive keys from `k`. -/
def ssetAll {α : Type} [DecidableEq α] (d : Nat → α) : List (Nat × α) → Nat → List α → List (Nat × α)
  | m, _, [] => m
  | m, k, v :: vs => ssetAll d (sset d m k v) (k + 1) vs

/-- The map without every key in [lo, hi): each of them reads as its default again. -/
def sclear {α : Type} (m : List (Nat × α)) (lo hi : Nat) : List (Nat × α) :=
  m.filter (fun p => p.1 < lo || decide (hi ≤ p.1))

end Sys2Proof.Machine
end

