-- ==== Sys2Proof/Machine/State.lean ====
section
/-! DEFINITION. The state of one AK9 package as plain data: register pages, memories, sequencers, engines in progress,
groups, links, queues, the Curator, the board flash it writes, pins, time, and the queue of commands that wait. Sparse
maps hold only what differs from reset (Sparse.lean). -/
namespace Sys2Proof.Machine

/-- The four part numbers (R3). -/
inductive PartNo where
  | c4m12x4 | c4m12x2 | c4m8x4 | c4m8x2
  deriving DecidableEq, Repr

/-- Why the machine stops with a fault: never. The manual reports every failure in registers, events or responses, and no
command raises a fault. -/
inductive Fault where
  deriving DecidableEq, Repr

/-- Why a command has no meaning here. -/
inductive Refusal where
  /-- Raised by Dispatch for a command that has no meaning yet. Safe. -/
  | notModelled (mnemonic : String)
  /-- Raised by TAP_INSTRUCTION alone, for a debug instruction of an unlocked port: the manual offers Wilevo's debug
  instructions (R606) and says of none what it does. Safe. -/
  | debugInstruction (code : Nat)
  deriving DecidableEq, Repr

/-! ### Sequencers and launches -/

/-- A fetched descriptor: slot, first word, and the extension where EXT is 1 (R312, R317). -/
structure Desc where
  slot : Nat
  w : BitVec 256
  ext : BitVec 256
  /-- Elapsed time at which the sequencer fetched it: a rise of R199 starts no earlier. -/
  seen : Nat := 0
  deriving DecidableEq, Repr

/-- A range that an issued launch holds in the dependency table (R315). -/
structure DepRange where
  /-- Catalogue entries rather than device addresses. -/
  cat : Bool
  lo : Nat
  hi : Nat
  /-- Written by the launch, rather than only read by a CATSAVE or a class-8 launch. -/
  writes : Bool
  deriving DecidableEq, Repr

/-- A tile record (R180). -/
structure TileRec where
  f32 : Bool
  width : Nat
  trow : Nat
  rows : Nat
  shape : Nat
  m : Nat
  n : Nat
  count : Nat
  replays : Nat
  deriving DecidableEq, Repr

/-- An effect that a launch has computed and that takes place when the launch completes. -/
inductive Eff where
  | mem (addr : Nat) (bytes : List Byte)
  | cat (i : Nat) (v : BitVec 64)
  | am (key : Nat) (v : BitVec 512)
  | tile (a rid : Nat) (r : Option TileRec)
  | arrFlags (a w : Nat)
  | vecFlags (w : Nat)
  | sfuFlags (w : Nat)
  | conFlags (w : Nat)
  | updFlags (w : Nat)
  | rowStat (nar empty : Bool) (row : Nat)
  | arrQcap (a line rid : Nat)
  | vecQcap (idx : Nat)
  | gather (slot : Nat) (cls : Option Int)
  | count (page : Nat) (fld : Fld) (n : Nat)
  | event (page code sev : Nat) (data : List Byte)
  | varied
  | touch (addr n cause : Nat)
  deriving DecidableEq, Repr

/-- The epilogue of one array of a class-0 launch (R167, R183): its instant, whether it has begun, its effects. -/
structure EpiRun where
  arr : Nat
  at_ : Nat
  begun : Bool
  effs : List Eff
  deriving DecidableEq, Repr

/-- A launch in progress. -/
structure Launch where
  slot : Nat
  cls : Nat
  opc : Nat
  /-- Arrays used, one bit each (class 0). -/
  amask : Nat
  /-- Launch instant and completion instant, in elapsed time. -/
  start : Nat
  due : Nat
  deps : List DepRange
  /-- 0 accumulating or running; 1 once the epilogue of every array has begun (class 0). -/
  phase : Nat
  /-- The first epilogue starts here (class 0, FIN = 1); the last SFU grant is over here (class 2). -/
  epiAt : Nat
  /-- The descriptor, kept for the epilogue. -/
  desc : Desc
  effs : List Eff
  /-- Place among the launches of its flight, for the cluster signature (R381). -/
  seq : Nat
  /-- The epilogues of its arrays (class 0, FIN = 1), and the intervals in which its steps stall (R185): array, from, to. -/
  epis : List EpiRun := []
  stalls : List (Nat × Nat × Nat) := []
  deriving DecidableEq, Repr

/-- A class-5 launch in progress (R496 to R512). -/
structure Coll where
  slot : Nat
  /-- Launch instant, in elapsed time. -/
  start : Nat := 0
  grp : Nat
  cseq : Nat
  opc : Nat
  /-- The form of an F32 reduction on this package (R511). -/
  ordered : Bool
  fmt : Nat
  /-- Bits of one element, and bytes of the payload. -/
  width : Nat
  bytes : Nat
  root : Nat
  /-- Device addresses of what is sent and of what is received. -/
  src : Nat
  dst : Nat
  /-- Bytes that the launch receives in all. -/
  need : Nat
  /-- The other members that it must send to or receive from (R503). -/
  peers : List Nat := []
  /-- Pieces received, in order of arrival: sending member, offset, bytes, flags. -/
  got : List (Nat × Nat × List Byte × Nat)
  /-- A PERMUTE entry named no member (R505). -/
  inv : Bool
  vary : Bool
  /-- At the endpoint cluster, the sum of the last segment, by offset (R517). -/
  last : List (Nat × List Byte)
  /-- At the endpoint cluster, the first element whose sum overflowed there (R684). -/
  qidx : Option Nat
  deps : List DepRange
  seq : Nat
  deriving DecidableEq, Repr

/-- The context that a pre-emption saves (R355). -/
structure Ctx where
  pc : Nat
  loops : List (Option Nat)
  queue : List Desc
  /-- The FLIGHT that opens flight n + 1, where it has issued: length, STEP, group. -/
  next : Option (Nat × Bool × Nat)
  grp : Nat
  idx : Nat
  step : Nat
  /-- Valid tile records and the accumulator entries of the cluster, under their keys in the state. -/
  tiles : List (Nat × TileRec)
  am : List (Nat × BitVec 512)
  /-- ARR_FLAGS of arrays 0 to 3, VEC_FLAGS, SFU_FLAGS, VEC_ROW_STAT. -/
  arrFlags : List Nat
  vecFlags : Nat
  sfuFlags : Nat
  rowStat : Word
  deriving DecidableEq, Repr

/-- One logical cluster beyond its memories and register pages. -/
structure Cluster where
  /-- Next slot to fetch, and the Docent queue, oldest first (R313). -/
  fetchPc : Nat := 0
  queue : List Desc := []
  /-- The four loop counters; none is idle (R327). -/
  loops : List (Option Nat) := [none, none, none, none]
  /-- Scheduled start, scheduled landing, length and index of the flight in progress (R336). -/
  fS : Nat := 0
  fLam : Nat := 0
  fLen : Nat := 0
  fStep : Bool := false
  /-- When the flight in progress began (R337). -/
  begun : Nat := 0
  /-- The cluster has landed, and its package not yet (R338). -/
  landed : Bool := false
  /-- The FLIGHT that closes the flight in progress: length, STEP, group. -/
  next : Option (Nat × Bool × Nat) := none
  /-- HALT has issued in this flight (R326). -/
  halting : Bool := false
  /-- BARRIER waiting: T_START, STEP0, CLK, group. -/
  barrier : Option (Nat × Nat × Nat × Nat) := none
  launches : List Launch := []
  colls : List Coll := []
  /-- Instant of the last issue and of the last completion, in elapsed time. -/
  lastIssue : Nat := 0
  lastDone : Nat := 0
  /-- The elapsed instant up to which DOC_CNT_WAIT has counted. -/
  waitAt : Nat := 0
  /-- Until when arrays 0 to 3, the vector engine and the SFU take no new launch. -/
  arrFree : List Nat := [0, 0, 0, 0]
  veFree : Nat := 0
  sfuFree : Nat := 0
  /-- When the activity level of each array last changed, or its last step was (R199, R200). -/
  levelAt : List Nat := [0, 0, 0, 0]
  /-- The latest rise of the activity level of each array: the instant of level 8, and the level it rose from (R199). -/
  rise : List (Nat × Nat) := [(0, 8), (0, 8), (0, 8), (0, 8)]
  /-- The instant up to which ARR_CNT_BALLAST of each array has counted (R203). -/
  ballAt : List Nat := [0, 0, 0, 0]
  /-- Cycles of the SFU that array epilogues take, ascending, by their instants (R188, R233). -/
  sfuTaken : List Nat := []
  /-- Class-5 launches of a group issued in this flight (R496). -/
  collSeq : List (Nat × Nat) := []
  /-- SIGNAL codes of this flight (R326). -/
  signals : List Nat := []
  /-- Launches issued in this flight, and the units of its signature by launch: 2 * launch for stores, 2 * launch + 1
  for payloads (R381). -/
  issued : Nat := 0
  units : List (Nat × List Byte) := []
  /-- A soft reset waits for the next landing (R55). -/
  srst : Bool := false
  saved : Option Ctx := none
  saveInvalid : Bool := false
  deriving DecidableEq, Repr

/-- A class-7 or class-8 launch that waits for its region's engine or is served (R299, R333). Its entry in the table of
its cluster is the launch of the same class and `seq`. -/
structure Service where
  cluster : Nat
  seq : Nat
  desc : Desc
  /-- Launch instant, in elapsed time. -/
  issued : Nat
  /-- Rounding direction (class 8) and hyperparameters ETA to T0_HI (class 7) in force then (R27, R301, R687). -/
  rdir : Nat
  hyper : List Nat
  /-- Seed, step counter and free-running draw of a class-7 launch (R298, R370). -/
  seed : Nat
  step : Nat
  vary : Option Nat
  /-- Clusters whose weight store it uses. -/
  ws : List Nat
  due : Nat
  effs : List Eff
  deriving DecidableEq, Repr

/-- A region's engines and repair (R42, R641). -/
structure Region where
  restorer : List Service := []
  restorerRun : Option Service := none
  conservator : List Service := []
  conservatorRun : Option Service := none
  /-- Elements that CON_CNT_OP, and bytes that RGN_CNT_DMA, has not yet counted in full units. -/
  conElems : Nat := 0
  dmaBytes : Nat := 0
  /-- Repair: local index, drain group, end of the copy or rescan. -/
  repairLocal : Nat := 0
  repairGrp : Nat := 0
  repairEnd : Nat := 0
  vacated : Nat := 0
  /-- When the placement epoch last advanced (R640). -/
  epochAt : Nat := 0
  /-- Inbound results that wait for the end of the copy (R639): cluster, epoch, address, bytes. -/
  inbound : List (Nat × Nat × Nat × List Byte) := []
  deriving DecidableEq, Repr

/-! ### Groups -/

/-- One member of a group image (R489). -/
structure Member where
  pkg : Nat
  mask : BitVec 512
  deriving DecidableEq, Repr

/-- One loaded entry of the group table (R489 to R493, R518). -/
structure Group where
  members : List Member
  wmin : Nat
  rslots : Nat
  /-- Cloakroom and slots held; none in endpoint mode. -/
  clo : Option Nat
  deriving DecidableEq, Repr

/-- A landing group in progress on this package. -/
structure GroupRun where
  /-- Landing index and step counter (R326). -/
  idx : Nat := 0
  step : Nat := 0
  /-- Agreed clock code of the flight in progress and of the one after it (R349, R701). -/
  code : Nat := 0
  /-- Scheduled start and scheduled landing of the flight in progress, or of the next one during a window; end of the
  landing window. -/
  s : Nat := 0
  lam : Nat := 0
  winEnd : Nat := 0
  /-- Landed messages received and sent (R339). -/
  msgs : List LandedMsg := []
  /-- Landing index and arrival of its latest message (R338). -/
  msgAt : List (Nat × Nat) := []
  /-- A clock change at the end of the landing window (R342): landing index, agreed code, dies whose throttle is released, one
  bit each. -/
  switch : Option (Nat × Nat × Nat) := none
  /-- Notices received: landing index, package, arrival. -/
  notices : List (Nat × Nat × Nat) := []
  noticed : Option Nat := none
  /-- Members that sent FINAL, and at which landing (R348). -/
  finals : List (Nat × Nat) := []
  /-- The package is in the stop state of the group (R347). -/
  stopped : Bool := false
  /-- Landing at which this package pre-empted (R353). -/
  preempted : Option Nat := none
  /-- T_START of the run's barrier (R328), and scheduled instants of past landings, newest first. -/
  tStart : Nat := 0
  lams : List (Nat × Nat) := []
  /-- The twin's messages, the signatures and record counts latched here, and the last landing compared (R382 to R386). -/
  twin : List TwinMsg := []
  sigs : List (Nat × BitVec 64) := []
  /-- Cluster signatures by landing (R381, R385). -/
  cluSigs : List (Nat × List (Nat × BitVec 64)) := []
  counts : List (Nat × List Nat) := []
  checked : Nat := 0
  mismatch : Bool := false
  /-- The landing whose mismatch stopped the group: its dead members are still judged (R388). -/
  lsAt : Option Nat := none
  deriving DecidableEq, Repr

/-! ### Input queues, log, Accession -/

/-- A record held in an input queue (R538, R552): for PCI Express its payload; for Accession the message as received, in
ciphertext with its tag. -/
structure IqRec where
  payload : List Byte
  /-- Rotunda instant at which it reached the queue. -/
  reached : Nat
  /-- Landing that makes it visible under RECORD or REPLAY (R389, R394). -/
  land : Nat
  /-- Accession source: SID, EPOCH, SEQ; none for PCI Express. -/
  acc : Option (Nat × Nat × Nat)
  /-- SEQ of its log record (R391), where replay read it. -/
  seq : Nat := 0
  deriving DecidableEq, Repr

structure Iq where
  recs : List IqRec := []
  /-- Byte offsets of the first record and of the next in the ring. -/
  rd : Nat := 0
  wr : Nat := 0
  /-- Records taken so far, for the counts of R383. -/
  taken : Nat := 0
  deriving DecidableEq, Repr

/-- A record held out of the full log ring, and out of its queue (R393): a signature record keeps its landing; a QPUSH
record names its channel. -/
structure LogHeld where
  q : Nat
  src : Nat
  kind : Nat
  land : Nat
  payload : List Byte
  acc : Option (Nat × Nat × Nat)
  chan : Option Nat
  deriving DecidableEq, Repr

/-- An entry of the Accession session table (R550). -/
structure AccSess where
  sid : Nat
  epoch : Nat
  /-- The epoch secret and traffic keys, as the number of the entropy draw that made them. -/
  secret : Nat
  queue : Nat
  peer : Bool
  ip : Nat
  port : Nat
  /-- Highest SEQ accepted plus 1, and the accepted ones among the 64 below it (R551). -/
  top : Nat
  window : List Nat
  txSeq : Nat
  deriving DecidableEq, Repr

/-- An Accession message that waits in the engine of port `e` (R549). -/
structure AccMsg where
  e : Nat
  type : Nat
  sid : Nat
  seq : Nat
  epoch : Nat
  /-- Source of the datagram. -/
  ip : Nat
  port : Nat
  /-- The message as received: header, payload, tag. -/
  bytes : List Byte
  deriving DecidableEq, Repr

/-! ### Efurn -/

structure TxStream where
  dst : Nat
  vc : Nat
  next : Nat
  fresh : Bool
  broken : Bool
  deriving DecidableEq, Repr

structure RxStream where
  src : Nat
  vc : Nat
  next : Nat
  /-- Chunks accepted out of order: SEQ, KIND, data (R468). -/
  held : List (Nat × Nat × List Byte)
  /-- Chunks delivered since the last ACK, and when the first of them was. -/
  unacked : Nat
  since : Nat
  deriving DecidableEq, Repr

/-- A retained chunk (R467). -/
structure Retained where
  port : Nat
  dst : Nat
  vc : Nat
  seq : Nat
  fresh : Bool
  kind : Nat
  data : List Byte
  sent : Nat
  /-- When its last flit was last sent; a flit of the present sending still waits. -/
  last : Nat
  queued : Bool := false
  deriving DecidableEq, Repr

/-- A flit (R454): header fields and body. The layout of HOP bodies is not in the manual: their items stand in `words`, and
`body` is their tag. -/
structure Flit where
  ty : Nat
  vc : Nat
  cls : Nat
  first : Bool
  last : Bool
  fresh : Bool
  dst : Nat
  src : Nat
  seq : Nat
  fidx : Nat
  len : Nat
  kind : Nat
  cred : Nat := 0
  cvc : Nat := 0
  ccls : Nat := 0
  body : List Byte := []
  words : List Nat := []
  deriving DecidableEq, Repr

/-- A chunk that waits at a port, or is being sent: its next flit, and from the first on what its bodies carry. -/
structure TxChunk where
  cls : Nat
  src : Nat
  dst : Nat
  vc : Nat
  seq : Nat
  kind : Nat
  fresh : Bool
  data : List Byte
  fidx : Nat := 0
  wire : List Byte := []
  /-- The receive buffer that a forwarded chunk still fills (R461, R464): port, 2 * VC + CLS. -/
  back : Option (Nat × Nat) := none
  deriving DecidableEq, Repr

/-- One Efurn port beyond its page. -/
structure Port where
  /-- Lanes that passed training so far. -/
  good : Nat := 0
  /-- Lanes that this end no longer sends on. -/
  txOff : Nat := 0
  /-- Scheduled lane switch: lane set and Rotunda instant (R483). -/
  lswitch : Option (Nat × Nat) := none
  /-- Instants of tag failures within the last millisecond (R476). -/
  tagFails : List Nat := []
  /-- New keys agreed; they take effect at this Rotunda instant (R475). -/
  rekeyAt : Option Nat := none
  rekeying : Bool := false
  keyGen : Nat := 0
  /-- Direction counters of the IV (R473). -/
  txCtr : Nat := 0
  rxCtr : Nat := 0
  /-- Per lane: consecutive failed codewords, corrected symbols, failed codewords. -/
  consec : List (Nat × Nat) := []
  corr : List (Nat × Nat) := []
  uc : List (Nat × Nat) := []
  /-- Uncorrectable codewords of the health window: lane and instant (R482). -/
  winUc : List (Nat × Nat) := []
  failedAt : Nat := 0
  miswire : Option Nat := none
  /-- The port has reached UP, MISWIRE or FAILED since bring-up (R613). -/
  settled : Bool := false
  /-- Credits in use, by 2 * VC + CLS (R464): flits sent that the partner has not credited back. -/
  used : List (Nat × Nat) := []
  /-- Buffer freed here that no flit has credited back yet, by 2 * VC + CLS. -/
  owed : List (Nat × Nat) := []
  /-- The bundle is wired in reversed order (R445), and LNK_CFG.ENC of the partner's end (R472). -/
  rev : Bool := false
  peerEnc : Bool := false
  /-- Chunks that wait to be sent or are being sent, oldest first (R457). -/
  txq : List TxChunk := []
  /-- Rotation (R453): the next slot, and the elapsed time of slot 0. -/
  slot : Nat := 0
  restart : Nat := 0
  /-- Turn of the round in progress, 0 VC0, 1 VC1, 2 VC3, and the flits left of it (R463). -/
  turn : Nat := 2
  left : Nat := 0
  deriving DecidableEq, Repr

/-! ### Cloakrooms and collectives -/

/-- An item that waits at a combining point (R508 to R516). -/
structure CombIn where
  grp : Nat
  cseq : Nat
  opc : Nat
  ordered : Bool
  /-- Byte offset within the payload. -/
  off : Nat
  /-- What it stands for: the partial of logical rank `lo` (kind 0), the sum of the branch of member `lo` (1), the sum
  of the ranks `lo` to `hi` (2). -/
  kind : Nat
  lo : Nat
  hi : Nat
  flags : Nat
  bytes : List Byte
  /-- When it began to wait for a window (R514), in elapsed time plus 1; 0 where it did not. -/
  since : Nat
  /-- The receive buffer that it fills while it waits in the links (R514): port, 2 * VC + CLS, flits. -/
  back : Option (Nat × Nat × Nat) := none
  deriving DecidableEq, Repr

/-- A reduction in progress at a combining point or at the endpoint cluster, for one range of payload offsets. -/
structure Comb where
  grp : Nat
  cseq : Nat
  opc : Nat
  /-- Landing group of the launch (R521). -/
  lgrp : Nat
  ordered : Bool
  fmt : Nat
  width : Nat
  root : Nat
  off : Nat
  len : Nat
  /-- The chain of one segment on this package, rather than the tree point or the root of an ordered reduction. -/
  chain : Bool
  /-- First and last rank of the chain on this package; of the segment in progress at the root. -/
  lo : Nat
  hi : Nat
  /-- Items combined so far (kind, lo, hi), and the next rank of an ordered reduction. -/
  have_ : List (Nat × Nat × Nat)
  next : Nat
  acc : Option (List Byte)
  /-- The sum of earlier segments (R367). -/
  total : Option (List Byte)
  flags : Nat
  /-- First element whose sum overflowed here. -/
  qidx : Option Nat
  /-- The member cluster of position 0, which is the endpoint cluster at the root (R507). -/
  cluster : Nat
  deriving DecidableEq, Repr

/-- A chunk in an early store (R502): I/O die, the clusters that it waits for where it has been distributed (none where it
has not), and the chunk data. -/
structure EarlyRec where
  die : Nat
  clusters : List Nat
  data : List Byte
  deriving DecidableEq, Repr

/-! ### The Archive, transfers, retirement -/

/-- A requantisation in progress (R415): session, stream, span, its new pages and scale slot, and whether it has
completed. -/
structure Requant where
  sess : Nat
  stream : Nat
  span : Nat
  page : Nat
  scalePage : Nat
  sslot : Nat
  done : Bool
  deriving DecidableEq, Repr

/-- An Archive command in progress (R419). -/
structure ArcCmd where
  op : Nat
  sess : Nat
  newSlot : Nat
  deriving DecidableEq, Repr

/-- An outgoing session-cache transfer (R554 to R559). -/
structure XferOut where
  path : Nat
  dest : Nat
  xnum : Nat
  stream : List Byte
  /-- Stream bytes sent and acknowledged, and resends since the last progress (Accession). -/
  sent : Nat
  acked : Nat
  resends : Nat
  progressAt : Nat
  deriving DecidableEq, Repr

/-- An incoming transfer (R556 to R558). -/
structure XferIn where
  sess : Nat
  xnum : Nat
  /-- Path as in DEV_XFER_CTL, and the sender: package for Efurn, Accession session else. -/
  path : Nat
  src : Nat
  /-- LEN of the source record, once the record has arrived. -/
  len : Option Nat
  /-- Stream bytes received in order, and those of them that no item has taken yet. -/
  got : Nat
  buf : List Byte
  /-- XFER messages since the last XACK. -/
  unacked : Nat
  deriving DecidableEq, Repr

structure Retire where
  stack : Nat
  moved : Nat
  deriving DecidableEq, Repr

/-! ### The Curator and the board flash -/

/-- A slot of a flash record (R568). -/
structure FlashSlot (α : Type) where
  gen : Nat
  marker : Bool
  body : α
  deriving DecidableEq, Repr

/-- The board flash (R567), which no reset clears. -/
structure Flash where
  fwA : Option (FlashSlot FwImage) := none
  fwB : Option (FlashSlot FwImage) := none
  cfgA : Option (FlashSlot CfgRecord) := none
  cfgB : Option (FlashSlot CfgRecord) := none
  ownA : Option (FlashSlot OwnerRecord) := none
  ownB : Option (FlashSlot OwnerRecord) := none
  fwCtr : Nat := 0
  cfgCtr : Nat := 0
  /-- Certificate chain of the identity record, and whether the identity was re-enrolled without one. -/
  chain : List Byte := []
  reenrolled : Bool := false
  /-- The identity keys, as the number of the draw that made them. -/
  identity : Nat := 0
  idhash : List Byte := []
  /-- Repair record: swapped local index by region, slot failures by region, retired stacks, hard repairs. -/
  spares : List (Nat × Nat) := []
  fails : List (Nat × Nat) := []
  retired : List Nat := []
  hardPpr : List (Nat × Nat) := []
  deriving DecidableEq, Repr

/-- The one flash command in progress (R597). -/
inductive FlashOp where
  | fwMarker (slotB : Bool) (live : Bool)
  | cfgMarker (slotB : Bool)
  | fwStage (slotB : Bool) (img : FwImage)
  | cfgStage (slotB : Bool) (cfg : CfgRecord)
  | owner (rec_ : OwnerRecord)
  | reenrol
  | chain (bytes : List Byte)
  | repair (region : Nat)
  | ppr (stack row : Nat)
  | retire (stack : Nat)
  | counters
  deriving DecidableEq, Repr

/-- A mailbox command that has been accepted and not yet answered. -/
inductive MbxJob where
  | flash (op : FlashOp)
  | live
  | unseal
  | scrub (sess : Nat) (mask : BitVec 512)
  | waitHbm (cmd : Instr)
  deriving DecidableEq, Repr

structure Curator where
  fw : Option FwImage := none
  bootB : Bool := false
  fallback : Option Nat := none
  cfg : Option CfgRecord := none
  owner : Option OwnerRecord := none
  mr : List (List Byte) := []
  nonce : List Byte := []
  /-- Code and tag of the request in progress, with its bulk buffer. -/
  job : Option MbxJob := none
  jobCode : Nat := 0
  jobTag : Nat := 0
  jobHaddr : Nat := 0
  flashOp : Option FlashOp := none
  /-- Staged images: slot and whether a stage has completed since bring-up. -/
  fwStagedB : Option Bool := none
  cfgStagedB : Option Bool := none
  entropyBad : Bool := false
  /-- Flash operations are held (R626, R628), until this elapsed instant. -/
  flashHeld : Bool := false
  flashResumeAt : Nat := 0
  /-- The write in progress has been sent to the flash. -/
  flashSent : Bool := true
  /-- The configuration stage has run (R572). -/
  cfgApplied : Bool := false
  restarting : Bool := false
  replacing : Bool := false
  newFw : Option FwImage := none
  /-- PRESENCE_N: level, since when; debounced level, since when; a window has opened in this press; its end. -/
  pinLow : Bool := false
  pinAt : Nat := 0
  debLow : Bool := false
  debAt : Nat := 0
  opened : Bool := false
  windowEnd : Nat := 0
  /-- Seal loop: consecutive closed checks. -/
  closedRun : Nat := 0
  sealAt : Nat := 0
  /-- Draws of the entropy source. -/
  draws : Nat := 0
  bootDone : Bool := false
  /-- The identity record is open (R566, R575), and the number of the draw of the intake keys (R564). -/
  idOpen : Bool := false
  intake : Nat := 0
  deriving DecidableEq, Repr

/-! ### Events -/

/-- A raised event that the Curator holds (R690, R697). -/
structure Event where
  code : Nat
  sev : Nat
  page : Nat
  time : Nat
  deferred : Bool
  late : Bool
  data : List Byte
  /-- The event (code, page) whose action raised this one. -/
  after : Option (Nat × Nat)
  deriving DecidableEq, Repr

/-- The host event ring (R691). -/
structure EvtRing where
  base : Nat
  log2n : Nat
  cons : Nat
  deriving DecidableEq, Repr

/-! ### Host DMA -/

/-- A transfer in progress on a channel. -/
structure DmaRun where
  desc : DmaDesc
  status : Nat
  /-- A QPUSH record still waits for log space (R393). -/
  held : Bool
  deriving DecidableEq, Repr

/-- What leaves the package. -/
inductive Out where
  | hostWrite (addr : Nat) (bytes : List Byte)
  | hostRead (bytes : List Byte)
  | unsupported
  | msix (v : Nat)
  | flit (port lane : Nat) (f : Flit)
  | frame (e : Nat) (bytes : List Byte)
  | accession (e ip port : Nat) (msg : List Byte)
  | tdo (v : Nat)
  | pinTest (code : Nat)
  | thermtrip
  deriving DecidableEq, Repr

/-- Emergency throttle of one compute die (R620). -/
structure Throttle where
  active : Bool := false
  /-- Clock code in force at onset. -/
  onset : Nat := 0
  since : Nat := 0
  /-- Causes present (bit 0 THERMAL, 1 POWER, 2 VR), and since when none has been. -/
  causes : Nat := 0
  clearAt : Nat := 0
  deriving DecidableEq, Repr

/-! ### The package -/

/-- Register pages: values in force, staged copies, pending snapshots (R26 to R28). -/
structure RegFile where
  /-- Registers: values in force, staged copies and pending snapshots, by BAR0 doubleword index (R26 to R28). -/
  regs : List (Nat × Word) := []
  staged : List (Nat × Word) := []
  snap : List (Nat × Word) := []
  /-- When the counters of a page were last cleared (R670), for those that a free value feeds (log 60). -/
  cntFrom : List (Nat × Nat) := []
  deriving DecidableEq, Repr

/-- Memories, their keys and error marks, and the error log. -/
structure Mems where
  /-- HBM and cluster memories by device address (R400). -/
  mem : List (Nat × Byte) := []
  /-- Instruction memories, by 8192 * cluster + slot. -/
  im : List (Nat × BitVec 256) := []
  /-- Catalogues, by 4096 * cluster + index. -/
  cat : List (Nat × BitVec 64) := []
  /-- Accumulator entries, by ((4 * cluster + array) * 1024 + first line of the tile row) * 32 + place. -/
  am : List (Nat × BitVec 512) := []
  /-- Valid tile records, by (4 * cluster + array) * 64 + RID. -/
  tiles : List (Nat × TileRec) := []
  /-- Keys of HBM bursts (R421): at 34 * burst the key under which the burst was last encrypted; at 34 * burst + 1, and for
  byte i alone at 34 * burst + 2 + i, one more than the key it was written with, where it has since been encrypted again
  under another without being written. -/
  unitKey : List (Nat × Nat) := []
  /-- Code words stored in error, by code-word name: 1 correctable, 2 uncorrectable; 3 stored raw and clean (R436). -/
  errs : List (Nat × Nat) := []
  /-- Check bits (low 32) and data of raw code words (R436), which hold while the word is marked in `errs`. -/
  rawChk : List (Nat × Nat) := []
  /-- Leaky buckets by instance code (R432), and when they last leaked. -/
  buckets : List (Nat × Nat) := []
  leakAt : Nat := 0
  /-- SRAM patrol positions by instance code (R433). -/
  scrubPos : List (Nat × Nat) := []
  deriving DecidableEq, Repr

/-- Elapsed time, the Rotunda count and its exchange (R303 to R310). -/
structure Times where
  /-- Elapsed time since power-on, in units of 62.5 ps. -/
  now : Nat := 0
  /-- The master Rotunda count and its 2^-32 fraction (R303, R304). -/
  rot : Nat := 0
  rotFrac : Nat := 0
  /-- REF cycles since the last stamp, and the last stamp sent to the followers (R305). -/
  refPhase : Nat := 0
  stamp : Nat := 0
  /-- Consecutive exchanges inside and outside the lock limits, and the phase step still due (R308, R309). -/
  lockRun : Nat := 0
  unlockRun : Nat := 0
  stepDue : Int := 0
  /-- Units by which the count is still to stand still after a step back (R303, R309). -/
  debt : Nat := 0
  deriving DecidableEq, Repr

/-- Clusters, region engines, groups and their runs. -/
structure Sched where
  clusters : List (Nat × Cluster) := []
  regions : List (Nat × Region) := []
  /-- Histories of gatherer slots, newest first, by 64 * region + slot (R283). -/
  gathHist : List (Nat × List (Option Int)) := []
  /-- Gatherer slots that received a report in the flight in progress (R283), by 64 * region + slot. -/
  reported : List Nat := []
  groups : List (Nat × Group) := []
  runs : List (Nat × GroupRun) := []
  deriving DecidableEq, Repr

/-- Input queues, the log, Accession. -/
structure Inputs where
  /-- Input queues, records held for log space, next log SEQ, replay position, whether the log ring is full to the last
  byte, whether replay has reached the end. -/
  iqs : List (Nat × Iq) := []
  logHeld : List LogHeld := []
  logSeq : Nat := 0
  logRead : Nat := 0
  logFull : Bool := false
  replayEnd : Bool := false
  /-- Captures that wait until DEV_LS_FAIL.VALID is cleared (R396): group, landing, cluster, PROV, LOG. -/
  lsPend : List (Nat × Nat × Nat × Bool × Bool) := []
  accSess : List AccSess := []
  accIn : List AccMsg := []
  deriving DecidableEq, Repr

/-- Efurn ports, streams, early stores and combining points. -/
structure Fabric where
  /-- Efurn. -/
  ports : List (Nat × Port) := []
  tx : List TxStream := []
  rx : List RxStream := []
  retained : List Retained := []
  /-- Chunks that wait for room in a retention buffer (R471): destination, channel, KIND, data; chunks of this package for
  itself (R458): channel, KIND, data. -/
  stalled : List (Nat × Nat × Nat × List Byte) := []
  loop : List (Nat × Nat × List Byte) := []
  /-- Chunks held in the early stores (R502). -/
  early : List EarlyRec := []
  combIn : List (Nat × List CombIn) := []
  combs : List (Nat × List Comb) := []
  /-- The group index from which the rotation of each Cloakroom goes on (R515). -/
  cloTurn : List (Nat × Nat) := []
  /-- Items that wait on a package in endpoint mode, and the reductions of its endpoint clusters (R516). -/
  endIn : List CombIn := []
  endComb : List Comb := []
  deriving DecidableEq, Repr

/-- The Archive, transfers, retirement, repair. -/
structure Arch where
  /-- The Archive: stack whose turn it is, allocated pages, requantisations, command in progress. -/
  grantNext : Nat := 0
  alloc : List Nat := []
  requant : List Requant := []
  arcCmd : Option ArcCmd := none
  xferOut : Option XferOut := none
  xferIn : Option XferIn := none
  retire : Option Retire := none
  /-- Writes of the repair record and of the counters that wait (R438, R569, R644, R651). -/
  repairWrites : List FlashOp := []
  deriving DecidableEq, Repr

/-- The board flash, the Curator, the key slots. -/
structure Board where
  flash : Flash := {}
  cur : Curator := {}
  /-- Key slots that hold a key, with the number of the secret it comes from plus 1. -/
  keys : List (Nat × Nat) := []
  deriving DecidableEq, Repr

/-- Held events and the event ring. -/
structure Events where
  /-- Events held for 8 us, records written to the ring or held for space, and severity and data of the latest occurrence of
  each event kind, by 32 * page + bit. -/
  held : List Event := []
  waiting : List Event := []
  ring : Option EvtRing := none
  /-- A reset of the function has cancelled the ring (R693). -/
  ringCancelled : Bool := false
  /-- SEQ of the next record, and the consumer count last read (R691). -/
  evtSeq : Nat := 0
  evtConsumed : Nat := 0
  dropped : Nat := 0
  lastData : List (Nat × List Byte) := []
  deriving DecidableEq, Repr

/-- Host DMA, throttles, power, bring-up. -/
structure Plat where
  dma : List (Nat × DmaRun) := []
  throttles : List (Nat × Throttle) := []
  /-- Emergency throttles since the last BARRIER began on the package (R368). -/
  throtCount : Nat := 0
  /-- Dies, one bit each, that move to their permitted code at the next landing of their clock group (R613). -/
  clkDue : Nat := 0
  /-- Size of BAR2 as a power of two (R530). -/
  bar2Log2 : Nat := 30
  /-- Power loss: PWR_WARN_N low since; package stopped by a thermal trip (R623); powered. -/
  warnLow : Bool := false
  tripped : Bool := false
  powered : Bool := true
  /-- Bring-up: T0 in elapsed time, SRAM filled, identity ready, in Foyer or full service, limits of R612 ended. -/
  t0 : Nat := 0
  sramFilled : Bool := false
  full : Bool := false
  /-- PERST# is asserted (R606). -/
  perst : Bool := true
  deriving DecidableEq, Repr

/-- One AK9 package. -/
structure State where
  part : PartNo
  /-- Commands that wait, first in, first out. -/
  pending : List Instr
  regFile : RegFile := {}
  mems : Mems := {}
  time : Times := {}
  sched : Sched := {}
  inq : Inputs := {}
  fabric : Fabric := {}
  arch : Arch := {}
  brd : Board := {}
  evts : Events := {}
  plat : Plat := {}
  /-- Free-value and generator draws made so far (the model's own counters). -/
  draw : Nat := 0
  /-- What has left the package, oldest first. -/
  out : List Out := []
  deriving DecidableEq, Repr

/-! Every piece of state under its own name. -/

section
variable (s : State)

@[simp] abbrev State.regs : List (Nat × Word) := s.regFile.regs
@[simp] abbrev State.staged : List (Nat × Word) := s.regFile.staged
@[simp] abbrev State.snap : List (Nat × Word) := s.regFile.snap
@[simp] abbrev State.cntFrom : List (Nat × Nat) := s.regFile.cntFrom
@[simp] abbrev State.mem : List (Nat × Byte) := s.mems.mem
@[simp] abbrev State.im : List (Nat × BitVec 256) := s.mems.im
@[simp] abbrev State.cat : List (Nat × BitVec 64) := s.mems.cat
@[simp] abbrev State.am : List (Nat × BitVec 512) := s.mems.am
@[simp] abbrev State.tiles : List (Nat × TileRec) := s.mems.tiles
@[simp] abbrev State.unitKey : List (Nat × Nat) := s.mems.unitKey
@[simp] abbrev State.errs : List (Nat × Nat) := s.mems.errs
@[simp] abbrev State.rawChk : List (Nat × Nat) := s.mems.rawChk
@[simp] abbrev State.buckets : List (Nat × Nat) := s.mems.buckets
@[simp] abbrev State.leakAt : Nat := s.mems.leakAt
@[simp] abbrev State.scrubPos : List (Nat × Nat) := s.mems.scrubPos
@[simp] abbrev State.now : Nat := s.time.now
@[simp] abbrev State.rot : Nat := s.time.rot
@[simp] abbrev State.rotFrac : Nat := s.time.rotFrac
@[simp] abbrev State.refPhase : Nat := s.time.refPhase
@[simp] abbrev State.stamp : Nat := s.time.stamp
@[simp] abbrev State.lockRun : Nat := s.time.lockRun
@[simp] abbrev State.unlockRun : Nat := s.time.unlockRun
@[simp] abbrev State.stepDue : Int := s.time.stepDue
@[simp] abbrev State.debt : Nat := s.time.debt
@[simp] abbrev State.clusters : List (Nat × Cluster) := s.sched.clusters
@[simp] abbrev State.regions : List (Nat × Region) := s.sched.regions
@[simp] abbrev State.gathHist : List (Nat × List (Option Int)) := s.sched.gathHist
@[simp] abbrev State.reported : List Nat := s.sched.reported
@[simp] abbrev State.groups : List (Nat × Group) := s.sched.groups
@[simp] abbrev State.runs : List (Nat × GroupRun) := s.sched.runs
@[simp] abbrev State.iqs : List (Nat × Iq) := s.inq.iqs
@[simp] abbrev State.logHeld : List LogHeld := s.inq.logHeld
@[simp] abbrev State.logSeq : Nat := s.inq.logSeq
@[simp] abbrev State.logRead : Nat := s.inq.logRead
@[simp] abbrev State.logFull : Bool := s.inq.logFull
@[simp] abbrev State.replayEnd : Bool := s.inq.replayEnd
@[simp] abbrev State.lsPend : List (Nat × Nat × Nat × Bool × Bool) := s.inq.lsPend
@[simp] abbrev State.accSess : List AccSess := s.inq.accSess
@[simp] abbrev State.accIn : List AccMsg := s.inq.accIn
@[simp] abbrev State.ports : List (Nat × Port) := s.fabric.ports
@[simp] abbrev State.tx : List TxStream := s.fabric.tx
@[simp] abbrev State.rx : List RxStream := s.fabric.rx
@[simp] abbrev State.retained : List Retained := s.fabric.retained
@[simp] abbrev State.stalled : List (Nat × Nat × Nat × List Byte) := s.fabric.stalled
@[simp] abbrev State.loop : List (Nat × Nat × List Byte) := s.fabric.loop
@[simp] abbrev State.early : List EarlyRec := s.fabric.early
@[simp] abbrev State.combIn : List (Nat × List CombIn) := s.fabric.combIn
@[simp] abbrev State.combs : List (Nat × List Comb) := s.fabric.combs
@[simp] abbrev State.cloTurn : List (Nat × Nat) := s.fabric.cloTurn
@[simp] abbrev State.endIn : List CombIn := s.fabric.endIn
@[simp] abbrev State.endComb : List Comb := s.fabric.endComb
@[simp] abbrev State.grantNext : Nat := s.arch.grantNext
@[simp] abbrev State.alloc : List Nat := s.arch.alloc
@[simp] abbrev State.requant : List Requant := s.arch.requant
@[simp] abbrev State.arcCmd : Option ArcCmd := s.arch.arcCmd
@[simp] abbrev State.xferOut : Option XferOut := s.arch.xferOut
@[simp] abbrev State.xferIn : Option XferIn := s.arch.xferIn
@[simp] abbrev State.retire : Option Retire := s.arch.retire
@[simp] abbrev State.repairWrites : List FlashOp := s.arch.repairWrites
@[simp] abbrev State.flash : Flash := s.brd.flash
@[simp] abbrev State.cur : Curator := s.brd.cur
@[simp] abbrev State.keys : List (Nat × Nat) := s.brd.keys
@[simp] abbrev State.held : List Event := s.evts.held
@[simp] abbrev State.waiting : List Event := s.evts.waiting
@[simp] abbrev State.ring : Option EvtRing := s.evts.ring
@[simp] abbrev State.ringCancelled : Bool := s.evts.ringCancelled
@[simp] abbrev State.evtSeq : Nat := s.evts.evtSeq
@[simp] abbrev State.evtConsumed : Nat := s.evts.evtConsumed
@[simp] abbrev State.dropped : Nat := s.evts.dropped
@[simp] abbrev State.lastData : List (Nat × List Byte) := s.evts.lastData
@[simp] abbrev State.dma : List (Nat × DmaRun) := s.plat.dma
@[simp] abbrev State.throttles : List (Nat × Throttle) := s.plat.throttles
@[simp] abbrev State.throtCount : Nat := s.plat.throtCount
@[simp] abbrev State.clkDue : Nat := s.plat.clkDue
@[simp] abbrev State.bar2Log2 : Nat := s.plat.bar2Log2
@[simp] abbrev State.warnLow : Bool := s.plat.warnLow
@[simp] abbrev State.tripped : Bool := s.plat.tripped
@[simp] abbrev State.powered : Bool := s.plat.powered
@[simp] abbrev State.t0 : Nat := s.plat.t0
@[simp] abbrev State.sramFilled : Bool := s.plat.sramFilled
@[simp] abbrev State.full : Bool := s.plat.full
@[simp] abbrev State.perst : Bool := s.plat.perst

end

/-- The machine before its first bring-up: power applied, PERST# asserted, nothing written (log 2, 13). BAR2 is 1 GiB
(R530). -/
def State.reset : State := { part := .c4m12x4, pending := [] }

end Sys2Proof.Machine
end

