-- ==== Sys2Proof/Machine/Flit.lean ====
section
/-! DEFINITION. The flits of Efurn: header (R454, R455), the bodies of a chunk (R456), the keys of a port and what they give
(R473), and the choice of the flit that a port sends next (R457, R463, R464). -/
namespace Sys2Proof.Machine

/-- The 16 header bytes (R454). -/
def Flit.header (f : Flit) : List Byte :=
  leBytes 16 (f.ty + f.vc * 2 ^ 2 + f.cls * 2 ^ 4 + f.first.toNat * 2 ^ 5 + f.last.toNat * 2 ^ 6 + f.fresh.toNat * 2 ^ 7
    + f.dst * 2 ^ 8 + f.src * 2 ^ 20 + f.seq * 2 ^ 32 + f.fidx * 2 ^ 64 + f.len * 2 ^ 69 + f.kind * 2 ^ 82
    + f.cred * 2 ^ 86 + f.cvc * 2 ^ 96 + f.ccls * 2 ^ 98)

/-- Flits of a chunk of n data bytes (R456). -/
def chunkFlits (n : Nat) : Nat := ceilDiv (n + 20) 240

/-! ### Keys (R473; log 54) -/

/-- Key of a direction of port k after its `gen`-th agreement: direction 0 is outward. -/
def linkKey (k gen dir : Nat) : Nat := Config.crypto 52 [k, gen, dir]

/-- The IV: 32 bits of salt, then the counter of the direction. -/
def linkIv (k gen dir ctr : Nat) : Nat := Config.crypto 53 [k, gen, dir] % 2 ^ 32 + ctr * 2 ^ 32

/-- AES-256-GCM adds a key stream. -/
def linkCipher (key iv : Nat) (bs : List Byte) : List Byte :=
  bs.zipIdx.map (fun (b, i) => b ^^^ BitVec.ofNat 8 (Config.crypto 54 [key, iv, i]))

/-- The 16-byte tag over what is authenticated and what is encrypted. -/
def linkTag (key iv : Nat) (aad bs : List Byte) : List Byte :=
  leBytes 16 (Config.crypto 55 (key :: iv :: aad.length :: (aad ++ bs).map (·.toNat)) % 2 ^ 128)

/-! ### The flits of a chunk (R454, R456) -/

/-- Flit `i` of the chunk, its credit fields zero and its body left out. -/
def TxChunk.head (x : TxChunk) (i : Nat) : Flit :=
  { ty := 1, vc := x.vc, cls := x.cls, first := i = 0, last := i + 1 = chunkFlits x.data.length, fresh := x.fresh, dst := x.dst,
    src := x.src, seq := x.seq, fidx := i, len := x.data.length, kind := x.kind }

/-- What the bodies carry in turn: data and CRC, encrypted where encryption is active, then the tag. -/
def TxChunk.stream (x : TxChunk) (k gen ctr : Nat) (enc : Bool) : List Byte :=
  let plain := x.data ++ leBytes 4 (crc32c x.data).toNat
  if enc then
    let key := linkKey k gen 0
    let iv := linkIv k gen 0 ctr
    let c := linkCipher key iv plain
    c ++ linkTag key iv ((List.range (chunkFlits x.data.length)).flatMap (fun i => (x.head i).header)) c
  else plain ++ List.replicate 16 0

/-- Flit `i` with its body. -/
def TxChunk.flit (x : TxChunk) (i : Nat) : Flit :=
  let b := (x.wire.drop (240 * i)).take 240
  { x.head i with body := b ++ List.replicate (240 - b.length) 0 }

/-! ### Which flit a port sends next (R457, R463, R464) -/

/-- Flits of buffer for one channel and class at the partner. -/
def bufFlits (vc : Nat) : Nat := if vc = 2 then 16 else 128

/-- The port holds a credit for a chunk's channel and class. -/
def Port.credit (p : Port) (x : TxChunk) : Bool := decide (sget (fun _ => 0) p.used (2 * x.vc + x.cls) < bufFlits x.vc)

/-- The chunk whose flit can go next on a channel: the one begun, else the first that holds a credit. -/
def Port.readyOn (p : Port) (vc : Nat) : Option TxChunk :=
  match p.txq.find? (fun x => x.vc = vc && decide (0 < x.fidx)) with
  | some x => if p.credit x then some x else none
  | none => p.txq.find? (fun x => x.vc = vc && p.credit x)

/-- The channel of a turn of a round. -/
def turnVc (t : Nat) : Nat := match t % 3 with | 0 => 0 | 1 => 1 | _ => 3

/-- The chunk whose flit goes next, and the turn and what is left of it after that: VC2 first, else the turns of the rounds.
`w` gives the weight of a turn. -/
def Port.choose (p : Port) (w : Nat → Nat) : Option (TxChunk × Nat × Nat) :=
  match p.readyOn 2 with
  | some x => some (x, p.turn, p.left)
  | none =>
    let turns := (p.turn, p.left) :: [1, 2, 3].map (fun i => ((p.turn + i) % 3, w ((p.turn + i) % 3)))
    (turns.filterMap (fun (t, n) => if n = 0 then none else (p.readyOn (turnVc t)).map (fun x => (x, t, n - 1)))).head?

/-- Rotation slots of the port that have begun by elapsed time `now`, on n lanes: a flit takes 10.24 ns on its lane
(R453). -/
def Port.slotsBy (p : Port) (n now : Nat) : Nat := if now < p.restart then 0 else (now - p.restart) * 25 * n / 4096 + 1

end Sys2Proof.Machine
end

