-- ==== Sys2Proof/Machine/Regs.lean ====
section
/-! DEFINITION. Register pages: which block owns a page (R660), presence by part (R3, R6), reset values, and the one home
through which every field is read and written (R21 to R28); with what the computed fields need of clocks and descriptors.
-/
namespace Sys2Proof.Machine

/-! ### Parts (R3, R4) -/

def PartNo.code : PartNo → Nat
  | .c4m12x4 => 0 | .c4m12x2 => 1 | .c4m8x4 => 2 | .c4m8x2 => 3

def PartNo.xdies : PartNo → Nat
  | .c4m12x4 | .c4m8x4 => 4
  | .c4m12x2 | .c4m8x2 => 2

def PartNo.m12 : PartNo → Bool
  | .c4m12x4 | .c4m12x2 => true
  | _ => false

/-- Stack `s` is present (R3). -/
def PartNo.hasStack (p : PartNo) (s : Nat) : Bool := decide (s < 12) && (p.m12 || decide (s % 3 ≠ 2))

def PartNo.stacks (p : PartNo) : List Nat := (List.range 12).filter p.hasStack

/-- TDP in watts (R58). -/
def PartNo.tdp : PartNo → Nat
  | .c4m12x4 => 1500 | .c4m12x2 => 1410 | .c4m8x4 => 1390 | .c4m8x2 => 1300

/-! ### Pages (R660) -/

/-- The block and instance of a page index; none for a reserved index and for the MSI-X pages. -/
def pageBlock (pg : Nat) : Option (Block × Nat) :=
  if pg = 0 then some (.dev, 0) else if pg = 1 then some (.cur, 0) else if pg = 2 then some (.tim, 0)
  else if pg = 3 then some (.pci, 0) else if pg = 4 then some (.sec, 0) else if pg = 5 then some (.pwr, 0)
  else if pg = 6 then some (.ecc, 0) else if pg < 8 then none
  else if pg < 0xC then some (.die, pg - 8) else if pg < 0xE then some (.eth, pg - 0xC)
  else if pg < 0x10 then none
  else if pg < 0x18 then some (.lnk, pg - 0x10) else if pg < 0x1C then some (.clo, pg - 0x18)
  else if pg < 0x20 then none
  else if pg < 0x2C then some (.mem, pg - 0x20) else if pg < 0x40 then none
  else if pg < 0x60 then some (.rgn, pg - 0x40) else if pg < 0x80 then some (.con, pg - 0x60)
  else if pg < 0xA0 then some (.upd, pg - 0x80) else if pg < 0x800 then none
  else if pg < 0x1000 then
    let i := pg - 0x800
    some (match i % 4 with | 0 => .clu | 1 => .arr | 2 => .vec | _ => .doc, i / 4)
  else none

/-- R6: the instance is present in the part. -/
def PartNo.hasInst (p : PartNo) (b : Block) (i : Nat) : Bool :=
  match b with
  | .mem => p.hasStack i
  | .lnk => decide (i < 2 * p.xdies)
  | .clo => decide (i < p.xdies)
  | _ => true

def pgDev : Nat := 0
def pgCur : Nat := 1
def pgTim : Nat := 2
def pgPci : Nat := 3
def pgSec : Nat := 4
def pgPwr : Nat := 5
def pgEcc : Nat := 6
def pgDie (d : Nat) : Nat := 8 + d
def pgEth (e : Nat) : Nat := 0xC + e
def pgLnk (k : Nat) : Nat := 0x10 + k
def pgClo (d : Nat) : Nat := 0x18 + d
def pgMem (s : Nat) : Nat := 0x20 + s
def pgRgn (r : Nat) : Nat := 0x40 + r
def pgCon (r : Nat) : Nat := 0x60 + r
def pgUpd (r : Nat) : Nat := 0x80 + r
def pgClu (c : Nat) : Nat := 0x800 + 4 * c
def pgArr (c : Nat) : Nat := 0x801 + 4 * c
def pgVec (c : Nat) : Nat := 0x802 + 4 * c
def pgDoc (c : Nat) : Nat := 0x803 + 4 * c

def pageOf : Block → Nat → Nat
  | .dev, _ => pgDev | .cur, _ => pgCur | .tim, _ => pgTim | .pci, _ => pgPci | .sec, _ => pgSec | .pwr, _ => pgPwr
  | .ecc, _ => pgEcc | .die, i => pgDie i | .eth, i => pgEth i | .lnk, i => pgLnk i | .clo, i => pgClo i
  | .mem, i => pgMem i | .rgn, i => pgRgn i | .con, i => pgCon i | .upd, i => pgUpd i | .clu, i => pgClu i
  | .arr, i => pgArr i | .vec, i => pgVec i | .doc, i => pgDoc i

/-- PG_CAP.STAGED (R677). -/
def Block.staged : Block → Bool
  | .cur | .die => false
  | _ => true

/-- The assigned bits of PG_EVT (R696). -/
def evtMask (b : Block) (i : Nat) : Nat :=
  (if b.staged then 2 ^ 31 else 0) +
  match b with
  | .doc => 0x3F
  | .clu | .ecc => 0x3
  | .clo => if i = 0 then 0xF else 0xB
  | .mem => 0x7
  | .lnk => if i % 2 = 0 then 0x7FF else 0x7FC
  | .dev => 0xFFFF
  | .tim | .pci | .cur => 0x1
  | .rgn | .die => 0x3
  | .sec => 0x3F
  | .pwr => 0x7
  | _ => 0

/-! ### Fields -/

/-- The rows that give the word at offset `off`, each with its index in its array. -/
def rowsAt (b : Block) (off : Nat) : List (FieldRow × Nat) :=
  (blockRows b).filterMap (fun r =>
    if r.stride = 0 then (if r.fld.off = off then some (r, 0) else none)
    else if r.fld.off ≤ off && decide (off < r.fld.off + r.stride * r.n) && decide ((off - r.fld.off) % r.stride = 0) then
      some (r, (off - r.fld.off) / r.stride)
    else none)

def Fld.width (f : Fld) : Nat := f.hi + 1 - f.lo

/-- The field's value in a word. -/
def Fld.get (f : Fld) (w : Word) : Nat := (w.toNat >>> f.lo) % 2 ^ f.width

/-- The word with the field set. -/
def Fld.put (f : Fld) (w : Word) (v : Nat) : Word :=
  BitVec.ofNat 32 (w.toNat - f.get w * 2 ^ f.lo + (v % 2 ^ f.width) * 2 ^ f.lo)

/-- Reset value of a field where it depends on the part or the instance. -/
def rowReset (p : PartNo) (b : Block) (i : Nat) (r : FieldRow) : Nat :=
  if b = .pwr && r.fld = Reg.PWR_CAP_LIMIT then p.tdp
  else if b = .lnk && r.fld = Reg.LNK_CFG_ROLE && decide (6 ≤ i) then 2
  else if b = .vec && r.fld = Reg.VEC_SFU_CTL_TBL_VER then 2
  else if b = .lnk && r.fld = Reg.LNK_CFG_WIDTH then 4
  else r.rst

/-- The value of a register word at reset (R665, R668 and the maps of R676). -/
def resetWord (p : PartNo) (idx : Nat) : Word :=
  let pg := idx / 1024
  let off := idx % 1024 * 4
  if 0x100 ≤ pg && decide (pg < 0x108) then (if idx % 4 = 3 then 1 else 0)
  else
    match pageBlock pg with
    | none => 0
    | some (b, i) =>
      if off = 0x010 then 1
      else if off = 0x01C then BitVec.ofNat 32 (evtMask b i)
      else if off = 0xEF8 then 0x100
      else (rowsAt b off).foldl (fun w (r, _) => { r.fld with off := off }.put w (rowReset p b i r)) 0

/-- The doubleword index of a field. -/
def regIdx (pg : Nat) (f : Fld) : Nat := pg * 1024 + f.off / 4

/-- The word in force. -/
def State.word (s : State) (idx : Nat) : Word := sget (resetWord s.part) s.regs idx

def State.setWord (s : State) (idx : Nat) (w : Word) : State :=
  { s with regFile.regs := sset (resetWord s.part) s.regs idx w }

/-- The field in force. -/
def State.getF (s : State) (pg : Nat) (f : Fld) : Nat := f.get (s.word (regIdx pg f))

/-- Hardware sets a live field. -/
def State.setF (s : State) (pg : Nat) (f : Fld) (v : Nat) : State :=
  s.setWord (regIdx pg f) (f.put (s.word (regIdx pg f)) v)

/-- The field is 1. -/
def State.flag (s : State) (pg : Nat) (f : Fld) : Bool := s.getF pg f ≠ 0

/-- Hardware sets bits of a W1C field. -/
def State.orF (s : State) (pg : Nat) (f : Fld) (v : Nat) : State := s.setF pg f (s.getF pg f ||| v)

def State.stagedWord (s : State) (idx : Nat) : Word := sget (resetWord s.part) s.staged idx

def State.setStaged (s : State) (idx : Nat) (w : Word) : State :=
  { s with regFile.staged := sset (resetWord s.part) s.staged idx w }

/-- R28: hardware changes a staged field in the staged copy, in a pending snapshot and in force alike. -/
def State.setAll (s : State) (pg : Nat) (f : Fld) (v : Nat) : State :=
  let i := regIdx pg f
  let d := resetWord s.part
  { s with regFile.regs := supd d s.regs i (fun w => f.put w v), regFile.staged := supd d s.staged i (fun w => f.put w v),
           regFile.snap := supd d s.snap i (fun w => f.put w v) }

/-- The field of the pending snapshot, which a commit judges. -/
def State.snapF (s : State) (pg : Nat) (f : Fld) : Nat := f.get (sget (resetWord s.part) s.snap (regIdx pg f))

/-- A cluster's counters count while CLU_CFG.CNTEN is 1 (R680). -/
def State.counting (s : State) (pg : Nat) : Bool :=
  if 0x800 ≤ pg && decide (pg < 0x1000) then s.flag (pgClu ((pg - 0x800) / 4)) Reg.CLU_CFG_CNTEN else true

/-- R25: a counter of the counter range saturates at all ones. -/
def State.count (s : State) (pg : Nat) (f : Fld) (n : Nat) : State :=
  if s.counting pg then s.setF pg f (min (2 ^ f.width - 1) (s.getF pg f + n)) else s

/-- Region of a cluster (R33). -/
def regionOf (c : Nat) : Nat := c / 16

/-- Compute die of a cluster (R44). -/
def dieOf (c : Nat) : Nat := c / 128

/-- DEV_RGN_AVAIL of a region (R39). -/
def State.avail (s : State) (r : Nat) : Bool := (s.getF pgDev Reg.DEV_RGN_AVAIL_MASK).testBit r

/-- The physical slot that serves a cluster (R35). -/
def State.slotOf (s : State) (c : Nat) : Nat :=
  let pg := pgRgn (regionOf c)
  if s.flag pg Reg.RGN_SPARE_USED && s.getF pg Reg.RGN_SPARE_LOCAL = c % 16 then 16 else c % 16

/-- DOC_STAT.STATE codes (R357). -/
def docIdle : Nat := 0
def docBarrier : Nat := 1
def docFlight : Nat := 2
def docWindow : Nat := 3
def docStopped : Nat := 4
def docTrapped : Nat := 5
def docSaved : Nat := 6
def docDone : Nat := 7

def State.doc (s : State) (c : Nat) : Nat := s.getF (pgDoc c) Reg.DOC_STAT_STATE

def State.setDoc (s : State) (c v : Nat) : State := s.setF (pgDoc c) Reg.DOC_STAT_STATE v

/-- The cluster runs: BARRIER, FLIGHT or WINDOW (R632). -/
def State.running (s : State) (c : Nat) : Bool := decide (1 ≤ s.doc c) && decide (s.doc c ≤ 3)

def State.grpOf (s : State) (c : Nat) : Nat := s.getF (pgDoc c) Reg.DOC_STAT_GRP

/-- The clusters of a region that run. -/
def State.regionRunning (s : State) (r : Nat) : Bool := (List.range 16).any (fun i => s.running (16 * r + i))

/-- Every cluster that differs from its reset state or whose DOC page does: the only ones that can run. -/
def State.active (s : State) : List Nat := (List.range 512).filter s.running

/-- The pool pages of a stack can be granted: filled (R435), not retired, not being retired (R648). -/
def State.inPoolService (s : State) (x : Nat) : Bool :=
  s.flag (pgMem x) Reg.MEM_STAT_FILLED && !s.flag (pgMem x) Reg.MEM_STAT_RETIRED
    && (match s.retire with | some r => decide (r.stack ≠ x) | none => true)

/-- Free pool pages of stack x, as MEM_FREE and DEV_ARC_FREE count them (R439, R441; log 91). -/
def State.poolFree (s : State) (x : Nat) : Nat :=
  if s.inPoolService x then
    0x120000 - s.getF (pgMem x) Reg.MEM_POOL_FIRST
      - (s.alloc.filter (fun p => decide (x * 0x120000 ≤ p) && decide (p < (x + 1) * 0x120000))).length
  else 0

/-- The block is running under R632. -/
def State.blockRunning (s : State) (b : Block) (i : Nat) : Bool :=
  match b with
  | .clu | .arr | .vec | .doc => s.running i
  | .rgn | .upd | .con => s.regionRunning i
  | _ => false

/-- The sticky flags of array a, of the vector engine and of the SFU, whole (R155, R683). -/
def arrFlagsF (a : Nat) : Fld := { off := 0x800 + 4 * a, hi := 6, lo := 0 }
def vecFlagsF : Fld := { off := 0x800, hi := 4, lo := 0 }
def sfuFlagsF : Fld := { off := 0x804, hi := 3, lo := 0 }

/-! ### Reading a register (R21, R28, R630, R663 to R668, R677) -/

def Block.typeCode : Block → Nat
  | .dev => 1 | .cur => 2 | .tim => 3 | .pci => 4 | .sec => 5 | .pwr => 6 | .ecc => 7 | .die => 8 | .rgn => 9
  | .con => 10 | .upd => 11 | .mem => 12 | .lnk => 13 | .clo => 14 | .eth => 15 | .clu => 16 | .arr => 17
  | .vec => 18 | .doc => 19

/-- The page uses the error capture range (R676, R677). -/
def Block.ecap (b : Block) (i : Nat) : Bool :=
  match b with
  | .ecc | .clo | .mem | .clu | .arr | .vec => true
  | .lnk => i % 2 = 0
  | _ => false

/-- PG_CAP (R665, R677). -/
def State.pgCap (s : State) (b : Block) (i : Nat) : Nat :=
  b.staged.toNat + 2 + 4 * (b.ecap i).toNat + 8 * (match b with | .rgn | .clu => 1 | _ => 0)
    + 16 * (match b with | .clu => 1 | _ => 0)
    + match b with
      | .dev => (if s.part.m12 then 12 else 8) * 2 ^ 16 + s.part.xdies * 2 ^ 20
      | .lnk => 16 * 2 ^ 16
      | .clo => 1408 * 2 ^ 16
      | .mem => 2 ^ 16
      | .rgn => 17 * 2 ^ 16
      | .upd => 16 * 2 ^ 16
      | .arr => 4 * 2 ^ 16 + 64 * 2 ^ 19
      | .vec => s.getF (pgVec i) Reg.VEC_SFU_CTL_TBL_VER * 2 ^ 16
      | .doc => 8192 * 2 ^ 16
      | _ => 0

/-- A capture is held in 0x030 to 0x03F. -/
def State.captured (s : State) (b : Block) (i : Nat) : Bool :=
  match b with
  | .arr => s.flag (pgArr i) Reg.ARR_QCAP_VALID
  | .vec => s.flag (pgVec i) Reg.VEC_QCAP_VALID
  | _ => b.ecap i && s.flag (pageOf b i) Reg.ECAP_ADDR_HI_VALID

/-! ### Descriptor fields (R317) -/

/-- Bits [msb:lsb] of a descriptor's first slot, and of its extension (0 where EXT is 0). -/
def Desc.f (d : Desc) (hi lo : Nat) : Nat := bits d.w.toNat hi lo
def Desc.x (d : Desc) (hi lo : Nat) : Nat := if d.w.getLsbD 14 then bits d.ext.toNat hi lo else 0

def Desc.opc (d : Desc) : Nat := d.f 7 0
def Desc.cls (d : Desc) : Nat := d.f 11 8
def Desc.vary (d : Desc) : Bool := d.w.getLsbD 12
def Desc.asready (d : Desc) : Bool := d.w.getLsbD 13
def Desc.hasExt (d : Desc) : Bool := d.w.getLsbD 14
def Desc.sat (d : Desc) : Bool := d.w.getLsbD 15
def Desc.tOff (d : Desc) : Nat := d.f 39 16
def Desc.grp (d : Desc) : Nat := d.f 47 40
def Desc.seed (d : Desc) : Nat := d.f 53 48
def Desc.rnd (d : Desc) : Nat := d.f 55 54
def Desc.gsrc (d : Desc) : Nat := d.f 57 56
def Desc.gslot (d : Desc) : Nat := d.f 63 58

/-- An output of the launch rounds under RND, so that RND is read (R90, R317). Outputs in QFULL do not (R145, R148), nor
those of a matrix launch without an epilogue; TWOSUM, TWOPROD and the exponentials of SMPART round with RNE (R214, R255);
CATLOAD and CATSAVE copy entries. -/
def Desc.rounds (d : Desc) : Bool :=
  match d.cls with
  | 0 => d.f 150 150 = 1 && decide (d.f 139 136 ≠ 11)
  | 1 => decide (d.opc < 13)
  | 2 | 7 => true
  | 3 => !(d.opc = 2 || d.opc = 3)
  | 4 => !(d.opc = 7 || d.opc = 10)
  | _ => false

/-! ### Clocks and the head of the Docent queue, as registers show them -/

def State.throttle (s : State) (d : Nat) : Throttle := sget (fun _ => ({} : Throttle)) s.throttles d

/-- Clock code in force on die Gd (R349). -/
def State.clkCode (s : State) (d : Nat) : Nat := bits (s.getF pgPwr Reg.PWR_CLK_CODE) (4 * d + 3) (4 * d)

/-- Frequency of code `k` in units of 31.25 MHz. -/
def freqOf (k : Nat) : Nat := 2 * (8 + k)

/-- G clock of die d in units of 31.25 MHz, halved under a throttle (R620). -/
def State.freq (s : State) (d : Nat) : Nat :=
  let t := s.throttle d
  if t.active then min (freqOf (s.clkCode d)) (freqOf t.onset / 2) else freqOf (s.clkCode d)

/-- `n` cycles(G) at a frequency, in Rotunda units, rounded up (R336). -/
def cyclesAt (f n : Nat) : Nat := ceilDiv (n * 512) f

/-- The activity level of array a (R202). -/
def arrLevel (a : Nat) : Fld := { off := 0x810, hi := 11 + 4 * a, lo := 8 + 4 * a }

/-- The start of the flight to which the head of the queue belongs: the flight in progress, or, once a FLIGHT has issued,
the one that it opens (R336, R337). -/
def State.queueStart (s : State) (c : Nat) : Option Nat :=
  let k := sget (fun _ => ({} : Cluster)) s.clusters c
  match k.next with
  | none => if s.doc c = docFlight then some k.fS else none
  | some (_, _, g) =>
    match k.barrier with
    | some (t, _, _, _) => some t
    | none =>
      let r := sget (fun _ => ({} : GroupRun)) s.runs g
      if s.doc c = docWindow then some r.s
      else if r.lam = 0 then none
      else some (r.lam + cyclesAt (freqOf r.code) 32)

/-- The next scheduled launch of array a that the queue holds: cycles(G) until its instant, and since its fetch (R200). -/
def State.nextLaunch (s : State) (c a : Nat) : Option (Nat × Nat) :=
  let k := sget (fun _ => ({} : Cluster)) s.clusters c
  let f := s.freq (dieOf c)
  if !s.running c then none
  else
    match s.queueStart c with
    | none => none
    | some t =>
      let mine := k.queue.takeWhile (fun d => !(d.cls = 6 && (d.opc = 1 || d.opc = 2 || d.opc = 7)))
      (mine.find? (fun d => d.cls = 0 && !d.asready && (d.f 143 140).testBit a)).map (fun d =>
        (ceilDiv ((t + cyclesAt f d.tOff - s.rot) * f) 512, (s.now - d.seen) * f / 512))

/-- Whole cycles(G) of cluster c between two instants, and the cycles(G) that the interval touches. -/
def State.cyclesIn (s : State) (c u : Nat) : Nat := u * s.freq (dieOf c) / 512

def State.cyclesOver (s : State) (c u : Nat) : Nat := ceilDiv (u * s.freq (dieOf c)) 512

/-- The interval in which array a stalls now, where it does (R185). -/
def State.stallNow (s : State) (c a : Nat) : Option (Nat × Nat) :=
  ((sget (fun _ => ({} : Cluster)) s.clusters c).launches.flatMap (fun l => l.stalls.filterMap (fun (x : Nat × Nat × Nat) =>
    if x.1 = a && decide (x.2.1 ≤ s.now) && decide (s.now < x.2.2) then some x.2 else none))).head?

/-- The level in cycle `k` after the last step, `r` cycles before the next (R197, R200). -/
def levelIn (k r : Nat) : Nat := max (8 - (if k < 32 then 0 else (k - 32) / 4 + 1)) (8 - r / 4)

/-- The level that ARR_STAT shows (R197, R199, R200; log 83): the rise to level 8 at the start of a launch that has issued;
the fall and the new rise of a long stall; the rise ahead of the next scheduled launch, one every 4 cycles(G), to level 8 at
its instant. -/
def State.shownLevel (s : State) (c a : Nat) : Nat :=
  let lv := s.getF (pgArr c) (arrLevel a)
  let (top, from_) := (sget (fun _ => ({} : Cluster)) s.clusters c).rise.getD a (0, 8)
  if s.now < top then max from_ (8 - s.cyclesOver c (top - s.now) / 4)
  else match s.stallNow c a with
    | some (t0, t1) => levelIn (s.cyclesIn c (s.now - t0) + 1) (s.cyclesOver c (t1 - s.now))
    | none =>
      match s.nextLaunch c a with
      | some (n, k) => max lv (min (8 - n / 4) (lv + k / 4))
      | none => lv

/-- Cycles(G) of ballast that ARR_CNT_BALLAST of array a has not yet counted (R203): of the hold and the fall, or of the
rise ahead of the next scheduled launch. -/
def State.ballPending (s : State) (c a : Nat) : Nat :=
  let since := s.cyclesIn c (s.now - (sget (fun _ => ({} : Cluster)) s.clusters c).ballAt.getD a 0)
  if s.getF (pgArr c) (arrLevel a) ≠ 0 then since
  else if s.shownLevel c a = 0 then 0
  else match s.nextLaunch c a with
    | some (n, _) => min since (31 - n)
    | none => 0

/-- Arrays of cluster c that stall, one bit each (R202). -/
def State.arrStall (s : State) (c : Nat) : Nat :=
  ((List.range 4).map (fun a => (s.stallNow c a).isSome.toNat * 2 ^ a)).foldl (· + ·) 0

/-- A counter that traffic or a device outside the model feeds (log 60): what each REF cycle since its page was last cleared
adds is free; it saturates (R25). -/
def State.freeCount (s : State) (pg type i off : Nat) : Nat :=
  let t := max s.t0 (sget (fun _ => 0) s.cntFrom pg)
  min (2 ^ 32 - 1) ((List.range ((s.now - t) / 160)).foldl (fun n j => n + Config.unheld type i off (t + 160 * j)) 0)

/-- Arrays of cluster c that have a launch in progress, one bit each (R202). -/
def State.arrBusy (s : State) (c : Nat) : Nat :=
  let k := sget (fun _ => ({} : Cluster)) s.clusters c
  ((List.range 4).map (fun a => (k.launches.any (fun l => l.cls = 0 && l.amask.testBit a)).toNat * 2 ^ a)).foldl (· + ·) 0

/-- PG_STAT (R665, R677). -/
def State.pgStat (s : State) (b : Block) (i : Nat) : Nat :=
  let pg := pageOf b i
  let present := match b with | .clu | .arr | .vec | .doc => s.avail (regionOf i) | _ => true
  present.toNat + 2 * (s.blockRunning b i).toNat
    + 4 * ((s.getF pg Reg.PG_EVT &&& s.getF pg Reg.PG_EVT_EN) ≠ 0 : Bool).toNat
    + 8 * (s.captured b i).toNat
    + 2 ^ 8 * match b with
      | .sec => s.getF pg Reg.SEC_STAT_SEALED + 2 * s.getF pg Reg.SEC_STAT_SEAL
      | .pwr => s.getF pg Reg.PWR_STAT_PHASE
      | .lnk => s.getF pg Reg.LNK_STAT_STATE
      | .mem => s.getF pg Reg.MEM_STAT_FILLED + 2 * s.getF pg Reg.MEM_STAT_RETIRED
      | .rgn => (s.getF pg Reg.RGN_REPAIR_STAT_STATE ≠ 0 : Bool).toNat + 2 * s.getF pg Reg.PG_EPOCH_RVALID
      | .clu | .doc => s.doc i
      | .arr => s.arrBusy i
      | _ => 0

/-- The word holds a staged field. -/
def wordStaged (b : Block) (off : Nat) : Bool := (rowsAt b off).any (fun r => r.1.staged)

/-- The code that the power capper permits on die Gd (R617 to R619, R622): the ceiling with FIXCLK = 1 or CAPEN = 0;
else the capper's estimate decides, a free value not above the ceiling (log 9). Code 0 before full service (R611). -/
def State.permit (s : State) (d : Nat) : Nat :=
  let top := match s.getF pgPwr Reg.PWR_CFG_PSTATE with | 0 => 8 | 1 => 4 | _ => 0
  if !s.full then 0
  else if s.flag pgPwr Reg.PWR_CFG_FIXCLK || !s.flag pgPwr Reg.PWR_CFG_CAPEN then top
  else min top (Config.capCode (s.getF pgPwr Reg.PWR_MEAS_W) (s.getF pgPwr Reg.PWR_CAP_LIMIT) top
    (d + 4 * (s.getF pgPwr Reg.PWR_TEMP_G_T + 2 ^ 32 * ((List.range 3).map (fun i =>
      s.getF pgPwr (Reg.PWR_TEMP_M_T i) * 2 ^ (32 * i))).foldl (· + ·) 0)))

/-- The bits of a word that read as zero because their field is WO. -/
def woClear (b : Block) (off : Nat) (w : Word) : Word :=
  (rowsAt b off).foldl (fun w r => if r.1.acc = .wo then { r.1.fld with off := off }.put w 0 else w) w

/-- Bits of registers that copy other state, computed at the read (R358, R440, R487, R522, R680, R685, R688). -/
def State.computed (s : State) (b : Block) (i off : Nat) (w : Word) : Word :=
  let unheld (now : Nat) : Nat := Config.unheld b.typeCode i off now
  match b with
  | .dev =>
    if off = 0x800 then Reg.DEV_IDENT_PARTNO.put w s.part.code
    else if off = 0x804 then
      Reg.DEV_PRESENT_STACKS.put (Reg.DEV_PRESENT_XDIES.put w (2 ^ s.part.xdies - 1))
        ((s.part.stacks.map (fun x => 2 ^ x)).foldl (· + ·) 0)
    else if off = 0x860 then
      Reg.DEV_ARC_STAT_TRANSIT.put w s.requant.length
    else if off = 0x864 then
      BitVec.ofNat 32 ((s.part.stacks.map s.poolFree).foldl (· + ·) 0)
    else if off = 0x888 || off = 0x88C then
      match s.groups.find? (fun p => p.1 = s.getF pgDev Reg.DEV_GRP_SEL_GRP) with
      | none => 0
      | some (_, g) =>
        let me := g.members.findIdx? (fun m => m.pkg = s.getF pgDev Reg.DEV_PKG_ID_ID)
        let cnt (m : Member) : Nat := ((List.range 512).filter (fun k => m.mask.getLsbD k)).length
        let n0 := (g.members.head?.map cnt).getD 0
        if off = 0x888 then
          let w := Reg.DEV_GRP_INFO_LOADED.put w 1
          let w := Reg.DEV_GRP_INFO_ENDPOINT.put w (me.isSome && g.clo.isNone).toNat
          let w := Reg.DEV_GRP_INFO_UNIFORM.put w (g.members.all (fun m => cnt m = n0)).toNat
          let w := Reg.DEV_GRP_INFO_NMEM1.put w (g.members.length - 1)
          let w := Reg.DEV_GRP_INFO_MIDX.put w (me.getD 0)
          let w := Reg.DEV_GRP_INFO_W.put w g.wmin
          let w := Reg.DEV_GRP_INFO_CLO.put w (g.clo.getD 0)
          Reg.DEV_GRP_INFO_MEMBER.put w me.isSome.toNat
        else
          let w := Reg.DEV_GRP_INFO2_SLOTS.put w (if g.clo.isSome then g.rslots else 0)
          Reg.DEV_GRP_INFO2_RBASE.put w (((g.members.take (me.getD 0)).map cnt).foldl (· + ·) 0)
    else w
  | .pwr =>
    if off = 0x80C then BitVec.ofNat 32 (((List.range 4).map (fun d => s.permit d * 16 ^ d)).foldl (· + ·) 0) else w
  | .tim =>
    if off = 0x800 then BitVec.ofNat 32 s.rot
    else if off = 0x808 then
      let w := if s.flag pgTim Reg.TIM_CFG_ROLE then Reg.TIM_STAT_LOCK.put w 1 else w
      Reg.TIM_STAT_PARENT_UP.put w (s.getF (pgLnk (s.getF pgTim Reg.TIM_CFG_PARENT)) Reg.LNK_STAT_STATE = 5 : Bool).toNat
    else w
  | .ecc => if off = 0x80C then BitVec.ofNat 32 (sget (fun _ => 0) s.buckets (s.getF pgEcc Reg.ECC_LB_SEL_INST)) else w
  | .lnk =>
    let p := sget (fun _ => ({} : Port)) s.ports i
    let lane := s.getF (pgLnk i) Reg.LNK_LANE_SEL_LANE
    if off = 0x814 then BitVec.ofNat 32 (sget (fun _ => 0) p.corr lane)
    else if off = 0x818 then BitVec.ofNat 32 (sget (fun _ => 0) p.uc lane)
    else if off = 0x81C then
      if i % 2 = 0 then BitVec.ofNat 32 (s.retained.filter (fun r => r.port / 2 = i / 2)).length else 0
    else w
  | .clo =>
    if off = 0x800 then
      let gs := s.groups.filter (fun (p : Nat × Group) => p.2.clo = some i)
      let held := (gs.map (fun (p : Nat × Group) => p.2.rslots)).foldl (· + ·) 0
      let n := ((s.early.filter (fun e => e.die = i)).map (fun e => e.data.length)).foldl (· + ·) 0
      BitVec.ofNat 32 (1408 - held + gs.length * 2 ^ 11 + min 256 (ceilDiv n 32768) * 2 ^ 20)
    else w
  | .clu =>
    if off = 0x800 then
      BitVec.ofNat 32 (i % 16 + (i / 16) * 16 + (i / 128) * 2 ^ 9 + s.slotOf i * 2 ^ 11)
    else if off = 0x804 then
      BitVec.ofNat 32 (((sget (fun _ => ({} : Cluster)) s.clusters i).launches.map (fun l => l.deps.length)).foldl (· + ·) 0 +
        ((sget (fun _ => ({} : Cluster)) s.clusters i).colls.map (fun l => l.deps.length)).foldl (· + ·) 0)
    else w
  | .rgn =>
    if off = 0x800 then
      BitVec.ofNat 32 (i / 8 + (i % 8) * 4 + ((s.getF pgPwr Reg.PWR_RGN_REL_MASK).testBit i).toNat * 32)
    else w
  | .upd =>
    if off = 0x804 then
      let k := sget (fun _ => ({} : Region)) s.regions i
      Reg.UPD_STAT_WAIT.put (Reg.UPD_STAT_BUSY.put w k.restorerRun.isSome.toNat) (min 31 k.restorer.length)
    else w
  | .con =>
    if off = 0x804 then
      let k := sget (fun _ => ({} : Region)) s.regions i
      Reg.CON_STAT_WAIT.put (Reg.CON_STAT_BUSY.put w k.conservatorRun.isSome.toNat) (min 31 k.conservator.length)
    else w
  | .die =>
    if off = 0x800 then
      BitVec.ofNat 32 (bits (s.getF pgDev Reg.DEV_RGN_AVAIL_MASK) (8 * i + 7) (8 * i) + (if s.part.m12 then 3 else 2) * 256)
    else if s.perst then w
    else if off = 0x804 then BitVec.ofNat 32 (700 + unheld (if s.full then s.clkCode i + 1 else 0) % 151)
    else w
  | .mem =>
    if off = 0x804 then
      BitVec.ofNat 32 (s.poolFree i)
    else if (off = 0xF08 || off = 0xF0C || off = 0xF10) && s.flag (pgMem i) Reg.MEM_STAT_FILLED then
      BitVec.ofNat 32 (s.freeCount (pgMem i) b.typeCode i off)
    else w
  | .pci =>
    if 0x840 ≤ off && decide (off < 0x880) then
      BitVec.ofNat 32 (sget (fun _ => ({} : Iq)) s.iqs ((off - 0x840) / 4)).recs.length
    else if off = 0x800 then Reg.PCI_STAT_BAR2_OPEN.put w (!s.flag pgSec Reg.SEC_STAT_SEALED).toNat
    else w
  | .arr =>
    if off = 0x810 then
      let w := Reg.ARR_STAT_BUSY.put w (s.arrBusy i)
      let w := (List.range 4).foldl (fun w a => (arrLevel a).put w (s.shownLevel i a)) w
      let w := Reg.ARR_STAT_STALL.put w (s.arrStall i)
      let b := (4 * i + 2 * Reg.ARR_STAT_SEL.get w) * 64
      let n := (s.tiles.filter (fun p => decide (b ≤ p.1) && decide (p.1 < b + 64))).length
      Reg.ARR_STAT_RECFULL.put (Reg.ARR_STAT_RECS.put w (min 63 n)) (n / 64)
    else if 0xF20 ≤ off && decide (off < 0xF30) && s.counting (pgArr i) then
      BitVec.ofNat 32 (min (2 ^ 32 - 1) (w.toNat + s.ballPending i ((off - 0xF20) / 4)))
    else w
  | .vec =>
    if off = 0x80C then
      let k := sget (fun _ => ({} : Cluster)) s.clusters i
      let cls := (([1, 2, 4].filter (fun x => k.launches.any (fun l => l.cls = x))) ++ (if k.colls.isEmpty then [] else [5])).head?
      Reg.VEC_STAT_CLASS.put (Reg.VEC_STAT_BUSY.put w cls.isSome.toNat) (cls.getD 0)
    else w
  | .doc =>
    if off = 0x804 then
      let k := sget (fun _ => ({} : Cluster)) s.clusters i
      let w := Reg.DOC_STAT_LATE.put w (decide (Reg.DOC_STAT_STATE.get w = 2) && decide (k.fLam < s.rot)).toNat
      Reg.DOC_STAT_QDEPTH.put (Reg.DOC_STAT_PC.put w ((k.queue.head?.map (fun (d : Desc) => d.slot)).getD k.fetchPc))
        k.queue.length
    else w
  | .sec =>
    if off = 0x804 then
      BitVec.ofNat 32 (if s.now < s.cur.windowEnd then ceilDiv (s.cur.windowEnd - s.now) 16000000 else 0)
    else if off = 0x810 then BitVec.ofNat 32 s.accSess.length
    else if off = 0x814 then BitVec.ofNat 32 s.keys.length
    else w
  | _ => w

/-- In recovery only the CUR page is served (R575). -/
def State.served (s : State) (pg : Nat) : Bool := pg = pgCur || !s.flag pgSec Reg.SEC_STAT_RECOVERY

/-- What a BAR0 read of one doubleword returns, apart from the effects of the reads that have any. -/
def State.readReg (s : State) (pg off : Nat) : Word :=
  if 0x100 ≤ pg && decide (pg < 0x109) then s.word (pg * 1024 + off / 4)
  else
    match pageBlock pg with
    | none => 0
    | some (b, i) =>
      if !s.part.hasInst b i || !s.served pg then 0
      else if off = 0x000 then BitVec.ofNat 32 (b.typeCode + 256 * i)
      else
        let out := match b with | .clu | .arr | .vec | .doc => !s.avail (regionOf i) | _ => false
        if out then 0
        else if off = 0x004 then 0xB101
        else if off = 0x008 then BitVec.ofNat 32 (s.pgCap b i)
        else if off = 0x014 then BitVec.ofNat 32 (s.pgStat b i)
        else if off = 0x028 then
          match b with
          | .clu => s.word (pgRgn (regionOf i) * 1024 + 10)
          | .rgn => s.word (pg * 1024 + 10)
          | _ => 0
        else if off = 0xEFC then
          let o := s.getF pg Reg.PG_RDBK_SEL_OFF * 4
          if 0x100 ≤ o && decide (o < 0x800) then woClear b o (s.computed b i o (s.word (pg * 1024 + o / 4))) else 0
        else if wordStaged b off then woClear b off (s.stagedWord (pg * 1024 + off / 4))
        else woClear b off (s.computed b i off (s.word (pg * 1024 + off / 4)))

end Sys2Proof.Machine
end

