-- ==== Sys2Proof/Machine/Ops.lean ====
section
/-! DEFINITION. The named operations that commands share: time and clocks, events and MSI-X vectors, memory with its
keys and error marks, clusters, groups, free values. A block has no exception entry: what the manual raises as an event
(R666, R690) is `State.raise`. -/
namespace Sys2Proof.Machine

/-- What a command answers. -/
abbrev Result := Host.Outcome State Fault Refusal

/-! ### Time (R12 to R14, R303 to R305, R349, R620) -/

/-- Microseconds in Rotunda units. -/
def us (n : Nat) : Nat := 16000 * n

/-- Milliseconds in Rotunda units. -/
def ms (n : Nat) : Nat := 16000000 * n

def State.setThrottle (s : State) (d : Nat) (t : Throttle) : State :=
  { s with plat.throttles := sset (fun _ => ({} : Throttle)) s.throttles d t }

def State.setClkCode (s : State) (d code : Nat) : State :=
  let w := s.getF pgPwr Reg.PWR_CLK_CODE
  s.setF pgPwr Reg.PWR_CLK_CODE (w - s.clkCode d * 2 ^ (4 * d) + code % 16 * 2 ^ (4 * d))

/-- A change of frequency of die d rescales what its launches and its region engines still have to run (R616). -/
def State.rescale (s : State) (d f0 f1 : Nat) : State :=
  if f0 = f1 then s
  else
    let adj (t : Nat) : Nat := if t ≤ s.now then t else s.now + ceilDiv ((t - s.now) * f0) f1
    let both (t : Nat) : Nat := if t ≤ s.now then s.now - (s.now - t) * f0 / f1 else adj t
    let svc (x : Option Service) : Option Service := x.map (fun v => { v with due := adj v.due })
    { s with
      sched.clusters := s.clusters.map (fun (p : Nat × Cluster) =>
        if dieOf p.1 = d then
          (p.1, { p.2 with
            launches := p.2.launches.map (fun l => { l with
              start := adj l.start, due := adj l.due, epiAt := adj l.epiAt,
              epis := l.epis.map (fun e => { e with at_ := adj e.at_ }),
              stalls := l.stalls.map (fun (x : Nat × Nat × Nat) => (x.1, adj x.2.1, adj x.2.2)) }),
            levelAt := p.2.levelAt.map both, ballAt := p.2.ballAt.map both, sfuTaken := p.2.sfuTaken.map adj,
            rise := p.2.rise.map (fun (x : Nat × Nat) => (adj x.1, x.2)),
            fS := if p.2.fS < s.rot then s.rot - (s.rot - p.2.fS) * f0 / f1 else p.2.fS,
            lastIssue := adj p.2.lastIssue, arrFree := p.2.arrFree.map adj, veFree := adj p.2.veFree,
            sfuFree := adj p.2.sfuFree })
        else p),
      sched.regions := s.regions.map (fun (p : Nat × Region) =>
        if p.1 / 8 = d then
          (p.1, { p.2 with restorerRun := svc p.2.restorerRun, conservatorRun := svc p.2.conservatorRun,
                           repairEnd := adj p.2.repairEnd })
        else p) }

/-- The G clock of die d switches to a code, with one change of VDD_Gd where the code changes (R616; log 60). -/
def State.setClock (s : State) (d code : Nat) : State :=
  let t := s.setClkCode d code
  (t.rescale d (s.freq d) (t.freq d)).count (pgDie d) Reg.DIE_CNT_VSTEP (s.clkCode d ≠ t.clkCode d : Bool).toNat

/-- `n` cycles(G) of the die that holds cluster c. -/
def State.cyc (s : State) (c n : Nat) : Nat := cyclesAt (s.freq (dieOf c)) n

/-- A follower counter of a domain whose cycle is num/den units (R305): the last stamp plus whole nominal cycles. -/
def State.follower (s : State) (num den : Nat) : Nat :=
  let el := 160 * s.refPhase
  s.stamp + (el * den / num) * num / den

/-- The Rotunda reading of the block that owns a page (R690): the follower of its domain; the master itself in the REF
domain. -/
def State.timeOf (s : State) (pg : Nat) : Nat :=
  let g (d : Nat) : Nat := s.follower 512 (s.freq d)
  match pageBlock pg with
  | some (.clu, c) | some (.arr, c) | some (.vec, c) | some (.doc, c) => g (dieOf c)
  | some (.rgn, r) | some (.con, r) | some (.upd, r) => g (r / 8)
  | some (.die, d) => g d
  | some (.mem, _) => s.follower 10 1
  | some (.lnk, _) | some (.clo, _) | some (.eth, _) => s.follower 256 25
  | some (.pci, _) => s.follower 16 1
  | _ => s.rot

/-- What happens `u` units after the present instant, within the effect of one command: its events carry that time
(R690). -/
def State.later (s : State) (u : Nat) (f : State → State) : State :=
  let t := f { s with time.now := s.now + u, time.rot := s.rot + u, time.stamp := s.stamp + u }
  { t with time.now := s.now, time.rot := s.rot, time.stamp := s.stamp }

/-- What happened `u` units before the present instant, within the effect of one command or tick. -/
def State.earlier (s : State) (u : Nat) (f : State → State) : State :=
  let t := f { s with time.now := s.now - u, time.rot := s.rot - u, time.stamp := s.stamp - u }
  { t with time.now := s.now, time.rot := s.rot, time.stamp := s.stamp }

/-- R308: a root is always locked. -/
def State.locked (s : State) : Bool := s.flag pgTim Reg.TIM_CFG_ROLE || s.flag pgTim Reg.TIM_STAT_LOCK

/-- One REF cycle of 10 ns passes: elapsed time, the master count with its trim (R304; a root has none), and the cycles
since the last stamp (log 1). After a step back the count stands still, and its followers with it, until the time that it
was ahead has passed: it never decreases (R303; log 70). -/
def State.tick (s : State) : State :=
  let trim : Int := if s.flag pgTim Reg.TIM_CFG_ROLE then 0 else signed 32 (s.getF pgTim Reg.TIM_TRIM_TRIM)
  let frac : Int := (s.rotFrac : Int) + trim
  let inc := (160 + frac / 2 ^ 32).toNat
  let idle := min s.debt inc
  { s with time.now := s.now + 160, time.rot := (s.rot + (inc - idle)) % 2 ^ 64, time.rotFrac := (frac % 2 ^ 32).toNat,
           time.refPhase := s.refPhase + 1, time.stamp := s.stamp - idle, time.debt := s.debt - idle }

/-! ### Outputs and MSI-X (R541, R661) -/

def State.emit (s : State) (o : Out) : State := { s with out := s.out ++ [o] }

/-- Doubleword index of the vector control word of vector v, and of the pending-bit word that holds it. -/
def msixCtrl (v : Nat) : Nat := 0x100 * 1024 + 4 * v + 3
def msixPba (v : Nat) : Nat := 0x108 * 1024 + v / 32

/-- Sends an MSI-X vector, or sets its pending bit while it is masked (the PCI Express rule of R661). -/
def State.msix (s : State) (v : Nat) : State :=
  if (s.word (msixCtrl v)).getLsbD 0 then
    s.setWord (msixPba v) (s.word (msixPba v) ||| BitVec.ofNat 32 (2 ^ (v % 32)))
  else s.emit (.msix v)

/-! ### Events (R666, R690 to R697, R702) -/

/-- Die whose manager collects the events of a page (R47). -/
def managerOf (pg : Nat) : Option Nat :=
  match pageBlock pg with
  | some (.clu, c) | some (.arr, c) | some (.vec, c) | some (.doc, c) => some (dieOf c)
  | some (.rgn, r) | some (.con, r) | some (.upd, r) => some (r / 8)
  | some (.die, d) => some d
  | some (.mem, x) => some (x / 3)
  | _ => none

/-- Hands a raised event to the Curator, or to the die manager's queue of 1,024 while the Curator is replaced (R656). -/
def State.holdEvent (s : State) (e : Event) : State :=
  match managerOf e.page with
  | none => { s with evts.held := s.held ++ [e] }
  | some d =>
    if s.cur.replacing then
      if s.getF (pgDie d) Reg.DIE_EVTQ < 1024 then
        let s := s.setF (pgDie d) Reg.DIE_EVTQ (s.getF (pgDie d) Reg.DIE_EVTQ + 1)
        { s with evts.held := s.held ++ [e] }
      else s.count (pgDie d) Reg.DIE_CNT_EVTDROP 1
    else { (s.count (pgDie d) Reg.DIE_CNT_EVT 1) with evts.held := s.held ++ [e] }

/-- An occurrence of an event kind: its PG_EVT bit, and the severity and data of its latest occurrence. -/
def State.mark (s : State) (pg bit sev : Nat) (data : List Byte) : State :=
  { (s.setF pg Reg.PG_EVT (s.getF pg Reg.PG_EVT ||| 2 ^ bit)) with
    evts.lastData := sput s.lastData (pg * 32 + bit) (leBytes 1 sev ++ data) }

/-- An occurrence is raised: its bit was 0, and both enables are 1. -/
def State.raises (s : State) (pg bit : Nat) : Bool :=
  !(s.getF pg Reg.PG_EVT).testBit bit && (s.getF pg Reg.PG_EVT_EN).testBit bit && s.flag pg Reg.PG_CTL_EN

/-- R666: an occurrence sets its PG_EVT bit, and is raised where the bit was 0 and both enables are 1. `after` names the
event whose action this is. -/
def State.raiseBy (s : State) (pg bit code sev : Nat) (data : List Byte) (after : Option (Nat × Nat)) : State :=
  if s.raises pg bit then
    (s.mark pg bit sev data).holdEvent
      { code := code, sev := sev, page := pg, time := s.timeOf pg, deferred := false, late := false, data := data, after := after }
  else s.mark pg bit sev data

def State.raise (s : State) (pg bit code sev : Nat) (data : List Byte) : State := s.raiseBy pg bit code sev data none

/-- The event kind of a PG_EVT bit on a page: code and severity (R696), for events that an enable write raises. -/
def eventOf (b : Block) (bit : Nat) : Nat × Nat :=
  match b, bit with
  | _, 31 => (0x3F, 1)
  | .doc, n => (n + 1, if n < 3 then 3 else 0)
  | .clu, 0 | .ecc, 0 | .clo, 0 | .mem, 0 | .lnk, 0 => (0x08, 2)
  | .clu, _ | .ecc, _ | .clo, 1 | .mem, 1 | .lnk, 1 => (0x09, 1)
  | .dev, n => (0x10 + n, match n with | 7 => 1 | 9 | 14 => 0 | 11 | 12 | 13 | 15 => 2 | _ => 3)
  | .tim, _ => (0x20, 1)
  | .lnk, n => (0x1F + n, match n with | 2 => 0 | 3 | 4 => 3 | 9 | 10 => 2 | _ => 1)
  | .clo, 2 => (0x2A, 1)
  | .clo, _ => (0x2B, 2)
  | .mem, _ => (0x2C, 0)
  | .rgn, 0 => (0x2D, 2)
  | .rgn, _ => (0x2E, 0)
  | .pci, _ => (0x2F, 3)
  | .sec, n => (0x30 + n, match n with | 0 | 5 => 2 | 2 | 4 => 1 | _ => 0)
  | .pwr, 2 => (0x38, 3)
  | .pwr, n => (0x36 + n, 0)
  | .die, 0 => (0x39, 1)
  | .die, _ => (0x3A, 0)
  | .cur, _ => (0x3B, 0)
  | _, _ => (0, 0)

/-- R695: the MSI-X vector of an event. -/
def vectorOf (e : Event) : Nat :=
  match pageBlock e.page with
  | some (.doc, c) => 1024 + 2 * c
  | some (.clu, c) => 1025 + 2 * c
  | _ => 64 + e.code

/-- R690: the 64-byte record of an event. -/
def eventRecord (e : Event) (seq dropped log2n : Nat) : List Byte :=
  leBytes 2 e.code ++ leBytes 1 e.sev
    ++ leBytes 1 ((seq / 2 ^ log2n) % 2 + 2 * e.late.toNat + 4 * e.deferred.toNat)
    ++ leBytes 4 seq ++ leBytes 2 e.page ++ leBytes 2 (min dropped 0xFFFF) ++ leBytes 4 0 ++ leBytes 8 e.time
    ++ ((e.data ++ List.replicate 40 0).take 40)

/-- Records that the ring can still take. -/
def State.ringSpace (s : State) : Nat :=
  match s.ring with
  | none => 0
  | some r => 2 ^ r.log2n - (s.evtSeq + 2 ^ 32 - s.evtConsumed) % 2 ^ 32

/-- Writes one record to the ring and then sends its vector (R691, R692). -/
def State.writeEvent (s : State) (e : Event) : State :=
  match s.ring with
  | none => s
  | some r =>
    let s := s.emit (.hostWrite (r.base + 64 * (s.evtSeq % 2 ^ r.log2n)) (eventRecord e s.evtSeq s.dropped r.log2n))
    { s with evts.evtSeq := (s.evtSeq + 1) % 2 ^ 32, evts.dropped := 0 }.msix (vectorOf e)

/-- R692: a record is written where the ring has room and none waits before it; else it is held, up to 4,096. -/
def State.record (s : State) (e : Event) : State :=
  if s.waiting.isEmpty && decide (0 < s.ringSpace) then s.writeEvent e
  else if s.waiting.length < 4096 then
    { s with evts.waiting := s.waiting ++ [{ e with late := e.late || s.ringCancelled }] }
  else { s with evts.dropped := min 0xFFFF (s.dropped + 1) }

/-! ### Free values and the entropy source -/

/-- The next free value of this run (log 3). -/
def State.drawFree (s : State) : Nat × State := (Config.free s.draw, { s with draw := s.draw + 1 })

/-- A draw of the hardware entropy source (R565; log 8). -/
def State.drawEntropy (s : State) : Nat × State :=
  (Config.entropy s.cur.draws, { s with brd.cur := { s.cur with draws := s.cur.draws + 1 } })

/-! ### Device addresses (R400 to R405) -/

/-- What a device address names. -/
inductive AddrKind where
  | hbm (stack off : Nat)
  | ws (c off : Nat)
  | ab (c off : Nat)
  | archive
  | hole
  deriving DecidableEq, Repr

def stackSize : Nat := 0x1200000000
def cluBase : Nat := 0x400000000000

/-- R400: the device address map; the range of an absent stack is a hole. -/
def addrKind (p : PartNo) (a : Nat) : AddrKind :=
  if a < 12 * stackSize then
    if p.hasStack (a / stackSize) then .hbm (a / stackSize) (a % stackSize) else .hole
  else if cluBase ≤ a && decide (a < cluBase + 512 * 0x800000) then
    let o := (a - cluBase) % 0x800000
    let c := (a - cluBase) / 0x800000
    if o < 0x400000 then .ws c o else if o < 0x500000 then .ab c (o - 0x400000) else .hole
  else if 0xC00000000000 ≤ a && decide (a < 2 ^ 48) then .archive
  else .hole

/-- Device address of a local address of cluster c (R318, R400). -/
def localAddr (c a : Nat) : Nat := cluBase + c * 0x800000 + 8 * a

/-- The stack is retired or absent (R647, R651). -/
def State.stackGone (s : State) (x : Nat) : Bool := !s.part.hasStack x || s.flag (pgMem x) Reg.MEM_STAT_RETIRED

/-- Every HBM stack that a range of `n` bytes touches has been filled: no access to it is served before (R435). -/
def State.filled (s : State) (a n : Nat) : Bool :=
  decide (12 * stackSize ≤ a) || n = 0
    || (List.range ((a + n - 1) / stackSize + 1 - a / stackSize)).all (fun i => s.flag (pgMem (a / stackSize + i)) Reg.MEM_STAT_FILLED)

/-- The page of an HBM address belongs to the Archive pool (R405). -/
def State.inPool (s : State) (a : Nat) : Bool :=
  decide (s.getF (pgMem (a / stackSize)) Reg.MEM_POOL_FIRST ≤ (a % stackSize) / 65536)

/-- A range of `n` bytes lies in plain memory of present stacks: no pool page, no hole, one stack at least (R405). -/
def State.plain (s : State) (a n : Nat) : Bool :=
  let pages := (List.range ((a % 65536 + n + 65535) / 65536)).map (fun i => a / 65536 * 65536 + 65536 * i)
  pages.all (fun p => match addrKind s.part p with | .hbm x _ => !s.stackGone x && !s.inPool p | _ => false)

/-- A range lies in the memories of clusters (R400), in one cluster's weight store or activation buffer. -/
def cluRange (p : PartNo) (a n : Nat) : Option Nat :=
  match addrKind p a with
  | .ws c o => if o + n ≤ 0x400000 then some c else none
  | .ab c o => if o + n ≤ 0x100000 then some c else none
  | _ => none

/-- The range lies in cluster memory or plain memory (R401). -/
def State.rangeOk (s : State) (a n : Nat) : Bool := (cluRange s.part a n).isSome || s.plain a n

/-! ### Memory (R421 to R429) -/

/-- The tag of the key under which data of an HBM stack is written through a slot: 1 with encryption off, 0 for slot 0,
else the slot's key (R421, R423). -/
def State.keyTag (s : State) (stack slot : Nat) : Nat :=
  if !s.flag (pgMem stack) Reg.MEM_CRYPT_CTL_EN then 1 else if slot = 0 then 0 else 2 + sget (fun _ => 0) s.keys slot

/-- One byte as memory holds it. Bytes that nothing has written read as zero (R435; log 14). -/
def State.byteAt (s : State) (a : Nat) : Byte := sget (fun _ => 0) s.mem a

/-- The key under which burst b was last encrypted (R421). -/
def burstKey (m : List (Nat × Nat)) (b : Nat) : Nat := sget (fun _ => 0) m (34 * b)

/-- One more than the key that byte `a` was written with, where its burst has since been encrypted under another; else 0. -/
def strayKey (m : List (Nat × Nat)) (a : Nat) : Nat :=
  let v := sget (fun _ => 0) m (34 * (a / 32) + 2 + a % 32)
  if v = 0 then sget (fun _ => 0) m (34 * (a / 32) + 1) else v

/-- One byte read through a key slot: under another key than it was written with, an unrelated byte (R421; log 7). -/
def State.readByte (s : State) (slot a : Nat) : Byte :=
  match addrKind s.part a with
  | .hbm x _ =>
    let tag := burstKey s.unitKey (a / 32)
    let want := s.keyTag x slot
    let other (k : Nat) : Byte := BitVec.ofNat 8 (Config.wrongKey want k a (s.byteAt a).toNat)
    if tag ≠ want then other tag
    else
      match strayKey s.unitKey a with
      | 0 => s.byteAt a
      | k + 1 => other k
  | _ => s.byteAt a

def State.readBytes (s : State) (slot a n : Nat) : List Byte := (List.range n).map (fun i => s.readByte slot (a + i))

/-- A number of `n` bytes read through slot 0. -/
def State.readNat (s : State) (a n : Nat) : Nat := ofLeBytes (s.readBytes 0 a n)

/-- Bytes of one code word: 32 in HBM, 8 in SRAM (R424). -/
def cwBytes (a : Nat) : Nat := if a < 12 * stackSize then 32 else 8

/-- The instance code and byte offset of a device address (R426). -/
def instOf (p : PartNo) (a : Nat) : Nat × Nat :=
  match addrKind p a with
  | .hbm x o => (9 * 4096 + x, o)
  | .ws c o => (c, o)
  | .ab c o => (4096 + c, o)
  | _ => (0xFFFF, 0)

/-- The name of a code word: instance code and word number. -/
def cwName (inst off : Nat) : Nat := inst * 2 ^ 48 + off / (if inst / 4096 = 9 then 32 else 8)

def cwOf (p : PartNo) (a : Nat) : Nat := let (i, o) := instOf p a; cwName i o

/-- Error mark of the code word that holds address `a`. -/
def State.errAt (s : State) (a : Nat) : Nat := if s.errs.isEmpty then 0 else sget (fun _ => 0) s.errs (cwOf s.part a)

/-- An uncorrectable word lies in the range. -/
def State.ueIn (s : State) (a n : Nat) : Bool :=
  !s.errs.isEmpty && (List.range ((a % 8 + n + 7) / 8)).any (fun i => s.errAt (a / 8 * 8 + 8 * i) = 2)

/-- The page that captures errors of an instance (R429). -/
def instPage (inst : Nat) : Nat :=
  let i := inst % 4096
  match inst / 4096 with
  | 0 | 1 | 2 | 3 | 4 => pgClu i
  | 6 => pgClo i
  | 8 => pgLnk (2 * i)
  | 9 => pgMem i
  | _ => pgEcc

/-- Failed slots of a RGN_SLOT_FAIL mask. -/
def failCount (m : Nat) : Nat := ((List.range 17).filter (fun i => m.testBit i)).length

/-- R39: two or more failed slots, or a failed slot and no working spare (log 27). -/
def regionOut (m : Nat) : Bool := decide (2 ≤ failCount m) || m.testBit 16

/-- The region is in service and must leave it (R39): it drains at landings (R43, R55). -/
def State.draining (s : State) (r : Nat) : Bool := s.avail r && regionOut (s.getF (pgRgn r) Reg.RGN_SLOT_FAIL_SLOTS)

/-- Hardware finds slot `slot` of region r failed (R38). -/
def State.failSlot (s : State) (r slot : Nat) : State := s.orF (pgRgn r) Reg.RGN_SLOT_FAIL_SLOTS (2 ^ slot)

/-- R38: an uncorrectable word of a cluster's memories is a fault that is not confined to one tile, unless an array load or
an accumulator read meets it, whose effect ends at the tile (R55, R186), or the patrol alone (log 27). -/
def faultsSlot (inst cause : Nat) : Bool :=
  decide (inst / 4096 < 5) && decide (cause ≠ 0) && decide (cause ≠ 2) && decide (cause ≠ 3)

/-- R430, R431, R696: an uncorrectable word of an instance found by the reader of a cause code. -/
def State.foundUE (s : State) (inst off cause : Nat) : State :=
  let pg := instPage inst
  let addr := if inst / 4096 = 9 then inst % 4096 * stackSize + off
    else if inst / 4096 = 0 then localAddr (inst % 4096) 0 + off
    else if inst / 4096 = 1 then localAddr (inst % 4096) 0x80000 + off else off
  let synd := Config.syndrome inst off % 2 ^ 32
  let s1 :=
    if s.flag pg Reg.ECAP_ADDR_HI_VALID then s.orF pg Reg.ECAP_ADDR_HI_MULTI 1
    else
      let s := s.setF pg Reg.ECAP_ADDR_LO_ADDR addr
      let s := s.setF pg Reg.ECAP_ADDR_HI_ADDR (addr / 2 ^ 32)
      let s := s.setF pg Reg.ECAP_ADDR_HI_KIND (inst / 4096)
      let s := s.setF pg Reg.ECAP_ADDR_HI_CAUSE cause
      let s := s.setF pg Reg.ECAP_ADDR_HI_VALID 1
      let s := s.setF pg Reg.ECAP_ADDR_HI_SLOT (if inst / 4096 < 5 then s.slotOf (inst % 4096) else 0)
      let s := s.setF pg Reg.ECAP_SYND_SYND synd
      s.setF pg Reg.ECAP_TIME_T (bits (s.timeOf pg) 47 16)
  let s2 :=
    if inst / 4096 = 9 then s1.count pg Reg.MEM_CNT_UE 1
    else
      let s1 := if inst / 4096 < 5 then s1.count pg Reg.CLU_CNT_UE 1 else s1
      let s1 := if faultsSlot inst cause then s1.failSlot (regionOf (inst % 4096)) (s1.slotOf (inst % 4096)) else s1
      s1.count pgEcc Reg.ECC_CNT_UE_SRAM 1
  s2.raise pg 0 0x08 2 (leBytes 2 inst ++ leBytes 1 cause ++ leBytes 6 addr ++ leBytes 4 synd)

/-- R432: a correctable error fills the bucket of its instance. -/
def State.foundCE (s : State) (inst : Nat) : State :=
  let pg := instPage inst
  let s := match inst / 4096 with
    | 0 => s.count pg Reg.CLU_CNT_CE_WS 1
    | 1 => s.count pg Reg.CLU_CNT_CE_AB 1
    | 2 => s.count pg Reg.CLU_CNT_CE_AM 1
    | 3 => s.count pg Reg.CLU_CNT_CE_IM 1
    | 4 => s.count pg Reg.CLU_CNT_CE_CAT 1
    | 9 => s.count pg Reg.MEM_CNT_CE 1
    | _ => s
  let s := if inst / 4096 = 9 then s else s.count pgEcc Reg.ECC_CNT_CE_SRAM 1
  let n := sget (fun _ => 0) s.buckets inst + 1
  if s.getF pgEcc Reg.ECC_LB_CFG_THRESH < n then
    let s := { s with mems.buckets := sset (fun _ => 0) s.buckets inst 0 }
    (s.count pgEcc Reg.ECC_CNT_LIMIT 1).raise pg 1 0x09 1 (leBytes 2 inst)
  else { s with mems.buckets := sset (fun _ => 0) s.buckets inst n }

/-- What a read finds in one code word (R425, R429). -/
def State.foundAt (s : State) (inst off cause : Nat) : State :=
  match sget (fun _ => 0) s.errs (cwName inst off) with
  | 1 => s.foundCE inst
  | 2 => s.foundUE inst off cause
  | _ => s

/-- R430: a read of a range by the reader of a cause code reports every code word found in error once. -/
def State.touch (s : State) (a n cause : Nat) : State :=
  if s.errs.isEmpty || n = 0 then s
  else
    let w := cwBytes a
    (List.range ((a % w + n + w - 1) / w)).foldl
      (fun s i => let (inst, off) := instOf s.part (a / w * w + w * i); s.foundAt inst off cause) s

/-- One byte as the memory stores it, error marks apart. -/
def State.pokeByte (s : State) (a : Nat) (b : Byte) : State := { s with mems.mem := sset (fun _ => 0) s.mem a b }

def State.pokeBytes (s : State) (a : Nat) (bs : List Byte) : State := { s with mems.mem := ssetAll (fun _ => 0) s.mem a bs }

/-- The entries of one burst in the key map. -/
def burstEntries (b tag whole : Nat) (bytes : List (Nat × Nat)) : List (Nat × Nat) :=
  ((34 * b, tag) :: (34 * b + 1, whole) :: bytes.map (fun p => (34 * b + 2 + p.1, p.2))).filter (fun p => decide (p.2 ≠ 0))

/-- The key map with the entries of the bursts from `lo` to before `hi` replaced. -/
def putBursts (m : List (Nat × Nat)) (lo hi : Nat) (es : List (Nat × Nat)) : List (Nat × Nat) :=
  m.filter (fun p => decide (p.1 < 34 * lo)) ++ es ++ m.filter (fun p => decide (34 * hi ≤ p.1))

/-- Records the key of every HBM burst written. A part of a burst is written by read-modify-write (R427): the bytes beside
it are decrypted and encrypted again under the writer's key (R421). -/
def State.tagPages (s : State) (slot a n : Nat) : State :=
  match addrKind s.part a with
  | .hbm x _ =>
    let tag := s.keyTag x slot
    let lo := a / 32
    let hi := (a + n + 31) / 32
    let es := (List.range (hi - lo)).flatMap (fun i =>
      let b := lo + i
      let old := burstKey s.unitKey b
      let beside := (List.range 32).filter (fun j => decide (32 * b + j < a) || decide (a + n ≤ 32 * b + j))
      burstEntries b tag 0 (beside.map (fun j => (j, if old = tag then strayKey s.unitKey (32 * b + j) else old + 1))))
    { s with mems.unitKey := putBursts s.unitKey lo hi es }
  | _ => s

/-- The bursts of page p decrypted under one key slot and encrypted under another, as page q holds them from then on
(R419, R650). -/
def State.recrypt (s : State) (p q old new : Nat) : State :=
  let want := s.keyTag (p * 65536 / stackSize) old
  let tag := s.keyTag (q * 65536 / stackSize) new
  let mine := s.unitKey.filter (fun e => decide (34 * 2048 * p ≤ e.1) && decide (e.1 < 34 * 2048 * (p + 1)))
  let es := (List.range 2048).flatMap (fun i =>
    let b := 2048 * p + i
    let m := mine.filter (fun e => e.1 / 34 = b)
    let b' := 2048 * q + i
    if burstKey m b ≠ want then burstEntries b' tag (burstKey m b + 1) []
    else burstEntries b' tag (sget (fun _ => 0) m (34 * b + 1))
      ((List.range 32).map (fun j => (j, sget (fun _ => 0) m (34 * b + 2 + j)))))
  { s with mems.unitKey := putBursts s.unitKey (2048 * q) (2048 * q + 2048) es }

/-- The bytes of `bs`, written from address `a` on, that fall into the code word at `cw`, and where they start there. -/
def wordPart (a : Nat) (bs : List Byte) (cw : Nat) : Nat × List Byte :=
  let lo := max a cw
  (lo, (bs.drop (lo - a)).take (min (a + bs.length) (cw + cwBytes a) - lo))

/-- R427, R428: one code word of a write. A word written whole gets valid check bits; a part of a word is merged; a part
of an uncorrectable word is not written and raises ECC_UE with cause RMW. -/
def State.writeWord (s : State) (a : Nat) (bs : List Byte) (i : Nat) : State :=
  let w := cwBytes a
  let cw := a / w * w + w * i
  let p := wordPart a bs cw
  let io := instOf s.part cw
  let merged := decide (p.2.length < w)
  if s.errAt cw = 2 && merged then s.foundUE io.1 io.2 9
  else
    let s := if s.errAt cw = 1 && merged then s.foundCE io.1 else s
    { (s.pokeBytes p.1 p.2) with mems.errs := sset (fun _ => 0) s.errs (cwName io.1 io.2) 0 }

/-- R427, R428: a write through a key slot. -/
def State.writeBytes (s : State) (slot a : Nat) (bs : List Byte) : State :=
  let s := if bs.isEmpty then s else s.tagPages slot a bs.length
  if s.errs.isEmpty then s.pokeBytes a bs
  else (List.range ((a % cwBytes a + bs.length + cwBytes a - 1) / cwBytes a)).foldl (fun s i => s.writeWord a bs i) s

/-- `n` bytes from an address, of whole code words, written with zeros and valid check bits, through a key slot (R435,
R419). -/
def State.zeroRange (s : State) (slot a n : Nat) : State :=
  let (i, o) := instOf s.part a
  { (s.tagPages slot a n) with mems.mem := sclear s.mem a (a + n), mems.errs := sclear s.errs (cwName i o) (cwName i (o + n)) }

/-- `n` bytes from an address written with zeros through a key slot: whole code words anew, a part of a word merged (R428). -/
def State.zeroBytes (s : State) (slot a n : Nat) : State :=
  let w := cwBytes a
  let lo := min (a + n) ((a + w - 1) / w * w)
  let hi := max lo ((a + n) / w * w)
  let s := s.writeBytes slot a (List.replicate (lo - a) 0)
  let s := s.writeBytes slot hi (List.replicate (a + n - hi) 0)
  if lo < hi then s.zeroRange slot lo (hi - lo) else s

/-! ### Clusters, regions, groups -/

/-- An update of the Curator's own state. -/
def State.updCur (s : State) (f : Curator → Curator) : State := { s with brd.cur := f s.cur }

def State.clu (s : State) (c : Nat) : Cluster := sget (fun _ => ({} : Cluster)) s.clusters c

def State.setClu (s : State) (c : Nat) (k : Cluster) : State :=
  { s with sched.clusters := sset (fun _ => ({} : Cluster)) s.clusters c k }

def State.rgn (s : State) (r : Nat) : Region := sget (fun _ => ({} : Region)) s.regions r

def State.setRgn (s : State) (r : Nat) (k : Region) : State :=
  { s with sched.regions := sset (fun _ => ({} : Region)) s.regions r k }

def State.run (s : State) (g : Nat) : GroupRun := sget (fun _ => ({} : GroupRun)) s.runs g

def State.setRun (s : State) (g : Nat) (r : GroupRun) : State :=
  { s with sched.runs := sset (fun _ => ({} : GroupRun)) s.runs g r }

def State.port (s : State) (k : Nat) : Port := sget (fun _ => ({} : Port)) s.ports k

def State.setPort (s : State) (k : Nat) (p : Port) : State :=
  { s with fabric.ports := sset (fun _ => ({} : Port)) s.ports k p }

def State.iq (s : State) (q : Nat) : Iq := sget (fun _ => ({} : Iq)) s.iqs q

def State.setIq (s : State) (q : Nat) (x : Iq) : State := { s with inq.iqs := sset (fun _ => ({} : Iq)) s.iqs q x }

/-- The entry of the group table, where it is loaded (R489). -/
def State.group (s : State) (g : Nat) : Option Group := (s.groups.find? (fun p => p.1 = g)).map (·.2)

/-- The package's own ID in force (R48). -/
def State.pkg (s : State) : Nat := s.getF pgDev Reg.DEV_PKG_ID_ID

/-- The logical clusters of a member, ascending (R490). -/
def Member.clusters (m : Member) : List Nat := (List.range 512).filter (fun c => m.mask.getLsbD c)

/-- This package's member index (R490). -/
def State.midx (s : State) (g : Group) : Option Nat := g.members.findIdx? (fun m => m.pkg = s.pkg)

/-- Packages of a group other than this one. -/
def State.others (s : State) (g : Nat) : List Nat :=
  match s.group g with
  | none => []
  | some x => (x.members.map (·.pkg)).filter (fun p => p ≠ s.pkg)

/-- RB(m) of R490. -/
def Group.rbase (g : Group) (m : Nat) : Nat := ((g.members.take m).map (fun x => x.clusters.length)).foldl (· + ·) 0

/-- R491. -/
def Group.uniform (g : Group) : Bool :=
  g.members.all (fun m => m.clusters.length = ((g.members.head?.map (fun x => x.clusters.length)).getD 0))

/-- Clusters of this package whose flight in progress belongs to landing group g (R335). -/
def State.flying (s : State) (g : Nat) : List Nat :=
  (List.range 512).filter (fun c => s.doc c = docFlight && s.grpOf c = g)

/-- Clusters of this package that run in landing group g. -/
def State.inGroup (s : State) (g : Nat) : List Nat := s.active.filter (fun c => s.grpOf c = g)

/-- A cluster of the package is in a flight (R307). -/
def State.anyFlight (s : State) : Bool := (List.range 512).any (fun c => s.doc c = docFlight || s.doc c = docWindow)

/-! ### Efurn output (R456, R465 to R467, R477) -/

/-- The stream of this package to a destination on a virtual channel (R465). -/
def State.txStream (s : State) (dst vc : Nat) : TxStream :=
  (s.tx.find? (fun t => t.dst = dst && t.vc = vc)).getD
    ({ dst := dst, vc := vc, next := 0, fresh := true, broken := false } : TxStream)

def State.setTx (s : State) (t : TxStream) : State :=
  { s with fabric.tx := t :: s.tx.filter (fun u => !(u.dst = t.dst && u.vc = t.vc)) }

/-- Steps of a coordinate in the + direction on a ring of n; the shorter way, + when both are equal (R458). -/
def ringPlus (n a b : Nat) : Bool := let d := (b + n - a) % n; decide (2 * d ≤ n)

/-- Packages of the Y and Z rings of the hall (R49), which no register holds: free values (log 15). -/
def ringY : Nat := if Config.hall 1 % 2 = 0 then 4 else 8
def ringZ : Nat := 1 + Config.hall 2 % 16

/-- Ring length and coordinate of a package in dimension 0 X, 1 Y, 2 Z (R48, R49). -/
def ringLen (dim : Nat) : Nat := match dim with | 0 => 8 | 1 => ringY | _ => ringZ
def coordOf (dim p : Nat) : Nat := match dim with | 0 => bits p 2 0 | 1 => bits p 5 3 | _ => bits p 9 6

def State.portUp (s : State) (k : Nat) : Bool := s.part.hasInst .lnk k && decide (s.getF (pgLnk k) Reg.LNK_STAT_STATE = 5)

/-- The port, or the other port of its dimension where it is not UP, and whether that is a reroute (R460). -/
def State.orOpposite (s : State) (k : Nat) : Nat × Bool :=
  if s.portUp k then (k, false) else (if k % 2 = 0 then k + 1 else k - 1, true)

/-- The first dimension in which two packages differ (R458). -/
def firstDim (a b : Nat) : Option Nat := [0, 1, 2].find? (fun d => decide (coordOf d a ≠ coordOf d b))

/-- R458, R460: the port by which a chunk leaves for `dst` from its source, and whether it was rerouted; none for the package
itself. -/
def State.routePort (s : State) (dst : Nat) : Option (Nat × Bool) :=
  if dst = s.pkg then none
  else match (List.range 8).find? (fun k => s.portUp k && s.getF (pgLnk k) Reg.LNK_CFG_ROLE = 2 && s.getF (pgLnk k) Reg.LNK_CFG_PEER = dst) with
  | some k => some (k, false)
  | none =>
    if dst / 2048 ≠ s.pkg / 2048 then some (6, false)
    else (firstDim s.pkg dst).map (fun d =>
      s.orOpposite (if ringPlus (ringLen d) (coordOf d s.pkg) (coordOf d dst) then 2 * d else 2 * d + 1))

/-- The dateline class of a chunk that leaves by port k with class `cls` within its dimension (R459). -/
def State.classOn (s : State) (k cls : Nat) : Nat :=
  let x := coordOf (k / 2) s.pkg
  if 6 ≤ k then 0
  else if k % 2 = 0 then (if x + 1 = ringLen (k / 2) then 1 else cls)
  else (if x = 0 then 1 else cls)

/-! ### Flits (R453, R457, R463, R464) -/

/-- An update of one port beyond its page. -/
def State.updPort (s : State) (k : Nat) (f : Port → Port) : State := s.setPort k (f (s.port k))

/-- Lanes of the die on which port k sends flits, ascending: the active ones; before it is UP, those that passed
training. -/
def State.txLanes (s : State) (k : Nat) : List Nat :=
  let m := s.getF (pgLnk k) Reg.LNK_STAT_LANES
  (List.range 16).filter (fun i => (if m = 0 then (s.port k).good else m).testBit i)

/-- The slot of the next flit of port k and its lane: positions of lanes found faulty carry IDLE flits (R481). -/
def State.nextSlot (s : State) (k : Nat) : Nat × Nat :=
  let p := s.port k
  let ls := s.txLanes k
  let lane (i : Nat) : Nat := ls.getD (i % ls.length) 0
  let i := p.slot + ((List.range ls.length).find? (fun j => !p.txOff.testBit (lane (p.slot + j)))).getD 0
  (i, lane i)

/-- The early store of die d has no room for another chunk: no credits of VC0 and VC1 are returned (R502). -/
def State.earlyFull (s : State) (d : Nat) : Bool :=
  decide (8 * 2 ^ 20 < ((s.early.filter (fun e => e.die = d)).map (fun e => e.data.length)).foldl (· + ·) 0 + 4096)

/-- The first credit that port k owes and may return: 2 * VC + CLS, and flits (R464). -/
def State.creditDue (s : State) (k : Nat) : Option (Nat × Nat) :=
  let full := s.earlyFull (k / 2)
  (s.port k).owed.find? (fun q => decide (4 ≤ q.1) || !full)

/-- Port k sends a flit: it takes the next slot and carries the first credit owed. -/
def State.putFlit (s : State) (k : Nat) (f : Flit) : State :=
  let (i, lane) := s.nextSlot k
  match s.creditDue k with
  | none => (s.updPort k (fun p => { p with slot := i + 1 })).emit (.flit k lane f)
  | some (key, n) =>
    let c := min 1023 n
    (s.updPort k (fun p => { p with slot := i + 1, owed := sset (fun _ => 0) p.owed key (n - c) })).emit
      (.flit k lane { f with cred := c, cvc := key / 2, ccls := key % 2 })

/-- While port k has nothing to send, IDLE flits pass: its next slot is the latest that has begun. -/
def State.wakePort (s : State) (k : Nat) : State :=
  let p := s.port k
  if p.txq.isEmpty && p.owed.isEmpty then s.setPort k { p with slot := max p.slot (p.slotsBy (s.txLanes k).length s.now - 1) } else s

/-- The HOP flit of a kind that port k sends next (R473, R477): authenticated where encryption is active. -/
def State.hopFlit (s : State) (k kind : Nat) (data : List Nat) : Flit :=
  let p := s.port k
  let f : Flit := { ty := 2, vc := 0, cls := 0, first := true, last := true, fresh := false, dst := s.getF (pgLnk k) Reg.LNK_PEER_ID,
                    src := s.pkg, seq := 0, fidx := 0, len := 0, kind := kind, words := data }
  if s.flag (pgLnk k) Reg.LNK_STAT_ENC then
    { f with body := linkTag (linkKey k p.keyGen 0) (linkIv k p.keyGen 0 p.txCtr) (f.header ++ data.flatMap (leBytes 8)) [] }
  else { f with body := List.replicate 16 0 }

/-- A HOP flit between the two ends of a port leaves at once (R477). -/
def State.sendHop (s : State) (k kind : Nat) (data : List Nat) : State :=
  let f := s.hopFlit k kind data
  let s := (s.count (pgLnk k) Reg.LNK_CNT_FLIT_TX 1).wakePort k
  (s.updPort k (fun p => { p with txCtr := p.txCtr + 1 })).putFlit k f

/-- Starts a key agreement on a port (R475). -/
def State.startRekey (s : State) (k : Nat) : State :=
  if (s.port k).rekeying then s else (s.setPort k { s.port k with rekeying := true }).sendHop k 0xC []

/-- A port agrees new keys when a direction counter reaches 2^40 (R475). -/
def State.counterRekey (s : State) (k : Nat) : State :=
  if 2 ^ 40 ≤ (s.port k).txCtr || 2 ^ 40 ≤ (s.port k).rxCtr then s.startRekey k else s

/-- A HOP flit arrives. -/
def State.hopIn (s : State) (k : Nat) : State :=
  ((s.count (pgLnk k) Reg.LNK_CNT_FLIT_RX 1).updPort k (fun p => { p with rxCtr := p.rxCtr + 1 })).counterRekey k

/-- Buffer of port k becomes free, and its partner is owed the credit (R464). -/
def State.oweCredit (s : State) (k key n : Nat) : State :=
  (s.wakePort k).updPort k (fun p => { p with owed := sset (fun _ => 0) p.owed key (sget (fun _ => 0) p.owed key + n) })

/-- The chunk that takes its first flit takes the keys in force and the counter of the direction (R473, R475). -/
def State.beginChunk (s : State) (k : Nat) (x : TxChunk) : State × TxChunk :=
  if x.fidx = 0 then
    let p := s.port k
    ((s.updPort k (fun p => { p with txCtr := p.txCtr + 1 })).counterRekey k,
     { x with wire := x.stream k p.keyGen p.txCtr (s.flag (pgLnk k) Reg.LNK_STAT_ENC) })
  else (s, x)

/-- Port k sends the next flit of a chunk of its queue. With its last flit the chunk leaves the queue and the buffer that it
fills, and its retry timeout begins (R464, R467). -/
def State.sendFlit (s : State) (k : Nat) (x : TxChunk) (turn left : Nat) : State :=
  let i := (s.port k).txq.idxOf x
  let (s, y) := s.beginChunk k x
  let last := y.fidx + 1 = chunkFlits y.data.length
  let key := 2 * y.vc + y.cls
  let s := (s.count (pgLnk k) Reg.LNK_CNT_FLIT_TX 1).updPort k (fun p =>
    { p with txq := if last then p.txq.eraseIdx i else p.txq.set i { y with fidx := y.fidx + 1 }, turn := turn, left := left,
             used := sset (fun _ => 0) p.used key (sget (fun _ => 0) p.used key + 1) })
  let s := s.putFlit k (y.flit y.fidx)
  if last then
    let s := match y.back with | some (j, q) => s.oweCredit j q (chunkFlits y.data.length) | none => s
    if y.src = s.pkg then
      { s with fabric.retained := s.retained.map (fun r =>
          if r.dst = y.dst && r.vc = y.vc && r.seq = y.seq then { r with last := s.now, queued := false } else r) }
    else s
  else s

/-- The IDLE flit (R455). -/
def idleFlit : Flit :=
  { ty := 0, vc := 0, cls := 0, first := false, last := false, fresh := false, dst := 0, src := 0, seq := 0, fidx := 0, len := 0,
    kind := 0, body := List.replicate 240 0 }

/-- The weight of a turn (R463). -/
def State.weight (s : State) (k turn : Nat) : Nat :=
  s.getF (pgLnk k) (match turn with | 0 => Reg.LNK_VCW_W0 | 1 => Reg.LNK_VCW_W1 | _ => Reg.LNK_VCW_W3)

/-- The slots of port k that have begun are filled, `n` at most: the flit that R463 chooses, or an IDLE flit, which leaves a
trace only where it returns credits (log 54). -/
def State.drainPort (k : Nat) : Nat → State → State
  | 0, s => s
  | n + 1, s =>
    let p := s.port k
    if (p.txq.isEmpty && (s.creditDue k).isNone) || decide (p.slotsBy (s.txLanes k).length s.now ≤ p.slot) then s
    else match p.choose (s.weight k) with
      | some (x, turn, left) => State.drainPort k n (s.sendFlit k x turn left)
      | none =>
        if (s.creditDue k).isSome then State.drainPort k n (s.putFlit k idleFlit)
        else State.drainPort k n (s.setPort k { p with slot := p.slot + 1 })

/-- Every port that is UP sends what its slots allow. -/
def State.drainLinks (s : State) : State :=
  (s.ports.map (·.1)).foldl (fun s k =>
    let p := s.port k
    if s.portUp k && !(p.txq.isEmpty && p.owed.isEmpty) then
      State.drainPort k (p.slotsBy (s.txLanes k).length s.now - p.slot) s
    else s) s

/-! ### Chunks (R456, R458, R465 to R471) -/

/-- A chunk joins the queue of port k. `back` is the receive buffer that it fills meanwhile. -/
def State.sendOn (s : State) (k cls src dst vc seq kind : Nat) (fresh : Bool) (data : List Byte) (back : Option (Nat × Nat) := none) :
    State :=
  (s.wakePort k).updPort k (fun p => { p with txq := p.txq ++
    [{ cls := cls, src := src, dst := dst, vc := vc, seq := seq, kind := kind, fresh := fresh, data := data, back := back }] })

/-- Retention slots in use on a die (R471). -/
def State.slotsUsed (s : State) (d : Nat) : Nat := (s.retained.filter (fun r => r.port / 2 = d)).length

/-- The die takes no new chunk of a channel for sending: of the 3,640 slots the last 64 are kept for VC2 (R471). -/
def State.retentionFull (s : State) (d vc : Nat) : Bool := decide (3640 ≤ s.slotsUsed d + (if vc = 2 then 0 else 64))

/-- A chunk is numbered in its stream, retained until acknowledged, and queued at its port; one for the package itself is
delivered without a port (R458, R465 to R467). It waits while its die has no retention slot for it. -/
def State.pushChunk (s : State) (dst vc kind : Nat) (data : List Byte) : State :=
  match s.routePort dst with
  | none => { s with fabric.loop := s.loop ++ [(vc, kind, data)] }
  | some (k, re) =>
    if s.retentionFull (k / 2) vc || s.stalled.any (fun q => q.1 = dst && q.2.1 = vc) then
      { s with fabric.stalled := s.stalled ++ [(dst, vc, kind, data)] }
    else
      let t := s.txStream dst vc
      let s := if re then s.count (pgLnk k) Reg.LNK_CNT_REROUTE 1 else s
      let s := s.setTx { t with next := (t.next + 1) % 2 ^ 32, fresh := false }
      let r : Retained := { port := k, dst := dst, vc := vc, seq := t.next, fresh := t.fresh, kind := kind, data := data,
                            sent := 1, last := s.now, queued := true }
      let s := { s with fabric.retained := s.retained ++ [r] }
      s.sendOn k (s.classOn k 0) s.pkg dst vc t.next kind t.fresh data

/-- Sends one chunk. A broken stream sends nothing (R469). -/
def State.sendChunk (s : State) (dst vc kind : Nat) (data : List Byte) : State :=
  if (s.txStream dst vc).broken then s else s.pushChunk dst vc kind data

/-- Chunks that waited for a retention slot are sent as far as there is room again (R471). -/
def State.admitStalled (s : State) : State :=
  s.stalled.foldl (fun s q => s.sendChunk q.1 q.2.1 q.2.2.1 q.2.2.2) { s with fabric.stalled := [] }

/-- An ACK of the stream from `src` on a channel (R466): KIND 4, the acknowledged number in SEQ (R454), not retained. -/
def State.sendAck (s : State) (src vc seq : Nat) : State :=
  match s.routePort src with
  | none => s
  | some (k, re) =>
    let s := if re then s.count (pgLnk k) Reg.LNK_CNT_REROUTE 1 else s
    s.sendOn k (s.classOn k 0) s.pkg src 2 seq 4 false (leBytes 1 vc)

/-! ### The stop state (R347, R521) -/

/-- Bytes that a class-5 launch has received. -/
def Coll.received (x : Coll) : Nat := (x.got.map (fun p => p.2.2.1.length)).foldl (· + ·) 0

/-- A cluster enters the stop state: it issues nothing more, and what waits on other members is abandoned. -/
def State.stopCluster (s : State) (c : Nat) : State :=
  let k := s.clu c
  (s.setClu c { k with colls := k.colls.filter (fun x => decide (x.need ≤ x.received)), barrier := none,
                       landed := false }).setDoc c docStopped

/-- The clusters of this package that enter the stop state of landing group g: those that run in it, and those whose context
is saved (R347; log 33). -/
def State.stoppable (s : State) (g : Nat) : List Nat :=
  (List.range 512).filter (fun c => (s.running c || s.doc c = docSaved) && s.grpOf c = g)

/-- The member clusters of a group on this package, ascending (R490); none where it is no member. -/
def State.myClusters (s : State) (g : Nat) : List Nat :=
  match s.group g with
  | none => []
  | some x => match x.members.find? (fun m => m.pkg = s.pkg) with
    | none => []
    | some m => m.clusters

/-- Die whose Cloakroom counts for a group: the one that holds its slots, else `d` (R518). -/
def State.cloOf (s : State) (g d : Nat) : Nat :=
  match s.group g with
  | some x => x.clo.getD d
  | none => d

/-- The early stores discard the chunks of the landing group's collectives (R521). -/
def State.dropEarly (s : State) (g : Nat) : State :=
  let mine (e : EarlyRec) : Bool := (s.myClusters (ofLeBytes (e.data.take 1))).any (fun c => s.grpOf c = g)
  let (gone, kept) := s.early.partition mine
  let s := { s with fabric.early := kept }
  gone.foldl (fun s e => s.count (pgClo (s.cloOf (ofLeBytes (e.data.take 1)) e.die)) Reg.CLO_CNT_DISCARD 1) s

/-- Items that leave the links free the receive buffers that they fill (R464, R514). -/
def State.freeItems (s : State) (l : List CombIn) : State :=
  l.foldl (fun s x => match x.back with | some (k, key, n) => s.oweCredit k key n | none => s) s

/-- A member enters the stop state of a group (R347): every running cluster of the group stops, the combining points
zero the windows of its collectives (R521). The caller raises the event and sends stop messages. -/
def State.enterStop (s : State) (g : Nat) : State :=
  let s := s.dropEarly g
  let s := (s.stoppable g).foldl (fun s c => s.stopCluster c) s
  let cs := s.combs.map (fun (p : Nat × List Comb) => (p.1, p.2.filter (fun x => x.lgrp ≠ g)))
  let es := s.endComb.filter (fun x => x.lgrp ≠ g)
  let live (l : List Comb) (x : CombIn) : Bool := l.any (fun y => y.grp = x.grp && y.cseq = x.cseq)
  let s := s.freeItems (s.combIn.flatMap (fun p => p.2.filter (fun x => !live (cs.flatMap (fun (q : Nat × List Comb) => q.2)) x)))
  let s := { s with fabric.combs := cs, fabric.endComb := es, fabric.endIn := s.endIn.filter (live es),
                    fabric.combIn := s.combIn.map (fun (p : Nat × List CombIn) => (p.1, p.2.filter (live (cs.flatMap (fun (q : Nat × List Comb) => q.2))))) }
  s.setRun g { s.run g with stopped := true }

/-- Stop messages that name landing n to every other member, on VC2 (R347). -/
def State.sendStopsAt (s : State) (g n : Nat) : State :=
  (s.others g).foldl (fun s p => s.sendChunk p 2 3 (leBytes 1 g ++ leBytes 8 n ++ leBytes 2 s.pkg)) s

/-- Stop messages that name the landing in progress. -/
def State.sendStops (s : State) (g : Nat) : State := s.sendStopsAt g ((s.run g).idx + 1)

/-- The twin's package ID (R53). -/
def State.twinPkg (s : State) : Nat := s.pkg ^^^ 0x800

def State.lockstep (s : State) : Bool := s.getF pgDev Reg.DEV_DET_CTL_DIVERGE = 1

/-- The late-landing notice of a group's landing in progress, on VC2, once (R345); in LOCKSTEP mode to the twin too, which
awaits this package's message under the same deadlines (R383). -/
def State.sendNotice (s : State) (g : Nat) : State :=
  let r := s.run g
  if r.noticed = some (r.idx + 1) then s
  else
    (s.others g ++ (if s.lockstep then [s.twinPkg] else [])).foldl (fun s p => s.sendChunk p 2 2 (leBytes 1 g ++ leBytes 8 (r.idx + 1) ++ leBytes 2 s.pkg))
      (s.setRun g { r with noticed := some (r.idx + 1) })

/-! ### Mailbox (R543, R544) -/

/-- Writes a response: header, payload, DONE and vector 16. -/
def State.respond (s : State) (code tag status : Nat) (payload : List Byte) (haddr hlen : Nat) : State :=
  let bytes := leBytes 2 code ++ leBytes 2 tag ++ leBytes 2 payload.length ++ leBytes 2 status ++ leBytes 8 haddr
    ++ leBytes 8 hlen ++ payload
  let words := (List.range 256).map (fun i => BitVec.ofNat 32 (ofLeBytes ((bytes.drop (4 * i)).take 4)))
  let s := { s with regFile.regs := ssetAll (resetWord s.part) s.regs (pgCur * 1024 + 0xA00 / 4) words }
  let s := s.setF pgCur Reg.CUR_MBX_STAT_DONE 1
  (s.setF pgCur Reg.CUR_MBX_STAT_BUSY 0).msix 16

/-- Writes a bulk response where the host buffer holds it (R543). -/
def State.respondBulk (s : State) (code : Nat) (m : MbxReq) (bulk : List Byte) : State :=
  if m.hlen < bulk.length then s.respond code m.tag 5 [] m.haddr bulk.length
  else (s.emit (.hostWrite m.haddr bulk)).respond code m.tag 0 [] m.haddr bulk.length

/-- The host has written the request into CUR_MBX_REQ (R543). -/
def State.request (s : State) (code : Nat) (m : MbxReq) : State :=
  let bytes := leBytes 2 code ++ leBytes 2 m.tag ++ leBytes 2 m.payload.length ++ leBytes 2 0 ++ leBytes 8 m.haddr
    ++ leBytes 8 m.hlen ++ m.payload.take 1000
  let words := (List.range ((bytes.length + 3) / 4)).map (fun i => BitVec.ofNat 32 (ofLeBytes ((bytes.drop (4 * i)).take 4)))
  { s with regFile.regs := ssetAll (resetWord s.part) s.regs (pgCur * 1024 + 0x400 / 4) words }

/-- The request has been accepted: BUSY is 1. -/
def State.accepted (s : State) (code : Nat) (m : MbxReq) : State := (s.request code m).setF pgCur Reg.CUR_MBX_STAT_BUSY 1

/-- A GO is ignored: READY is 0 or BUSY is 1 (R544). -/
def State.mbxIgnores (s : State) : Bool :=
  !s.flag pgCur Reg.CUR_MBX_STAT_READY || s.flag pgCur Reg.CUR_MBX_STAT_BUSY

/-- In recovery the ROM serves four commands alone (R575). -/
def State.mbxRefuses (s : State) (code : Nat) : Bool :=
  s.flag pgSec Reg.SEC_STAT_RECOVERY && !([0x0201, 0x0202, 0x0203, 0x0204].contains code)

/-- R543, R544: the host has written the request and sets GO. A GO that finds READY 0 or BUSY 1 is ignored and sets
REFUSED; else the Curator serves it, here by `serve`. -/
def State.mailbox (s : State) (code : Nat) (m : MbxReq) (serve : State → State) : State :=
  let s := s.request code m
  if s.mbxIgnores then s.setF pgCur Reg.CUR_MBX_STAT_REFUSED 1
  else if s.mbxRefuses code then (s.setF pgCur Reg.CUR_MBX_STAT_BUSY 1).respond code m.tag 4 [] 0 0
  else serve (s.setF pgCur Reg.CUR_MBX_STAT_BUSY 1)

end Sys2Proof.Machine
end

