-- ==== Sys2Proof/Machine/Num.lean ====
section
/-! DEFINITION. Exact numbers for the arithmetic chapters: a value is m * 2^e / d, never rounded. Every result the
manual calls exact (products, sums, quotients before their one rounding) is computed here. -/
namespace Sys2Proof.Machine

/-- The exact number m * 2^e / d; d is positive in every value the model forms. -/
structure Num where
  m : Int
  d : Nat := 1
  e : Int := 0
  deriving DecidableEq, Repr

def Num.ofInt (i : Int) : Num := { m := i }

def Num.zero : Num := { m := 0 }

/-- 2^k. -/
def Num.pow2 (k : Int) : Num := { m := 1, e := k }

def Num.isZero (x : Num) : Bool := x.m == 0

def Num.isNeg (x : Num) : Bool := decide (x.m < 0)

def Num.neg (x : Num) : Num := { x with m := - x.m }

def Num.abs (x : Num) : Num := { x with m := x.m.natAbs }

/-- The significand of `x` at a binary exponent not above its own. -/
def Num.at (x : Num) (e : Int) : Int := x.m * ((2 ^ (x.e - e).toNat : Nat) : Int)

def Num.add (x y : Num) : Num :=
  let e := min x.e y.e
  if x.d = y.d then { m := x.at e + y.at e, d := x.d, e := e }
  else { m := x.at e * (y.d : Int) + y.at e * (x.d : Int), d := x.d * y.d, e := e }

def Num.sub (x y : Num) : Num := x.add y.neg

def Num.mul (x y : Num) : Num := { m := x.m * y.m, d := x.d * y.d, e := x.e + y.e }

/-- x / y; the callers decide the case of a zero divisor first. -/
def Num.div (x y : Num) : Num :=
  { m := if y.m < 0 then - (x.m * (y.d : Int)) else x.m * (y.d : Int), d := x.d * y.m.natAbs, e := x.e - y.e }

/-- x * 2^k. -/
def Num.scale (x : Num) (k : Int) : Num := { x with e := x.e + k }

def Num.lt (x y : Num) : Bool := (x.sub y).isNeg

def Num.le (x y : Num) : Bool := !(y.lt x)

def Num.eqv (x y : Num) : Bool := (x.sub y).isZero

/-- The greatest integer not above `x`. -/
def Num.floor (x : Num) : Int :=
  if 0 ≤ x.e then (x.m * ((2 ^ x.e.toNat : Nat) : Int)) / (x.d : Int)
  else x.m / ((x.d * 2 ^ (- x.e).toNat : Nat) : Int)

/-- The least integer not below `x`. -/
def Num.ceil (x : Num) : Int := - (x.neg.floor)

def Num.isInt (x : Num) : Bool := (Num.ofInt x.floor).eqv x

/-- floor(log2 |x|) of a nonzero number. -/
def Num.log2 (x : Num) : Int :=
  let a := x.abs
  let h : Int := (Nat.log2 x.m.natAbs : Int) - (Nat.log2 x.d : Int) + x.e
  if a.lt (Num.pow2 h) then h - 1 else if (Num.pow2 (h + 1)).le a then h + 1 else h

/-- ceil(log2 |x|) of a nonzero number (R75, R282). -/
def Num.clog2 (x : Num) : Int := if x.abs.eqv (Num.pow2 x.log2) then x.log2 else x.log2 + 1

/-- The greater of two. -/
def Num.max (x y : Num) : Num := if x.lt y then y else x

end Sys2Proof.Machine
end

