-- ==== Sys2Proof/Machine/Formats.lean ====
section
/-! DEFINITION. The number formats of Tapered and Conventional Number Formats: decoding (R63 to R84), the one rounding
of every output (R90 to R94), saturation and special values (R95 to R100, R699), the total order (R87), and the quires
(R111 to R119). -/
namespace Sys2Proof.Machine

/-- What a code of a format stands for. NaR and every NaN are one value (R87, R89). -/
inductive Val where
  | nan
  | inf (neg : Bool)
  | fin (x : Num)
  deriving DecidableEq, Repr

/-- The sticky flags that one operation sets (R103, R154). -/
structure Flags where
  ovf : Bool := false
  unf : Bool := false
  inx : Bool := false
  inv : Bool := false
  qovf : Bool := false
  longsum : Bool := false
  replay : Bool := false
  deriving DecidableEq, Repr

def Flags.none : Flags := {}

def Flags.or (a b : Flags) : Flags :=
  { ovf := a.ovf || b.ovf, unf := a.unf || b.unf, inx := a.inx || b.inx, inv := a.inv || b.inv,
    qovf := a.qovf || b.qovf, longsum := a.longsum || b.longsum, replay := a.replay || b.replay }

/-- The flags in the layout of R155. -/
def Flags.word (f : Flags) : Nat :=
  f.ovf.toNat + 2 * f.unf.toNat + 4 * f.inx.toNat + 8 * f.inv.toNat + 16 * f.qovf.toNat + 32 * f.longsum.toNat
    + 64 * f.replay.toNat

def Flags.INV : Flags := { inv := true }

/-- The format codes of R59. -/
inductive Fmt where
  | p8 | p16 | p32 | sp8 | sp4 | e4m3 | e5m2 | int8 | int4 | fp32 | fp64 | qfull
  deriving DecidableEq, Repr

/-- The FMT encoding of R59; a reserved code names no format. -/
def Fmt.ofCode : Nat → Option Fmt
  | 0 => some .p8 | 1 => some .p16 | 2 => some .p32 | 3 => some .sp8 | 4 => some .sp4 | 5 => some .e4m3
  | 6 => some .e5m2 | 7 => some .int8 | 8 => some .int4 | 9 => some .fp32 | 10 => some .fp64 | 11 => some .qfull
  | _ => none

def Fmt.code : Fmt → Nat
  | .p8 => 0 | .p16 => 1 | .p32 => 2 | .sp8 => 3 | .sp4 => 4 | .e4m3 => 5 | .e5m2 => 6 | .int8 => 7 | .int4 => 8
  | .fp32 => 9 | .fp64 => 10 | .qfull => 11

/-- Bits of one element of a format; a quire's width depends on its accumulation (R115). -/
def Fmt.width : Fmt → Nat
  | .p8 | .sp8 | .e4m3 | .e5m2 | .int8 => 8
  | .sp4 | .int4 => 4
  | .p16 => 16
  | .p32 | .fp32 => 32
  | .fp64 => 64
  | .qfull => 128

def Fmt.isSP : Fmt → Bool
  | .sp8 | .sp4 => true
  | _ => false

def Fmt.isInt : Fmt → Bool
  | .int8 | .int4 => true
  | _ => false

/-- Posit and block-scaled posit formats, whose exception code is NaR. -/
def Fmt.isPosit : Fmt → Bool
  | .p8 | .p16 | .p32 | .sp8 | .sp4 => true
  | _ => false

/-- Length of the run of bit `r` of `c` from bit `i` down. -/
def runLen (c : Nat) (r : Bool) : Nat → Nat
  | 0 => if c.testBit 0 == r then 1 else 0
  | i + 1 => if c.testBit (i + 1) == r then 1 + runLen c r i else 0

/-- R63: the value of code `c` of a posit of `n` bits with `es` exponent bits. -/
def decodePosit (n es c : Nat) : Val :=
  let c := c % 2 ^ n
  if c = 0 then .fin .zero
  else if c = 2 ^ (n - 1) then .nan
  else
    let s := c.testBit (n - 1)
    let a := if s then 2 ^ n - c else c
    let r0 := a.testBit (n - 2)
    let m := runLen a r0 (n - 2)
    let k : Int := if r0 then (m : Int) - 1 else - (m : Int)
    let nrest := n - 1 - (m + 1)
    let rest := a % 2 ^ nrest
    let e := if es ≤ nrest then rest / 2 ^ (nrest - es) else rest * 2 ^ (es - nrest)
    let nf := nrest - es
    let f := rest % 2 ^ nf
    let mag : Num := { m := ((2 ^ nf + f : Nat) : Int), e := k * ((2 ^ es : Nat) : Int) + (e : Int) - (nf : Int) }
    .fin (if s then mag.neg else mag)

/-- An IEEE-style magnitude: `mb` mantissa bits, exponent field biased by `bias`. -/
def decodeMag (mb bias code : Nat) : Num :=
  let ef := code / 2 ^ mb
  let mf := code % 2 ^ mb
  if ef = 0 then { m := (mf : Int), e := 1 - (bias : Int) - (mb : Int) }
  else { m := ((2 ^ mb + mf : Nat) : Int), e := (ef : Int) - (bias : Int) - (mb : Int) }

/-- Applies a sign to a magnitude. -/
def withSign (neg : Bool) (x : Num) : Num := if neg then x.neg else x

/-- R77 to R79. -/
def decodeE4M3 (c : Nat) : Val :=
  let a := c % 128
  if a = 127 then .nan else .fin (withSign (c.testBit 7) (decodeMag 3 7 a))

def decodeE5M2 (c : Nat) : Val :=
  let a := c % 128
  if a = 124 then .inf (c.testBit 7) else if 124 < a then .nan else .fin (withSign (c.testBit 7) (decodeMag 2 15 a))

/-- R82, R83: a subnormal binary32 operand of a cluster engine is +0. -/
def decodeFP32 (c : Nat) : Val :=
  let a := c % 2 ^ 31
  if a < 0x00800000 then .fin .zero
  else if a = 0x7F800000 then .inf (c.testBit 31)
  else if 0x7F800000 < a then .nan
  else .fin (withSign (c.testBit 31) (decodeMag 23 127 a))

def decodeFP64 (c : Nat) : Val :=
  let a := c % 2 ^ 63
  if a = 0x7FF0000000000000 then .inf (c.testBit 63)
  else if 0x7FF0000000000000 < a then .nan
  else .fin (withSign (c.testBit 63) (decodeMag 52 1023 a))

/-- The value of an element code before any block scale, zero point or channel scale. -/
def decodeFmt (f : Fmt) (c : Nat) : Val :=
  match f with
  | .p8 | .sp8 => decodePosit 8 2 c
  | .p16 => decodePosit 16 2 c
  | .p32 => decodePosit 32 2 c
  | .sp4 => decodePosit 4 0 c
  | .e4m3 => decodeE4M3 c
  | .e5m2 => decodeE5M2 c
  | .int8 => .fin (.ofInt (signed 8 c))
  | .int4 => .fin (.ofInt (signed 4 c))
  | .fp32 => decodeFP32 c
  | .fp64 => decodeFP64 c
  | .qfull => .fin (.ofInt (signed 128 c))

/-! ### Rounding (R90 to R93) -/

/-- The rounding modes of R90; SR carries its 24-bit draw (R93). -/
inductive Rnd where
  | rne
  | rto
  | sr (r : Nat)
  deriving DecidableEq, Repr

/-- The kept code and whether the tail is nonzero, for an exact magnitude code `c ≥ 0` (R91, R92, R93). -/
def roundCode (rnd : Rnd) (c : Num) : Nat × Bool :=
  let k := c.floor
  let tail := c.sub (.ofInt k)
  let kept := k.toNat
  if tail.isZero then (kept, false)
  else
    match rnd with
    | .rne =>
      let two := tail.scale 1
      if two.lt (.ofInt 1) then (kept, true)
      else if (Num.ofInt 1).lt two then (kept + 1, true)
      else (if kept % 2 = 0 then kept else kept + 1, true)
    | .rto => (if kept % 2 = 0 then kept + 1 else kept, true)
    | .sr r =>
      let g := (tail.scale 24).floor.toNat
      (if 2 ^ 24 ≤ g + r % 2 ^ 24 then kept + 1 else kept, true)

/-- The magnitude code of `x > 0` as a posit of unlimited length, cut at `n` bits (R90's frame). -/
def positCode (n es : Nat) (x : Num) : Num :=
  let h := x.log2
  let q : Int := ((2 ^ es : Nat) : Int)
  let k := h / q
  let e := h % q
  let reglen : Int := if 0 ≤ k then k + 2 else 1 - k
  let regval : Int := if 0 ≤ k then ((2 ^ (k + 2).toNat : Nat) : Int) - 2 else 1
  ((Num.ofInt (regval * q + e - 1)).add (x.scale (- h))).scale ((n : Int) - 1 - reglen - (es : Int))

/-- The magnitude code of `x > 0` with an unbounded mantissa (R90's frame). -/
def ieeeCode (mb bias : Nat) (x : Num) : Num :=
  let h := max x.log2 (1 - (bias : Int))
  (Num.ofInt ((h + (bias : Int) - 1) * ((2 ^ mb : Nat) : Int))).add (x.scale ((mb : Int) - h))

/-- Largest posit magnitude of a format: 2^((n - 2) * 2^es). -/
def maxpos (n es : Nat) : Num := Num.pow2 (((n - 2) * 2 ^ es : Nat) : Int)
def minpos (n es : Nat) : Num := Num.pow2 (- (((n - 2) * 2 ^ es : Nat) : Int))

/-- The code of a signed posit magnitude (R64). -/
def positSigned (n : Nat) (neg : Bool) (a : Nat) : Nat := if neg then (2 ^ n - a) % 2 ^ n else a

/-- R91 to R94 and R100: a posit result and its flags. -/
def encodePosit (n es : Nat) (rnd : Rnd) (v : Val) : Nat × Flags :=
  match v with
  | .nan => (2 ^ (n - 1), {})
  | .inf _ => (2 ^ (n - 1), Flags.INV)
  | .fin x =>
    if x.isZero then (0, {})
    else
      let a := x.abs
      if (maxpos n es).lt a then (positSigned n x.isNeg (2 ^ (n - 1) - 1), { ovf := true, inx := true })
      else if a.lt (minpos n es) then (positSigned n x.isNeg 1, { unf := true, inx := true })
      else
        let (k, t) := roundCode rnd (positCode n es a)
        let k := if k = 0 then 1 else if 2 ^ (n - 1) ≤ k then 2 ^ (n - 1) - 1 else k
        (positSigned n x.isNeg k, { inx := t })

/-- R699: the value rounded with an unbounded exponent lies below the smallest normal magnitude 2^emin. -/
def tinyAfter (mb : Nat) (emin : Int) (rnd : Rnd) (a : Num) : Bool :=
  let h := a.log2
  let (k, _) := roundCode rnd (a.scale ((mb : Int) - h))
  (({ m := (k : Int), e := h - (mb : Int) } : Num)).lt (Num.pow2 emin)

/-- R77, R95, R100, R699: an OFP8 result. `top` is the largest finite code, `nanc` the canonical NaN, `infc` the
infinity code of E5M2. -/
def encodeOfp8 (mb bias top nanc : Nat) (infc : Option Nat) (rnd : Rnd) (sat : Bool) (v : Val) : Nat × Flags :=
  let sgn (neg : Bool) (a : Nat) : Nat := if neg && a ≠ 0 then a + 128 else a
  match v with
  | .nan => (nanc, {})
  | .inf neg =>
    if sat then (sgn neg top, { ovf := true })
    else match infc with
      | some i => (sgn neg i, {})
      | none => (nanc, Flags.INV)
  | .fin x =>
    if x.isZero then (0, {})
    else
      let (k, t) := roundCode rnd (ieeeCode mb bias x.abs)
      if top < k then
        let fl : Flags := { ovf := true, inx := true }
        if sat then (sgn x.isNeg top, fl)
        else match infc with
          | some i => (sgn x.isNeg i, fl)
          | none => (nanc, fl)
      else (sgn x.isNeg k, { inx := t, unf := t && tinyAfter mb (1 - (bias : Int)) rnd x.abs })

/-- R83, R84, R86, R100, R699: a binary32 result of a cluster engine or the LSC; tininess is judged with an unbounded
exponent. -/
def encodeFP32 (rnd : Rnd) (v : Val) : Nat × Flags :=
  let sgn (neg : Bool) (a : Nat) : Nat := if neg && a ≠ 0 then a + 2 ^ 31 else a
  match v with
  | .nan => (0x7FC00000, {})
  | .inf neg => (sgn neg 0x7F800000, {})
  | .fin x =>
    if x.isZero then (0, {})
    else
      let (k, t) := roundCode rnd (ieeeCode 23 127 x.abs)
      let k := max k 0x00800000
      if tinyAfter 23 (-126) rnd x.abs then (0, { unf := true, inx := true })
      else if 0x7F800000 ≤ k then (sgn x.isNeg 0x7F800000, { ovf := true, inx := true })
      else (sgn x.isNeg k, { inx := t })

/-- R84, R86: a binary64 result of the LSC, exact from every other format (R99). -/
def encodeFP64 (rnd : Rnd) (v : Val) : Nat × Flags :=
  let sgn (neg : Bool) (a : Nat) : Nat := if neg && a ≠ 0 then a + 2 ^ 63 else a
  match v with
  | .nan => (0x7FF8000000000000, {})
  | .inf neg => (sgn neg 0x7FF0000000000000, {})
  | .fin x =>
    if x.isZero then (0, {})
    else
      let (k, t) := roundCode rnd (ieeeCode 52 1023 x.abs)
      if 0x7FF0000000000000 ≤ k then (sgn x.isNeg 0x7FF0000000000000, { ovf := true, inx := true })
      else (sgn x.isNeg k, { inx := t })

/-- R80, R96, R100: an INT code of `w` bits through scale `c` (nonzero) and zero point `z`. -/
def encodeInt (w : Nat) (c : Num) (z : Int) (rnd : Rnd) (v : Val) : Nat × Flags :=
  let lo : Int := - ((2 ^ (w - 1) : Nat) : Int)
  let hi : Int := ((2 ^ (w - 1) : Nat) : Int) - 1
  match v with
  | .nan => (unsigned w lo, Flags.INV)
  | .inf neg => (unsigned w (if neg != c.isNeg then lo else hi), { ovf := true })
  | .fin x =>
    let y := x.div c
    let (k, t) := roundCode rnd y.abs
    let q : Int := z + (if y.isNeg then - (k : Int) else (k : Int))
    if q < lo then (unsigned w lo, { ovf := true, inx := true })
    else if hi < q then (unsigned w hi, { ovf := true, inx := true })
    else (unsigned w q, { inx := t })

/-- The code of a format that needs no scale (R100): SP elements take the scaled value (R76). -/
def encodeFmt (f : Fmt) (rnd : Rnd) (sat : Bool) (v : Val) : Nat × Flags :=
  match f with
  | .p8 | .sp8 => encodePosit 8 2 rnd v
  | .p16 => encodePosit 16 2 rnd v
  | .p32 => encodePosit 32 2 rnd v
  | .sp4 => encodePosit 4 0 rnd v
  | .e4m3 => encodeOfp8 3 7 0x7E 0x7F none rnd sat v
  | .e5m2 => encodeOfp8 2 15 0x7B 0x7E (some 0x7C) rnd sat v
  | .int8 => encodeInt 8 (.ofInt 1) 0 rnd v
  | .int4 => encodeInt 4 (.ofInt 1) 0 rnd v
  | .fp32 => encodeFP32 rnd v
  | .fp64 => encodeFP64 rnd v
  | .qfull => (0, {})

/-- The NaR-or-NaN value of R100 for a format. -/
def nanCode (f : Fmt) : Nat := (encodeFmt f .rne true .nan).1

/-- The flags that writing the NaR-or-NaN value sets: INV for an INT format (R100). -/
def nanFlags (f : Fmt) : Flags := (encodeFmt f .rne true .nan).2

/-- Negates a value; a NaN stays. -/
def Val.neg : Val → Val
  | .nan => .nan
  | .inf s => .inf (!s)
  | .fin x => .fin x.neg

def Val.isNan : Val → Bool
  | .nan => true
  | _ => false

/-- R97: x rounded to odd to the 32 significant bits of W. -/
def toW (x : Num) : Num :=
  if x.isZero then .zero
  else
    let h := x.log2
    let (k, _) := roundCode .rto (x.abs.scale (31 - h))
    withSign x.isNeg { m := (k : Int), e := h - 31 }

def Val.toW : Val → Val
  | .fin x => .fin (Machine.toW x)
  | v => v

/-- R98, R99: an FP64 source passes W before a stochastic rounding; every other conversion is one rounding of the
exact value. -/
def convSource (src : Fmt) (rnd : Rnd) (v : Val) : Val :=
  match src, rnd with
  | .fp64, .sr _ => v.toW
  | _, _ => v

/-! ### The total order (R87) -/

/-- `a` comes strictly before `b` in the order of R87: NaR and NaN lowest and equal, then -inf, reals, +inf. -/
def Val.lt (a b : Val) : Bool :=
  match a, b with
  | .nan, .nan => false
  | .nan, _ => true
  | _, .nan => false
  | .inf s, .inf t => s && !t
  | .inf s, .fin _ => s
  | .fin _, .inf t => !t
  | .fin x, .fin y => x.lt y

def Val.eqv (a b : Val) : Bool := !(a.lt b) && !(b.lt a)

/-! ### Arithmetic on values with IEEE specials (R89, R119, R127, R210) -/

/-- a + b, with INV for opposite infinities. -/
def Val.add (a b : Val) : Val × Flags :=
  match a, b with
  | .nan, _ => (.nan, {})
  | _, .nan => (.nan, {})
  | .inf s, .inf t => if s = t then (.inf s, {}) else (.nan, Flags.INV)
  | .inf s, .fin _ => (.inf s, {})
  | .fin _, .inf t => (.inf t, {})
  | .fin x, .fin y => (.fin (x.add y), {})

/-- a * b, with INV for infinity times zero. -/
def Val.mul (a b : Val) : Val × Flags :=
  match a, b with
  | .nan, _ => (.nan, {})
  | _, .nan => (.nan, {})
  | .inf s, .inf t => (.inf (s != t), {})
  | .inf s, .fin y => if y.isZero then (.nan, Flags.INV) else (.inf (s != y.isNeg), {})
  | .fin x, .inf t => if x.isZero then (.nan, Flags.INV) else (.inf (x.isNeg != t), {})
  | .fin x, .fin y => (.fin (x.mul y), {})

/-- R210, R110: a / b. A nonzero dividend over zero, an infinity included, is an infinity signed by the dividend, with
INV. -/
def Val.div (a b : Val) : Val × Flags :=
  match a, b with
  | .nan, _ => (.nan, {})
  | _, .nan => (.nan, {})
  | .inf _, .inf _ => (.nan, Flags.INV)
  | .inf s, .fin y => if y.isZero then (.inf s, Flags.INV) else (.inf (s != y.isNeg), {})
  | .fin _, .inf _ => (.fin .zero, {})
  | .fin x, .fin y =>
    if y.isZero then (if x.isZero then (.nan, Flags.INV) else (.inf x.isNeg, Flags.INV))
    else (.fin (x.div y), {})

/-! ### Quires (R111 to R119) -/

/-- The three quires of R113. -/
inductive Quire where
  | q128 | q256 | q512
  deriving DecidableEq, Repr

def Quire.width : Quire → Nat
  | .q128 => 128 | .q256 => 256 | .q512 => 512

/-- The weight of a quire's least significant bit is 2^-(frac). -/
def Quire.frac : Quire → Nat
  | .q128 => 48 | .q256 => 112 | .q512 => 240

/-- R111: the quire of an operand format. -/
def Fmt.quire : Fmt → Quire
  | .p8 | .e4m3 | .e5m2 | .int8 | .int4 => .q128
  | .p16 | .sp8 | .sp4 => .q256
  | _ => .q512

def Quire.ofCode : Nat → Option Quire
  | 0 => some .q128 | 1 => some .q256 | 2 => some .q512 | _ => none

/-- R114: the quire's NaR code. -/
def Quire.nar (q : Quire) : Nat := 2 ^ (q.width - 1)

/-- The integer of a quire code, none for NaR. -/
def Quire.read (q : Quire) (c : Nat) : Option Int :=
  if c % 2 ^ q.width = q.nar then none else some (signed q.width c)

/-- R117, R118: the code of an exact integer, and whether it left the real range (the code is then NaR). -/
def Quire.write (q : Quire) (x : Int) : Nat × Bool :=
  let top : Int := ((2 ^ (q.width - 1) : Nat) : Int)
  if - top < x ∧ x < top then (unsigned q.width x, false) else (q.nar, true)

/-- An exact value in units of the quire's least significant bit. -/
def Quire.units (q : Quire) (x : Num) : Int := (x.scale (q.frac : Int)).floor

/-- The value of a quire code. -/
def Quire.val (q : Quire) (c : Nat) : Val :=
  match q.read c with
  | none => .nan
  | some i => .fin { m := i, e := - (q.frac : Int) }

/-- R148, R149: the sum of two codes of one width, and QOVF. -/
def Quire.add (q : Quire) (a b : Nat) : Nat × Bool :=
  match q.read a, q.read b with
  | some x, some y => q.write (x + y)
  | _, _ => (q.nar, false)

end Sys2Proof.Machine
end

