-- ==== Sys2Proof/Machine/Ieee.lean ====
section
/-! DEFINITION. IEEE 754-2019 binary32 and binary64 arithmetic of the Conservator (R109, R331 to R334, R687): four
rounding directions, subnormals, signed zeros, NaN payloads and the five exception flags. -/
namespace Sys2Proof.Machine

/-- A datum of the Conservator; a NaN keeps its sign, its payload and whether it is quiet (R85). -/
inductive IVal where
  | nan (neg quiet : Bool) (payload : Nat)
  | inf (neg : Bool)
  | zero (neg : Bool)
  | fin (x : Num)
  deriving DecidableEq, Repr

/-- CON_FLAGS (R686). -/
structure IFlags where
  invalid : Bool := false
  divz : Bool := false
  overflow : Bool := false
  underflow : Bool := false
  inexact : Bool := false
  deriving DecidableEq, Repr

def IFlags.or (a b : IFlags) : IFlags :=
  { invalid := a.invalid || b.invalid, divz := a.divz || b.divz, overflow := a.overflow || b.overflow,
    underflow := a.underflow || b.underflow, inexact := a.inexact || b.inexact }

def IFlags.word (f : IFlags) : Nat :=
  f.invalid.toNat + 2 * f.divz.toNat + 4 * f.overflow.toNat + 8 * f.underflow.toNat + 16 * f.inexact.toNat

def IFlags.INVALID : IFlags := { invalid := true }

/-- binary64, or binary32. -/
structure IFmt where
  dbl : Bool
  deriving DecidableEq, Repr

def IFmt.mb (f : IFmt) : Nat := if f.dbl then 52 else 23
def IFmt.bias (f : IFmt) : Nat := if f.dbl then 1023 else 127
def IFmt.width (f : IFmt) : Nat := if f.dbl then 64 else 32
def IFmt.infCode (f : IFmt) : Nat := if f.dbl then 0x7FF0000000000000 else 0x7F800000

def idecode (f : IFmt) (c : Nat) : IVal :=
  let s := c.testBit (f.width - 1)
  let a := c % 2 ^ (f.width - 1)
  if a = 0 then .zero s
  else if a = f.infCode then .inf s
  else if f.infCode < a then .nan s (a.testBit (f.mb - 1)) (a % 2 ^ (f.mb - 1))
  else .fin (withSign s (decodeMag f.mb f.bias a))

def isigned (f : IFmt) (neg : Bool) (a : Nat) : Nat := if neg then a + 2 ^ (f.width - 1) else a

def inanCode (f : IFmt) (neg : Bool) (payload : Nat) : Nat :=
  isigned f neg (f.infCode + 2 ^ (f.mb - 1) + payload % 2 ^ (f.mb - 1))

/-- The NaN that an invalid operation without NaN operands returns: quiet; its sign and payload are free (log 12). -/
def idefaultNan (f : IFmt) : Nat := inanCode f (Config.ieee 0 % 2 = 1) (Config.ieee 1)

/-- The rounding-direction attributes of CON_CFG.RDIR (R686). -/
inductive RDir where
  | rne | up | down | zero
  deriving DecidableEq, Repr

def RDir.ofCode : Nat → RDir
  | 0 => .rne | 1 => .up | 2 => .down | _ => .zero

/-- A magnitude code rounded in a direction; `neg` is the sign of the value. -/
def iround (d : RDir) (neg : Bool) (c : Num) : Nat × Bool :=
  let k := c.floor.toNat
  let exact := (c.sub (.ofInt c.floor)).isZero
  if exact then (k, false)
  else
    match d with
    | .rne => roundCode .rne c
    | .zero => (k, true)
    | .up => (if neg then k else k + 1, true)
    | .down => (if neg then k + 1 else k, true)

/-- R687: tininess is detected after rounding. -/
def itiny (f : IFmt) (d : RDir) (neg : Bool) (a : Num) : Bool :=
  let h := a.log2
  let (k, _) := iround d neg (a.scale ((f.mb : Int) - h))
  ({ m := (k : Int), e := h - (f.mb : Int) } : Num).lt (Num.pow2 (1 - (f.bias : Int)))

/-- A nonzero exact value rounded to the format, with its exceptions. -/
def iencode (f : IFmt) (d : RDir) (x : Num) : Nat × IFlags :=
  let neg := x.isNeg
  let a := x.abs
  let (k, t) := iround d neg (ieeeCode f.mb f.bias a)
  if f.infCode ≤ k then
    let toInf := match d with | .rne => true | .zero => false | .up => !neg | .down => neg
    (isigned f neg (if toInf then f.infCode else f.infCode - 1), { overflow := true, inexact := true })
  else (isigned f neg k, { inexact := t, underflow := t && itiny f d neg a })

/-- A value written in the format (a NaN quieted). -/
def iwrite (f : IFmt) (d : RDir) (v : IVal) : Nat × IFlags :=
  match v with
  | .nan s _ p => (inanCode f s p, {})
  | .inf s => (isigned f s f.infCode, {})
  | .zero s => (isigned f s 0, {})
  | .fin x => iencode f d x

def IVal.isNan : IVal → Bool
  | .nan .. => true
  | _ => false

def IVal.isSig : IVal → Bool
  | .nan _ q _ => !q
  | _ => false

/-- R332: the payload of the first NaN operand, quieted; invalid where any is signalling. None without NaN operands. -/
def inanRule (f : IFmt) (vs : List IVal) : Option (Nat × IFlags) :=
  match vs.find? IVal.isNan with
  | some (.nan s _ p) => some (inanCode f s p, if vs.any IVal.isSig then IFlags.INVALID else {})
  | _ => none

def IVal.neg : IVal → IVal
  | .nan s q p => .nan s q p
  | .inf s => .inf (!s)
  | .zero s => .zero (!s)
  | .fin x => .fin x.neg

/-- The sign of an exact zero sum (IEEE 754-2019, 6.3). -/
def izeroSum (d : RDir) : IVal := .zero (d = .down)

/-- a + b on operands that are not NaN; none for opposite infinities. -/
def iaddVal (d : RDir) (a b : IVal) : Option IVal :=
  match a, b with
  | .inf s, .inf t => if s = t then some (.inf s) else none
  | .inf s, _ => some (.inf s)
  | _, .inf t => some (.inf t)
  | .zero s, .zero t => some (if s = t then .zero s else izeroSum d)
  | .zero _, y => some y
  | x, .zero _ => some x
  | .fin x, .fin y => let z := x.add y; some (if z.isZero then izeroSum d else .fin z)
  | x, _ => some x

def IVal.sign : IVal → Bool
  | .nan s _ _ => s
  | .inf s => s
  | .zero s => s
  | .fin x => x.isNeg

/-- a * b on operands that are not NaN; none for infinity times zero. -/
def imulVal (a b : IVal) : Option IVal :=
  let s := a.sign != b.sign
  match a, b with
  | .inf _, .zero _ => none
  | .zero _, .inf _ => none
  | .inf _, _ => some (.inf s)
  | _, .inf _ => some (.inf s)
  | .zero _, _ => some (.zero s)
  | _, .zero _ => some (.zero s)
  | .fin x, .fin y => some (.fin (x.mul y))
  | x, _ => some x

def iadd (f : IFmt) (d : RDir) (a b : IVal) : Nat × IFlags :=
  match inanRule f [a, b] with
  | some r => r
  | none =>
    match iaddVal d a b with
    | some v => iwrite f d v
    | none => (idefaultNan f, IFlags.INVALID)

def isub (f : IFmt) (d : RDir) (a b : IVal) : Nat × IFlags :=
  match inanRule f [a, b] with
  | some r => r
  | none => iadd f d a b.neg

def imul (f : IFmt) (d : RDir) (a b : IVal) : Nat × IFlags :=
  match inanRule f [a, b] with
  | some r => r
  | none =>
    match imulVal a b with
    | some v => iwrite f d v
    | none => (idefaultNan f, IFlags.INVALID)

def idiv (f : IFmt) (d : RDir) (a b : IVal) : Nat × IFlags :=
  match inanRule f [a, b] with
  | some r => r
  | none =>
    let s := a.sign != b.sign
    match a, b with
    | .inf _, .inf _ => (idefaultNan f, IFlags.INVALID)
    | .zero _, .zero _ => (idefaultNan f, IFlags.INVALID)
    | .inf _, _ => iwrite f d (.inf s)
    | _, .inf _ => iwrite f d (.zero s)
    | .zero _, _ => iwrite f d (.zero s)
    | _, .zero _ => (isigned f s f.infCode, { divz := true })
    | .fin x, .fin y => iwrite f d (.fin (x.div y))
    | x, _ => iwrite f d x

/-- fusedMultiplyAdd; with infinity times zero and a quiet NaN addend the standard leaves the invalid flag open (free,
log 12). -/
def ifma (f : IFmt) (d : RDir) (a b c : IVal) : Nat × IFlags :=
  match inanRule f [a, b, c] with
  | some (n, fl) =>
    let open0 := !a.isNan && !b.isNan && (imulVal a b).isNone
    (n, if open0 && (Config.ieee 2 % 2 = 1) then fl.or IFlags.INVALID else fl)
  | none =>
    match imulVal a b with
    | none => (idefaultNan f, IFlags.INVALID)
    | some p =>
      match iaddVal d p c with
      | some v => iwrite f d v
      | none => (idefaultNan f, IFlags.INVALID)

/-- floor(sqrt n), one bit at a time from 2^k. -/
def isqrtAux (n : Nat) : Nat → Nat → Nat
  | 0, r => r
  | k + 1, r => let t := r + 2 ^ k; isqrtAux n k (if t * t ≤ n then t else r)

def isqrt (n : Nat) : Nat := isqrtAux n (Nat.log2 n / 2 + 1) 0

/-- The square root of a positive number cut at 2^-s, and whether it is exact. -/
def sqrtCut (x : Num) (s : Int) : Nat × Bool :=
  let y := x.scale (2 * s)
  let n := y.floor.toNat
  let r := isqrt n
  (r, r * r = n && y.isInt)

def isqrtOp (f : IFmt) (d : RDir) (a : IVal) : Nat × IFlags :=
  match inanRule f [a] with
  | some r => r
  | none =>
    match a with
    | .zero s => iwrite f d (.zero s)
    | .inf false => iwrite f d (.inf false)
    | .fin x =>
      if x.isNeg then (idefaultNan f, IFlags.INVALID)
      else
        let s := 80 - x.log2 / 2
        let (r, exact) := sqrtCut x s
        let v : Num := if exact then { m := (r : Int), e := - s } else { m := 2 * (r : Int) + 1, e := - s - 1 }
        iwrite f d (.fin v)
    | _ => (idefaultNan f, IFlags.INVALID)

/-- `a` comes before `b` as numbers, with -0 below +0 (IEEE 754-2019, 9.6). -/
def iless (a b : IVal) : Bool :=
  match a, b with
  | .zero s, .zero t => s && !t
  | .inf s, .inf t => s && !t
  | .inf s, _ => s
  | _, .inf t => !t
  | .zero _, .fin y => !y.isNeg
  | .fin x, .zero _ => x.isNeg
  | .fin x, .fin y => x.lt y
  | _, _ => false

/-- minimumNumber and maximumNumber: a NaN loses to a number. -/
def iminmax (f : IFmt) (d : RDir) (mx : Bool) (a b : IVal) : Nat × IFlags :=
  let fl : IFlags := if a.isSig || b.isSig then IFlags.INVALID else {}
  match a.isNan, b.isNan with
  | true, true => match inanRule f [a, b] with | some r => r | none => (idefaultNan f, fl)
  | true, false => ((iwrite f d b).1, fl)
  | false, true => ((iwrite f d a).1, fl)
  | false, false => ((iwrite f d (if mx then (if iless a b then b else a) else (if iless b a then b else a))).1, fl)

/-- convertFormat; a NaN keeps the high bits of its payload (log 12). -/
def icvt (src dst : IFmt) (d : RDir) (a : IVal) : Nat × IFlags :=
  match a with
  | .nan s q p =>
    let p' := if src.dbl && !dst.dbl then p / 2 ^ 29 else if !src.dbl && dst.dbl then p * 2 ^ 29 else p
    (inanCode dst s p', if q then {} else IFlags.INVALID)
  | v => iwrite dst d v

end Sys2Proof.Machine
end

