-- ==== Sys2Proof/Machine/Sfu.lean ====
section
/-! DEFINITION. The special-function unit (R217 to R240): exact special values and flush thresholds, and for every
other input an enclosure of the exact real result beside the internal value, whose relative error is read from the
tables of R221 between free nodes (log 4); the internal value rounded once, inside the bounds of R224, is the result. -/
namespace Sys2Proof.Machine

/-! ### Enclosures -/

/-- An enclosure lo ≤ y ≤ hi of a real number; lo = hi is the number itself. -/
structure Iv where
  lo : Num
  hi : Num
  deriving DecidableEq, Repr

def Iv.exact (x : Num) : Iv := { lo := x, hi := x }

/-- Significant bits that an enclosure's ends keep. -/
def ivBits : Int := 600

/-- A number not above `x`, of about `ivBits` significant bits. -/
def cutDown (x : Num) : Num :=
  if x.isZero then .zero
  else
    let s := ivBits - x.log2
    { m := (x.scale s).floor, e := - s }

def cutUp (x : Num) : Num := (cutDown x.neg).neg

def Iv.cut (a : Iv) : Iv :=
  if a.lo = a.hi && a.lo.d = 1 && decide (a.lo.m.natAbs < 2 ^ 600) then a else { lo := cutDown a.lo, hi := cutUp a.hi }

def Iv.neg (a : Iv) : Iv := { lo := a.hi.neg, hi := a.lo.neg }

def Iv.add (a b : Iv) : Iv := ({ lo := a.lo.add b.lo, hi := a.hi.add b.hi } : Iv).cut

def Iv.sub (a b : Iv) : Iv := a.add b.neg

def Num.min (x y : Num) : Num := if x.lt y then x else y

def Iv.mul (a b : Iv) : Iv :=
  let p := a.lo.mul b.lo
  let q := a.lo.mul b.hi
  let r := a.hi.mul b.lo
  let t := a.hi.mul b.hi
  ({ lo := (p.min q).min (r.min t), hi := (p.max q).max (r.max t) } : Iv).cut

/-- 1/a for an enclosure that excludes zero. -/
def Iv.inv (a : Iv) : Iv :=
  ({ lo := (Num.ofInt 1).div a.hi, hi := (Num.ofInt 1).div a.lo } : Iv).cut

def Iv.div (a b : Iv) : Iv := a.mul b.inv

def Iv.scale (a : Iv) (k : Int) : Iv := { lo := a.lo.scale k, hi := a.hi.scale k }

/-- Fraction bits of the fixed-point series. -/
def serBits : Nat := 640

/-- A positive series sum in units of 2^-serBits, whose relative error is below 2^-480. -/
def serIv (s : Nat) : Iv :=
  let w : Nat := s / 2 ^ 480 + 2 ^ 100
  { lo := { m := (s : Int) - (w : Int), e := - (serBits : Int) }, hi := { m := (s : Int) + (w : Int), e := - (serBits : Int) } }

/-- A nonnegative number in units of 2^-serBits, cut. -/
def fix (x : Num) : Nat := (x.scale (serBits : Int)).floor.toNat

/-- sum of t * q^i * (product of p/r) over `n` terms: the term i is multiplied by q * num i / den i to give term i+1. -/
def serSum (q : Nat) (num den : Nat → Nat) : Nat → Nat → Nat → Nat → Nat
  | 0, _, _, acc => acc
  | n + 1, i, t, acc => serSum q num den n (i + 1) (t * q * num i / (den i * 2 ^ serBits)) (acc + t)

/-- The sum with alternating signs, as the difference of its even and odd terms. -/
def serAlt (q : Nat) (den : Nat → Nat) : Nat → Nat → Nat → Nat → Nat → Nat × Nat
  | 0, _, _, ev, od => (ev, od)
  | n + 1, i, t, ev, od =>
    let t' := t * q / (den i * 2 ^ serBits)
    if i % 2 = 0 then serAlt q den n (i + 1) t' (ev + t) od else serAlt q den n (i + 1) t' ev (od + t)

/-- sum of q^i / (2 i + 1). -/
def atanhSum (q : Nat) : Nat → Nat → Nat → Nat → Nat
  | 0, _, _, acc => acc
  | n + 1, i, t, acc => atanhSum q n (i + 1) (t * q / 2 ^ serBits) (acc + t / (2 * i + 1))

/-- atanh z for |z| ≤ 1/3. -/
def ivAtanh (z : Iv) : Iv :=
  let q (x : Num) : Iv := serIv (atanhSum (fix (x.mul x)) 210 0 (2 ^ serBits) 0)
  z.mul (if z.lo.isNeg then { lo := (q z.hi).lo, hi := (q z.lo).hi } else { lo := (q z.lo).lo, hi := (q z.hi).hi })

def ivLn2 : Iv := (ivAtanh ((Iv.exact (.ofInt 3)).inv)).scale 1

/-- arctan(1/k) for an integer k ≥ 5. -/
def ivAtanInv (k : Nat) : Iv :=
  let q := 2 ^ serBits / (k * k)
  let rec go : Nat → Nat → Nat → Nat → Nat → Nat × Nat
    | 0, _, _, ev, od => (ev, od)
    | n + 1, i, t, ev, od =>
      let u := t / (2 * i + 1)
      if i % 2 = 0 then go n (i + 1) (t * q / 2 ^ serBits) (ev + u) od
      else go n (i + 1) (t * q / 2 ^ serBits) ev (od + u)
  let (ev, od) := go 150 0 (2 ^ serBits) 0 0
  (serIv (ev - od)).mul ((Iv.exact (.ofInt k)).inv)

/-- pi, by Machin's formula. -/
def ivPi : Iv := ((ivAtanInv 5).scale 4).sub ((ivAtanInv 239).scale 2)

/-- e^x at a number of magnitude at most 1024. -/
def expNum (x : Num) : Iv :=
  let l := ivLn2
  let k := (x.div l.lo).floor
  let r := (Iv.exact x).sub ((Iv.exact (.ofInt k)).mul l)
  let e (y : Num) : Iv := serIv (serSum (fix y) (fun _ => 1) (fun i => i + 1) 130 0 (2 ^ serBits) 0)
  let a := if r.lo.isNeg then { lo := (.ofInt 1), hi := .ofInt 1 } else e r.lo
  ({ lo := a.lo, hi := (e r.hi).hi } : Iv).scale k

/-- e^x - 1 for 0 < x ≤ 1, to full relative precision. -/
def expm1Num (x : Num) : Iv :=
  (Iv.exact x).mul (serIv (serSum (fix x) (fun _ => 1) (fun i => i + 2) 130 0 (2 ^ serBits) 0))

def ivExp (x : Iv) : Iv := { lo := (expNum x.lo).lo, hi := (expNum x.hi).hi }

/-- ln x of a positive number. -/
def lnNum (x : Num) : Iv :=
  let h := x.log2
  let n := if (x.scale (- h)).lt { m := 3, e := -1 } then h else h + 1
  let m := x.scale (- n)
  let z := (Iv.exact (m.sub (.ofInt 1))).div (Iv.exact (m.add (.ofInt 1)))
  let a := if (m.sub (.ofInt 1)).isZero then Iv.exact .zero else (ivAtanh z).scale 1
  if n = 0 then a else a.add ((Iv.exact (.ofInt n)).mul ivLn2)

/-- ln(1 + w) for 0 < w ≤ 1. -/
def ivLog1p (w : Iv) : Iv :=
  let f (x : Num) : Iv := (ivAtanh ((Iv.exact x).div (Iv.exact (x.add (.ofInt 2))))).scale 1
  { lo := (f w.lo).lo, hi := (f w.hi).hi }

/-- The square root of a positive number; exact where it is a cut fraction. -/
def sqrtNum (x : Num) : Iv :=
  let s := 620 - x.log2 / 2
  let (r, ex) := sqrtCut x s
  if ex then Iv.exact { m := (r : Int), e := - s } else { lo := { m := (r : Int), e := - s }, hi := { m := (r : Int) + 1, e := - s } }

def ivSqrt (x : Iv) : Iv := { lo := (sqrtNum x.lo).lo, hi := (sqrtNum x.hi).hi }

/-- sin(2 pi t) for 0 < t ≤ 1/8. -/
def ivSinTurn (t : Num) : Iv :=
  let th := (Iv.exact t).mul (ivPi.scale 1)
  let f (y : Num) : Iv :=
    let (ev, od) := serAlt (fix (y.mul y)) (fun i => (2 * i + 2) * (2 * i + 3)) 70 0 (2 ^ serBits) 0 0
    serIv (ev - od)
  th.mul { lo := (f th.hi).lo, hi := (f th.lo).hi }

def ivCosTurn (t : Num) : Iv :=
  let th := (Iv.exact t).mul (ivPi.scale 1)
  let f (y : Num) : Iv :=
    let (ev, od) := serAlt (fix (y.mul y)) (fun i => (2 * i + 1) * (2 * i + 2)) 70 0 (2 ^ serBits) 0 0
    serIv (ev - od)
  { lo := (f th.hi).lo, hi := (f th.lo).hi }

/-- erf u from u and 2 u^2, for 0 < u ≤ 13: 2/sqrt(pi) * u * e^(-u^2) * sum of (2u^2)^i / (2i+1)!!. -/
def ivErf (u : Iv) (q : Num) : Iv :=
  let s := serIv (serSum (fix q) (fun _ => 1) (fun i => 2 * i + 3) 700 0 (2 ^ serBits) 0)
  let e := ivExp (Iv.exact (q.scale (-1)).neg)
  ((u.scale 1).mul (e.mul s)).div (ivSqrt ivPi)

/-- 1 / (1 + e^-x), in [0, 1]. -/
def sigNum (x : Num) : Iv :=
  if x.isZero then Iv.exact (Num.pow2 (-1))
  else if x.isNeg then
    if x.lt (.ofInt (-1000)) then { lo := .pow2 (-2000), hi := .pow2 (-1400) }
    else let w := expNum x; w.div (w.add (Iv.exact (.ofInt 1)))
  else if (Num.ofInt 400).lt x then { lo := (Num.ofInt 1).sub (.pow2 (-500)), hi := .ofInt 1 }
  else (Iv.exact (.ofInt 1)).div ((expNum x.neg).add (Iv.exact (.ofInt 1)))

def ivSig (x : Iv) : Iv := { lo := (sigNum x.lo).lo, hi := (sigNum x.hi).hi }

/-- tanh u for u > 0. -/
def tanhNum (u : Num) : Iv :=
  if (Num.ofInt 200).lt u then { lo := (Num.ofInt 1).sub (.pow2 (-500)), hi := .ofInt 1 }
  else if u.lt (.pow2 (-2)) then let t := expm1Num (u.scale 1); t.div (t.add (Iv.exact (.ofInt 2)))
  else let t := expNum (u.scale 1); (t.sub (Iv.exact (.ofInt 1))).div (t.add (Iv.exact (.ofInt 1)))

/-- A result beyond the range of every output format. -/
def ivHuge : Iv := { lo := .pow2 2000, hi := .pow2 2001 }

/-- A result of magnitude near that of a tiny input, far below the range of every output format. -/
def ivTiny (x : Num) : Iv := if x.isNeg then { lo := x.scale 3, hi := x.scale (-3) } else { lo := x.scale (-3), hi := x.scale 3 }

/-- erf(|x| / sqrt 2) for x ≠ 0. -/
def ivErfRoot2 (x : Num) : Iv :=
  let a := x.abs
  if (Num.ofInt 18).lt a then { lo := (Num.ofInt 1).sub (.pow2 (-200)), hi := .ofInt 1 }
  else ivErf ((Iv.exact a).div (ivSqrt (Iv.exact (.ofInt 2)))) (a.mul a)

/-! ### The tables (R221 to R223, R239)

Each core function has one table per version. A table stores no coefficient that the manual gives, so its error is what is
free: at eight nodes to a segment the relative error is a free number (`Config.sfuNode`), and between nodes it runs in a
straight line over the segment variable. The error is then continuous over every seam (R222), and its slope is far below
the slope of the function wherever R226 asks for order. What the held constants and the roundings of R221 change in a value,
below 2^-31 of it, is part of that error; the reduced variables that place an input in its segment are formed as R221
says. -/

/-- The relative error at node `i` of table `core`: at most 2.5 parts in 2^23, in AK6 mode 4.5. -/
def sfuNode (ak6 : Bool) (core i : Nat) : Num :=
  let r : Nat := Config.sfuNode (if ak6 then 6 else 2) core i % (2 ^ 41 + 1)
  { m := ((r : Int) - 1099511627776) * (if ak6 then 9 else 5), e := -64 }

/-- The line between the values of `e` at the whole numbers around t ≥ 0. -/
def lerp (e : Nat → Num) (t : Num) : Num :=
  let i := t.floor
  let a := e i.toNat
  a.add (((e (i.toNat + 1)).sub a).mul (t.sub (.ofInt i)))

/-- The error of a table of `n` nodes that closes on itself: its reduction seam joins its two ends. -/
def ringErr (ak6 : Bool) (core n : Nat) (t : Num) : Num := lerp (fun i => sfuNode ak6 core (i % n)) t

/-- `x` rounded to odd to `n` significant bits. -/
def oddBits (n : Nat) (x : Num) : Num :=
  if x.isZero then .zero
  else
    let h := x.log2
    let (k, _) := roundCode .rto (x.abs.scale ((n : Int) - 1 - h))
    withSign x.isNeg { m := (k : Int), e := h - (n : Int) + 1 }

/-- log2 e held to 64 bits (R221; log 4). -/
def log2e64 : Num := { m := 0xb8aa3b295c17f0bc, e := -63 }

/-- The reduced argument t of EXP: 64 significant bits, with RTO. -/
def expArg (x : Num) : Num := oddBits 64 (x.mul log2e64)

/-- The error of EXP2 at `t`: 16 segments of the fraction, 8 in AK6 mode; none at an integer, since 2^0 is 1 (R229). -/
def exp2Err (ak6 : Bool) (t : Num) : Num :=
  lerp (fun i => if i % (if ak6 then 64 else 128) = 0 then .zero else sfuNode ak6 0 i)
    ((t.sub (.ofInt t.floor)).scale (if ak6 then 6 else 7))

/-- The error of e^x on the EXP path. -/
def expErr (ak6 : Bool) (x : Num) : Num := exp2Err ak6 (expArg x)

/-- m and n of x = 2^n m > 0, with m in [1, 2). -/
def binade (x : Num) : Num × Int := (x.scale (- x.log2), x.log2)

/-- m and n of R221's reduction of LOG2: m in [0.75, 1.5); in AK6 mode [1, 2). -/
def log2Arg (ak6 : Bool) (x : Num) : Num × Int :=
  let (m, n) := binade x
  if !ak6 && !(m.lt { m := 3, e := -1 }) then (m.scale (-1), n + 1) else (m, n)

/-- The error of log2 m, relative to log2 m. The end of the table is pinned: its value exceeds the value at the start by
exactly 1 (R222). -/
def log2Err (ak6 : Bool) (m : Num) : Num :=
  if ak6 then lerp (fun i => if i = 128 then .zero else sfuNode true 1 i) ((m.sub (.ofInt 1)).scale 7)
  else
    lerp (fun i => if i = 192 then (sfuNode false 1 0).mul ((lnNum { m := 3, e := -2 }).lo.div (lnNum { m := 3, e := -1 }).lo)
      else sfuNode false 1 i) ((m.sub { m := 3, e := -2 }).scale 8)

/-- The error of RECIP: 32 segments of m, 16 in AK6 mode. -/
def recipErr (ak6 : Bool) (x : Num) : Num :=
  ringErr ak6 2 (if ak6 then 128 else 256) (((binade x.abs).1.sub (.ofInt 1)).scale (if ak6 then 7 else 8))

/-- The error of SQRT (table 3) or RSQRT (table 4): x = 4^n m with m in [1, 4), 24 segments, 12 in AK6 mode. -/
def rootErr (ak6 : Bool) (core : Nat) (x : Num) : Num :=
  let m := x.scale (- (x.log2 / 2 * 2))
  ringErr ak6 core (if ak6 then 96 else 192) ((m.sub (.ofInt 1)).scale (if ak6 then 5 else 6))

/-- The error of s(-u), u ≥ 0: none at u = 0, where s(-u) and 1 - s(-u) meet; from u = 8 that of the EXP path, which the
table meets there. -/
def sigErr (ak6 : Bool) (u : Num) : Num :=
  let end_ : Nat := if ak6 then 128 else 256
  if u.lt (.ofInt 8) then
    lerp (fun i => if i = 0 then .zero else if i = end_ then expErr ak6 (.ofInt (-8)) else sfuNode ak6 5 i)
      (u.scale (if ak6 then 4 else 5))
  else expErr ak6 u.neg

/-- Where TANH goes over to the SIGMOID table: 0.5, in AK6 mode 0.75. -/
def tanhSeam (ak6 : Bool) : Num := if ak6 then { m := 3, e := -2 } else { m := 1, e := -1 }

/-- The internal value of tanh u from its exact value, u > 0. -/
def tanhInt (ak6 : Bool) (u y : Num) : Num :=
  let low (v : Num) : Num := (((sigNum (v.scale 1).neg).lo.mul (sigErr ak6 (v.scale 1))).scale 1).neg
  if u.lt (tanhSeam ak6) then
    let z := tanhSeam ak6
    y.add (y.mul (lerp (fun i => if i = (if ak6 then 48 else 32) then (low z).div (tanhNum z).lo else sfuNode ak6 6 i) (u.scale 6)))
  else y.add (low u)

/-- The internal value of erf u from its exact value, 0 < u < 6: the error is relative to the smaller of erf u and
1 - erf u, and the last node gives 1. -/
def erfInt (u y : Num) : Num :=
  let c := (Num.ofInt 1).sub y
  y.add ((y.min c).mul (lerp (fun i => if i = 384 then .ofInt 1 else sfuNode false 7 i) (u.scale 6)))

/-- The error of GELU_ERF on [-13.25, 8): 85 segments; the last node gives 8. -/
def geluErr (x : Num) : Num :=
  lerp (fun i => if i = 680 then
      let e := ivErfRoot2 (.ofInt 8)
      ((Num.ofInt 2).div ((Num.ofInt 1).add e.lo)).sub (.ofInt 1)
    else sfuNode false 8 i) ((x.add { m := 53, e := -2 }).scale 5)

/-- The error of sine on |δ|: four segments up to 1/8. -/
def sinErr (dl : Num) : Num := lerp (sfuNode false 10) (dl.scale 8)

/-- The error of cosine on |δ|, even in δ: none at 0, where the cosine is 1 (R229); at 1/8 that of the sine, where the two
meet. -/
def cosErr (dl : Num) : Num :=
  let e (i : Nat) : Num := if i = 0 then .zero else if i = 32 then sfuNode false 10 32 else sfuNode false 11 i
  let t := dl.scale 8
  let i := t.floor
  let a := e i.toNat
  let frac := ((t.mul t).sub (.ofInt (i * i))).div (.ofInt (2 * i + 1))
  a.add (((e (i.toNat + 1)).sub a).mul frac)

/-- The internal value of x s(v) from the exact value y: v > 0 takes s(v) as 1 - s(-v). -/
def gateInt (ak6 : Bool) (x v y : Num) : Num :=
  if v.isNeg then y.add (y.mul (sigErr ak6 v.abs))
  else y.sub (x.mul ((sigNum v.neg).lo.mul (sigErr ak6 v)))

/-! ### The functions (R217) -/

/-- v of GELU_TANH before its rounding to W. -/
def geluTanhArg (x : Num) : Iv :=
  let c := (ivSqrt ((Iv.exact (.ofInt 2)).div ivPi)).scale 1
  c.mul (Iv.exact (x.add (({ m := 44715, d := 1000000 } : Num).mul (x.mul (x.mul x)))))

/-- What the function of code `fn` is, on a finite input with no special value and no flush: an enclosure. -/
def sfuReal (fn : Nat) (x : Num) : Iv :=
  let tiny := !x.isZero && decide (x.log2 < -300)
  match fn with
  | 1 => if (Num.ofInt 1000).lt x then ivHuge else if tiny then { lo := (Num.ofInt 1).sub (.pow2 (-299)), hi := (Num.ofInt 1).add (.pow2 (-299)) }
         else expNum x
  | 2 => if (Num.ofInt 1000).lt x then ivHuge
         else if x.isInt then Iv.exact (.pow2 x.floor)
         else
           let n := x.floor
           let f := x.sub (.ofInt n)
           if decide (f.log2 < -300) then ({ lo := .ofInt 1, hi := (Num.ofInt 1).add (.pow2 (-299)) } : Iv).scale n
           else (ivExp ((Iv.exact f).mul ivLn2)).scale n
  | 3 => lnNum x
  | 4 => if x.eqv (.pow2 x.log2) then Iv.exact (.ofInt x.log2) else (lnNum x).div ivLn2
  | 5 => Iv.exact ((Num.ofInt 1).div x)
  | 6 => sqrtNum x
  | 7 => let r := sqrtNum x
         if r.lo = r.hi then Iv.exact ((Num.ofInt 1).div r.lo) else r.inv
  | 8 => sigNum x
  | 9 => if tiny then ivTiny x else let t := tanhNum x.abs; if x.isNeg then t.neg else t
  | 10 => if tiny then ivTiny x
          else
            let a := x.abs
            let t := if (Num.ofInt 13).lt a then { lo := (Num.ofInt 1).sub (.pow2 (-200)), hi := .ofInt 1 }
              else ivErf (Iv.exact a) ((a.mul a).scale 1)
            if x.isNeg then t.neg else t
  | 11 => if tiny then ivTiny x
          else
            let e := ivErfRoot2 x
            let one := Iv.exact (.ofInt 1)
            (Iv.exact x).mul ((if x.isNeg then one.sub e else one.add e).scale (-1))
  | 12 => if tiny then ivTiny x else (Iv.exact x).mul (ivSig (geluTanhArg x))
  | 13 => if tiny then ivTiny x else (Iv.exact x).mul (ivSig (Iv.exact (({ m := 1702, d := 1000 } : Num).mul x)))
  | 14 => if tiny then ivTiny x else (Iv.exact x).mul (sigNum x)
  | 15 => if x.isZero then ivLn2
          else if x.isNeg then (if x.lt (.ofInt (-1000)) then { lo := .pow2 (-2000), hi := .pow2 (-1400) } else ivLog1p (expNum x))
          else if (Num.ofInt 900).lt x then { lo := x, hi := x.add (.pow2 (-1200)) }
          else (Iv.exact x).add (ivLog1p (expNum x.neg))
  | _ => Iv.exact .zero

/-- The internal value of the function of code `fn` at `x` (R221, R222), `y` being its exact value to 400 bits or more. Beyond
the range of every format it is `y`. -/
def sfuInt (ak6 : Bool) (fn : Nat) (x y : Num) : Num :=
  if (Num.ofInt 900).lt x.abs && !([3, 4, 5, 6, 7].contains fn) then (if fn = 10 then withSign x.isNeg (.ofInt 1) else if fn = 11 && !x.isNeg then x else y)
  else
    match fn with
    | 1 => y.add (y.mul (expErr ak6 x))
    | 2 => y.add (y.mul (exp2Err ak6 x))
    | 3 => let (m, _) := log2Arg ak6 x; y.add ((lnNum m).lo.mul (log2Err ak6 m))
    | 4 => let (m, _) := log2Arg ak6 x; y.add (((lnNum m).lo.mul log2e64).mul (log2Err ak6 m))
    | 5 => y.add (y.mul (recipErr ak6 x))
    | 6 => y.add (y.mul (rootErr ak6 3 x))
    | 7 => y.add (y.mul (rootErr ak6 4 x))
    | 8 => if x.isNeg then y.add (y.mul (sigErr ak6 x.abs)) else y.sub ((sigNum x.neg).lo.mul (sigErr ak6 x))
    | 9 => withSign x.isNeg (tanhInt ak6 x.abs y.abs)
    | 10 => withSign x.isNeg (if x.abs.lt (.ofInt 6) then erfInt x.abs y.abs else .ofInt 1)
    | 11 => if x.lt (.ofInt 8) then y.add (y.mul (geluErr x)) else x
    | 12 => gateInt ak6 x (toW (geluTanhArg x).lo) y
    | 13 => gateInt ak6 x (toW (({ m := 1702, d := 1000 } : Num).mul x)) y
    | 14 => gateInt ak6 x x y
    | 15 =>
      let h := expErr ak6 x.abs.neg
      let w := (if x.isZero then .ofInt 1 else (expNum x.abs.neg).lo).mul ((Num.ofInt 1).add h)
      let l := y.sub (Num.zero.max x)
      y.add (l.mul (h.add (lerp (sfuNode ak6 9) (w.scale 8))))
    | _ => y

/-- The nearest integer to 4x, ties to even (R221). -/
def quarter (x : Num) : Int :=
  let y := x.scale 2
  let k := y.floor
  let two := (y.sub (.ofInt k)).scale 1
  if two.lt (.ofInt 1) then k else if (Num.ofInt 1).lt two then k + 1 else if k % 2 = 0 then k else k + 1

/-- The quadrant and remainder of R221's quarter-turn reduction: k, whether the cosine of δ is the result, whether its sign
changes, and δ. -/
def turnArg (cosine : Bool) (x : Num) : Bool × Bool × Num :=
  let k := quarter x
  let q := (k + (if cosine then 1 else 0)) % 4
  (q % 2 = 1, 2 ≤ q, x.sub { m := k, e := -2 })

/-- sin (or cos) of 2 pi x, of an exact number of turns (R221, R225). -/
def turnReal (cosine : Bool) (x : Num) : Iv :=
  let (useCos, flip, dl) := turnArg cosine x
  let a := dl.abs
  let t : Iv :=
    if dl.isZero then Iv.exact (if useCos then .ofInt 1 else .zero)
    else if useCos then (if decide (a.log2 < -200) then { lo := (Num.ofInt 1).sub (.pow2 (-390)), hi := .ofInt 1 } else ivCosTurn a)
    else
      let s := if decide (a.log2 < -300) then ivTiny a else ivSinTurn a
      if dl.isNeg then s.neg else s
  if flip then t.neg else t

/-- The internal value of a sine or cosine in turns: δ is rounded to W with RTO (R221, R231). -/
def turnInt (cosine : Bool) (x y : Num) : Num :=
  let (useCos, _, dl) := turnArg cosine x
  let a := (toW dl).abs
  y.add (y.mul (if useCos then cosErr a else sinErr a))

/-! ### Special values and flush thresholds -/

/-- The functions of the AK6 set (R237). -/
def ak6Set (fn : Nat) : Bool := [1, 2, 3, 4, 5, 6, 7, 8, 9, 12, 14].contains fn

/-- R227 and R239: the threshold below which the function returns +0. -/
def flushBelow (ak6 : Bool) (fn : Nat) : Option Num :=
  if ak6 then
    match fn with
    | 1 => some (.ofInt (-80)) | 2 => some (.ofInt (-115)) | 8 => some (.ofInt (-80)) | 14 => some (.ofInt (-80))
    | 12 => some { m := -19, e := -1 }
    | _ => none
  else
    match fn with
    | 1 => some { m := -175, e := -1 } | 2 => some (.ofInt (-126)) | 8 => some { m := -175, e := -1 }
    | 15 => some { m := -175, e := -1 } | 14 => some (.ofInt (-92)) | 11 => some { m := -53, e := -2 }
    | 12 => some { m := -41, e := -2 } | 13 => some (.ofInt (-54))
    | _ => none

/-- What R229 gives for a special input, before the final rounding; none where the accuracy rules decide. -/
def sfuSpecial (fn : Nat) (v : Val) : Option (Val × Flags) :=
  let one : Val := .fin (.ofInt 1)
  let zero : Val := .fin .zero
  match v with
  | .nan => some (.nan, {})
  | .inf false =>
    match fn with
    | 1 | 2 | 3 | 4 | 6 | 11 | 12 | 13 | 14 | 15 => some (.inf false, {})
    | 5 | 7 => some (zero, {})
    | 8 | 9 | 10 => some (one, {})
    | _ => some (.nan, Flags.INV)
  | .inf true =>
    match fn with
    | 1 | 2 | 5 | 8 | 11 | 12 | 13 | 14 | 15 => some (zero, {})
    | 9 | 10 => some (.fin (.ofInt (-1)), {})
    | _ => some (.nan, Flags.INV)
  | .fin x =>
    if x.isZero then
      match fn with
      | 1 | 2 | 17 => some (one, {})
      | 3 | 4 => some (.inf true, Flags.INV)
      | 5 | 7 => some (.inf false, Flags.INV)
      | 8 => some (.fin (.pow2 (-1)), {})
      | 15 => none
      | _ => some (zero, {})
    else if x.isNeg then
      match fn with
      | 3 | 4 | 6 | 7 => some (.nan, Flags.INV)
      | _ => none
    else none

/-- The unrounded result of a function: a value that the rules fix, a flush, or an enclosure of the exact real with the
internal value of the hardware. -/
inductive SfuVal where
  | fixed (v : Val) (f : Flags)
  | flush
  | real (y : Iv) (v : Num)
  deriving DecidableEq, Repr

/-- R217 to R229: function `fn` of an exact input value. -/
def sfuEval (ak6 : Bool) (fn : Nat) (v : Val) : SfuVal :=
  match sfuSpecial fn v with
  | some (r, f) => .fixed r f
  | none =>
    match v with
    | .fin x =>
      if (match flushBelow (ak6 && ak6Set fn) fn with | some t => x.lt t | none => false) then .flush
      else if fn = 16 || fn = 17 then let y := turnReal (fn = 17) x; .real y (turnInt (fn = 17) x y.lo)
      else let y := sfuReal fn x; .real y (sfuInt (ak6 && ak6Set fn) fn x y.lo)
    | _ => .fixed .nan {}

/-- The unrounded result, from which a block scale is chosen (R220). -/
def SfuVal.value : SfuVal → Val
  | .fixed v _ => v
  | .flush => .fin .zero
  | .real _ v => .fin v

/-- The flags that a result brings before its rounding: a flush sets UNF whatever it is stored as (R228). -/
def SfuVal.flags : SfuVal → Flags
  | .fixed _ f => f
  | .flush => { unf := true }
  | .real _ _ => {}

/-! ### The final rounding (R220, R224) -/

/-- What an output code is formed under: format, rounding, saturation, block-scale exponent of an SP block, channel
scale and zero point of an INT format. -/
structure OutCtx where
  fmt : Fmt
  rnd : Rnd
  sat : Bool
  exp : Int := 0
  chan : Num := .ofInt 1
  zp : Int := 0
  deriving DecidableEq, Repr

/-- R76, R80, R100: the code of an exact value. -/
def OutCtx.encode (o : OutCtx) (v : Val) : Nat × Flags :=
  match o.fmt with
  | .sp8 | .sp4 =>
    encodeFmt o.fmt o.rnd o.sat (match v with | .fin x => .fin (x.scale (- o.exp)) | w => w)
  | .int8 => encodeInt 8 o.chan o.zp o.rnd v
  | .int4 => encodeInt 4 o.chan o.zp o.rnd v
  | f => encodeFmt f o.rnd o.sat v

def Rnd.isRne : Rnd → Bool
  | .rne => true
  | _ => false

/-- How many values may lie between the result and the exact one (R224, R239). -/
def sfuSlack (ak6 : Bool) (f : Fmt) (rne : Bool) : Nat :=
  if ak6 then (match f with | .fp32 | .p32 => 3 | _ => 1)
  else match f with
    | .fp32 => if rne then 1 else 2
    | _ => if rne then 0 else 1

/-- Smallest and largest magnitude that R224 speaks of, with the largest magnitude code. -/
def fmtRange (f : Fmt) : Num × Num × Nat :=
  match f with
  | .p8 | .sp8 => (minpos 8 2, maxpos 8 2, 127)
  | .p16 => (minpos 16 2, maxpos 16 2, 32767)
  | .p32 => (minpos 32 2, maxpos 32 2, 2147483647)
  | .sp4 => (minpos 4 0, maxpos 4 0, 7)
  | .e4m3 => (.pow2 (-6), { m := 448 }, 0x7E)
  | .e5m2 => (.pow2 (-14), { m := 57344 }, 0x7B)
  | _ => (.pow2 (-126), (Num.pow2 128).sub (.pow2 104), 0x7F7FFFFF)

/-- The magnitude code of a positive value in a format's frame (R90). -/
def magCode (f : Fmt) (x : Num) : Num :=
  match f with
  | .p8 | .sp8 => positCode 8 2 x
  | .p16 => positCode 16 2 x
  | .p32 => positCode 32 2 x
  | .sp4 => positCode 4 0 x
  | .e4m3 => ieeeCode 3 7 x
  | .e5m2 => ieeeCode 2 15 x
  | _ => ieeeCode 23 127 x

/-- The code that carries a sign in a format. -/
def signCode (f : Fmt) (neg : Bool) (a : Nat) : Nat :=
  if f.isPosit then positSigned f.width neg a else if neg then a + 2 ^ (f.width - 1) else a

/-- R224's bound in P32 as a lowest and a highest magnitude code. The lowest value never falls as the result rises over a
power of two, which R226 needs. Where the taper leaves no code inside the bound, the two codes around the result (log 4). -/
def p32Bounds (t : Int) (a : Iv) : Int × Int :=
  let h := a.lo.log2
  let bnd : Num := { m := t, e := h - 23 }
  let lo := (a.lo.sub bnd).max ((Num.pow2 h).sub (bnd.scale (-1)))
  let l := if lo.lt (minpos 32 2) then 1 else (magCode .p32 lo).floor + 1
  let u := (magCode .p32 (a.hi.add bnd)).ceil - 1
  if l ≤ u then (l, u) else ((magCode .p32 a.lo).floor, (magCode .p32 a.hi).ceil)

/-- The admitted result codes of a nonzero magnitude in range, as a lowest and a highest magnitude code (R224, R239). P32
takes the formula of R224, 32 ulp between 1/16 and 16, not the 16 ulp of the texts of R105 and R224 (log 4). -/
def sfuBounds (ak6 : Bool) (f : Fmt) (rne : Bool) (a : Iv) : Nat × Nat :=
  let (mn, _, top) := fmtRange f
  let least := (magCode f mn).ceil.toNat
  let (l, h) :=
    match f with
    | .p32 => p32Bounds (if ak6 then 4 else if rne then 2 else 3) a
    | _ =>
      let k : Int := (sfuSlack ak6 f rne : Nat)
      ((magCode f a.lo).ceil - 1 - k, (magCode f a.hi).floor + 1 + k)
  (Nat.max least (Nat.min top l.toNat), Nat.max least (Nat.min top h.toNat))

/-- `x` moved into lo to hi. -/
def clampInt (lo hi x : Int) : Int := if x < lo then lo else if hi < x then hi else x

/-- Whether a code of a format (its value `r`) is the exact result: it sets no INX then (R103). -/
def sfuExact (y : Iv) (r : Val) : Bool := y.lo = y.hi && r.eqv (.fin y.lo)

/-- R220 and R224: the code and flags of an unrounded result: the internal value rounded once, moved to the nearest code that
the bounds admit. Outside the range of the format R94, R96 and R100 decide on the exact value. -/
def sfuRound (ak6 : Bool) (o : OutCtx) (r : SfuVal) : Nat × Flags :=
  match r with
  | .fixed v f => let (c, g) := o.encode v; (c, f.or g)
  | .flush => ((o.encode (.fin .zero)).1, { unf := true })
  | .real y v =>
    if o.fmt.isInt then
      let w := o.fmt.width
      let u := y.div (Iv.exact o.chan)
      let k : Int := if ak6 then 1 else if o.rnd.isRne then 0 else 1
      let cmin : Int := - ((2 ^ (w - 1) : Nat) : Int)
      let cmax : Int := ((2 ^ (w - 1) : Nat) : Int) - 1
      if (u.hi.add (.ofInt o.zp)).lt (.ofInt cmin) || (Num.ofInt cmax).lt (u.lo.add (.ofInt o.zp)) then o.encode (.fin y.lo)
      else
        let q := signed w (o.encode (.fin v)).1
        let q := clampInt (max cmin (o.zp + u.lo.ceil - 1 - k)) (min cmax (o.zp + u.hi.floor + 1 + k)) q
        (unsigned w q, { inx := !sfuExact y (.fin ((Num.ofInt (q - o.zp)).mul o.chan)) })
    else
      let (y, v) := if o.fmt.isSP then (y.scale (- o.exp), v.scale (- o.exp)) else (y, v)
      let neg := y.hi.isNeg || (y.lo.isNeg && y.hi.isZero)
      let a := if neg then y.neg else y
      let (mn, mx, _) := fmtRange o.fmt
      if a.lo.isZero || a.lo.isNeg || a.hi.lt mn || mx.lt a.lo then encodeFmt o.fmt o.rnd o.sat (.fin y.lo)
      else
        let (lo, hi) := sfuBounds ak6 o.fmt o.rnd.isRne a
        let v := if neg then v.neg else v
        let c := if v.lt mn then lo else if mx.lt v then hi
          else (clampInt (lo : Int) (hi : Int) ((encodeFmt o.fmt o.rnd o.sat (.fin v)).1 : Int)).toNat
        (signCode o.fmt neg c, { inx := !sfuExact a (decodeFmt o.fmt c) })

/-- R240: the two AK6 seams, as (function, operand and output format, input below the seam, seam). -/
def ak6Seam (fn : Nat) (src : Fmt) (o : OutCtx) (x : Num) : Option Num :=
  match fn, src, o.fmt with
  | 8, .fp32, .fp32 => if x.eqv { m := 0xFFFFFF, e := -23 } then some (.ofInt 2) else none
  | 2, .p16, .p16 => if (Val.fin x).eqv (decodeFmt .p16 0x37FF) then some (.pow2 (-1)) else none
  | _, _, _ => none

/-- The result of one SFU function in its output format (R217 to R240). -/
def sfuResult (ak6 : Bool) (fn : Nat) (src : Fmt) (o : OutCtx) (v : Val) : Nat × Flags :=
  let m := ak6 && ak6Set fn
  let go (v : Val) : Nat × Flags := sfuRound m o (sfuEval m fn v)
  match v with
  | .fin x =>
    match (if m then (match o.rnd with | .sr _ => none | _ => ak6Seam fn src o x) else none) with
    | some seam => let (c, f) := go (.fin seam); (c + 1, { f with inx := true })
    | none => go v
  | w => go w

/-- R231: the exact phase of ROPE in turns, from an integer position and a 64-bit frequency. -/
def ropePhase (p f : Nat) : Num := { m := (((p * f) % 2 ^ 64 : Nat) : Int), e := -64 }

end Sys2Proof.Machine
end

