-- ==== Sys2Proof/Machine/Operands.lean ====
section
/-! DEFINITION. Operand forms: Catalogue entries (R271 to R277), block scales (R69 to R76), the layout of tensors (R72,
R319), loads through the converter (R74, R97 to R101), stores of a result matrix, stochastic draws (R93, R373 to R375).
Uncorrectable words reach the reader here (R429). -/
namespace Sys2Proof.Machine

/-! ### Stochastic draws -/

/-- What the draws of a launch depend on: rounding code, seed, step counter, stream and class (R373, R374). -/
structure RndCtx where
  code : Nat
  seed : Nat
  step : Nat
  stream : Nat
  cls : Nat
  /-- Free-running draws under VARY with STRICT = 0 (R370), from this draw number. -/
  vary : Option Nat
  deriving DecidableEq, Repr

/-- The rounding of element `e`, of array `a` and part `part`. -/
def RndCtx.at (x : RndCtx) (a part e : Nat) : Rnd :=
  match x.code with
  | 0 => .rne
  | 1 => .rto
  | _ => match x.vary with
    | some n => .sr (Config.freeDraw (n * 2 ^ 44 + (part + 2 * a) * 2 ^ 40 + e) % 2 ^ 24)
    | none => .sr (philoxDraw x.seed x.step x.stream x.cls a part e)

/-- The seed in force of a slot (R378). -/
def State.seedOf (s : State) (k : Nat) : Nat :=
  s.getF pgDev (Reg.DEV_SEED_LO_SEED k) + s.getF pgDev (Reg.DEV_SEED_HI_SEED k) * 2 ^ 32

/-- The free-running generator draws for this launch: VARY = 1, RND = SR, STRICT = 0 (R370). -/
def State.freeRunning (s : State) (d : Desc) : Bool :=
  d.rounds && d.vary && d.rnd = 2 && !s.flag pgDev Reg.DEV_DET_CTL_STRICT

/-- The rounding context of a launch of classes 0 to 4. -/
def State.rndCtx (s : State) (d : Desc) : RndCtx :=
  { code := d.rnd, seed := s.seedOf d.seed, step := (s.run d.grp).step, stream := d.slot, cls := d.cls,
    vary := if s.freeRunning d then some s.draw else none }

/-! ### The Catalogue -/

/-- A Catalogue entry as a launch uses it: its value, its zero point, whether it is malformed (R272). -/
structure CatEnt where
  val : Val
  zp : Int
  bad : Bool
  deriving DecidableEq, Repr

/-- Error mark of a Catalogue entry. -/
def State.catErr (s : State) (c i : Nat) : Nat := if s.errs.isEmpty then 0 else sget (fun _ => 0) s.errs (cwName (4 * 4096 + c) (8 * i))

def State.catWord (s : State) (c i : Nat) : BitVec 64 := sget (fun _ => 0) s.cat (4096 * c + i)

/-- R271, R272; an uncorrectable entry is treated as malformed (R429, CAT). -/
def State.catEnt (s : State) (c i : Nat) : CatEnt :=
  let w := (s.catWord c i).toNat
  let kind := bits w 41 40
  let v := bits w 31 0
  let bad := decide (2 ≤ kind) || decide (bits w 63 42 ≠ 0) || (kind = 0 && decide (bits w 31 6 ≠ 0)) || s.catErr c i = 2
  { val := if bad then .nan else if kind = 0 then .fin (.pow2 (signed 6 v)) else decodeFP32 v,
    zp := signed 8 (bits w 39 32), bad := bad }

/-- R277: scale and zero point of an INT channel; none where the entry is not valid. -/
def CatEnt.channel (e : CatEnt) (f : Fmt) : Option (Num × Int) :=
  match e.val with
  | .fin c =>
    let lo : Int := if f = .int4 then -8 else -128
    let hi : Int := if f = .int4 then 7 else 127
    if c.isZero || e.bad || decide (e.zp < lo) || decide (hi < e.zp) then none else some (c, e.zp)
  | _ => none

/-- R275: the block scale that an entry names under GIVEN. -/
def CatEnt.blockScale (e : CatEnt) : Option Int :=
  match e.val with
  | .fin c =>
    if e.bad || c.isZero || c.isNeg then none
    else
      let h := c.log2
      if c.eqv (.pow2 h) && decide (-32 ≤ h) && decide (h ≤ 31) then some h else none
  | _ => none

/-! ### Block scales (R69, R71, R75) -/

def blkSize : Nat → Option Nat
  | 0 => some 8 | 1 => some 16 | 2 => some 32 | 3 => some 64 | 4 => some 128
  | _ => none

def blkTarget (f : Fmt) : Int := if f = .sp4 then 2 else 4

/-- The largest finite magnitude of some values; none where none is finite. -/
def maxMag (vs : List Val) : Option Num :=
  vs.foldl (fun m v => match v with
    | .fin x => (match m with | none => some x.abs | some y => some (y.max x.abs))
    | _ => m) none

def clampScale (e : Int) : Int := max (-32) (min 31 e)

/-- R75. A block without a finite value, to which the rule gives no a, takes s = 0 (DESIGN CHOICE, log 86). -/
def blockMax (f : Fmt) (vs : List Val) : Int :=
  match maxMag vs with
  | none => 0
  | some a => if a.isZero then 0 else clampScale (a.clog2 - blkTarget f)

/-! ### Tensors in memory (R72, R73, R319) -/

/-- A tensor in memory: device address, logical shape, format, blocking (DIR COLS as true), integer channels. -/
structure Tensor where
  addr : Nat
  rows : Nat
  cols : Nat
  fmt : Fmt
  blk : Nat := 8
  dirCols : Bool := false
  xcat : Nat := 0
  xch : Bool := false
  /-- The channel of an element is its column, not its row (R276). -/
  chanCol : Bool := false
  deriving DecidableEq, Repr

def padUp (n b : Nat) : Nat := ceilDiv n b * b

/-- Stored columns and rows: padded in the sharing direction of a block-scaled format (R73). -/
def Tensor.pc (t : Tensor) : Nat := if t.fmt.isSP && !t.dirCols then padUp t.cols t.blk else t.cols
def Tensor.pr (t : Tensor) : Nat := if t.fmt.isSP && t.dirCols then padUp t.rows t.blk else t.rows

/-- Bytes of `n` consecutive elements that begin a row. -/
def Fmt.bytes (f : Fmt) (n : Nat) : Nat := ceilDiv (n * f.width) 8

def Tensor.rowBytes (t : Tensor) : Nat := t.fmt.bytes t.pc

def Tensor.elemBytes (t : Tensor) : Nat := t.pr * t.rowBytes

/-- Blocks of a block-scaled tensor. -/
def Tensor.blocks (t : Tensor) : Nat :=
  if !t.fmt.isSP then 0 else if t.dirCols then t.cols * (t.pr / t.blk) else t.rows * (t.pc / t.blk)

/-- R319: the scale array starts at the first 8-byte boundary after the elements. -/
def Tensor.scaleAddr (t : Tensor) : Nat := padUp (t.addr + t.elemBytes) 8

/-- The bytes that the tensor occupies from its address, scale array included. -/
def Tensor.size (t : Tensor) : Nat := if t.fmt.isSP then t.scaleAddr + t.blocks - t.addr else t.elemBytes

/-- R72: the scale index of element (i, j). -/
def Tensor.scaleIdx (t : Tensor) (i j : Nat) : Nat :=
  if t.dirCols then j * (t.pr / t.blk) + i / t.blk else i * (t.pc / t.blk) + j / t.blk

/-- Byte address of element (i, j). -/
def Tensor.elemAddr (t : Tensor) (i j : Nat) : Nat := t.addr + i * t.rowBytes + j * t.fmt.width / 8

/-- The members of the block that holds (i, j), within the logical shape. -/
def Tensor.block (t : Tensor) (i j : Nat) : List (Nat × Nat) :=
  if t.dirCols then ((List.range t.blk).map (fun k => (i / t.blk * t.blk + k, j))).filter (fun p => p.1 < t.rows)
  else ((List.range t.blk).map (fun k => (i, j / t.blk * t.blk + k))).filter (fun p => p.2 < t.cols)

/-! ### Loads -/

/-- One element as an engine takes it: code in the operand format, exact value, drawn from an uncorrectable word. -/
structure Elem where
  code : Nat
  val : Val
  ue : Bool
  deriving DecidableEq, Repr

/-- The code of element (i, j) as memory holds it, read through a key slot. -/
def State.elemCode (s : State) (slot : Nat) (t : Tensor) (i j : Nat) : Nat :=
  let a := t.elemAddr i j
  match t.fmt.width with
  | 4 => ((s.readByte slot a).toNat >>> (if j % 2 = 0 then 0 else 4)) % 16
  | w => ofLeBytes (s.readBytes slot a (w / 8))

/-- The element as the memory format defines it, with the flag that reading it sets (R69, R277). -/
def State.elemOf (s : State) (c slot : Nat) (t : Tensor) (i j : Nat) : Elem × Flags :=
  let code := s.elemCode slot t i j
  let ue0 := s.ueIn (t.elemAddr i j) (ceilDiv t.fmt.width 8)
  if t.fmt.isSP then
    let sb := (s.readByte slot (t.scaleAddr + t.scaleIdx i j)).toNat
    let ue := ue0 || s.ueIn (t.scaleAddr + t.scaleIdx i j) 1
    if 64 ≤ sb then ({ code := 2 ^ (t.fmt.width - 1), val := .nan, ue := ue }, Flags.INV)
    else
      let v := match decodeFmt t.fmt code with
        | .fin x => Val.fin (x.scale (signed 6 sb))
        | w => w
      ({ code := code, val := if ue then .nan else v, ue := ue }, {})
  else if t.fmt.isInt then
    let k := t.xcat + (if t.xch then (if t.chanCol then j else i) else 0)
    match (s.catEnt c k).channel t.fmt with
    | none => ({ code := code, val := .nan, ue := ue0 }, Flags.INV)
    | some (sc, z) =>
      let q := signed t.fmt.width code
      ({ code := code, val := if ue0 then .nan else .fin ((Num.ofInt (q - z)).mul sc), ue := ue0 }, {})
  else ({ code := code, val := if ue0 then .nan else decodeFmt t.fmt code, ue := ue0 }, {})

/-- What a load gives: elements row by row, flags, and the largest finite source magnitude (R102). -/
structure Loaded where
  rows : List (List Elem)
  fl : Flags
  mag : Option Num
  deriving DecidableEq, Repr

def Loaded.at (l : Loaded) (i j : Nat) : Elem :=
  (l.rows.getD i []).getD j { code := 0, val := .fin .zero, ue := false }

def orFlags (fs : List Flags) : Flags := fs.foldl Flags.or {}

/-- A load of a tensor into an operand format (R74, R90, R97 to R101). `oblk` and `ocols` are the operand's own blocking
where the operand format is block-scaled. -/
def State.load (s : State) (c : Nat) (t : Tensor) (op : Fmt) : Loaded :=
  let raw := (List.range t.rows).map (fun i => (List.range t.cols).map (fun j => s.elemOf c 0 t i j))
  let src (i j : Nat) : Val := ((raw.getD i []).getD j ({ code := 0, val := .fin .zero, ue := false }, {})).1.val
  let mag := maxMag (raw.flatten.map (fun e => e.1.val))
  let fl0 := orFlags (raw.flatten.map (·.2))
  if t.fmt = op then { rows := raw.map (fun r => r.map (·.1)), fl := fl0, mag := mag }
  else
    let ot : Tensor := { t with fmt := op }
    let conv : List (List (Elem × Flags)) := raw.zipIdx.map (fun (r, i) => r.zipIdx.map (fun (e, j) =>
      let exp := if op.isSP then blockMax op ((ot.block i j).map (fun p => src p.1 p.2)) else 0
      let sat := decide (op = Fmt.e4m3)
      if op.isInt then
        let k := t.xcat + (if t.xch then (if t.chanCol then j else i) else 0)
        match (s.catEnt c k).channel op with
        | none => ({ code := 2 ^ (op.width - 1), val := Val.nan, ue := e.1.ue }, Flags.INV)
        | some (sc, z) =>
          let (q, f) := encodeInt op.width sc z .rne e.1.val
          ({ code := q, val := .fin ((Num.ofInt (signed op.width q - z)).mul sc), ue := e.1.ue }, f)
      else
        let v := match e.1.val with | .fin x => Val.fin (x.scale (- exp)) | w => w
        let (q, f) := encodeFmt op .rne sat v
        let w := match decodeFmt op q with | .fin x => Val.fin (x.scale exp) | w => w
        ({ code := q, val := if e.1.ue then .nan else w, ue := e.1.ue }, f)))
    { rows := conv.map (fun r => r.map (·.1)), fl := orFlags (fl0 :: conv.flatten.map (·.2)), mag := mag }

/-- A flat vector of `n` elements at a device address. -/
def vec (addr n : Nat) (f : Fmt) : Tensor := { addr := addr, rows := 1, cols := n, fmt := f }

/-! ### Stores -/

/-- Where and how a result matrix is stored. -/
structure Store where
  t : Tensor
  sat : Bool
  /-- SSRC: BLOCKMAX, or the block scale of Catalogue entry SCAT (R74, R275). -/
  blockmax : Bool
  scat : Nat
  deriving DecidableEq, Repr

/-- What a store writes: byte runs, flags, largest finite magnitude before rounding. -/
structure Stored where
  runs : List (Nat × List Byte)
  fl : Flags
  mag : Option Num
  deriving DecidableEq, Repr

/-- The bytes of a row of codes (R72). -/
def packRow (f : Fmt) (codes : List Nat) : List Byte :=
  match f.width with
  | 4 => (List.range (ceilDiv codes.length 2)).map (fun k =>
      BitVec.ofNat 8 (codes.getD (2 * k) 0 % 16 + codes.getD (2 * k + 1) 0 % 16 * 16))
  | w => codes.flatMap (fun c => leBytes (w / 8) c)

/-- Stores a matrix whose element (i, j) is encoded by `enc` in its output context; `vals` gives the unrounded values
from which block scales and reports are taken (R74 to R76, R102, R275 to R277). Pad elements are zeros (R73). -/
def State.storeWith (s : State) (c : Nat) (st : Store) (vals : List (List Val)) (rnd : Nat → Nat → Rnd)
    (enc : Nat → Nat → OutCtx → Nat × Flags) : Stored :=
  let t := st.t
  let at_ (i j : Nat) : Val := (vals.getD i []).getD j (.fin .zero)
  let given := (s.catEnt c st.scat).blockScale
  let bad := t.fmt.isSP && !st.blockmax && given.isNone
  let expOf (i j : Nat) : Int :=
    if !t.fmt.isSP then 0
    else if st.blockmax then blockMax t.fmt ((t.block i j).map (fun p => at_ p.1 p.2))
    else given.getD 0
  let cell (i j : Nat) : Nat × Flags :=
    let o : OutCtx := { fmt := t.fmt, rnd := rnd i j, sat := st.sat, exp := expOf i j }
    if bad then (2 ^ (t.fmt.width - 1), Flags.INV)
    else if t.fmt.isInt then
      match (s.catEnt c (t.xcat + (if t.xch then (if t.chanCol then j else i) else 0))).channel t.fmt with
      | none => (2 ^ (t.fmt.width - 1), Flags.INV)
      | some (sc, z) => enc i j { o with chan := sc, zp := z }
    else enc i j o
  let cells := (List.range t.rows).map (fun i => (List.range t.cols).map (fun j => cell i j))
  let row (i : Nat) : List Nat := (cells.getD i []).map (·.1)
  let elems := (List.range t.pr).map (fun i =>
    (t.addr + i * t.rowBytes, packRow t.fmt (row i ++ List.replicate (t.pc - (row i).length) 0)))
  let scales :=
    if !t.fmt.isSP then []
    else
      let nb := if t.dirCols then t.pr / t.blk else t.pc / t.blk
      let lines := if t.dirCols then t.cols else t.rows
      [(t.scaleAddr, (List.range lines).flatMap (fun l => (List.range nb).map (fun b =>
        BitVec.ofNat 8 (if bad then 0 else unsigned 6 (if t.dirCols then expOf (b * t.blk) l else expOf l (b * t.blk))))))]
  { runs := (elems ++ scales).filter (fun p => !p.2.isEmpty), fl := orFlags (cells.flatten.map (·.2)),
    mag := maxMag vals.flatten }

/-- Stores exact values, each rounded once (R99, R100). -/
def State.store (s : State) (c : Nat) (st : Store) (vals : List (List Val)) (rnd : Nat → Nat → Rnd) : Stored :=
  s.storeWith c st vals rnd (fun i j o => o.encode ((vals.getD i []).getD j (.fin .zero)))

/-- The effects of a store. -/
def Stored.effs (x : Stored) : List Eff := x.runs.map (fun p => Eff.mem p.1 p.2)

/-! ### Gatherer reports (R281, R282) -/

/-- The exponent class of a report: none is the empty class. -/
def classOf (m : Option Num) : Option Int :=
  match m with
  | none => none
  | some a => if a.isZero then none else some a.clog2

/-- The report of a launch whose GSRC is `src`. -/
def Desc.report (d : Desc) (src : Nat) (m : Option Num) : List Eff :=
  if d.gsrc = src then [.gather d.gslot (classOf m)] else []

/-! ### Local ranges (R318, R320) -/

/-- A local range of `n` bytes from local address `a` stays in one memory of the cluster. -/
def localOk (a n : Nat) : Bool :=
  if a < 0x80000 then decide (8 * a + n ≤ 0x400000)
  else if a < 0xA0000 then decide (8 * a + n ≤ 0x500000)
  else false

/-- The range lies in the weight store. -/
def inWs (a n : Nat) : Bool := decide (a < 0x80000) && decide (8 * a + n ≤ 0x400000)

/-- A dependency entry of a local range of cluster c. -/
def depOf (c a n : Nat) (w : Bool) : DepRange := { cat := false, lo := localAddr c a, hi := localAddr c a + n, writes := w }

/-- A dependency entry of Catalogue entries. -/
def depCat (i n : Nat) (w : Bool) : DepRange := { cat := true, lo := i, hi := i + n, writes := w }

def DepRange.overlaps (a b : DepRange) : Bool := a.cat == b.cat && decide (a.lo < b.hi) && decide (b.lo < a.hi)

end Sys2Proof.Machine
end

