-- ==== Sys2Proof/Machine/Session.lean ====
section
/-! DEFINITION. Session records and span entries of the Archive, as plain memory holds them (R406, R408, R409). -/
namespace Sys2Proof.Machine

/-! ### Records in plain memory -/

/-- A session record (R408). -/
structure SessRec where
  state : Nat
  kslot : Nat
  dsel : Nat
  dfmt : Nat
  ageEn : Nat
  nstream : Nat
  age : Nat
  maxpos : Nat
  len : Nat
  ptBase : Nat
  scpg : Nat
  scnext : Nat
  deriving DecidableEq, Repr

def sessFree : Nat := 0
def sessActive : Nat := 1
def sessScrubbing : Nat := 2
def sessRekeying : Nat := 3

/-- Base of the session table (R441). -/
def State.sessBase (s : State) : Nat :=
  s.getF pgDev Reg.DEV_ARC_SESS_LO_ADDR + s.getF pgDev Reg.DEV_ARC_SESS_HI_ADDR * 2 ^ 32

/-- The record of session n; while the Archive is out of service every session reads as FREE (log 22). -/
def State.sess (s : State) (n : Nat) : SessRec :=
  let w := s.readNat (s.sessBase + 64 * n) 64
  { state := if s.flag pgDev Reg.DEV_ARC_CFG_EN then bits w 1 0 else 0, kslot := bits w 9 2, dsel := bits w 11 10,
    dfmt := bits w 12 12, ageEn := bits w 13 13, nstream := bits w 23 14, age := bits w 45 24, maxpos := bits w 68 46,
    len := bits w 91 69, ptBase := bits w 139 92, scpg := bits w 163 140, scnext := bits w 168 164 }

/-- Writes a record back (R408). -/
def State.setSess (s : State) (n : Nat) (r : SessRec) : State :=
  let v := r.state + r.kslot * 2 ^ 2 + r.dsel * 2 ^ 10 + r.dfmt * 2 ^ 12 + r.ageEn * 2 ^ 13 + r.nstream * 2 ^ 14
    + r.age * 2 ^ 24 + r.maxpos * 2 ^ 46 + r.len * 2 ^ 69 + r.ptBase * 2 ^ 92 + r.scpg * 2 ^ 140 + r.scnext * 2 ^ 164
  s.writeBytes 0 (s.sessBase + 64 * n) (leBytes 64 v)

/-- The head dimension (R408). -/
def SessRec.dim (r : SessRec) : Nat := 64 * 2 ^ r.dsel

/-- R406: positions of a span. -/
def SessRec.spanLen (r : SessRec) : Nat := 131072 / r.dim

/-- R409: spans of a stream. -/
def SessRec.ns (r : SessRec) : Nat := ceilDiv r.maxpos r.spanLen

/-- The Display format (R408). -/
def SessRec.fmt (r : SessRec) : Fmt := if r.dfmt = 1 then .p16 else .p8

/-- Pages of a Display span (R406). -/
def SessRec.dpages (r : SessRec) : Nat := if r.dfmt = 1 then 4 else 2

/-- A span entry (R409). -/
structure Span where
  p0 : Nat
  p1 : Nat
  p2 : Nat
  p3 : Nat
  tier : Nat
  sslot : Nat
  fill : Nat
  deriving DecidableEq, Repr

def tierEmpty : Nat := 0
def tierDisplay : Nat := 1
def tierReserve : Nat := 2
def tierTransit : Nat := 3

def Span.page (e : Span) (k : Nat) : Nat := match k with | 0 => e.p0 | 1 => e.p1 | 2 => e.p2 | _ => e.p3

def SessRec.spanAddr (r : SessRec) (t k : Nat) : Nat := r.ptBase + 16 * (t * r.ns + k)

def State.span (s : State) (r : SessRec) (t k : Nat) : Span :=
  let w := s.readNat (r.spanAddr t k) 16
  { p0 := bits w 23 0, p1 := bits w 47 24, p2 := bits w 71 48, p3 := bits w 95 72, tier := bits w 97 96,
    sslot := bits w 101 98, fill := bits w 113 102 }

def State.setSpan (s : State) (r : SessRec) (t k : Nat) (e : Span) : State :=
  s.writeBytes 0 (r.spanAddr t k) (leBytes 16 (e.p0 + e.p1 * 2 ^ 24 + e.p2 * 2 ^ 48 + e.p3 * 2 ^ 72 + e.tier * 2 ^ 96
    + e.sslot * 2 ^ 98 + e.fill * 2 ^ 102))

/-- R406: device address of position i of a span, and of its scale bytes in the Reserve tier. -/
def SessRec.posAddr (r : SessRec) (e : Span) (i : Nat) : Nat :=
  if e.tier = tierReserve then e.p0 * 65536 + i * r.dim / 2
  else
    let o := i * r.dim * (if r.dfmt = 1 then 2 else 1)
    e.page (o / 65536) * 65536 + o % 65536

def SessRec.scaleAddr (r : SessRec) (e : Span) (i : Nat) : Nat := e.p1 * 65536 + 4096 * e.sslot + i * r.dim / 32

/-- Sessions that are not FREE. -/
def State.liveSess (s : State) : List Nat :=
  if s.flag pgDev Reg.DEV_ARC_CFG_EN then (List.range 16384).filter (fun n => decide ((s.sess n).state ≠ sessFree)) else []

/-- Bytes of a session's page table (R409). -/
def SessRec.tableBytes (r : SessRec) : Nat := 16 * ((r.nstream + 1) * r.ns)

/-- The plain-memory ranges that the Archive uses: the session table, and the page tables of the sessions that are not
FREE (R408, R409). -/
def State.arcRanges (s : State) : List (Nat × Nat) :=
  if s.flag pgDev Reg.DEV_ARC_CFG_EN then
    (s.sessBase, 1048576) :: s.liveSess.map (fun n => let r := s.sess n; (r.ptBase, r.tableBytes))
  else []

end Sys2Proof.Machine
end

