-- ==== Sys2Proof/Machine/Log.lean ====
section
/-! DEFINITION. Input queues (R538, R539), the log ring of RECORD and REPLAY (R389 to R395), captures of a difference
(R385), and the Accession cipher that both queues and log keep records in (R550, R552). -/
namespace Sys2Proof.Machine

/-! ### The Accession cipher (R550; log 8) -/

/-- AES-GCM adds a key stream: the same operation encrypts and decrypts. Direction 0 is towards the package. -/
def gcm (secret dir seq : Nat) (bs : List Byte) : List Byte :=
  bs.zipIdx.map (fun (b, i) => b ^^^ BitVec.ofNat 8 (Config.crypto 40 [secret, dir, seq, i]))

/-- The 16-byte tag of a message. -/
def gcmTag (secret dir seq : Nat) (bs : List Byte) : List Byte :=
  (List.range 16).map (fun i => BitVec.ofNat 8 (Config.crypto 41 ([secret, dir, seq, i] ++ bs.map (·.toNat))))

/-! ### Rings in memory -/

/-- Writes bytes into a ring of `size` bytes at `base`, from offset `off`, going round its end. -/
def State.ringWrite (s : State) (base size off : Nat) (bs : List Byte) : State :=
  let n := size - off
  let s := s.writeBytes 0 (base + off) (bs.take n)
  if bs.length ≤ n then s else s.writeBytes 0 base (bs.drop n)

/-- Bytes of a ring. -/
def State.ringRead (s : State) (base size off n : Nat) : List Byte :=
  let k := size - off
  if n ≤ k then s.readBytes 0 (base + off) n else s.readBytes 0 (base + off) k ++ s.readBytes 0 base (n - k)

/-! ### Input queues (R538, R539) -/

def State.iqBase (s : State) (q : Nat) : Nat := 65536 * s.getF pgPci (Reg.PCI_IQ_CFG_PAGE q)
def State.iqSize (s : State) (q : Nat) : Nat := 65536 * s.getF pgPci (Reg.PCI_IQ_SIZE_PAGES q)

/-- Bytes that a record of `n` bytes occupies. -/
def iqBytes (n : Nat) : Nat := 8 + (n + 7) / 8 * 8

/-- Bytes of queue q in use, records held for log space included. -/
def State.iqUsed (s : State) (q : Nat) : Nat :=
  ((s.iq q).recs.map (fun r => iqBytes r.payload.length)).foldl (· + ·) 0
    + ((s.logHeld.filter (fun h => h.kind = 0 && h.q = q)).map (fun h => iqBytes h.payload.length)).foldl (· + ·) 0

def State.iqFits (s : State) (q n : Nat) : Bool := decide (s.iqUsed q + iqBytes n ≤ s.iqSize q)

/-- A record reaches its queue. -/
def State.pushRec (s : State) (q : Nat) (r : IqRec) : State :=
  let x := s.iq q
  let size := s.iqSize q
  let n := r.payload.length
  let bs := leBytes 8 n ++ r.payload ++ List.replicate (iqBytes n - 8 - n) 0
  if size = 0 then s.setIq q { x with recs := x.recs ++ [r] }
  else (s.ringWrite (s.iqBase q) size x.wr bs).setIq q { x with recs := x.recs ++ [r], wr := (x.wr + bs.length) % size }

/-! ### The log ring (R389 to R393) -/

def State.logBase (s : State) : Nat := s.getF pgDev Reg.DEV_LOG_BASE_LO_ADDR + s.getF pgDev Reg.DEV_LOG_BASE_HI_ADDR * 2 ^ 32
def State.logSize (s : State) : Nat := 65536 * s.getF pgDev Reg.DEV_LOG_SIZE_PAGES
def State.logHead (s : State) : Nat := s.getF pgDev Reg.DEV_LOG_HEAD_OFF
def State.logTail (s : State) : Nat := s.getF pgDev Reg.DEV_LOG_TAIL_OFF

def State.logUsed (s : State) : Nat :=
  if s.logFull then s.logSize else (s.logHead + s.logSize - s.logTail) % (max 1 s.logSize)

/-- R391: header and padded payload. -/
def logRecord (land seq kind q src : Nat) (payload : List Byte) : List Byte :=
  let n := payload.length
  leBytes 8 land ++ leBytes 4 seq ++ leBytes 3 n ++ leBytes 1 kind ++ leBytes 1 q ++ leBytes 1 src ++ leBytes 2 0
    ++ leBytes 4 (crc32c payload).toNat ++ leBytes 8 0 ++ payload ++ List.replicate ((n + 31) / 32 * 32 - n) 0

/-- LAND of a record that enters the ring now (R389): the first landing of LOGGRP whose scheduled instant follows; 0 before
the run's barrier instant. While LOGGRP is pre-empted, no later landing has an instant yet, so it is the next one. -/
def State.landOf (s : State) : Nat :=
  let g := s.getF pgDev Reg.DEV_DET_CTL_LOGGRP
  let r := s.run g
  let mine (c : Nat) : Bool :=
    s.doc c = docFlight || s.doc c = docWindow || s.doc c = docSaved
      || (s.doc c = docBarrier && (match (s.clu c).barrier with | some (_, _, _, h) => h = g | none => false) && decide (r.idx ≠ 0))
  let inRun := (List.range 512).any (fun c => s.grpOf c = g && mine c)
  if !inRun || (r.idx = 0 && decide (s.rot < r.tStart)) then 0
  else if r.lam = 0 || decide (s.rot < r.lam) then r.idx + 1 else r.idx + 2

/-- Writes one record into the ring, where it fits. -/
def State.logAppend (s : State) (h : LogHeld) : Option State :=
  let land := if h.kind = 1 then h.land else s.landOf
  let bs := logRecord land s.logSeq h.kind h.q h.src h.payload
  if s.logSize < s.logUsed + bs.length then none
  else
    let t := s.ringWrite s.logBase s.logSize s.logHead bs
    let head := (s.logHead + bs.length) % s.logSize
    let t := (t.setF pgDev Reg.DEV_LOG_HEAD_OFF head).count pgDev Reg.DEV_CNT_LOGREC 1
    let t := { t with inq.logSeq := (s.logSeq + 1) % 2 ^ 32, inq.logFull := head = s.logTail }
    some (if h.kind = 1 then t
      else t.pushRec h.q { payload := h.payload, reached := s.rot, land := land, acc := h.acc })

/-- A DMA channel no longer waits for log space. -/
def State.unhold (s : State) (chan : Option Nat) : State :=
  match chan with
  | some c => { s with plat.dma := s.dma.map (fun (p : Nat × DmaRun) => if p.1 = c then (p.1, { p.2 with held := false }) else p) }
  | none => s

/-- The records held for space enter the ring, in order, while they fit (R393). -/
def State.flushLog : Nat → State → State
  | 0, s => s
  | n + 1, s =>
    match s.logHeld with
    | [] => s
    | h :: rest => match { s with inq.logHeld := rest }.logAppend h with
      | some t =>
        flushLog n (t.unhold h.chan)
      | none => s

/-- A record of RECORD mode enters the ring, or is held with LOG_FULL (R389, R390, R393). -/
def State.logRecordIn (s : State) (h : LogHeld) : State :=
  let full (s : State) : State :=
    { s with inq.logHeld := s.logHeld ++ [h] }.raise pgDev 7 0x17 1 (leBytes 4 s.logHead ++ leBytes 4 s.logTail ++ leBytes 1 h.q)
  if !s.logHeld.isEmpty then full s
  else match s.logAppend h with
    | some t => t
    | none => full s

/-- Recording ends: the records held for log space reach their queues unlogged (log 90). -/
def State.releaseLog (s : State) : State :=
  s.logHeld.foldl (fun s h =>
    let s := s.unhold h.chan
    if h.kind = 1 then s else s.pushRec h.q { payload := h.payload, reached := s.rot, land := 0, acc := h.acc })
    { s with inq.logHeld := [] }

/-- A record arrives for queue q from source `src` (0 PCI Express, 1 and 2 Accession): the state, and whether it was
refused for want of space (R389, R394, R539). -/
def State.arrive (s : State) (q src : Nat) (payload : List Byte) (acc : Option (Nat × Nat × Nat)) (chan : Option Nat) : State × Bool :=
  let mode := s.getF pgDev Reg.DEV_DET_CTL_DIVERGE
  if mode = 3 then (s.count pgDev Reg.DEV_CNT_REPLAY_DROP 1, false)
  else if !s.iqFits q payload.length then (s, true)
  else if mode = 2 then
    (s.logRecordIn { q := q, src := src, kind := 0, land := 0, payload := payload, acc := acc, chan := chan }, false)
  else (s.pushRec q { payload := payload, reached := s.rot, land := 0, acc := acc }, false)

/-! ### Replay (R394, R395) and captures (R385, R396) -/

/-- Writes DEV_LS_FAIL and DEV_LS_IDX. -/
def State.lsWrite (s : State) (g n clu : Nat) (prov log : Bool) : State :=
  let s := (s.setF pgDev Reg.DEV_LS_FAIL_CLU clu).setF pgDev Reg.DEV_LS_FAIL_GRP g
  let s := (s.setF pgDev Reg.DEV_LS_FAIL_PROV prov.toNat).setF pgDev Reg.DEV_LS_FAIL_LOG log.toNat
  let s := (s.setF pgDev Reg.DEV_LS_IDX_LO_IDX n).setF pgDev Reg.DEV_LS_IDX_HI_IDX (n / 2 ^ 32)
  s.setF pgDev Reg.DEV_LS_FAIL_VALID 1

/-- A capture in DEV_LS_FAIL and DEV_LS_IDX; where one is held, it waits until VALID is cleared (R396). -/
def State.lsCapture (s : State) (g n clu : Nat) (prov log : Bool) : State :=
  if s.flag pgDev Reg.DEV_LS_FAIL_VALID then { s with inq.lsPend := s.lsPend ++ [(g, n, clu, prov, log)] }
  else s.lsWrite g n clu prov log

/-- VALID has been cleared: the next capture that waits is taken. -/
def State.lsNext (s : State) : State :=
  if s.flag pgDev Reg.DEV_LS_FAIL_VALID then s
  else match s.lsPend with
    | [] => s
    | (g, n, clu, prov, log) :: rest => { s with inq.lsPend := rest }.lsWrite g n clu prov log

/-- The DATA items DEV_LS_FAIL and DEV_LS_IDX (R702). -/
def State.lsData (s : State) : List Byte :=
  leBytes 4 (s.word (regIdx pgDev Reg.DEV_LS_FAIL_CLU)).toNat ++ leBytes 4 (s.getF pgDev Reg.DEV_LS_IDX_LO_IDX)
    ++ leBytes 4 (s.getF pgDev Reg.DEV_LS_IDX_HI_IDX)

def State.replaying (s : State) : Bool := s.getF pgDev Reg.DEV_DET_CTL_DIVERGE = 3 && !s.replayEnd

/-- REPLAY_DIVERGE: the event, the capture, the stop state of LOGGRP (R394, R395). The log names no cluster: the lowest
differing one is a free value (log 47). -/
def State.replayDiverge (s : State) (n seq : Nat) (log : Bool) : State :=
  let g := s.getF pgDev Reg.DEV_DET_CTL_LOGGRP
  let (v, s) := s.drawFree
  let s := s.lsCapture g n (if log then 0 else v % 512) false log
  let s := s.raise pgDev 8 0x18 3 (s.lsData ++ leBytes 4 seq)
  (s.enterStop g).sendStops g

/-- The session of a logged Accession message: SID, EPOCH, SEQ of its header. -/
def logAcc (src : Nat) (payload : List Byte) : Option (Nat × Nat × Nat) :=
  if src = 0 then none
  else some (ofLeBytes ((payload.drop 4).take 4), ofLeBytes ((payload.drop 20).take 4), ofLeBytes ((payload.drop 8).take 8))

/-- Reads the records of the ring that landing n makes visible, and the signature record of landing n. Records that arrived
after the landing's scheduled instant may precede its signature record: they are read as well, and wait in their queues for
their own landing. `seen` says that landing n's signature record has been read. -/
def State.replayStep (n : Nat) : Nat → Bool → State → State
  | 0, _, s => s
  | f + 1, seen, s =>
    if !s.replaying then s
    else if s.logRead = s.logHead then
      let s := { s with inq.replayEnd := true }.setF pgDev Reg.DEV_DET_STAT_REPLAYING 0
      s.raise pgDev 9 0x19 0 (leBytes 4 s.logHead)
    else
      let h := s.ringRead s.logBase s.logSize s.logRead 32
      let land := ofLeBytes (h.take 8)
      let seq := ofLeBytes ((h.drop 8).take 4)
      let len := ofLeBytes ((h.drop 12).take 3)
      let kind := ofLeBytes ((h.drop 15).take 1)
      let q := ofLeBytes ((h.drop 16).take 1)
      let src := ofLeBytes ((h.drop 17).take 1)
      let crc := ofLeBytes ((h.drop 20).take 4)
      if n < land && (seen || n = 0 || kind = 1) then s
      else
        let size := 32 + (len + 31) / 32 * 32
        let payload := s.ringRead s.logBase s.logSize ((s.logRead + 32) % s.logSize) len
        let s := { s with inq.logRead := (s.logRead + size) % s.logSize }.count pgDev Reg.DEV_CNT_LOGREC 1
        if (crc32c payload).toNat ≠ crc then s.replayDiverge land seq true
        else if kind = 0 then
          replayStep n f seen (s.pushRec (q % 16)
            { payload := payload, reached := s.rot, land := land, acc := logAcc src payload, seq := seq })
        else
          let own : Option Nat :=
            ((s.run (s.getF pgDev Reg.DEV_DET_CTL_LOGGRP)).sigs.find? (fun (p : Nat × BitVec 64) => p.1 = land)).map
              (fun (p : Nat × BitVec 64) => p.2.toNat)
          if own = some (ofLeBytes payload) then replayStep n f (seen || land = n) s else s.replayDiverge land seq false

/-- After landing n of LOGGRP; n = 0 before flight 1. -/
def State.replayRead (s : State) (n : Nat) : State := s.replayStep n (s.logSize / 32 + 2) false

end Sys2Proof.Machine
end

