-- ==== Sys2Proof/Machine/Registers.lean ====
section
/-! DEFINITION. The commands on register pages: plain writes (R529, R661 to R664, R673), the commit handshake (R630 to
R636, R669) with every rejection rule, the cluster soft reset (R55), counter clears (R670), event enables (R666), and
the reads that act (R358, R368, R357). -/
namespace Sys2Proof.Machine

/-! ### Plain writes -/

/-- A write of one row's field: staged fields in the staged copy, live fields in force; action bits are commands of
their own and stay (R21, R26, R673). An action bit other than PG_CTL.SRST is not stored, so it reads 0 again at once, also
where the action is ignored (log 87). -/
def State.writeRow (s : State) (pg off val : Nat) (r : FieldRow) : State :=
  let f : Fld := { r.fld with off := off }
  let v := (val >>> f.lo) % 2 ^ f.width
  if r.act then s
  else
    match r.acc with
    | .rw | .wo =>
      if r.staged then s.setStaged (regIdx pg f) (f.put (s.stagedWord (regIdx pg f)) v) else s.setF pg f v
    | .w1c => s.setF pg f (s.getF pg f &&& (2 ^ f.width - 1 - v))
    | _ => s

/-- R682, R684: VALID clears in the cycle in which the captured QOVF bit is cleared. -/
def State.qcapClear (s : State) (b : Block) (i : Nat) : State :=
  match b with
  | .arr =>
    let pg := pgArr i
    if (s.getF pg (Reg.ARR_FLAGS_QOVF (s.getF pg Reg.ARR_QCAP_ARRAY))) = 0 then s.setF pg Reg.ARR_QCAP_VALID 0 else s
  | .vec => if (s.getF (pgVec i) vecFlagsF).testBit 4 then s else s.setF (pgVec i) Reg.VEC_QCAP_VALID 0
  | _ => s

/-- The 32 bits of the register word that holds a field, as a DATA item. -/
def State.wordItem (s : State) (pg : Nat) (f : Fld) : List Byte := leBytes 4 (s.word (regIdx pg f)).toNat

/-- The DATA of an event that an enable write raises (R702): items that a register holds as it stands now, others as at the
latest occurrence `last`. -/
def State.deferredData (s : State) (pg : Nat) (b : Block) (bit : Nat) (last : List Byte) : List Byte :=
  let now (i : Nat) (item : List Byte) : List Byte := last.take i ++ item ++ last.drop (i + item.length)
  match b, bit with
  | .dev, 4 | .dev, 5 | .dev, 8 => now 0 s.lsData
  | .dev, 7 => now 0 (s.wordItem pg Reg.DEV_LOG_HEAD_OFF ++ s.wordItem pg Reg.DEV_LOG_TAIL_OFF)
  | .dev, 9 => now 0 (s.wordItem pg Reg.DEV_LOG_HEAD_OFF)
  | .doc, 1 => now 0 (leBytes 1 (s.getF pg Reg.DOC_TRAP_CAUSE))
  | .tim, 0 => leBytes 4 (s.getF pg Reg.TIM_OFFSET_THETA) ++ leBytes 1 (s.getF pg Reg.TIM_CFG_PARENT)
  | .rgn, 0 => s.wordItem pg Reg.RGN_STALE_LO_ADDR ++ s.wordItem pg Reg.RGN_STALE_HI_ADDR
  | .rgn, 1 => now 2 (s.wordItem pg Reg.RGN_SLOT_FAIL_SLOTS)
  | .pwr, 0 => s.wordItem pg Reg.PWR_RGN_REL_MASK
  | .sec, 0 => s.wordItem pg Reg.SEC_CNT_TAMPER
  | .clo, 3 => s.wordItem pg Reg.CLO_QCAP_VALID ++ s.wordItem pg Reg.CLO_QCAP_SEQ_CSEQ
  | .clu, 0 | .ecc, 0 | .clo, 0 | .mem, 0 | .lnk, 0 =>
    if s.flag pg Reg.ECAP_ADDR_HI_VALID then
      now 2 (leBytes 1 (s.getF pg Reg.ECAP_ADDR_HI_CAUSE) ++ leBytes 4 (s.getF pg Reg.ECAP_ADDR_LO_ADDR)
        ++ leBytes 2 (s.getF pg Reg.ECAP_ADDR_HI_ADDR) ++ leBytes 4 (s.getF pg Reg.ECAP_SYND_SYND))
    else last
  | _, 31 => leBytes 1 (s.getF pg Reg.PG_COMMIT_STAT_FGRP) ++ leBytes 1 (s.getF pg Reg.PG_COMMIT_STAT_MULTI)
  | _, _ => last

/-- The events of a page that an enable write makes enabled while set are raised (R666). -/
def State.raiseEnabled (s : State) (pg : Nat) (b : Block) (was : Nat) : State :=
  let en (t : State) : Nat := if t.flag pg Reg.PG_CTL_EN then t.getF pg Reg.PG_EVT_EN else 0
  let new := s.getF pg Reg.PG_EVT &&& en s
  (List.range 32).foldl
    (fun s n =>
      if new.testBit n && !was.testBit n then
        let (code, sev) := eventOf b n
        let last := sget (fun _ => []) s.lastData (pg * 32 + n)
        s.holdEvent { code := code, sev := if last.isEmpty then sev else ofLeBytes (last.take 1), page := pg, time := s.rot,
                      deferred := true, late := false, data := s.deferredData pg b n (last.drop 1), after := none }
      else s) s

/-- The enables in force of a page. -/
def State.enables (s : State) (pg : Nat) : Nat := if s.flag pg Reg.PG_CTL_EN then s.getF pg Reg.PG_EVT_EN else 0

/-- A write of PG_CTL.EN or PG_EVT_EN (R665, R666). -/
def State.writeEnable (s : State) (b : Block) (i pg off val : Nat) : State :=
  let was := s.enables pg
  let s := if off = 0x010 then s.setF pg Reg.PG_CTL_EN (val % 2) else s.setF pg Reg.PG_EVT_EN (val &&& evtMask b i)
  s.raiseEnabled pg b was

/-- A write of one doubleword of a present page, apart from actions (R664 to R675). -/
def State.writePage (s : State) (b : Block) (i pg off val : Nat) : State :=
  if off = 0x010 || off = 0x01C then s.writeEnable b i pg off val
  else if off = 0x018 then s.setF pg Reg.PG_EVT (s.getF pg Reg.PG_EVT &&& (2 ^ 32 - 1 - val % 2 ^ 32))
  else if off = 0x020 then if b.staged then s.setF pg Reg.PG_COMMIT_GRP (bits val 15 8) else s
  else if off = 0x024 then
    if b.staged then
      let s := if val.testBit 1 then (s.setF pg Reg.PG_COMMIT_STAT_REJECTED 0).setF pg Reg.PG_COMMIT_STAT_FGRP 0 else s
      if val.testBit 2 then s.setF pg Reg.PG_COMMIT_STAT_MULTI 0 else s
    else s
  else if off = 0xEF8 then s.setF pg Reg.PG_RDBK_SEL_OFF (bits val 11 2)
  else
    let s := ((rowsAt b off).foldl (fun s r => s.writeRow pg off val r.1) s).qcapClear b i
    if pg = pgDev then s.lsNext else s

/-- R661: a doubleword of the MSI-X table; unmasking a vector sends what waits in its pending bit. -/
def State.writeMsix (s : State) (pg off val : Nat) : State :=
  let idx := pg * 1024 + off / 4
  let v := (pg - 0x100) * 256 + off / 16
  if off / 4 % 4 = 3 then
    let s := s.setWord idx (BitVec.ofNat 32 (val % 2))
    if val % 2 = 0 && (s.word (msixPba v)).getLsbD (v % 32) then
      (s.setWord (msixPba v) (s.word (msixPba v) &&& ~~~ BitVec.ofNat 32 (2 ^ (v % 32)))).msix v
    else s
  else s.setWord idx (BitVec.ofNat 32 (if off / 4 % 4 = 0 then val / 4 * 4 else val))

/-- The block of a page that is present under R6 and served (R575). -/
def State.writable (s : State) (pg : Nat) : Option (Block × Nat) :=
  match pageBlock pg with
  | none => none
  | some (b, i) => if s.part.hasInst b i && s.served pg then some (b, i) else none

/-- R663: the write goes to a cluster page of a region that is out of service. -/
def State.outOfService (s : State) (b : Block) (i : Nat) : Bool :=
  match b with
  | .clu | .arr | .vec | .doc => !s.avail (regionOf i)
  | _ => false

/-- The page takes writes: present, served and in service. The actions of a page that does not are ignored like its plain
writes (R575, R662, R663). -/
def State.reaches (s : State) (pg : Nat) : Bool :=
  match s.writable pg with
  | some (b, i) => !s.outOfService b i
  | none => false

/-- A BAR0 write of one doubleword, apart from the action bits in it. `whole` is false where it is not one doubleword
with all byte enables set (R529). In recovery only the CUR page is served (R575). -/
def State.writeReg (s : State) (pg off val : Nat) (whole : Bool) : State :=
  let bad (s : State) : State := s.count pgPci Reg.PCI_CNT_BADREG 1
  if 0x100 ≤ pg && decide (pg < 0x108) then (if whole then s.writeMsix pg off val else s)
  else if pg = 0x108 then s
  else if !whole then bad s
  else
    match s.writable pg with
    | none => bad s
    | some (b, i) => if s.outOfService b i then s else s.writePage b i pg off val

/-! ### Rejections at a commit (R635, R669) -/

/-- A device-address range of a committed register lies in plain memory of present stacks (R401, R405). -/
def State.plainPages (s : State) (page n : Nat) : Bool :=
  (List.range n).all (fun i => s.plain ((page + i) * 65536) 65536)

/-- Magnitude bits of an FP32 code: 0 for a zero, below 0x0080_0000 for a subnormal, from 0x7F80_0000 on where the code is
not finite. -/
def fp32Mag (c : Nat) : Nat := c % 2 ^ 31

/-- The FP32 number is below zero. -/
def fp32Neg (c : Nat) : Bool := c.testBit 31 && decide (fp32Mag c ≠ 0)

/-- R301: hyperparameter set h of a snapshot, judged as the numbers that its words are. -/
def hyperOk (eta b1 b2 lam eps gs : Nat) : Bool :=
  let upTo (c top : Nat) : Bool := !fp32Neg c && decide (fp32Mag c < top)
  upTo eta 0x7F800000 && upTo lam 0x7F800000 && upTo b1 0x3F800000 && upTo b2 0x3F800000
    && (upTo eps 0x7F800000 && decide (0x00800000 ≤ fp32Mag eps))
    && (decide (fp32Mag gs ≠ 0) && decide (fp32Mag gs < 0x7F800000))

/-- Lanes of a WIDTH code (R444). -/
def widthLanes (c : Nat) : Nat := match c with | 1 => 1 | 2 => 2 | 3 => 4 | 4 => 8 | 5 => 16 | _ => 0

/-- R444, R472, R486, R653, R669: group C of an LNK page. Whether a package with HALL = 0 has a twin programmed no
register tells: a free value decides it (log 16). -/
def State.linkCfgOk (s : State) (k : Nat) : Bool :=
  let pg := pgLnk k
  let w := s.snapF pg Reg.LNK_CFG_WIDTH
  let role := s.snapF pg Reg.LNK_CFG_ROLE
  let other := s.getF (pgLnk (if k % 2 = 0 then k + 1 else k - 1)) Reg.LNK_CFG_WIDTH
  decide (w ≤ 5) && decide (widthLanes w + widthLanes other ≤ 16) && decide (role ≠ 3)
    && !(s.flag pgSec Reg.SEC_STAT_SEALED && decide (s.snapF pg Reg.LNK_CFG_ENC = 0))
    && !(role = 0 && decide (6 ≤ k)) && !(role = 1 && decide (k ≠ 6)) && !(role = 2 && decide (k < 6))
    && !(role = 1 && !s.pkg.testBit 11 && decide (Config.hall 0 % 2 = 0))
    && !(decide (w ≠ s.getF pg Reg.LNK_CFG_WIDTH) && decide (s.getF pg Reg.LNK_STAT_STATE ≠ 0))

/-- R397, R401: group Y of the DEV page. -/
def State.detOk (s : State) : Bool :=
  let dv := s.snapF pgDev Reg.DEV_DET_CTL_DIVERGE
  let base := s.snapF pgDev Reg.DEV_LOG_BASE_LO_ADDR + s.snapF pgDev Reg.DEV_LOG_BASE_HI_ADDR * 2 ^ 32
  let pages := s.snapF pgDev Reg.DEV_LOG_SIZE_PAGES
  let logs := dv = 2 || dv = 3
  decide (s.snapF pgDev Reg.DEV_DET_CTL_F32CHUNK ≠ 3)
    && !(dv = 1 && !(s.part.hasInst .lnk 6 && decide (s.getF (pgLnk 6) Reg.LNK_CFG_ROLE = 1)))
    && !(logs && (decide (pages = 0) || decide (base % 65536 ≠ 0) || !s.plainPages (base / 65536) pages))
    && (decide (base = 0) || s.plain base 1) && s.plainPages (base / 65536) pages

/-- R401, R418, R441: group A of the DEV page. -/
def State.arcCfgOk (s : State) : Bool :=
  let base := s.snapF pgDev Reg.DEV_ARC_SESS_LO_ADDR + s.snapF pgDev Reg.DEV_ARC_SESS_HI_ADDR * 2 ^ 32
  let g := s.snapF pgDev Reg.DEV_ARC_CFG_AGEGRP
  let on := s.snapF pgDev Reg.DEV_ARC_CFG_EN = 1
  let member := match s.group g with
    | none => false
    | some x => match s.midx x with
      | none => false
      | some m => !((x.members.getD m { pkg := 0, mask := 0 }).mask = 0)
  decide (1 ≤ s.snapF pgDev Reg.DEV_ARC_CFG_AGEMAX)
    && decide (2 * s.snapF pgDev Reg.DEV_ARC_CFG_AGEMAX ≤ s.snapF pgDev Reg.DEV_ARC_RSV_PAGES) && (!on || member)
    && (!on || (decide (base % 65536 = 0) && s.plain base 1048576))

/-- R679: DEV_PKG_ID. -/
def State.pkgIdOk (s : State) : Bool :=
  !(s.snapF pgDev Reg.DEV_PKG_ID_ID).testBit 10
    && (List.range 8).all (fun k => !s.part.hasInst .lnk k || decide (s.getF (pgLnk k) Reg.LNK_STAT_STATE = 0))

/-- R439: no page between the old and new first pool page is allocated or in use by the Archive. -/
def State.poolOk (s : State) (x : Nat) : Bool :=
  let a := s.getF (pgMem x) Reg.MEM_POOL_FIRST
  let b := s.snapF (pgMem x) Reg.MEM_POOL_FIRST
  let lo := x * 0x120000 + min a b
  let hi := x * 0x120000 + max a b
  lo = hi || (s.alloc.all (fun p => decide (p < lo) || decide (hi ≤ p))
    && s.arcRanges.all (fun p => decide (p.1 + p.2 ≤ 65536 * lo) || decide (65536 * hi ≤ p.1)))

/-- Every rule that rejects group `g` of a page (R635). -/
def State.groupOk (s : State) (b : Block) (i g : Nat) : Bool :=
  let pg := pageOf b i
  match b with
  | .dev => if g = 1 then s.pkgIdOk else if g = 2 then s.detOk else if g = 3 then s.arcCfgOk else true
  | .tim =>
    if g = 2 then
      let dl := s.snapF pg Reg.TIM_LAND_CFG_DL
      let lm := s.snapF pg Reg.TIM_LAND_CFG_LATE_MAX
      decide (1 ≤ dl) && decide (dl ≤ 500) && decide (1 ≤ lm) && decide (lm ≤ 500) && decide (dl ≤ lm)
    else if g = 4 then
      !(s.snapF pg Reg.TIM_PRE_CTL_ARM = 1
        && decide (s.snapF pg Reg.TIM_PRE_T_LO_T + s.snapF pg Reg.TIM_PRE_T_HI_T * 2 ^ 32 < s.rot))
    else true
  | .pci =>
    let q := g - 1
    s.plainPages (s.snapF pg (Reg.PCI_IQ_CFG_PAGE q)) (s.snapF pg (Reg.PCI_IQ_SIZE_PAGES q)) && (s.iq q).recs.isEmpty
  | .pwr =>
    decide (s.snapF pg Reg.PWR_CFG_PSTATE ≠ 3) && decide (800 ≤ s.snapF pg Reg.PWR_CAP_LIMIT)
      && decide (s.snapF pg Reg.PWR_CAP_LIMIT ≤ s.part.tdp)
  | .ecc =>
    if g = 1 then decide (s.snapF pg Reg.ECC_LB_CFG_THRESH ≠ 0) && decide (s.snapF pg Reg.ECC_LB_CFG_LEAK_MS ≠ 0)
    else true
  | .eth => s.plainPages (s.snapF pg Reg.ETH_EGR_CFG_PAGE) (s.snapF pg Reg.ETH_EGR_SIZE_PAGES)
  | .lnk =>
    if g = 1 then s.linkCfgOk i
    else if g = 2 then
      decide (s.snapF pg Reg.LNK_VCW_W0 ≠ 0) && decide (s.snapF pg Reg.LNK_VCW_W1 ≠ 0)
        && decide (s.snapF pg Reg.LNK_VCW_W3 ≠ 0)
    else if g = 3 then decide (s.snapF pg Reg.LNK_RETRY_TMO ≠ 0) && decide (s.snapF pg Reg.LNK_RETRY_TMO2 ≠ 0)
    else decide (s.snapF pg Reg.LNK_HEALTH_THRESH ≠ 0) && decide (s.snapF pg Reg.LNK_HEALTH_WIN_MS ≠ 0)
  | .clo =>
    !(s.snapF pg Reg.CLO_CFG_EN = 0 && s.groups.any (fun x => x.2.clo = some i && decide (0 < x.2.rslots)))
  | .mem =>
    if g = 1 then s.poolOk i
    else if g = 3 then !(s.flag pgSec Reg.SEC_STAT_SEALED && decide (s.snapF pg Reg.MEM_CRYPT_CTL_EN = 0))
    else true
  | .rgn =>
    if g = 1 then decide (1 ≤ s.snapF pg Reg.RGN_EPOCH_TMO_US) && decide (s.snapF pg Reg.RGN_EPOCH_TMO_US ≤ 1000)
    else
      let x := g - 2
      s.snapF pg (Reg.RGN_GATH_CFG_SHR x) = 0
        || (match s.group (s.snapF pg (Reg.RGN_GATH_CFG_GRP x)) with
            | some y => (s.midx y).isSome
            | none => false)
  | .upd =>
    let h := g - 1
    hyperOk (s.snapF pg (Reg.UPD_ETA h)) (s.snapF pg (Reg.UPD_B1 h)) (s.snapF pg (Reg.UPD_B2 h))
      (s.snapF pg (Reg.UPD_LAMBDA h)) (s.snapF pg (Reg.UPD_EPS h)) (s.snapF pg (Reg.UPD_GSCALE h))
  | .doc =>
    if g = 1 then true
    else
      let a := s.snapF pg Reg.DOC_CTX_LO_ADDR + s.snapF pg Reg.DOC_CTX_HI_ADDR * 2 ^ 32
      s.rangeOk a 528384
  | _ => true

/-! ### The commit (R631 to R635) -/

/-- The staged fields of a block, one by one with their groups. -/
def stagedFields (b : Block) : List (Fld × Nat) :=
  ((blockRows b).filter (·.staged)).flatMap (fun r =>
    (List.range r.n).map (fun j => ({ r.fld with off := r.fld.off + j * r.stride }, r.grp + j * r.gstep)))

/-- The agreement groups of a block, ascending. -/
def groupsOf (b : Block) : List Nat :=
  ((stagedFields b).map (·.2)).foldl (fun l g => if l.contains g then l else l ++ [g]) []

/-- What an accepted group does beyond its fields: R287 clears a gatherer slot, R397 restarts the log, R479 starts or
stops a port, R472 switches its encryption. `old` is the state before the commit. -/
def State.afterGroup (s : State) (old : State) (b : Block) (i g : Nat) : State :=
  match b with
  | .rgn =>
    if g = 1 then s
    else
      let x := g - 2
      let pg := pgRgn i
      let s := s.setF pg (Reg.RGN_GATH_STAT_CUR x) 0x800
      let s := s.setF pg (Reg.RGN_GATH_STAT_NEXT x) 0
      let s := s.setF pg (Reg.RGN_GATH_STAT_VALID x) 0
      let s := s.setF pg (Reg.RGN_GATH_HIST_WMAX x) 0x800
      let s := s.setF pg (Reg.RGN_GATH_HIST_DEPTH x) 0
      { s with sched.gathHist := sdel s.gathHist (64 * i + x) }
  | .dev =>
    let dv := s.getF pgDev Reg.DEV_DET_CTL_DIVERGE
    if g = 2 && decide (dv ≠ old.getF pgDev Reg.DEV_DET_CTL_DIVERGE) then
      let s := (if dv = 2 then s else s.releaseLog).setF pgDev Reg.DEV_DET_STAT_REPLAYING (dv = 3 : Bool).toNat
      if dv = 2 then
        let s := { (s.setF pgDev Reg.DEV_LOG_HEAD_OFF 0).setF pgDev Reg.DEV_LOG_TAIL_OFF 0 with inq.logSeq := 0, inq.logFull := false }
        s.flushLog s.logHeld.length
      else if dv = 3 then { s with inq.logRead := s.getF pgDev Reg.DEV_LOG_TAIL_OFF, inq.logSeq := 0, inq.replayEnd := false }
      else s
    else s
  | .tim =>
    if s.flag pgTim Reg.TIM_CFG_ROLE then { s.setF pgTim Reg.TIM_TRIM_TRIM 0 with time.stepDue := 0 } else s
  | .eth => if s.flag (pgEth i) Reg.ETH_CFG_EN then s else s.setF (pgEth i) Reg.ETH_STAT_UP 0
  | .lnk =>
    if g = 1 then
      let pg := pgLnk i
      let on := s.flag pg Reg.LNK_CFG_EN && decide (widthLanes (s.getF pg Reg.LNK_CFG_WIDTH) ≠ 0)
      if !on then
        let s := s.setF pg Reg.LNK_STAT_STATE 0
        let s := s.setF pg Reg.LNK_STAT_NACT 0
        let s := s.setF pg Reg.LNK_STAT_PENDING 0
        let s := s.setPort i { s.port i with good := 0, txOff := 0, lswitch := none, rekeyAt := none, rekeying := false, txq := [],
                                             owed := [] }
        let retained : List Retained := s.retained.map (fun (r : Retained) =>
          if r.port = i && r.queued then { r with queued := false, last := s.now } else r)
        let s := { s with fabric.retained := retained }
        s.setF pg Reg.LNK_STAT_LANES 0
      else if s.getF pg Reg.LNK_STAT_STATE = 0 then s.setF pg Reg.LNK_STAT_STATE 1
      else if s.getF pg Reg.LNK_STAT_STATE = 5 then
        s.setF pg Reg.LNK_STAT_ENC (s.flag pg Reg.LNK_CFG_ENC || (s.port i).peerEnc).toNat
      else s
    else s
  | _ => s

/-- R635: the snapshot of a page is checked group by group and the accepted groups take effect. -/
def State.applyCommit (s : State) (b : Block) (i : Nat) : State :=
  let pg := pageOf b i
  let fs := stagedFields b
  let bad := (groupsOf b).filter (fun g => !s.groupOk b i g)
  let t := fs.foldl (fun t (f, g) => if bad.contains g then t else t.setF pg f (s.snapF pg f)) s
  let t := (groupsOf b).foldl (fun t g => if bad.contains g then t else t.afterGroup s b i g) t
  let t := { t with regFile.snap := sclear t.snap (pg * 1024) (pg * 1024 + 1024) }
  let t := t.setF pg Reg.PG_COMMIT_STAT_PENDING 0
  match bad with
  | [] => t
  | g :: _ =>
    let t := if t.flag pg Reg.PG_COMMIT_STAT_REJECTED then t else t.setF pg Reg.PG_COMMIT_STAT_FGRP g
    let t := t.setF pg Reg.PG_COMMIT_STAT_REJECTED 1
    let t := if 2 ≤ bad.length then t.setF pg Reg.PG_COMMIT_STAT_MULTI 1 else t
    t.raise pg 31 0x3F 1
      (leBytes 1 (t.getF pg Reg.PG_COMMIT_STAT_FGRP) ++ leBytes 1 (t.getF pg Reg.PG_COMMIT_STAT_MULTI))

/-- R631: a snapshot of every staged field of the page. -/
def State.takeSnapshot (s : State) (pg : Nat) : State :=
  let lo := pg * 1024
  let m := s.staged.filter (fun p => decide (lo ≤ p.1) && decide (p.1 < lo + 1024))
  { (s.setF pg Reg.PG_COMMIT_STAT_PENDING 1) with
    regFile.snap := m.foldr (fun p t => sput t p.1 p.2) (sclear s.snap lo (lo + 1024)) }

/-- R631: CANCEL drops the pending snapshot. -/
def State.cancelCommit (s : State) (pg : Nat) : State :=
  { (s.setF pg Reg.PG_COMMIT_STAT_PENDING 0) with regFile.snap := sclear s.snap (pg * 1024) (pg * 1024 + 1024) }

/-- REQ: the snapshot is taken, and takes effect at once in a block that is not running (R632). -/
def State.commitReq (s : State) (b : Block) (i : Nat) : State :=
  let s := s.takeSnapshot (pageOf b i)
  if s.blockRunning b i then s else s.applyCommit b i

/-- A pending commit of the page acts at this landing. -/
def State.commitAt (s : State) (b : Block) (i : Nat) : State :=
  if s.flag (pageOf b i) Reg.PG_COMMIT_STAT_PENDING then s.applyCommit b i else s

/-! ### Cluster soft reset (R55) and counters (R670) -/

/-- The sticky flags of a cluster, of its row operations and of its captures are cleared (R104, R267, R586). -/
def State.clearSticky (s : State) (c : Nat) : State :=
  let s := (List.range 4).foldl (fun s a => s.setF (pgArr c) (arrFlagsF a) 0) s
  let s := (s.setF (pgVec c) vecFlagsF 0).setF (pgVec c) sfuFlagsF 0
  let s := s.setWord (regIdx (pgVec c) Reg.VEC_ROW_STAT_ROW_NAR) 0
  let s := (s.setF (pgArr c) Reg.ARR_QCAP_VALID 0).setF (pgArr c) Reg.ARR_QCAP_MULTI 0
  (s.setF (pgVec c) Reg.VEC_QCAP_VALID 0).setF (pgVec c) Reg.VEC_QCAP_MULTI 0

/-- R55: clears the sequencer, the Docent queue, the accumulator memory and the sticky flags; the weight store, the
activation buffer, the instruction memory and the Catalogue keep their contents. -/
def State.softReset (s : State) (c : Nat) : State :=
  let s := { s with sched.clusters := sdel s.clusters c, mems.am := sclear s.am (c * 131072) ((c + 1) * 131072),
                    mems.tiles := sclear s.tiles (c * 256) ((c + 1) * 256),
                    mems.errs := sclear s.errs (cwName (2 * 4096 + c) 0) (cwName (2 * 4096 + c) 0x80000) }
  let s := s.clearSticky c
  let s := s.setWord (regIdx (pgArr c) Reg.ARR_STAT_BUSY) (s.word (regIdx (pgArr c) Reg.ARR_STAT_BUSY) &&& 0x80000000)
  let s := s.setWord (regIdx (pgDoc c) Reg.DOC_STAT_STATE) 0
  let s := (s.setF (pgDoc c) Reg.DOC_LAND_LO_IDX 0).setF (pgDoc c) Reg.DOC_LAND_HI_IDX 0
  let s := s.setF (pgDoc c) Reg.DOC_TRAP_CAUSE 0
  s.setF (pgClu c) Reg.PG_CTL_SRST 0

/-- R670. Counters that are counted later than they accrue start anew as well. -/
def State.clearCounters (s : State) (pg : Nat) : State :=
  let s := { s with regFile.regs := (s.regs.filter (fun p => p.1 < pg * 1024 + 0x3C0 || decide (pg * 1024 + 0x3FF ≤ p.1))) }
  match pageBlock pg with
  | some (.arr, c) => s.setClu c { s.clu c with ballAt := (s.clu c).ballAt.map (fun t => max t s.now) }
  | some (.mem, _) => { s with regFile.cntFrom := sset (fun _ => 0) s.cntFrom pg s.now }
  | _ => s

/-- Takes a region out of service (R39), and resets it as a whole (R43, R55): every cluster as by a soft reset, and the
queues of its engines. -/
def State.takeOut (s : State) (r : Nat) : State :=
  let a := s.getF pgDev Reg.DEV_RGN_AVAIL_MASK
  let s := s.setF pgDev Reg.DEV_RGN_AVAIL_MASK (if a.testBit r then a - 2 ^ r else a)
  let s := (List.range 16).foldl (fun s i => s.softReset (16 * r + i)) s
  s.setRgn r { s.rgn r with restorer := [], restorerRun := none, conservator := [], conservatorRun := none, inbound := [] }

/-- Every region that must leave service and of which no cluster runs leaves it (R39, R43). -/
def State.endDrains (s : State) : State :=
  (List.range 32).foldl (fun s r => if s.draining r && !s.regionRunning r then s.takeOut r else s) s

/-! ### The commands -/

/-- DEV_LOG_TAIL_WRITE (R393): DEV_LOG_TAIL, offset 0x848 of the DEV page. -/
def execDevLogTailWrite (val : Nat) (s : State) : Result :=
  if !s.reaches pgDev then .next (s.writeReg pgDev 0x848 val true)
  else
    let s := { s.setF pgDev Reg.DEV_LOG_TAIL_OFF val with inq.logFull := false }
    .next (s.flushLog s.logHeld.length)

/-- REGISTER_WRITE (R529): the plain fields of one doubleword. -/
def execRegisterWrite (page off val : Nat) (whole : Bool) (s : State) : Result := .next (s.writeReg page off val whole)

/-- PG_COMMIT.REQ (R631), with the other fields of the doubleword applied first (R673); CANCEL in the same write acts
before it. -/
def execPgCommitReq (page val : Nat) (s : State) : Result :=
  let s := s.writeReg page 0x020 val true
  match s.writable page with
  | some (b, i) =>
    if val.testBit 0 && b.staged && !s.outOfService b i then .next ((if val.testBit 1 then s.cancelCommit page else s).commitReq b i)
    else .next s
  | none => .next s

/-- PG_COMMIT.CANCEL (R631). -/
def execPgCommitCancel (page val : Nat) (s : State) : Result :=
  let s := s.writeReg page 0x020 val true
  match s.writable page with
  | some (b, i) => if val.testBit 1 && b.staged && !s.outOfService b i then .next (s.cancelCommit page) else .next s
  | none => .next s

/-- PG_CTL.SRST of a CLU page (R55, R665): at once in an idle cluster, at the next landing in a running one. -/
def execPgCtlSrst (page val : Nat) (s : State) : Result :=
  let s := s.writeReg page 0x010 val true
  match s.writable page with
  | some (.clu, c) =>
    if !val.testBit 1 || s.outOfService .clu c then .next s
    else if s.running c then .next ((s.setClu c { s.clu c with srst := true }).setF page Reg.PG_CTL_SRST 1)
    else .next (s.softReset c)
  | _ => .next s

/-- PG_CNT_CLR (R670). -/
def execPgCntClr (page val : Nat) (s : State) : Result :=
  match s.writable page with
  | some (b, i) => if val.testBit 0 && !s.outOfService b i then .next (s.clearCounters page) else .next s
  | none => .next (s.count pgPci Reg.PCI_CNT_BADREG 1)

/-- A write of PG_CTL.EN or PG_EVT_EN (R666). -/
def execPgEvtEnWrite (page off val : Nat) (s : State) : Result :=
  if off = 0x010 || off = 0x01C then .next (s.writeReg page off val true) else .next s

/-- A read of TIM_NOW_LO latches the high half (R358). -/
def execTimNowLoRead (s : State) : Result :=
  .next (if s.reaches pgTim then s.setF pgTim Reg.TIM_NOW_HI_T (s.rot / 2 ^ 32) else s)

/-- The words of the Provenance record as they stand (R368). -/
def State.provenance (s : State) : List Nat :=
  let ak6 := (List.range 512).map (fun c => s.flag (pgVec c) Reg.VEC_SFU_CTL_AK6)
  let sigBytes := (List.range 64).map (fun j =>
    BitVec.ofNat 8 ((List.range 8).foldl (fun x b => x + ((ak6.getD (8 * j + b) false).toNat) * 2 ^ b) 0))
  let sig := if ak6.any id then (crc64 sigBytes).toNat else 0
  let lw (k : Nat) : Nat := if s.part.hasInst .lnk k then widthLanes (s.getF (pgLnk k) Reg.LNK_CFG_WIDTH) else 0
  let ps := if s.full then s.getF pgPwr Reg.PWR_CFG_PSTATE else 3
  [ 0x01 + 0xB1 * 2 ^ 8 + 2 * 2 ^ 16 + s.part.code * 2 ^ 24,
    s.getF pgDev Reg.DEV_DET_CTL_STRICT + s.getF pgDev Reg.DEV_DET_STAT_VARIED * 2
      + s.getF pgDev Reg.DEV_DET_CTL_F32CHUNK * 4 + s.getF pgDev Reg.DEV_DET_CTL_DIVERGE * 16 + s.pkg * 64,
    sig % 2 ^ 32, sig / 2 ^ 32,
    lw 0 + lw 1 * 2 ^ 8 + lw 2 * 2 ^ 16 + lw 3 * 2 ^ 24, lw 4 + lw 5 * 2 ^ 8 + lw 6 * 2 ^ 16 + lw 7 * 2 ^ 24,
    s.getF pgPwr Reg.PWR_CLK_CODE + ps * 2 ^ 16 + s.getF pgPwr Reg.PWR_CAP_LIMIT * 2 ^ 20,
    min s.throtCount 0xFFFF ]

/-- A read of DEV_PROV[0] latches all eight words (R368). -/
def execDevProvRead (s : State) : Result :=
  .next (if s.reaches pgDev then (s.provenance.zipIdx).foldl (fun s (w, k) => s.setF pgDev (Reg.DEV_PROV k) w) s else s)

/-- A read of DOC_SLACK_MIN sets it back to all ones (R357), where the page is in service (R663). -/
def execDocSlackMinRead (c : Nat) (s : State) : Result :=
  .next (if s.reaches (pgDoc c) then s.setF (pgDoc c) Reg.DOC_SLACK_MIN_SLACK 0xFFFFFF else s)

end Sys2Proof.Machine
end

