-- ==== Sys2Proof/Machine/Archive.lean ====
section
/-! DEFINITION. The Archive: the page pool (R413), the tiers and their requantisation (R415 to R417), session commands (R419,
R420), and stack retirement (R647 to R651). -/
namespace Sys2Proof.Machine

/-! ### The pool (R413) -/

/-- Stack x grants pages: present, filled (R435), not retired, not being retired (R648). -/
def State.grants (s : State) (x : Nat) : Bool := s.part.hasStack x && s.inPoolService x

def stackPages : Nat := 0x120000

/-- Allocated pages of a stack. -/
def State.allocOn (s : State) (x : Nat) : List Nat :=
  s.alloc.filter (fun p => decide (x * stackPages ≤ p) && decide (p < (x + 1) * stackPages))

def State.freeOn (s : State) (x : Nat) : Nat :=
  stackPages - s.getF (pgMem x) Reg.MEM_POOL_FIRST - (s.allocOn x).length

/-- Free pool pages of the stacks that grant. -/
def State.freePages (s : State) : Nat :=
  (((List.range 12).filter s.grants).map s.freeOn).foldl (· + ·) 0

/-- The lowest page number from p on that is not in a list. -/
def lowestNot (l : List Nat) : Nat → Nat → Nat
  | 0, p => p
  | n + 1, p => if l.contains p then lowestNot l n (p + 1) else p

/-- R413: one page from the pool; `exempt` for the requantiser. -/
def State.grant (s : State) (exempt : Bool) : Option (Nat × State) :=
  if s.freePages = 0 || (!exempt && decide (s.freePages - 1 < s.getF pgDev Reg.DEV_ARC_RSV_PAGES)) then none
  else
    let order := (List.range 12).map (fun i => (s.grantNext + i) % 12)
    match order.find? (fun x => s.grants x && decide (0 < s.freeOn x)) with
    | none => none
    | some x =>
      let p := lowestNot (s.allocOn x) (s.allocOn x).length (x * stackPages + s.getF (pgMem x) Reg.MEM_POOL_FIRST)
      some (p, { s with arch.alloc := p :: s.alloc, arch.grantNext := (x + 1) % 12 })

/-- `n` pages, all or none. -/
def State.grantN (s : State) (exempt : Bool) : Nat → Option (List Nat × State)
  | 0 => some ([], s)
  | n + 1 => match State.grantN s exempt n with
    | none => none
    | some (ps, t) => match t.grant exempt with
      | none => none
      | some (p, u) => some (ps ++ [p], u)

def State.freePage (s : State) (p : Nat) : State := { s with arch.alloc := s.alloc.filter (fun q => q ≠ p) }

/-! ### Session commands (R419, R420) -/

/-- The page table lies wholly in plain memory. -/
def State.tableOk (s : State) (r : SessRec) : Bool :=
  s.plain r.ptBase r.tableBytes && decide (r.ptBase % 64 = 0)

/-- The key slot holds a key; slot 0 always does (R584). -/
def State.hasKey (s : State) (k : Nat) : Bool := k = 0 || decide (sget (fun _ => 0) s.keys k ≠ 0)

/-- Spans of a session, in ascending order of stream and span. -/
def SessRec.spans (r : SessRec) : List (Nat × Nat) :=
  (List.range (r.nstream + 1)).flatMap (fun t => (List.range r.ns).map (fun k => (t, k)))

/-- Pages that a span entry holds. -/
def SessRec.pagesOf (r : SessRec) (e : Span) : List Nat :=
  if e.tier = tierEmpty then []
  else if e.tier = tierReserve then [e.p0, e.p1]
  else (List.range r.dpages).map e.page

/-- Every page of a session, each once: element pages, scale pages, the page being filled, pages of the requantiser. -/
def State.sessPages (s : State) (n : Nat) (r : SessRec) : List Nat :=
  let ps := r.spans.flatMap (fun (t, k) => r.pagesOf (s.span r t k))
  let rq := (s.requant.filter (fun q => q.sess = n)).flatMap (fun q => [q.page, q.scalePage])
  (ps ++ rq ++ (if r.scnext < 16 then [r.scpg] else [])).eraseDups

/-- Why a command fails, 0 where it does not (R420). -/
def State.arcWhy (s : State) (op n newSlot : Nat) : Nat :=
  let r := s.sess n
  if s.arcCmd.isSome || s.retire.isSome then 1
  else if !(op = 1 || op = 2 || op = 3) then 5
  else if (if op = 1 then decide (r.state ≠ sessFree) || !s.flag pgDev Reg.DEV_ARC_CFG_EN else decide (r.state ≠ sessActive)) then 2
  else if op = 1 && (decide (r.dsel = 3) || decide (r.maxpos = 0) || decide (4194304 < r.maxpos) || !s.tableOk r) then 3
  else if (if op = 1 then !s.hasKey r.kslot else if op = 3 then !s.hasKey newSlot else false) then 4
  else 0

/-- Starts a session command, or fails (R419, R420). -/
def State.arcStart (s : State) (op n newSlot : Nat) : State :=
  let why := s.arcWhy op n newSlot
  let s := s.setF pgDev Reg.DEV_ARC_STAT_WHY why
  if why ≠ 0 then s.setF pgDev Reg.DEV_ARC_STAT_FAIL 1
  else
    let r := s.sess n
    let s := s.setF pgDev Reg.DEV_ARC_STAT_BUSY 1
    let s := { s with arch.arcCmd := some { op := op, sess := n, newSlot := newSlot } }
    if op = 2 then s.setSess n { r with state := sessScrubbing }
    else if op = 3 then s.setSess n { r with state := sessRekeying }
    else s

/-- The command that DEV_ARC_CMD holds. -/
def State.arcGo (s : State) : State :=
  s.arcStart (s.getF pgDev Reg.DEV_ARC_CMD_OP) (s.getF pgDev Reg.DEV_ARC_CMD_SESS) (s.getF pgDev Reg.DEV_ARC_CMD_NEWSLOT)

/-- DEV_ARC_CMD is offset 0x170 of the DEV page (R441); its other fields apply before GO acts (R673). -/
def State.arcWrite (s : State) (val : Nat) : State :=
  let s := s.writeReg pgDev 0x170 val true
  if val.testBit 31 && s.reaches pgDev then s.arcGo else s

/-- ARC_OPEN: DEV_ARC_CMD with OP = 1 and GO (R419). -/
def execArcOpen (val : Nat) (s : State) : Result := .next (s.arcWrite val)

/-- ARC_SCRUB: DEV_ARC_CMD with OP = 2 and GO (R419). -/
def execArcScrub (val : Nat) (s : State) : Result := .next (s.arcWrite val)

/-- ARC_REKEY: DEV_ARC_CMD with OP = 3 and GO (R419). -/
def execArcRekey (val : Nat) (s : State) : Result := .next (s.arcWrite val)

/-- The error marks of page q once page p has been copied to it: correctable words corrected, an uncorrectable burst still
one (R650). -/
def State.movedErrs (s : State) (p q : Nat) : List (Nat × Nat) :=
  if s.errs.isEmpty then s.errs
  else (List.range 2048).foldl (fun m i =>
    sset (fun _ => 0) m (cwOf s.part (q * 65536 + 32 * i)) (if s.errAt (p * 65536 + 32 * i) = 2 then 2 else 0)) s.errs

/-- Rewrites one page from a key slot to another (R419). An uncorrectable burst stays as it is stored (R429). -/
def State.rekeyPage (s : State) (p old new : Nat) : State :=
  let s := s.touch (p * 65536) 65536 6
  { (s.recrypt p p old new) with mems.errs := s.movedErrs p p }

/-- What a session command does as a whole. -/
def State.arcFinish (s : State) (cmd : ArcCmd) : State :=
  let r := s.sess cmd.sess
  let zeroTable (s : State) : State := s.zeroBytes 0 r.ptBase r.tableBytes
  if cmd.op = 1 then (zeroTable s).setSess cmd.sess { r with state := sessActive, len := 0, scnext := 16 }
  else if cmd.op = 2 then
    let pages := s.sessPages cmd.sess r
    let s := pages.foldl (fun s p => (s.zeroRange 0 (p * 65536) 65536).freePage p) s
    let s := { s with arch.requant := s.requant.filter (fun q => q.sess ≠ cmd.sess) }
    (zeroTable s).setSess cmd.sess { r with state := sessFree }
  else
    let s := (s.sessPages cmd.sess r).foldl (fun s p => s.rekeyPage p r.kslot cmd.newSlot) s
    s.setSess cmd.sess { r with state := sessActive, kslot := cmd.newSlot }

/-- ARC_COMMAND_COMPLETE (R420). -/
def execArcCommandComplete (s : State) : Result :=
  match s.arcCmd with
  | none => .next s
  | some cmd =>
    .next (((({ s with arch.arcCmd := none }.arcFinish cmd).setF pgDev Reg.DEV_ARC_STAT_BUSY 0).setF pgDev Reg.DEV_ARC_STAT_DONE 1).setF
      pgDev Reg.DEV_ARC_STAT_WHY 0)

/-! ### Requantisation (R415 to R417) -/

/-- One Display position as exact values; a position not written reads as zeros (R411). -/
def State.displayVals (s : State) (r : SessRec) (e : Span) (i : Nat) : List Val :=
  let a := r.posAddr e i
  let w := r.fmt.width / 8
  (List.range r.dim).map (fun j =>
    if s.ueIn (a + w * j) w then .nan else decodeFmt r.fmt (ofLeBytes (s.readBytes r.kslot (a + w * j) w)))

/-- The SP4 codes and scale bytes of one position, blocks of 32 under BLOCKMAX (R415, R75, R76). -/
def reservePos (vs : List Val) : List Byte × List Byte × Flags :=
  let blocks := (List.range (vs.length / 32)).map (fun b => (vs.drop (32 * b)).take 32)
  let enc := blocks.map (fun b =>
    let e := blockMax .sp4 b
    (e, b.map (fun v => encodeFmt .sp4 .rne true (match v with | .fin x => .fin (x.scale (- e)) | w => w))))
  (packRow .sp4 (enc.flatMap (fun p => p.2.map (·.1))), enc.map (fun p => BitVec.ofNat 8 (unsigned 6 p.1)),
    orFlags (enc.flatMap (fun p => p.2.map (·.2))))

/-- Requantises a started span into its new pages. -/
def State.requantise (s : State) (q : Requant) : State :=
  let r := s.sess q.sess
  let e := s.span r q.stream q.span
  let n := min e.fill r.spanLen
  (List.range n).foldl (fun s i =>
    let s := if s.errs.isEmpty then s else s.touch (r.posAddr e i) (r.dim * r.fmt.width / 8) 10
    let (c, sc, _) := reservePos (s.displayVals r e i)
    (s.writeBytes r.kslot (q.page * 65536 + i * r.dim / 2) c).writeBytes r.kslot
      (q.scalePage * 65536 + 4096 * q.sslot + i * r.dim / 32) sc) s

/-- REQUANT_COMPLETE (R416): the requantisation of a started span ends. -/
def execRequantComplete (session stream span : Nat) (s : State) : Result :=
  match s.requant.find? (fun q => q.sess = session && q.stream = stream && q.span = span && !q.done) with
  | none => .next s
  | some q =>
    let t := s.requantise q
    .next { t with arch.requant := t.requant.map (fun u => if u = q then { u with done := true } else u) }

/-- R415, step 1: the started spans switch to the Reserve tier. -/
def State.switchSpans (s : State) : State :=
  let due := s.requant
  let s := { s with arch.requant := [] }
  due.foldl (fun s q =>
    let r := s.sess q.sess
    let e := s.span r q.stream q.span
    let s := s.setSpan r q.stream q.span { e with p0 := q.page, p1 := q.scalePage, tier := tierReserve, sslot := q.sslot }
    let s := (List.range r.dpages).foldl (fun s k => s.freePage (e.page k)) s
    s.count pgDev Reg.DEV_ARC_CNT_AGED 1) s

/-- A span is eligible (R415). -/
def State.eligible (s : State) (r : SessRec) (t k : Nat) : Bool :=
  r.state = sessActive && r.ageEn = 1 && (s.span r t k).tier = tierDisplay && decide ((k + 1) * r.spanLen + r.age ≤ r.len)

/-- Starts one span: a pool page and a scale slot (R415). -/
def State.startSpan (s : State) (n t k : Nat) : State :=
  let r := s.sess n
  let e := s.span r t k
  match s.grant true with
  | none => s
  | some (p, s1) =>
    let (sp, sl, s2) :=
      if r.scnext < 16 then (some r.scpg, r.scnext, s1)
      else match s1.grant true with
        | none => (none, 0, s1)
        | some (q, u) => (some q, 0, u)
    match sp with
    | none => s
    | some q =>
      let s3 := s2.setSess n { r with scpg := q, scnext := sl + 1 }
      let s4 := s3.setSpan r t k { e with tier := tierTransit }
      let u : Requant := { sess := n, stream := t, span := k, page := p, scalePage := q, sslot := sl, done := false }
      { s4 with arch.requant := s4.requant ++ [u] }

/-- Starts up to `n` eligible spans, in ascending order of session, stream and span. -/
def State.startSpans (s : State) (n : Nat) : State :=
  let cand := (List.range 16384).flatMap (fun x =>
    let r := s.sess x
    if r.state = sessActive && r.ageEn = 1 then
      (r.spans.filter (fun (t, k) => s.eligible r t k)).map (fun (t, k) => (x, t, k))
    else [])
  (cand.take n).foldl (fun s (x, t, k) => s.startSpan x t k) s

/-- R415: what a landing of group g does in cycles 14 to 17. -/
def State.ageAt (s : State) (g : Nat) : State :=
  if s.flag pgDev Reg.DEV_ARC_CFG_EN && s.getF pgDev Reg.DEV_ARC_CFG_AGEGRP = g then
    s.switchSpans.startSpans (s.getF pgDev Reg.DEV_ARC_CFG_AGEMAX)
  else s

/-- R416: the switches due at the next landing of group g have been requantised. -/
def State.switchReady (s : State) (g : Nat) : Bool :=
  !(s.flag pgDev Reg.DEV_ARC_CFG_EN && s.getF pgDev Reg.DEV_ARC_CFG_AGEGRP = g) || s.requant.all (·.done)

/-- R417: a write cancels the requantisation of a TRANSIT span. A scale page that the start took and nothing else uses
goes back as well (log 23). -/
def State.cancelRequant (s : State) (n t k : Nat) : State :=
  match s.requant.find? (fun q => q.sess = n && q.stream = t && q.span = k) with
  | none => s
  | some q =>
    let r := s.sess n
    let s := { (s.freePage q.page) with arch.requant := s.requant.filter (fun u => u ≠ q) }
    let s := if q.sslot = 0 && r.scpg = q.scalePage && r.scnext = 1 then (s.freePage q.scalePage).setSess n { r with scnext := 16 } else s
    let r := s.sess n
    s.setSpan r t k { s.span r t k with tier := tierDisplay }

/-! ### Retirement of a stack (R647 to R651) -/

/-- A plain-memory range named by something in use lies on stack x (R647). -/
def State.plainUse (s : State) (x : Nat) : Bool :=
  let on (a n : Nat) : Bool := decide (a < (x + 1) * stackSize) && decide (x * stackSize < a + n)
  let dv := s.getF pgDev Reg.DEV_DET_CTL_DIVERGE
  let logB := s.getF pgDev Reg.DEV_LOG_BASE_LO_ADDR + s.getF pgDev Reg.DEV_LOG_BASE_HI_ADDR * 2 ^ 32
  (s.flag pgDev Reg.DEV_ARC_CFG_EN && on s.sessBase 1048576)
    || (decide (2 ≤ dv) && on logB (65536 * s.getF pgDev Reg.DEV_LOG_SIZE_PAGES))
    || (List.range 16).any (fun q => on (65536 * s.getF pgPci (Reg.PCI_IQ_CFG_PAGE q))
          (65536 * s.getF pgPci (Reg.PCI_IQ_SIZE_PAGES q)) && decide (0 < s.getF pgPci (Reg.PCI_IQ_SIZE_PAGES q)))
    || (List.range 2).any (fun e => on (65536 * s.getF (pgEth e) Reg.ETH_EGR_CFG_PAGE)
          (65536 * s.getF (pgEth e) Reg.ETH_EGR_SIZE_PAGES) && decide (0 < s.getF (pgEth e) Reg.ETH_EGR_SIZE_PAGES))
    || (List.range 512).any (fun c => decide (s.doc c ≠ docIdle)
          && on (s.getF (pgDoc c) Reg.DOC_CTX_LO_ADDR + s.getF (pgDoc c) Reg.DOC_CTX_HI_ADDR * 2 ^ 32) 528384)
    || (s.flag pgDev Reg.DEV_ARC_CFG_EN && (List.range 16384).any (fun n =>
          let r := s.sess n
          decide (r.state ≠ sessFree) && on r.ptBase r.tableBytes))

/-- R647: why a retirement fails, 0 where it does not; of several reasons the first in the order of the list (log 92). -/
def State.retWhy (s : State) (x : Nat) : Nat :=
  let others := (List.range 12).filter (fun y => y ≠ x && !s.stackGone y)
  if s.retire.isSome || s.arcCmd.isSome then 1
  else if s.stackGone x then 2
  else if s.plainUse x then 3
  else if (others.map s.freeOn).foldl (· + ·) 0 < (s.allocOn x).length + s.getF pgDev Reg.DEV_ARC_RSV_PAGES then 4
  else if others.isEmpty then 5
  else 0

/-- STACK_RETIRE: DEV_RET_CMD with GO (R647). -/
def execStackRetire (val : Nat) (s : State) : Result :=
  let s := s.writeReg pgDev 0x1C0 val true
  if !val.testBit 31 || !s.reaches pgDev then .next s
  else
    let x := s.getF pgDev Reg.DEV_RET_CMD_STACK
    let why := s.retWhy x
    let s := s.setF pgDev Reg.DEV_RET_STAT_WHY why
    if why ≠ 0 then .next (s.setF pgDev Reg.DEV_RET_STAT_FAIL 1)
    else
      let s := s.setF pgDev Reg.DEV_RET_STAT_BUSY 1
      .next ({ s with arch.retire := some { stack := x, moved := 0 } }.setF pgDev Reg.DEV_RET_LEFT_PAGES (s.allocOn x).length)

/-- Session and pages on stack x of the first span, in ascending order, that no requantisation holds (R649); after the
spans, the scale page that a session fills. -/
def State.nextMigrate (s : State) (x : Nat) : Option (Nat × List Nat) :=
  let on (p : Nat) : Bool := decide (x * stackPages ≤ p) && decide (p < (x + 1) * stackPages)
  let live := (List.range 16384).filter (fun n => decide ((s.sess n).state ≠ sessFree))
  let spans := live.flatMap (fun n =>
    let r := s.sess n
    r.spans.map (fun (t, k) =>
      let e := s.span r t k
      (n, if e.tier = tierTransit then [] else (r.pagesOf e).filter on)))
  let fills := live.map (fun n => let r := s.sess n; (n, if r.scnext < 16 && on r.scpg then [r.scpg] else []))
  (spans ++ fills).find? (fun p => !p.2.isEmpty)

/-- Copies one page to another, decrypted and encrypted again under the key slot; an uncorrectable burst stays one
(R650). -/
def State.copyPage (s : State) (p q slot : Nat) : State :=
  let s := s.touch (p * 65536) 65536 6
  let data := (List.range 65536).map (fun i => s.byteAt (p * 65536 + i))
  { ((s.pokeBytes (q * 65536) data).recrypt p q slot slot) with mems.errs := s.movedErrs p q }

/-- Moves one page of session n, and renames it in every entry that names it (R649). -/
def State.migratePage (s : State) (n p : Nat) : State :=
  match s.grant false with
  | none => s
  | some (q, t) =>
    let r := s.sess n
    let t := t.copyPage p q r.kslot
    let f (v : Nat) : Nat := if v = p then q else v
    let t := r.spans.foldl (fun t (x, k) =>
      let e := t.span r x k
      if (r.pagesOf e).contains p then
        t.setSpan r x k { e with p0 := f e.p0, p1 := f e.p1, p2 := if e.tier = tierReserve then e.p2 else f e.p2,
                                 p3 := if e.tier = tierReserve then e.p3 else f e.p3 }
      else t) t
    let t := if r.scpg = p && decide (r.scnext < 16) then t.setSess n { r with scpg := q } else t
    let rq := t.requant.map (fun (u : Requant) => { u with scalePage := f u.scalePage })
    let t := { (t.freePage p) with arch.requant := rq,
                                   arch.retire := t.retire.map (fun (u : Retire) => { u with moved := u.moved + 1 }) }
    t.count pgDev Reg.DEV_CNT_RETMOVED 1

/-- SPAN_MIGRATE (R649): the pages of the next span move off the stack. -/
def execSpanMigrate (s : State) : Result :=
  match s.retire with
  | none => .next s
  | some ret =>
    match s.nextMigrate ret.stack with
    | none => .next s
    | some (n, ps) =>
      let t := ps.foldl (fun t p => t.migratePage n p) s
      .next (t.setF pgDev Reg.DEV_RET_LEFT_PAGES (t.allocOn ret.stack).length)

/-- RETIREMENT_COMPLETE (R651): the last page has moved. -/
def execRetirementComplete (s : State) : Result :=
  match s.retire with
  | none => .next s
  | some ret =>
    if !(s.allocOn ret.stack).isEmpty then .next s
    else
      let x := ret.stack
      let s := { s with arch.retire := none, mems.mem := sclear s.mem (x * stackSize) ((x + 1) * stackSize),
                        mems.unitKey := sclear s.unitKey (34 * 2048 * (x * stackPages)) (34 * 2048 * ((x + 1) * stackPages)),
                        mems.errs := sclear s.errs (cwName (9 * 4096 + x) 0) (cwName (9 * 4096 + x + 1) 0),
                        arch.repairWrites := s.repairWrites ++ [FlashOp.retire x] }
      let s := s.setF (pgMem x) Reg.MEM_STAT_RETIRED 1
      let s := (s.setF pgDev Reg.DEV_RET_STAT_BUSY 0).setF pgDev Reg.DEV_RET_STAT_DONE 1
      .next (s.raise (pgMem x) 2 0x2C 0 (leBytes 1 x ++ leBytes 4 ret.moved))

end Sys2Proof.Machine
end

