-- ==== Sys2Proof/Machine/Events.lean ====
section
/-! DEFINITION. The commands on events: the 8 µs hold and its order (R697), the host's consumption of the ring (R691,
R692), and the mailbox commands EVT_RING (R691) and every code that no rule lists (R543). -/
namespace Sys2Proof.Machine

/-- R697: `a` is written before `b`. -/
def Event.before (a b : Event) : Bool :=
  if a.time ≠ b.time then decide (a.time < b.time)
  else if b.after = some (a.code, a.page) then true
  else if a.after = some (b.code, b.page) then false
  else if a.code ≠ b.code then decide (a.code < b.code)
  else decide (a.page < b.page)

/-- The held event that R697 writes first. -/
def firstEvent : List Event → Option Event
  | [] => none
  | e :: es => match firstEvent es with
    | none => some e
    | some f => some (if f.before e then f else e)

/-- The waiting records are written while the ring takes them (R692). -/
def State.flushEvents : Nat → State → State
  | 0, s => s
  | n + 1, s =>
    match s.waiting with
    | [] => s
    | e :: es => if 0 < s.ringSpace then flushEvents n ({ s with evts.waiting := es }.writeEvent e) else s

/-- EVENT_HOLD_EXPIRY (R697): 8 µs after its TIME, the first event in order leaves the hold; a late one leaves at once.
While the Curator firmware is replaced, the die managers hold events (R656). -/
def execEventHoldExpiry (s : State) : Result :=
  match firstEvent s.held with
  | none => .next s
  | some e =>
    if s.cur.replacing || (decide (s.rot < e.time + us 8) && !e.late) then .next s
    else .next ({ s with evts.held := s.held.erase e }.record e)

/-- EVENT_RING_DRAIN (R691, R692): the Curator reads the consumer word, and writes waiting records into the space. -/
def execEventRingDrain (consumed : Nat) (s : State) : Result :=
  .next ({ s with evts.evtConsumed := consumed % 2 ^ 32 }.flushEvents 4096)

/-- R691: the payload of EVT_RING. -/
def evtRingOk (p : List Byte) : Bool :=
  let base := ofLeBytes (p.take 8)
  let log2n := ofLeBytes ((p.drop 8).take 1)
  let cons := ofLeBytes ((p.drop 16).take 8)
  decide (p.length = 24) && decide (base % 4096 = 0) && decide (6 ≤ log2n) && decide (log2n ≤ 16)
    && ((p.drop 9).take 7).all (fun b => b = 0) && decide (cons % 8 = 0)

/-- EVT_RING (R691): names the event ring from the next SEQ on. A new ring starts with no unread record (log 18). -/
def execEvtRing (m : MbxReq) (s : State) : Result :=
  .next (s.mailbox 0x0301 m (fun s =>
    if !evtRingOk m.payload then s.respond 0x0301 m.tag 2 [] m.haddr m.hlen
    else
      let r : EvtRing := { base := ofLeBytes (m.payload.take 8), log2n := ofLeBytes ((m.payload.drop 8).take 1),
                           cons := ofLeBytes ((m.payload.drop 16).take 8) }
      let s := { s with evts.ring := some r, evts.ringCancelled := false, evts.evtConsumed := s.evtSeq }
      (s.respond 0x0301 m.tag 0 [] m.haddr m.hlen).flushEvents 4096))

/-- The command codes of R596 and R691. -/
def knownCodes : List Nat :=
  [0x0201, 0x0202, 0x0203, 0x0204, 0x0205, 0x0206, 0x0207, 0x0208, 0x0209, 0x020A, 0x020B, 0x020C, 0x020D, 0x020E,
   0x020F, 0x0210, 0x0301]

/-- A request with a code that no rule lists answers STATUS 0x0001 (R543). -/
def execMailboxUnknownCode (code : Nat) (m : MbxReq) (s : State) : Result :=
  if knownCodes.contains code then .next s
  else .next (s.mailbox code m (fun s => s.respond code m.tag 1 [] m.haddr m.hlen))

end Sys2Proof.Machine
end

