-- ==== Sys2Proof/Machine/Security.lean ====
section
/-! DEFINITION. The security commands of the Curator mailbox (R564 to R604, R655 to R658), physical presence (R590), the
tamper seal (R592 to R595), the entropy source (R565), and the flash writes that these commands make (R567 to R569,
R597). Where R543 gives a command's payload no layout, its items stand in the order of their rule, at the widths of R702
(log 19). -/
namespace Sys2Proof.Machine

/-! ### Verdicts, tokens and slots -/

/-- R571: both signatures verify. -/
def sigBoth (g : SigCheck) : Bool := g.rsaOk && g.slhOk

/-- R571: both signatures verify under an owner key of the record in force. -/
def State.ownerSigned (s : State) (g : SigCheck) : Bool :=
  sigBoth g && (match s.cur.owner with | some o => o.keys.contains g.keyId | none => false)

def State.sealed (s : State) : Bool := s.flag pgSec Reg.SEC_STAT_SEALED

/-- R571: a valid token for an act: body of 112 bytes, this device, this bring-up, signed by the owner. -/
def State.tokenOk (s : State) (act : String) (t : Token) : Bool :=
  let name := ascii act
  decide (t.body = name ++ List.replicate (16 - name.length) 0 ++ s.flash.idhash ++ s.cur.nonce)
    && decide (t.body.length = 112) && s.ownerSigned t.sig

/-- A window of physical presence is open (R590). -/
def State.presence (s : State) : Bool := s.flag pgSec Reg.SEC_STAT_PRESENCE

def State.closeWindow (s : State) : State :=
  { (s.setF pgSec Reg.SEC_STAT_PRESENCE 0) with brd.cur := { s.cur with windowEnd := 0 } }

/-- A refusal for want of authority, STATUS 0x0003, is counted (R596, R603). -/
def State.refuse (s : State) (code : Nat) (m : MbxReq) : State :=
  (s.count pgSec Reg.SEC_CNT_AUTHREF 1).respond code m.tag 3 [] m.haddr m.hlen

def State.answer (s : State) (code : Nat) (m : MbxReq) (status : Nat) : State := s.respond code m.tag status [] m.haddr m.hlen

/-- A command that writes flash runs (R597). -/
def State.flashBusy (s : State) : Bool := s.cur.flashOp.isSome

/-- A staging write, which programs no commit marker (R596). -/
def FlashOp.isStage : FlashOp → Bool
  | .fwStage _ _ | .cfgStage _ _ => true
  | _ => false

/-- Begins a command's flash write; FLASH_WRITE_COMPLETE answers it. While flash operations are held (R626), a staging
write waits and a command that would program a commit marker fails with 0x0103. -/
def State.beginFlash (s : State) (code : Nat) (m : MbxReq) (op : FlashOp) : State :=
  if s.cur.flashHeld && !op.isStage then s.answer code m 0x0103
  else { s with brd.cur := { s.cur with flashOp := some op, job := some (.flash op), jobCode := code, jobTag := m.tag,
                                        jobHaddr := m.haddr, flashSent := !s.cur.flashHeld } }

/-- A slot with its marker whose object verifies (R568). -/
def fwValid (x : Option (FlashSlot FwImage)) : Bool := match x with | some y => y.marker && sigBoth y.body.sig | none => false

/-- Generation of a slot; 0 for an empty one. -/
def slotGen {α : Type} (x : Option (FlashSlot α)) : Nat := match x with | some y => y.gen | none => 0

/-- A configuration record that R576 accepts. -/
def State.cfgAccepts (s : State) (c : CfgRecord) : Bool :=
  s.ownerSigned c.sig && decide (s.flash.cfgCtr ≤ c.svn) && decide (c.idhash = s.flash.idhash)

def State.cfgValid (s : State) (x : Option (FlashSlot CfgRecord)) : Bool :=
  match x with | some y => y.marker && s.cfgAccepts y.body | none => false

/-- The configuration slot that a reader takes: true for B (R568, R576). -/
def State.cfgSlotB (s : State) : Bool :=
  s.cfgValid s.flash.cfgB && (!s.cfgValid s.flash.cfgA || decide (slotGen s.flash.cfgA < slotGen s.flash.cfgB))

/-- The owner slot that a reader takes: true for B. -/
def State.ownSlotB (s : State) : Bool :=
  let ok (x : Option (FlashSlot OwnerRecord)) : Bool := match x with | some y => y.marker | none => false
  ok s.flash.ownB && (!ok s.flash.ownA || decide (slotGen s.flash.ownA < slotGen s.flash.ownB))

/-- The firmware slot that a writer programs: the one that does not run; in recovery the one that is not valid, and A
when both are invalid (R568, R575). In a recovery from two valid slots (R566) it is the one that does not run (log 20). -/
def State.fwWriteB (s : State) : Bool :=
  let a := fwValid s.flash.fwA
  let b := fwValid s.flash.fwB
  if s.flag pgSec Reg.SEC_STAT_RECOVERY && !(a && b) then a && !b else !s.cur.bootB

/-! ### Configuration in force (R576, R537, R561) -/

/-- Applies the configuration record in force, or the default configuration, to the registers that show it. The default
MAC addresses come from the device certificate (free, log 8). -/
def State.showConfig (s : State) : State :=
  let macs := match s.cur.cfg with
    | some c => [c.mac0, c.mac1]
    | none => [Config.crypto 1 [s.flash.identity, 0] % 2 ^ 48, Config.crypto 1 [s.flash.identity, 1] % 2 ^ 48]
  let s := s.setF pgPci Reg.PCI_SEALWIN_FIRST ((s.cur.cfg.map (·.winFirst)).getD 0)
  let s := s.setF pgPci Reg.PCI_SEALWIN_PAGES ((s.cur.cfg.map (·.winPages)).getD 0)
  let s := s.setF pgSec Reg.SEC_SVN_CFG ((s.cur.cfg.map (·.svn)).getD 0)
  let s := s.setF pgSec Reg.SEC_STAT_OWNED s.cur.owner.isSome.toNat
  (List.range 2).foldl (fun s e =>
    let m := macs.getD e 0
    (s.setF (pgEth e) Reg.ETH_MAC_LO_MAC m).setF (pgEth e) Reg.ETH_MAC_HI_MAC (m / 2 ^ 32)) s

def State.sealEn (s : State) : Bool := (s.cur.cfg.map (·.sealEn)).getD false
def State.debugAllow (s : State) : Bool := (s.cur.cfg.map (·.debugAllow)).getD false

/-! ### Zeroisation (R589) -/

/-- Step 1: every cluster stops, as DOC_CTL.ABORT does. -/
def State.stopAll (s : State) : State := (List.range 512).foldl (fun s c => s.stopCluster c) s

/-- Step 2: every Accession entry and key slots 1 to 255 are erased. -/
def State.eraseKeys (s : State) : State := { s with inq.accSess := [], brd.keys := s.keys.filter (fun p => p.1 = 0) }

/-- A new key of slot 0; its name is the number of the draw plus 1. -/
def State.newSlot0 (s : State) : State :=
  let (_, t) := s.drawEntropy
  { t with brd.keys := sput t.keys 0 t.cur.draws }

/-- Steps 3 and 4: HBM filled under a new slot 0 key, and all SRAM other than Curator memory (R435), whose error marks
stay. With the session records and page tables gone no pool page is allocated (log 20). -/
def State.zeroise (s : State) : State :=
  let curator (p : Nat × Nat) : Bool := p.1 / 2 ^ 48 / 4096 = 7
  let s := s.freeItems (s.combIn.flatMap (fun p => p.2))
  { s.newSlot0 with mems.mem := [], mems.unitKey := [], mems.errs := s.errs.filter curator, arch.alloc := [],
                    mems.rawChk := s.rawChk.filter (fun p => p.1 / 2 ^ 48 / 4096 = 7), mems.cat := [], mems.im := [], mems.am := [], mems.tiles := [],
                    fabric.early := [], fabric.combIn := [], fabric.combs := [], fabric.endIn := [], fabric.endComb := [] }

/-! ### Reports (R577, R578) -/

def State.extend (s : State) (k : Nat) (digest : List Byte) : State :=
  { s with brd.cur := { s.cur with mr := (List.range 5).map (fun i =>
      let m := s.cur.mr.getD i (List.replicate 48 0)
      if i = k then extendMR m digest else m) } }

/-- `n` bytes of a result of the algorithms named by a standard (log 8). -/
def cryptoBytes (fn n : Nat) (input : List Nat) : List Byte := leBytes n (Config.crypto fn input)

def padTo (n : Nat) (b : List Byte) : List Byte := (b ++ List.replicate n 0).take n

/-- The 1,672 bytes of the attestation report (R578). -/
def State.report (s : State) (nonce : List Byte) : List Byte :=
  leBytes 4 1 ++ padTo 48 nonce ++ padTo 48 s.cur.nonce ++ padTo 48 s.flash.idhash
    ++ (List.range 5).flatMap (fun i => padTo 48 (s.cur.mr.getD i []))
    ++ s.provenance.flatMap (fun w => leBytes 4 w)
    ++ [BitVec.ofNat 8 s.sealed.toNat, BitVec.ofNat 8 (s.getF pgSec Reg.SEC_STAT_SEAL),
        BitVec.ofNat 8 (s.getF pgSec Reg.SEC_STAT_DEBUG + 2 * s.getF pgSec Reg.SEC_STAT_OWNED
          + 4 * s.getF pgSec Reg.SEC_STAT_FALLBACK + 8 * s.flash.reenrolled.toNat
          + 16 * s.getF pgSec Reg.SEC_STAT_RECOVERY), 0]
    ++ leBytes 2 (s.getF pgSec Reg.SEC_SVN_FW) ++ leBytes 2 (s.getF pgSec Reg.SEC_SVN_CFG)
    ++ leBytes 2 ((s.cur.owner.map (·.svn)).getD 0) ++ leBytes 2 (min s.flash.fwCtr s.flash.cfgCtr)
    ++ padTo 16 ((s.cur.owner.map (·.ownerId)).getD []) ++ leBytes 8 s.rot
    ++ cryptoBytes 2 32 [s.cur.intake] ++ cryptoBytes 3 1184 [s.cur.intake]

/-- The signature block of the report under the identity keys: key identifier, RSA-3072, SLH-DSA (R570, R578). -/
def State.signReport (s : State) (rep : List Byte) : List Byte :=
  let h := s.flash.identity :: rep.map (·.toNat)
  padTo 16 s.flash.idhash ++ cryptoBytes 4 384 h ++ cryptoBytes 5 35664 h

/-- ATTEST and CERT_GET are served: outside recovery, or with the identity open (R575). -/
def State.identityServes (s : State) : Bool := !s.flag pgSec Reg.SEC_STAT_RECOVERY || s.cur.idOpen

/-- ATTEST (R578). -/
def execAttest (m : MbxReq) (s : State) : Result :=
  .next (s.mailbox 0x0201 m (fun s =>
    if m.payload.length ≠ 48 then s.answer 0x0201 m 2
    else if !s.identityServes then s.answer 0x0201 m 0x0107
    else let rep := s.report m.payload; s.respondBulk 0x0201 m (rep ++ s.signReport rep)))

/-- CERT_GET (R578). -/
def execCertGet (m : MbxReq) (s : State) : Result :=
  .next (s.mailbox 0x0202 m (fun s =>
    if !s.identityServes then s.answer 0x0202 m 0x0107 else s.respondBulk 0x0202 m s.flash.chain))

/-! ### Firmware and configuration (R568, R575, R596, R597, R655) -/

/-- FW_STAGE: writes the inactive slot without its marker, once the image verifies. -/
def execFwStage (m : MbxReq) (img : FwImage) (s : State) : Result :=
  .next (s.mailbox 0x0203 m (fun s =>
    if s.flashBusy then s.answer 0x0203 m 4
    else if !sigBoth img.sig then s.answer 0x0203 m 0x0102
    else s.beginFlash 0x0203 m (.fwStage s.fwWriteB img)))

/-- The image staged in the slot that FW_STAGE wrote. -/
def State.stagedFw (s : State) : Option (Bool × FwImage) :=
  match s.cur.fwStagedB with
  | none => none
  | some b => ((if b then s.flash.fwB else s.flash.fwA).map (fun x => (b, x.body)))

/-- FW_COMMIT, with or without live replacement. The window closes when the command is accepted: when no check refuses it
(R590, log 20). -/
def State.serveFwCommit (s : State) (m : MbxReq) : State :=
  let live := match m.payload.head? with | some b => b.getLsbD 0 | none => false
  if !s.presence then s.refuse 0x0204 m
  else match s.stagedFw with
    | none => s.answer 0x0204 m 4
    | some (b, img) =>
      if s.flashBusy then s.answer 0x0204 m 4
      else
        let verify := live || s.flag pgSec Reg.SEC_STAT_RECOVERY
        if verify && !sigBoth img.sig then s.answer 0x0204 m 0x0102
        else if img.svn < s.flash.fwCtr then s.answer 0x0204 m 0x0101
        else
          let s := s.closeWindow.beginFlash 0x0204 m (.fwMarker b live)
          if live && s.cur.flashOp.isSome then s.setF pgCur Reg.CUR_MBX_STAT_READY 0 else s

/-- FW_COMMIT with bit 0 of its first payload byte clear (R596). -/
def execFwCommit (m : MbxReq) (s : State) : Result := .next (s.mailbox 0x0204 m (fun s => s.serveFwCommit m))

/-- FW_COMMIT with bit 0 of its first payload byte set: live replacement (R655). -/
def execFwCommitLive (m : MbxReq) (s : State) : Result := .next (s.mailbox 0x0204 m (fun s => s.serveFwCommit m))

/-- The new image is ready (R655 to R657): it answers FW_COMMIT and reports the events held meanwhile. -/
def execNewImageReady (s : State) : Result :=
  match s.cur.newFw with
  | none => .next s
  | some fw =>
    if !s.cur.replacing then .next s
    else
      let nheld := s.held.length
      let held := s.held.map (fun (e : Event) => { e with late := e.late || decide (e.time + us 8 < s.rot) })
      let s := { s with brd.cur := { s.cur with replacing := false, newFw := none, fw := some fw, job := none,
                                                bootB := !s.cur.bootB },
                        evts.held := held }
      let s := (List.range 4).foldl (fun s d =>
        let n := s.getF (pgDie d) Reg.DIE_EVTQ
        (s.count (pgDie d) Reg.DIE_CNT_EVT n).setF (pgDie d) Reg.DIE_EVTQ 0) s
      let s := s.extend 1 fw.hash
      let s := (s.setF pgSec Reg.SEC_SVN_FW fw.svn).setF pgSec Reg.SEC_STAT_BOOTSLOT s.cur.bootB.toNat
      let s := s.setF pgCur Reg.CUR_MBX_STAT_READY 1
      let s := s.respond 0x0204 s.cur.jobTag 0 [] s.cur.jobHaddr 0
      .next (s.raise pgCur 0 0x3B 0 (leBytes 2 fw.svn ++ leBytes 2 nheld))

/-- CFG_STAGE (R596, R567). -/
def execCfgStage (m : MbxReq) (cfg : CfgRecord) (s : State) : Result :=
  .next (s.mailbox 0x0205 m (fun s =>
    if s.flashBusy then s.answer 0x0205 m 4
    else if !s.ownerSigned cfg.sig then s.answer 0x0205 m 0x0102
    else if cfg.idhash ≠ s.flash.idhash then s.answer 0x0205 m 0x0104
    else s.beginFlash 0x0205 m (.cfgStage (!s.cfgSlotB) cfg)))

/-- CFG_COMMIT needs presence where the staged record changes what a verifier relies on (R596). -/
def cfgSensitive (old : Option CfgRecord) (new : CfgRecord) : Bool :=
  match old with
  | some o => !(o.isSealed = new.isSealed && o.sealEn = new.sealEn && o.debugAllow = new.debugAllow
      && o.winFirst = new.winFirst && o.winPages = new.winPages)
  | none => new.isSealed || new.sealEn || new.debugAllow || decide (new.winPages ≠ 0) || decide (new.winFirst ≠ 0)

/-- CFG_COMMIT (R596, R597): takes effect at the next bring-up. -/
def execCfgCommit (m : MbxReq) (s : State) : Result :=
  .next (s.mailbox 0x0206 m (fun s =>
    match s.cur.cfgStagedB with
    | none => s.answer 0x0206 m 4
    | some b =>
      match (if b then s.flash.cfgB else s.flash.cfgA) with
      | none => s.answer 0x0206 m 4
      | some x =>
        let need := cfgSensitive s.cur.cfg x.body
        if need && !s.presence then s.refuse 0x0206 m
        else if s.flashBusy then s.answer 0x0206 m 4
        else if x.body.svn < s.flash.cfgCtr then s.answer 0x0206 m 0x0101
        else (if need then s.closeWindow else s).beginFlash 0x0206 m (.cfgMarker b)))

/-- OWNER_ENROL (R598): zeroisation of R589, steps 1 to 4, then the new record. -/
def execOwnerEnrol (m : MbxReq) (own : OwnerRecord) (s : State) : Result :=
  .next (s.mailbox 0x0207 m (fun s =>
    if !s.presence then s.refuse 0x0207 m
    else if s.sealed || s.flashBusy then s.answer 0x0207 m 4
    else if s.cur.owner.isSome && !s.ownerSigned own.sig then s.answer 0x0207 m 0x0102
    else if (match s.cur.owner with | some o => decide (own.svn ≤ o.svn) | none => false) then s.answer 0x0207 m 0x0101
    else if s.cur.entropyBad then s.answer 0x0207 m 0x0105
    else (s.closeWindow.stopAll.eraseKeys.zeroise).beginFlash 0x0207 m (.owner own)))

/-- PUF_REENROL (R599). -/
def execPufReenrol (m : MbxReq) (s : State) : Result :=
  .next (s.mailbox 0x0208 m (fun s =>
    if !s.presence then s.refuse 0x0208 m
    else if s.sealed || s.flashBusy then s.answer 0x0208 m 4
    else if s.cur.entropyBad then s.answer 0x0208 m 0x0105
    else s.closeWindow.beginFlash 0x0208 m .reenrol))

/-- CERT_INSTALL (R596): the chain is signed by the owner or by Wilevo. -/
def execCertInstall (m : MbxReq) (chain : List Byte) (sig : SigCheck) (s : State) : Result :=
  .next (s.mailbox 0x0209 m (fun s =>
    if s.flashBusy then s.answer 0x0209 m 4
    else if !sigBoth sig then s.answer 0x0209 m 0x0102
    else s.beginFlash 0x0209 m (.chain chain)))

/-! ### Unsealing, debug, rearming (R589, R599, R595) -/

/-- Every present stack that is not retired is filled (R602). -/
def State.hbmFilled (s : State) : Bool :=
  (List.range 12).all (fun x => s.stackGone x || s.flag (pgMem x) Reg.MEM_STAT_FILLED)

/-- In Foyer service a command that needs HBM waits until it is filled (R602). -/
def State.waitHbm (s : State) (code : Nat) (m : MbxReq) (cmd : Instr) : State :=
  { s with brd.cur := { s.cur with job := some (.waitHbm cmd), jobCode := code, jobTag := m.tag, jobHaddr := m.haddr } }

/-- R589, steps 1 and 2; steps 3 to 5 and the response follow about 100 ms later. -/
def State.serveUnseal (s : State) (m : MbxReq) : State :=
  { s.stopAll.eraseKeys with brd.cur := { s.cur with job := some .unseal, jobCode := 0x020A, jobTag := m.tag,
                                                     jobHaddr := m.haddr } }

/-- UNSEAL (R589, R596). -/
def execUnseal (m : MbxReq) (tok : Token) (s : State) : Result :=
  .next (s.mailbox 0x020A m (fun s =>
    if !s.presence || !s.tokenOk "UNSEAL" tok then s.refuse 0x020A m
    else if !s.sealed then s.answer 0x020A m 4
    else if s.cur.entropyBad then s.answer 0x020A m 0x0105
    else
      let s := s.closeWindow
      if !s.hbmFilled then s.waitHbm 0x020A m (.unseal m tok) else s.serveUnseal m))

/-- UNSEAL, steps 3 to 5 (R589). -/
def execUnsealDone (s : State) : Result :=
  match s.cur.job with
  | some .unseal =>
    let s := { s.zeroise with brd.cur := { s.zeroise.cur with job := none } }
    let s := (s.setF pgSec Reg.SEC_STAT_SEALED 0).raise pgSec 3 0x33 0 []
    .next (s.respond 0x020A s.cur.jobTag 0 [] s.cur.jobHaddr 0)
  | _ => .next s

/-- DEBUG_UNLOCK (R599). -/
def execDebugUnlock (m : MbxReq) (tok : Token) (s : State) : Result :=
  .next (s.mailbox 0x020B m (fun s =>
    if !s.presence || !s.tokenOk "DEBUG" tok then s.refuse 0x020B m
    else if s.sealed || !s.debugAllow then s.answer 0x020B m 4
    else
      let s := (s.closeWindow.setF pgSec Reg.SEC_STAT_DEBUG 1).raise pgSec 4 0x34 1 []
      s.answer 0x020B m 0))

/-- SEAL_REARM (R595). -/
def execSealRearm (m : MbxReq) (s : State) : Result :=
  .next (s.mailbox 0x020C m (fun s =>
    if !s.presence then s.refuse 0x020C m
    else if s.getF pgSec Reg.SEC_STAT_SEAL ≠ 2 || decide (s.cur.closedRun < 10) then s.answer 0x020C m 4
    else (s.closeWindow.setF pgSec Reg.SEC_STAT_SEAL 1).answer 0x020C m 0))

/-! ### Key slots and scrub (R584 to R586) -/

/-- The name of the key derived from an epoch secret for slot k (R584). -/
def slotKey (secret k : Nat) : Nat := (secret + 1) * 256 + k

/-- SLOT_LOAD of an entry whose fields have been read. -/
def State.serveSlotLoad (s : State) (m : MbxReq) : State :=
  let k := ofLeBytes (m.payload.take 1)
  let sid := ofLeBytes ((m.payload.drop 1).take 4)
  let ep := ofLeBytes ((m.payload.drop 5).take 4)
  if k = 0 || decide (m.payload.length < 9) then s.answer 0x020D m 2
  else match s.accSess.find? (fun e => e.sid = sid) with
    | none => s.answer 0x020D m 4
    | some e =>
      if e.epoch ≠ ep || s.hasKey k then s.answer 0x020D m 4
      else { s with brd.keys := sput s.keys k (slotKey e.secret k) }.answer 0x020D m 0

/-- SLOT_LOAD (R584). -/
def execSlotLoad (m : MbxReq) (s : State) : Result :=
  .next (s.mailbox 0x020D m (fun s => if !s.hbmFilled then s.waitHbm 0x020D m (.slotLoad m) else s.serveSlotLoad m))

/-- A session record that is not FREE names key slot k (R584). -/
def State.slotInUse (s : State) (k : Nat) : Bool :=
  s.flag pgDev Reg.DEV_ARC_CFG_EN
    && (List.range 16384).any (fun n => decide ((s.sess n).state ≠ sessFree) && decide ((s.sess n).kslot = k))

/-- SLOT_FREE (R584). -/
def execSlotFree (m : MbxReq) (s : State) : Result :=
  .next (s.mailbox 0x020E m (fun s =>
    let k := ofLeBytes (m.payload.take 1)
    if k = 0 || m.payload.isEmpty then s.answer 0x020E m 2
    else if s.slotInUse k then s.answer 0x020E m 4
    else { s with brd.keys := sdel s.keys k }.answer 0x020E m 0))

/-- Fields of a SESSION_SCRUB payload: SID, SESS, key slot, cluster mask. -/
def scrubSid (m : MbxReq) : Nat := ofLeBytes (m.payload.take 4)
def scrubSess (m : MbxReq) : Nat := ofLeBytes ((m.payload.drop 4).take 2)
def scrubSlot (m : MbxReq) : Nat := ofLeBytes ((m.payload.drop 6).take 1)
def scrubMask (m : MbxReq) : BitVec 512 := BitVec.ofNat 512 (ofLeBytes ((m.payload.drop 7).take 64))

/-- A cluster of the mask is in BARRIER, FLIGHT, WINDOW or SAVED (R586). -/
def State.scrubBlocked (s : State) (mask : BitVec 512) : Bool :=
  (List.range 512).any (fun c => mask.getLsbD c && (s.running c || decide (s.doc c = docSaved)))

/-- Steps 1 to 3 of R586; step 4 waits for the completion of SCRUB. -/
def State.serveScrub (s : State) (m : MbxReq) : State :=
  if m.payload.length < 71 then s.answer 0x020F m 2
  else if s.scrubBlocked (scrubMask m) then s.answer 0x020F m 4
  else
    let s := { s with inq.accSess := s.accSess.filter (fun e => e.sid ≠ scrubSid m) }
    let s := if scrubSlot m = 0 then s else { s with brd.keys := sdel s.keys (scrubSlot m) }
    let start := decide (scrubSess m ≠ 0xFFFF) && s.arcCmd.isNone
    let s := if start then s.arcStart 2 (scrubSess m) 0 else s
    { s with brd.cur := { s.cur with job := some (.scrub (if start then 0xFFFF else scrubSess m) (scrubMask m)),
                                     jobCode := 0x020F, jobTag := m.tag, jobHaddr := m.haddr } }

/-- SESSION_SCRUB (R586). -/
def execSessionScrub (m : MbxReq) (s : State) : Result :=
  .next (s.mailbox 0x020F m (fun s =>
    if decide (scrubSess m ≠ 0xFFFF) && !s.hbmFilled then s.waitHbm 0x020F m (.sessionScrub m) else s.serveScrub m))

/-- Step 4 of R586 in one cluster. -/
def State.scrubCluster (s : State) (c : Nat) : State :=
  let s := s.zeroRange 0 (localAddr c 0x80000) 0x100000
  let s := { s with mems.am := sclear s.am (c * 131072) ((c + 1) * 131072), mems.tiles := sclear s.tiles (c * 256) ((c + 1) * 256),
                    mems.errs := sclear s.errs (cwName (2 * 4096 + c) 0) (cwName (2 * 4096 + c) 0x80000) }
  s.clearSticky c

/-- SESSION_SCRUB finishes (R586): after the SCRUB of its session, step 4 and the response. -/
def execSessionScrubFinish (s : State) : Result :=
  match s.cur.job with
  | some (.scrub n mask) =>
    if s.arcCmd.isSome then .next s
    else if n ≠ 0xFFFF then
      .next { (s.arcStart 2 n 0) with brd.cur := { (s.arcStart 2 n 0).cur with job := some (.scrub 0xFFFF mask) } }
    else
      let s := (List.range 512).foldl (fun s c => if mask.getLsbD c then s.scrubCluster c else s) s
      let s := { s with brd.cur := { s.cur with job := none } }
      let s := s.count pgSec Reg.SEC_CNT_SCRUB 1
      .next (s.respond 0x020F s.cur.jobTag 0 [] s.cur.jobHaddr 0)
  | _ => .next s

/-- HBM_WAIT_COMMAND_RESUME (R602): a command that waited for the fill of HBM is served. -/
def execHbmWaitCommandResume (s : State) : Result :=
  match s.cur.job with
  | some (.waitHbm cmd) =>
    if !s.hbmFilled then .next s
    else
      let s := { s with brd.cur := { s.cur with job := none } }
      match cmd with
      | .unseal m _ => .next (s.serveUnseal m)
      | .slotLoad m => .next (s.serveSlotLoad m)
      | .sessionScrub m => .next (s.serveScrub m)
      | _ => .next s
  | _ => .next s

/-! ### Exhibits (R600 to R602) -/

/-- An entry of an exhibit image: cluster, descriptor count, offset (R600). -/
def exhEntries (img : List Byte) (cmask : Nat) : List (Nat × Nat × Nat) :=
  let cs := (List.range 512).filter (fun c => cmask.testBit c)
  cs.zipIdx.map (fun (_, k) =>
    let e := (img.drop (128 + 8 * k)).take 8
    (ofLeBytes (e.take 2), ofLeBytes ((e.drop 2).take 2), ofLeBytes ((e.drop 4).take 4)))

/-- Slots that the first `n` descriptors of some bytes occupy: two for each with EXT = 1 (R312). -/
def exhSlots (bytes : List Byte) : Nat → Nat
  | 0 => 0
  | n + 1 =>
    let k := if (bytes.getD 1 0).getLsbD 6 then 2 else 1
    k + exhSlots (bytes.drop (32 * k)) n

/-- Why an image is refused: its STATUS and the first offending region (1) or cluster (2); 0 where it is accepted
(R601). Images without the magic word, whose entries do not name the clusters of CMASK in order, or that end before what
they name, are refused too (log 21). -/
def State.exhWhy (s : State) (img : List Byte) (sig : SigCheck) : Nat × Nat × Nat :=
  let rmask := ofLeBytes ((img.drop 4).take 4)
  let cmask := ofLeBytes ((img.drop 8).take 64)
  let sigoff := ofLeBytes ((img.drop 72).take 4)
  let siglen := ofLeBytes ((img.drop 76).take 4)
  let badR := (List.range 32).find? (fun r => rmask.testBit r &&
    (!s.avail r || (!s.full && !(s.getF pgPwr Reg.PWR_RGN_REL_MASK).testBit r)))
  let badC := (List.range 512).find? (fun c => cmask.testBit c && !rmask.testBit (regionOf c))
  let es := exhEntries img cmask
  let cs := (List.range 512).filter (fun c => cmask.testBit c)
  let slots (e : Nat × Nat × Nat) : Nat := exhSlots (img.drop e.2.2) e.2.1
  let bigC := es.find? (fun e => decide (8192 < slots e))
  let short := es.any (fun e => decide (img.length < e.2.2 + 32 * slots e)) || decide (img.length < sigoff + siglen)
  match badR with
  | some r => (2, 1, r)
  | none => match badC with
    | some c => (2, 2, c)
    | none => match bigC with
      | some e => (2, 2, e.1)
      | none =>
        if img.take 4 ≠ ascii "AKX9" || ((img.drop 80).take 48).any (fun b => b ≠ 0) || es.map (·.1) ≠ cs || short then (2, 0, 0)
        else if s.sealed && !s.ownerSigned sig then (0x0102, 0, 0)
        else (0, 0, 0)

/-- Writes the descriptors of one cluster from slot 0 on (R602). -/
def State.loadIm (s : State) (c n : Nat) (bytes : List Byte) : State :=
  { s with mems.im := (List.range n).foldl (fun m k =>
      sset (fun _ => 0) m (8192 * c + k) (BitVec.ofNat 256 (ofLeBytes ((bytes.drop (32 * k)).take 32)))) s.im,
           mems.errs := sclear s.errs (cwName (3 * 4096 + c) 0) (cwName (3 * 4096 + c) (32 * n)) }

/-- EXH_LOAD (R600 to R602). -/
def execExhLoad (m : MbxReq) (image : List Byte) (sig : SigCheck) (s : State) : Result :=
  .next (s.mailbox 0x0210 m (fun s =>
    let cmask := ofLeBytes ((image.drop 8).take 64)
    let (st, kind, num) := s.exhWhy image sig
    if st ≠ 0 then (s.raise pgDev 13 0x1D 2 (leBytes 2 st ++ leBytes 1 kind ++ leBytes 2 num)).answer 0x0210 m st
    else if (List.range 512).any (fun c => cmask.testBit c &&
        !(s.doc c = docIdle || s.doc c = docStopped || s.doc c = docTrapped || s.doc c = docDone)) then s.answer 0x0210 m 4
    else
      let sigoff := ofLeBytes ((image.drop 72).take 4)
      let siglen := ofLeBytes ((image.drop 76).take 4)
      let s := (exhEntries image cmask).foldl (fun s (c, n, o) =>
        (s.loadIm c (exhSlots (image.drop o) n) (image.drop o)).setDoc c docIdle) s
      let s := s.extend 4 (sha384 (image.take sigoff ++ image.drop (sigoff + siglen)))
      let s := s.extend 4 (if siglen = 0 then List.replicate 16 0 else padTo 16 sig.keyId)
      s.answer 0x0210 m 0))

/-! ### Presence and the seal (R590 to R595) -/

/-- PRESENCE_N changes its level (R590). -/
def execPresenceNChange (low : Bool) (s : State) : Result :=
  if low = s.cur.pinLow then .next s else .next { s with brd.cur := { s.cur with pinLow := low, pinAt := s.now } }

/-- The level has held for 20 ms and counts (R590). -/
def execPresenceDebounceExpiry (s : State) : Result :=
  if s.cur.pinLow = s.cur.debLow || decide (s.now < s.cur.pinAt + ms 20) then .next s
  else
    let low := s.cur.pinLow
    .next { (s.setF pgSec Reg.SEC_STAT_PRESSED low.toNat) with
            brd.cur := { s.cur with debLow := low, debAt := s.now, opened := if low then s.cur.opened else false } }

/-- The debounced level has been low for 2 s: a window of 60 s opens (R590). -/
def execPresenceWindowOpen (s : State) : Result :=
  if !s.cur.debLow || s.cur.opened || decide (s.now < s.cur.debAt + ms 2000) then .next s
  else
    let s := { s with brd.cur := { s.cur with opened := true, windowEnd := s.now + ms 60000 } }
    .next ((s.setF pgSec Reg.SEC_STAT_PRESENCE 1).raise pgSec 1 0x31 0 [])

/-- The window closes after 60 s (R590). -/
def execPresenceWindowExpiry (s : State) : Result :=
  if s.presence && decide (s.cur.windowEnd ≤ s.now) then .next s.closeWindow else .next s

/-- R593, R594: the seal breaks. -/
def State.breakSeal (s : State) : State :=
  let s := (s.eraseKeys.setF pgSec Reg.SEC_STAT_SEAL 2).closeWindow
  let s := s.count pgSec Reg.SEC_CNT_TAMPER 1
  let s := s.raise pgSec 0 0x30 2 (leBytes 4 (s.getF pgSec Reg.SEC_CNT_TAMPER))
  let refuse (s : State) : State :=
    ({ s with brd.cur := { s.cur with job := none } }.count pgSec Reg.SEC_CNT_AUTHREF 1).respond s.cur.jobCode s.cur.jobTag 3 []
      s.cur.jobHaddr 0
  match s.cur.job with
  | some .unseal => refuse s
  | some (.waitHbm (.unseal _ _)) => refuse s
  | _ => s

/-- The check of the seal loop, once every 1 ms with SEAL_EN = 1 (R592 to R595). -/
def execSealCheck (closed : Bool) (s : State) : Result :=
  if !s.sealEn || decide (s.now < s.cur.sealAt) then .next s
  else
    let s := { s with brd.cur := { s.cur with sealAt := s.now + ms 1, closedRun := if closed then s.cur.closedRun + 1 else 0 } }
    if !closed && s.getF pgSec Reg.SEC_STAT_SEAL = 1 then .next s.breakSeal else .next s

/-- HEALTH_TEST_FAIL (R565): key generation stops. -/
def execHealthTestFail (test : Nat) (s : State) : Result :=
  .next ({ s with brd.cur := { s.cur with entropyBad := true } }.raise pgSec 5 0x35 2 (leBytes 1 test))

/-- ENTROPY_FAULT_CLEAR (R565): key generation resumes. -/
def execEntropyFaultClear (s : State) : Result := .next { s with brd.cur := { s.cur with entropyBad := false } }

/-! ### The end of a flash write (R597) -/

/-- The identity of a draw of the entropy source: keys, IDHASH (R567; log 8). -/
def State.newIdentity (s : State) : State :=
  let (_, t) := s.drawEntropy
  { t with brd.flash := { t.flash with identity := t.cur.draws, idhash := cryptoBytes 6 48 [t.cur.draws], reenrolled := true } }

/-- What a flash write that succeeds leaves in the flash (R568, R598, R599): a slot takes the generation of the other slot
plus 1. -/
def State.flashDone (s : State) (op : FlashOp) : State :=
  let fl := s.flash
  match op with
  | .fwStage b img =>
    let g := slotGen (if b then fl.fwA else fl.fwB) + 1
    let x : FlashSlot FwImage := { gen := g, marker := false, body := img }
    { s with brd.flash := if b then { fl with fwB := some x } else { fl with fwA := some x },
             brd.cur := { s.cur with fwStagedB := some b } }
  | .fwMarker b _ =>
    let mk (x : Option (FlashSlot FwImage)) : Option (FlashSlot FwImage) := x.map (fun y => { y with marker := true })
    { s with brd.flash := if b then { fl with fwB := mk fl.fwB } else { fl with fwA := mk fl.fwA },
             brd.cur := { s.cur with fwStagedB := none } }
  | .cfgStage b cfg =>
    let g := slotGen (if b then fl.cfgA else fl.cfgB) + 1
    let x : FlashSlot CfgRecord := { gen := g, marker := false, body := cfg }
    { s with brd.flash := if b then { fl with cfgB := some x } else { fl with cfgA := some x },
             brd.cur := { s.cur with cfgStagedB := some b } }
  | .cfgMarker b =>
    let mk (x : Option (FlashSlot CfgRecord)) : Option (FlashSlot CfgRecord) := x.map (fun y => { y with marker := true })
    { s with brd.flash := if b then { fl with cfgB := mk fl.cfgB } else { fl with cfgA := mk fl.cfgA },
             brd.cur := { s.cur with cfgStagedB := none } }
  | .owner o =>
    let b := !s.ownSlotB
    let x : FlashSlot OwnerRecord := { gen := slotGen (if b then fl.ownA else fl.ownB) + 1, marker := true, body := o }
    { s with brd.flash := if b then { fl with ownB := some x } else { fl with ownA := some x },
             brd.cur := { s.cur with owner := some o, cfg := none } }.showConfig.setF pgSec Reg.SEC_STAT_SEAL 0
  | .reenrol => s.newIdentity
  | .chain bs => { s with brd.flash := { fl with chain := bs, reenrolled := false } }
  | .repair r =>
    let used := s.flag (pgRgn r) Reg.RGN_SPARE_USED
    { s with brd.flash := { fl with
            spares := if used then sput fl.spares r (s.getF (pgRgn r) Reg.RGN_SPARE_LOCAL) else sdel fl.spares r,
            fails := sset (fun _ => 0) fl.fails r (s.getF (pgRgn r) Reg.RGN_SLOT_FAIL_SLOTS) } }
  | .ppr x row => { s with brd.flash := { fl with hardPpr := fl.hardPpr ++ [(x, row)] } }
  | .retire x => { s with brd.flash := { fl with retired := fl.retired ++ [x] } }
  | .counters =>
    let s := { s with brd.flash := { fl with fwCtr := max fl.fwCtr (s.getF pgSec Reg.SEC_SVN_FW),
                                             cfgCtr := max fl.cfgCtr (s.getF pgSec Reg.SEC_SVN_CFG) } }
    (s.setF pgSec Reg.SEC_CTR_FW s.flash.fwCtr).setF pgSec Reg.SEC_CTR_CFG s.flash.cfgCtr

/-- A write of the repair record or of the counters, which no mailbox command makes. -/
def FlashOp.isRecord : FlashOp → Bool
  | .repair _ | .ppr _ _ | .retire _ | .counters => true
  | _ => false

/-- FLASH_WRITE_COMPLETE (R597): the write ends, and the command that made it answers; 0x0103 where the write failed.
A live replacement goes on to the new image, or answers 0x0106 where no hand-over is possible (R655, R658). A record write
that failed waits again. -/
def execFlashWriteComplete (ok : Bool) (s : State) : Result :=
  match s.cur.flashOp with
  | none => .next s
  | some op =>
    if !s.cur.flashSent then .next s
    else
      let job := s.cur.job
      let s := { s with brd.cur := { s.cur with flashOp := none } }
      let s := if ok then s.flashDone op
        else if op.isRecord then { s with arch.repairWrites := op :: s.repairWrites } else s
      match job with
      | some (.flash op') =>
        if op' ≠ op then .next s
        else
          let reply (s : State) (st : Nat) : State :=
            let s := { s with brd.cur := { s.cur with job := none } }
            let s := if s.cur.bootDone then s.setF pgCur Reg.CUR_MBX_STAT_READY 1 else s
            s.respond s.cur.jobCode s.cur.jobTag st [] s.cur.jobHaddr 0
          if !ok then .next (reply s 0x0103)
          else match op with
            | .fwMarker b true =>
              match (if b then s.flash.fwB else s.flash.fwA) with
              | some x =>
                if (s.cur.fw.map (·.handover)) = some x.body.handover then
                  .next { s with brd.cur := { s.cur with replacing := true, newFw := some x.body, job := some .live } }
                else .next (reply s 0x0106)
              | none => .next (reply s 0x0103)
            | _ => .next (reply s 0)
      | _ => .next s

end Sys2Proof.Machine
end

