-- ==== Sys2Proof/Machine/Bringup.lean ====
section
/-! DEFINITION. Bring-up, resets, power and thermal commands, power loss and the debug port (R527, R566, R572 to R577,
R605 to R629). Commands that hardware sends act only in the phase that admits them; elsewhere they change nothing
(log 1). -/
namespace Sys2Proof.Machine

/-! ### Cold state and interrupted flash writes (R55, R609, R629) -/

/-- What an interruption at any instant leaves of the one flash write in progress (R597, R627, R629): a staged slot is
left without its marker; of every other write a free choice says whether its last program took place (log 26). -/
def State.tearFlash (s : State) : State :=
  match s.cur.flashOp with
  | none => s
  | some (.fwStage b _) => { s with brd.flash := if b then { s.flash with fwB := none } else { s.flash with fwA := none } }
  | some (.cfgStage b _) => { s with brd.flash := if b then { s.flash with cfgB := none } else { s.flash with cfgA := none } }
  | some op =>
    let (v, t) := s.drawFree
    if t.cur.flashSent && v % 2 = 1 then { t with brd.flash := (t.flashDone op).flash } else t

/-- Every volatile state is lost. Kept: the part, the flash, the pins' levels, elapsed time, what has left the package,
the queue, and the model's own draw counters. -/
def State.cold (s : State) (perst powered : Bool) : State :=
  let s := s.tearFlash
  let t : State :=
    { State.reset with part := s.part, pending := s.pending, brd.flash := s.flash, time.now := s.now, mems.leakAt := s.now, draw := s.draw, out := s.out,
                       plat.perst := perst, plat.powered := powered, plat.warnLow := s.warnLow,
                       brd.cur := { draws := s.cur.draws, pinLow := s.cur.pinLow, pinAt := s.cur.pinAt } }
  t.setF pgPwr Reg.PWR_STAT_WARN s.warnLow.toNat

def State.phase (s : State) : Nat := s.getF pgPwr Reg.PWR_STAT_PHASE

def State.setPhase (s : State) (p : Nat) : State := s.setF pgPwr Reg.PWR_STAT_PHASE p

/-- BRING_UP_START (R608, R610): T0. DEV_RGN_AVAIL is set: a region is in service until its scan or its repair record says
otherwise (R39, R652; log 27). -/
def execBringUpStart (s : State) : Result :=
  if !s.perst || s.tripped then .next s
  else .next ({ (s.cold false true) with plat.t0 := s.now }.setF pgDev Reg.DEV_RGN_AVAIL_MASK (2 ^ 32 - 1))

/-- PERST_ASSERT (R609): power-on or PERST#. -/
def execPerstAssert (s : State) : Result := .next (s.cold true true)

/-- POWER_LOSS (R629). -/
def execPowerLoss (s : State) : Result := .next (s.cold true false)

/-! ### The stages of bring-up (R572 to R577) -/

/-- MR0 (R577): the ROM extends it with its own hash. -/
def State.romMeasure (s : State) : State :=
  { s with brd.cur := { s.cur with mr := List.replicate 5 (List.replicate 48 0) } }.extend 0 (leBytes 48 Config.romHash)

/-- Recovery (R575): no cluster is released; the ROM serves the mailbox. -/
def State.recovery (s : State) : State :=
  ((s.setPhase 5).setF pgSec Reg.SEC_STAT_RECOVERY 1).setF pgCur Reg.CUR_MBX_STAT_READY 1

/-- Why the ROM refuses a firmware slot (R572, R574): 0 signature, 1 rollback; none where it can run. -/
def State.fwWhy (s : State) (x : FlashSlot FwImage) : Option Nat :=
  if !sigBoth x.body.sig then some 0 else if x.body.svn < s.flash.fwCtr then some 1 else none

/-- The firmware slots with their markers, the preferred one first (R568, R574); true for B. -/
def State.fwSlots (s : State) : List (Bool × FlashSlot FwImage) :=
  let one (b : Bool) (x : Option (FlashSlot FwImage)) : List (Bool × FlashSlot FwImage) :=
    match x with | some y => if y.marker then [(b, y)] else [] | none => []
  let a := one false s.flash.fwA
  let b := one true s.flash.fwB
  if slotGen s.flash.fwA < slotGen s.flash.fwB then b ++ a else a ++ b

/-- FIRMWARE_START (R572, R574, R575). -/
def execFirmwareStart (s : State) : Result :=
  if s.perst || decide (s.phase ≠ 0) then .next s
  else
    let s := s.romMeasure
    let start (s : State) (b : Bool) (x : FlashSlot FwImage) : State :=
      let s := { s with brd.cur := { s.cur with fw := some x.body, bootB := b, bootDone := true } }.extend 1 x.body.hash
      let s := (s.setF pgSec Reg.SEC_STAT_BOOTSLOT b.toNat).setF pgSec Reg.SEC_SVN_FW x.body.svn
      let s := (s.setF pgSec Reg.SEC_CTR_FW s.flash.fwCtr).setF pgSec Reg.SEC_CTR_CFG s.flash.cfgCtr
      (s.setPhase 1).setF pgCur Reg.CUR_MBX_STAT_READY 1
    match s.fwSlots with
    | [] => .next s.recovery
    | (b, x) :: rest =>
      match s.fwWhy x with
      | none => .next (start s b x)
      | some why =>
        match rest with
        | (b', y) :: _ =>
          if (s.fwWhy y).isNone then
            let s := start { s with brd.cur := { s.cur with fallback := some why } } b' y
            .next ((s.setF pgSec Reg.SEC_STAT_FALLBACK 1).raise pgSec 2 0x32 1 (leBytes 1 b'.toNat ++ leBytes 1 why))
          else .next s.recovery
        | [] => .next s.recovery

/-- The configuration record in force (R576): the preferred slot, else the other, else none. -/
def State.cfgInForce (s : State) : Option CfgRecord :=
  if s.cur.owner.isNone then none
  else if s.cfgSlotB then s.flash.cfgB.map (·.body)
  else if s.cfgValid s.flash.cfgA then s.flash.cfgA.map (·.body)
  else none

/-- BOOT_NONCE (R573). -/
def State.drawNonce (s : State) : State :=
  let (v, t) := s.drawEntropy
  { t with brd.cur := { t.cur with nonce := leBytes 48 v } }

/-- IDENTITY_READY (R566, R572 to R576, R592). It halts while the entropy source fails (R565). In the recovery that the
ROM entered, it only opens the identity (R575). -/
def execIdentityReady (i : IdentityIn) (s : State) : Result :=
  let open_ := i.pufOk && i.recordOk
  if s.phase = 5 then .next (if open_ && !s.cur.idOpen then { s.drawNonce with brd.cur := { s.drawNonce.cur with idOpen := true } } else s)
  else if s.phase ≠ 1 then .next s
  else if !open_ then .next s.recovery
  else if s.cur.entropyBad then .next s
  else
    let ob := s.ownSlotB
    let owner := ((if ob then s.flash.ownB else s.flash.ownA).bind (fun x => if x.marker then some x.body else none))
    let s := { s with brd.cur := { s.cur with idOpen := true, owner := owner } }
    let s := { s with brd.cur := { s.cur with cfg := s.cfgInForce } }
    let s := s.newSlot0.drawNonce
    let (_, s) := s.drawEntropy
    let s := { s with brd.cur := { s.cur with intake := s.cur.draws, sealAt := s.now + ms 1,
                                              closedRun := i.sealClosed.toNat } }
    let s := if s.sealEn then s.setF pgSec Reg.SEC_STAT_SEAL (if i.sealClosed then 1 else 2) else s
    let s := s.flash.retired.foldl (fun s x => s.setF (pgMem x) Reg.MEM_STAT_RETIRED 1) s
    .next ((s.setF pgSec Reg.SEC_STAT_IDREADY 1).setPhase 2)

/-- Width and rate of the host link, which its partner decides: free (log 25). -/
def State.hostLink (s : State) : State :=
  let (v, s) := s.drawFree
  let (w, s) := s.drawFree
  (s.setF pgPci Reg.PCI_STAT_WIDTH v).setF pgPci Reg.PCI_STAT_SPEED w

/-- R611: Foyer service begins when every available region is released. -/
def State.foyerCheck (s : State) : State :=
  let rel := s.getF pgPwr Reg.PWR_RGN_REL_MASK
  if s.phase = 2 && s.cur.cfgApplied && (List.range 32).all (fun r => !s.avail r || rel.testBit r) then
    (s.setPhase 3).raise pgPwr 0 0x36 0 (leBytes 4 rel)
  else s

/-- The Efurn ports in service begin to train once identity and configuration are ready (R479, R610). -/
def State.startPorts (s : State) : State :=
  (List.range 8).foldl (fun s k =>
    if s.part.hasInst .lnk k && s.flag (pgLnk k) Reg.LNK_CFG_EN && decide (widthLanes (s.getF (pgLnk k) Reg.LNK_CFG_WIDTH) ≠ 0) then
      s.setF (pgLnk k) Reg.LNK_STAT_STATE 1
    else s) s

/-- CONFIGURATION_APPLIED (R572, R576, R577). -/
def execConfigurationApplied (s : State) : Result :=
  if s.phase ≠ 2 || s.cur.cfgApplied then .next s
  else
    let s := { s with brd.cur := { s.cur with cfgApplied := true } }.showConfig
    let s := s.setF pgSec Reg.SEC_STAT_SEALED ((s.cur.cfg.map (·.isSealed)).getD false).toNat
    let zero : List Byte := List.replicate 48 0
    let s := s.extend 2 ((s.cur.cfg.map (·.hash)).getD zero)
    let s := s.extend 3 ((s.cur.owner.map (·.hash)).getD zero)
    .next s.startPorts.hostLink.foyerCheck

/-- SRAM_FILL_DONE (R435): every SRAM code word holds zeros with valid check bits. -/
def execSramFillDone (s : State) : Result :=
  if s.perst || s.sramFilled then .next s
  else .next { s with plat.sramFilled := true, mems.mem := s.mem.filter (fun p => decide (p.1 < cluBase)), mems.im := [],
                      mems.cat := [], mems.am := [], mems.tiles := [],
                      mems.errs := s.errs.filter (fun p => 9 ≤ p.1 / 2 ^ 48 / 4096) }

/-- HBM_TRAINED (R610, R613): a stack that fails is retired. -/
def execHbmTrained (x : Nat) (ok : Bool) (s : State) : Result :=
  if s.perst || s.phase = 0 || s.phase = 5 || s.stackGone x || s.flag (pgMem x) Reg.MEM_STAT_TRAINED then .next s
  else if ok then .next (s.setF (pgMem x) Reg.MEM_STAT_TRAINED 1)
  else .next (s.setF (pgMem x) Reg.MEM_STAT_RETIRED 1)

/-- HBM_FILL_DONE (R435): after training and identity, every burst of the stack reads zero under slot 0, with valid check
bits. -/
def execHbmFillDone (x : Nat) (s : State) : Result :=
  if s.stackGone x || !s.flag (pgMem x) Reg.MEM_STAT_TRAINED || s.flag (pgMem x) Reg.MEM_STAT_FILLED
      || !s.flag pgSec Reg.SEC_STAT_IDREADY then .next s
  else
    let s := { s with mems.mem := sclear s.mem (x * stackSize) ((x + 1) * stackSize),
                      mems.unitKey := sclear s.unitKey (34 * 2048 * (x * 0x120000)) (34 * 2048 * ((x + 1) * 0x120000)),
                      mems.errs := sclear s.errs (cwName (9 * 4096 + x) 0) (cwName (9 * 4096 + x + 1) 0) }
    .next (s.setF (pgMem x) Reg.MEM_STAT_FILLED 1)

/-- REGION_RELEASE (R35, R38, R39, R611): the scan found the slots of `failed`; the repair record adds its swap and its
failures. -/
def execRegionRelease (r : Nat) (failed : Nat) (s : State) : Result :=
  let rel := s.getF pgPwr Reg.PWR_RGN_REL_MASK
  if (s.phase ≠ 2 && s.phase ≠ 3) || !s.sramFilled || rel.testBit r || !s.avail r then .next s
  else
    let m := sget (fun _ => 0) s.flash.fails r ||| failed
    let s := s.setF (pgRgn r) Reg.RGN_SLOT_FAIL_SLOTS m
    let s := match s.flash.spares.find? (fun p => p.1 = r) with
      | some (_, i) => (s.setF (pgRgn r) Reg.RGN_SPARE_USED 1).setF (pgRgn r) Reg.RGN_SPARE_LOCAL i
      | none => s
    if regionOut m then .next (s.takeOut r).foyerCheck
    else .next (s.setF pgPwr Reg.PWR_RGN_REL_MASK (rel + 2 ^ r)).foyerCheck

/-! ### Full service (R613, R569) -/

/-- Every stack is filled or retired, and every enabled port has settled (R613). -/
def State.fullReady (s : State) : Bool :=
  s.hbmFilled && (List.range 8).all (fun k => !s.part.hasInst .lnk k || !s.flag (pgLnk k) Reg.LNK_CFG_EN || (s.port k).settled)

/-- A sum of powers of two: the mask of some bit numbers. -/
def maskOf (l : List Nat) : Nat := (l.map (fun x => 2 ^ x)).foldl (· + ·) 0

/-- A cluster of die d is in a flight. -/
def State.dieFlying (s : State) (d : Nat) : Bool :=
  (List.range 128).any (fun i => s.doc (128 * d + i) = docFlight || s.doc (128 * d + i) = docWindow)

/-- R613: die d moves to its permitted code at once, or at the next landing of its clock group. -/
def State.moveClock (s : State) (d : Nat) : State :=
  if s.dieFlying d then { s with plat.clkDue := s.clkDue ||| 2 ^ d } else s.setClock d (s.permit d)

/-- R569: the counters rise to the versions in force; the write waits for a flash operation that runs (log 79). -/
def State.raiseCounters (s : State) : State :=
  if s.flash.fwCtr < s.getF pgSec Reg.SEC_SVN_FW ∨ s.flash.cfgCtr < s.getF pgSec Reg.SEC_SVN_CFG then
    if s.flashBusy || s.cur.flashHeld then { s with arch.repairWrites := s.repairWrites ++ [.counters] }
    else s.updCur (fun k => { k with flashOp := some .counters, flashSent := true })
  else s

/-- Full service begins. -/
def State.beginFull (s : State) : State :=
  let s := { s.setPhase 4 with plat.full := true }
  let gone := maskOf (s.part.stacks.filter s.stackGone)
  let down := maskOf ((List.range 8).filter (fun k =>
    s.part.hasInst .lnk k && decide (s.getF (pgLnk k) Reg.LNK_STAT_STATE ≠ 5)))
  let s := s.raise pgPwr 1 0x37 0 (leBytes 2 gone ++ leBytes 1 down)
  ((List.range 4).foldl State.moveClock s).raiseCounters

/-- FULL_SERVICE_BEGIN (R613). -/
def execFullServiceBegin (s : State) : Result :=
  if s.phase = 3 && s.fullReady then .next s.beginFull else .next s

/-- FULL_SERVICE_TIMEOUT (R613): T0 + 3 s. -/
def execFullServiceTimeout (s : State) : Result :=
  if s.phase = 3 && decide (s.t0 + ms 3000 ≤ s.now) then .next s.beginFull else .next s

/-! ### Resets of the PCI Express function (R527, R693) -/

/-- PCIE_FUNCTION_RESET: hot reset, Function Level Reset, link down. The sealed window, whose reset value is the
configuration record's (R537), stays. -/
def execPcieFunctionReset (s : State) : Result :=
  let lo := pgPci * 1024
  let s := { s with plat.dma := [], evts.ring := none, evts.ringCancelled := true, plat.bar2Log2 := 30,
                    regFile.regs := s.regs.filter (fun p => p.1 < lo || decide (lo + 1024 ≤ p.1) || p.1 = regIdx pgPci Reg.PCI_SEALWIN_FIRST
                      || p.1 = regIdx pgPci Reg.PCI_SEALWIN_PAGES),
                    regFile.staged := sclear s.staged lo (lo + 1024),
                    regFile.snap := sclear s.snap lo (lo + 1024) }
  let s := { s with regFile.regs := s.regs.filter (fun p => !(decide (0x100 * 1024 ≤ p.1) && decide (p.1 < 0x108 * 1024) && decide (p.1 % 4 = 3))) }
  .next s.hostLink

/-! ### Power warning and power loss (R626 to R628) -/

/-- Loaded groups that have a member cluster on this package. -/
def State.localGroups (s : State) : List Nat :=
  (s.groups.filter (fun (p : Nat × Group) =>
    match s.midx p.2 with | some m => decide (((p.2.members.getD m { pkg := 0, mask := 0 }).mask) ≠ 0) | none => false)).map (·.1)

/-- In LOCKSTEP mode the twin gets a stop message too (R626). -/
def State.stopTwin (s : State) (g : Nat) : State :=
  s.sendChunk (s.pkg ^^^ 0x800) 2 3 (leBytes 1 g ++ leBytes 8 ((s.run g).idx + 1) ++ leBytes 2 s.pkg)

/-- PWR_WARN_FALL (R626). -/
def execPwrWarnFall (s : State) : Result :=
  if s.warnLow then .next s
  else
    let s := { s.updCur (fun k => { k with flashHeld := true }) with plat.warnLow := true }
    let s := (s.setF pgPwr Reg.PWR_STAT_WARN 1).setF pgPwr Reg.PWR_THR_WARNED 1
    let s := s.count pgPwr Reg.PWR_CNT_WARN 1
    let gs := s.localGroups
    let lock : Bool := decide (s.getF pgDev Reg.DEV_DET_CTL_DIVERGE = 1)
    let s := gs.foldl (fun (s : State) g => (s.sendStops g).enterStop g) s
    let s := if lock then gs.foldl State.stopTwin s else s
    .next (s.raise pgPwr 2 0x38 3 (leBytes 32 (maskOf gs)))

/-- PWR_WARN_RISE (R628). -/
def execPwrWarnRise (s : State) : Result :=
  if !s.warnLow then .next s
  else
    let s := { s with plat.warnLow := false, brd.cur := { s.cur with flashResumeAt := s.now + ms 10 } }
    .next (s.setF pgPwr Reg.PWR_STAT_WARN 0)

/-- FLASH_RESUME (R628): 10 ms after the pin returned high. -/
def execFlashResume (s : State) : Result :=
  if !s.cur.flashHeld || s.warnLow || decide (s.now < s.cur.flashResumeAt) then .next s
  else .next { s with brd.cur := { s.cur with flashHeld := false, flashSent := true } }

/-! ### Throttles, temperature and power (R349, R351, R618 to R623) -/

def causeField : Nat → Fld
  | 0 => Reg.PWR_THR_THERMAL
  | 1 => Reg.PWR_THR_POWER
  | _ => Reg.PWR_THR_VR

/-- Landing groups whose clusters on die d are in a flight. -/
def State.dieGroups (s : State) (d : Nat) : List Nat :=
  ((((List.range 128).map (fun i => 128 * d + i)).filter (fun c => s.doc c = docFlight)).map s.grpOf).foldl
    (fun l g => if l.contains g then l else l ++ [g]) []

/-- R620: the onset of a throttle on die d for a cause; its groups send notices (R345). -/
def State.onset (s : State) (d cause : Nat) : State :=
  let f0 := s.freq d
  let code := s.clkCode d
  let t := s.throttle d
  let s := s.setThrottle d { t with active := true, onset := code, since := s.now }
  let s := s.rescale d f0 (s.freq d)
  let s := s.setF pgPwr Reg.PWR_THR_ACTIVE (s.getF pgPwr Reg.PWR_THR_ACTIVE ||| 2 ^ d)
  let s := s.setF pgPwr (causeField cause) 1
  let s := s.count pgPwr Reg.PWR_CNT_THROTTLE 1
  let s := { s with plat.throtCount := s.throtCount + 1 }
  let s := s.raise (pgDie d) 0 0x39 1 (leBytes 1 cause ++ leBytes 1 code)
  (s.dieGroups d).foldl (fun s g => s.sendNotice g) s

/-- A cause is present or absent on die d. A throttle in force is not halved again. -/
def State.cause (s : State) (d cause : Nat) (on : Bool) : State :=
  let t := s.throttle d
  if t.causes.testBit cause = on then s
  else if on then
    let s := s.setThrottle d { t with causes := t.causes + 2 ^ cause }
    if t.active then s else s.onset d cause
  else s.setThrottle d { t with causes := t.causes - 2 ^ cause, clearAt := s.now }

/-- R621: a throttle can be released. -/
def State.releasable (s : State) (d : Nat) : Bool :=
  let t := s.throttle d
  t.active && t.causes = 0 && decide (t.clearAt + ms 10 ≤ s.now)

/-- The release of a throttle. -/
def State.release (s : State) (d : Nat) : State :=
  let f0 := s.freq d
  let t := s.throttle d
  let s := s.setThrottle d { t with active := false, onset := 0, since := 0, clearAt := 0 }
  let s := s.rescale d f0 (s.freq d)
  let a := s.getF pgPwr Reg.PWR_THR_ACTIVE
  let s := s.setF pgPwr Reg.PWR_THR_ACTIVE (if a.testBit d then a - 2 ^ d else a)
  s.raise (pgDie d) 1 0x3A 0 (leBytes 4 ((s.now - t.since) / us 1))

/-- THROTTLE_RELEASE (R621): at once where no cluster of the die is in a flight; else the landing of the die's clock
group releases it. -/
def execThrottleRelease (d : Nat) (s : State) : Result :=
  if s.releasable d && !s.dieFlying d then .next (s.release d) else .next s

/-- Packs hottest sensors, 8 bits each. -/
def packTemps (ts : List Nat) : Nat := ofLeBytes (ts.map (fun t => BitVec.ofNat 8 (min 255 t)))

/-- TEMPERATURE_SAMPLE (R622, R623). A package with a die throttled counts the microsecond (R624). -/
def execTemperatureSample (t : Temps) (s : State) : Result :=
  if s.perst || s.tripped then .next s
  else
    let g (d : Nat) : Nat := t.g.getD d 0
    let x (d : Nat) : Nat := if d < s.part.xdies then t.x.getD d 0 else 0
    let m (k : Nat) : Nat := if s.part.hasStack k then t.m.getD k 0 else 0
    let s := s.setF pgPwr Reg.PWR_TEMP_G_T (packTemps ((List.range 4).map g))
    let s := s.setF pgPwr Reg.PWR_TEMP_X_T (packTemps ((List.range 4).map x))
    let s := (List.range 3).foldl (fun s i => s.setF pgPwr (Reg.PWR_TEMP_M_T i) (packTemps ((List.range 4).map (fun j => m (4 * i + j))))) s
    let s := s.part.stacks.foldl (fun s k => s.setF (pgMem k) Reg.MEM_STAT_HOT (decide (85 < m k)).toNat) s
    let trip := (List.range 4).any (fun d => decide (115 ≤ g d) || decide (115 ≤ x d)) || (List.range 12).any (fun k => decide (105 ≤ m k))
    if trip then .next { (s.cold true true).emit .thermtrip with plat.tripped := true }
    else
      let s := if s.getF pgPwr Reg.PWR_THR_ACTIVE = 0 then s else s.count pgPwr Reg.PWR_CNT_THR_US 1
      .next ((List.range 4).foldl (fun s d =>
        let hbm := (List.range 3).map (fun j => m (3 * d + j))
        if decide (105 ≤ g d) || hbm.any (fun v => decide (95 ≤ v)) then s.cause d 0 true
        else if decide (g d < 98) && hbm.all (fun v => decide (v < 90)) then s.cause d 0 false
        else s) s)

/-- POWER_MEASURE (R618, R620): the 1 ms and 100 us averages in watts. -/
def execPowerMeasure (avg1ms avg100us : Nat) (s : State) : Result :=
  if s.perst || s.tripped then .next s
  else
    let s := s.setF pgPwr Reg.PWR_MEAS_W (min 4095 avg1ms)
    let exceeds := decide (s.getF pgPwr Reg.PWR_CAP_LIMIT < avg100us)
    .next ((List.range 4).foldl (fun s d => s.cause d 1 exceeds) s)

/-- PMB_ALERT (R620): the level of PMB_ALERT_N. -/
def execPmbAlert (asserted : Bool) (s : State) : Result :=
  if s.perst || s.tripped then .next s
  else .next ((List.range 4).foldl (fun s d => s.cause d 2 asserted) s)

/-! ### The Curator and the debug port -/

/-- CURATOR_RESTART_DONE (R429, cause CURATOR; R544, R609): the Curator has restarted from its verified image. The state
of the mailbox and of the request it served is lost; keys, measurements and configuration stay in force (log 28). -/
def execCuratorRestartDone (s : State) : Result :=
  match s.errs.find? (fun p => p.2 = 2 && p.1 / 2 ^ 48 / 4096 = 7) with
  | none => .next s
  | some (n, _) =>
    let s := s.foundUE (n / 2 ^ 48) (n % 2 ^ 48 * 8) 12
    let s := { s with mems.errs := s.errs.filter (fun p => p.1 / 2 ^ 48 / 4096 ≠ 7),
                      regFile.regs := sclear s.regs (pgCur * 1024 + 0x400 / 4) (pgCur * 1024 + 0xE00 / 4),
                      brd.cur := { s.cur with job := none, jobCode := 0, jobTag := 0, jobHaddr := 0, fwStagedB := none,
                                              cfgStagedB := none } }
    .next (s.setF pgCur Reg.CUR_MBX_STAT_READY 1)

/-- TAP_INSTRUCTION (R606). An instruction that the port does not offer acts as BYPASS, as IEEE 1149.1 has it (log 29).
Of Wilevo's debug instructions the manual says nothing more. -/
def execTapInstruction (i : TapInstr) (s : State) : Result :=
  let bypass : Result := .next (s.emit (.tdo 0))
  match i with
  | .idcode => .next (s.emit (.tdo Config.idcode))
  | .bypass => bypass
  | .sample => if s.perst then .next (s.emit (.pinTest 0)) else bypass
  | .extest => if s.perst then .next (s.emit (.pinTest 1)) else bypass
  | .debug code => if s.flag pgSec Reg.SEC_STAT_DEBUG then .refused (.debugInstruction code) else bypass

end Sys2Proof.Machine
end

