-- ==== Sys2Proof/Machine/Flags.lean ====
section
/-! DEFINITION. The sticky flags of the engines (R31, R103, R154, R155), their QOVF captures (R118, R682, R684), reports
to the running-maximum gatherer (R281, R282), and how the effects that a launch computed take place when it completes. -/
namespace Sys2Proof.Machine

/-- Hardware sets flags of array a; only R104 clears them. -/
def State.setArrFlags (s : State) (c a w : Nat) : State := s.orF (pgArr c) (arrFlagsF a) w

def State.setVecFlags (s : State) (c w : Nat) : State := s.orF (pgVec c) vecFlagsF w

def State.setSfuFlags (s : State) (c w : Nat) : State := s.orF (pgVec c) sfuFlagsF w

/-- R682: the QOVF capture of the arrays, taken before the flag is set. -/
def State.captureArr (s : State) (c a slot line rid : Nat) : State :=
  let pg := pgArr c
  if s.flag pg Reg.ARR_QCAP_VALID then s.setF pg Reg.ARR_QCAP_MULTI 1
  else if s.flag pg (Reg.ARR_FLAGS_QOVF a) then s
  else
    let s := s.setF pg Reg.ARR_QCAP_ARRAY a
    let s := s.setF pg Reg.ARR_QCAP_SLOT slot
    let s := s.setF pg Reg.ARR_QCAP_LINE line
    let s := s.setF pg Reg.ARR_QCAP_REC_RID rid
    let s := s.setF pg Reg.ARR_QCAP_TIME_T (bits (s.timeOf pg) 47 16)
    s.setF pg Reg.ARR_QCAP_VALID 1

/-- R684: the QOVF capture of the vector engine, taken before the flag is set. -/
def State.captureVec (s : State) (c slot idx : Nat) : State :=
  let pg := pgVec c
  if s.flag pg Reg.VEC_QCAP_VALID then s.setF pg Reg.VEC_QCAP_MULTI 1
  else if (s.getF pg vecFlagsF).testBit 4 then s
  else
    let s := s.setF pg Reg.VEC_QCAP_SLOT slot
    let s := s.setF pg Reg.VEC_QCAP_ELEM_IDX idx
    let s := s.setF pg Reg.VEC_QCAP_TIME_T (bits (s.timeOf pg) 47 16)
    s.setF pg Reg.VEC_QCAP_VALID 1

/-- The current value of a gatherer slot (R282, R289). -/
def State.gathCur (s : State) (r g : Nat) : Option Int :=
  let w := s.getF (pgRgn r) (Reg.RGN_GATH_STAT_CUR g)
  if w = 0x800 then none else some (signed 12 w)

/-- The greater of two classes; the empty class is below every other. -/
def maxClass (a b : Option Int) : Option Int :=
  match a, b with
  | none, y => y
  | x, none => x
  | some x, some y => some (max x y)

def classCode (x : Option Int) : Nat := match x with | none => 0x800 | some v => unsigned 12 v

/-- R282, R283: a report reaches a slot of the region that is enabled. -/
def State.gathReport (s : State) (r g : Nat) (cls : Option Int) : State :=
  if s.flag (pgRgn r) (Reg.RGN_GATH_CFG_EN g) then
    let s := s.setF (pgRgn r) (Reg.RGN_GATH_STAT_CUR g) (classCode (maxClass (s.gathCur r g) cls))
    if s.reported.contains (64 * r + g) then s else { s with sched.reported := s.reported ++ [64 * r + g] }
  else s

/-- The uncorrectable Catalogue entries that a launch reads (R429: CAT, or MOVE for a CATSAVE). -/
def State.touchCats (s : State) (c cause : Nat) (idxs : List Nat) : State :=
  if s.errs.isEmpty then s else idxs.foldl (fun s i => s.foundAt (4 * 4096 + c) (8 * i) cause) s

/-- One effect of a launch of cluster c, issued from `slot`, takes place. -/
def State.applyEff (s : State) (c slot : Nat) (e : Eff) : State :=
  match e with
  | .mem a bs => s.writeBytes 0 a bs
  | .cat i v => { s with mems.cat := sset (fun _ => 0) s.cat (4096 * c + i) v,
                         mems.errs := sset (fun _ => 0) s.errs (cwName (4 * 4096 + c) (8 * i)) 0 }
  | .am k v => { s with mems.am := sset (fun _ => 0) s.am k v }
  | .tile a rid r => match r with
    | some t => { s with mems.tiles := sput s.tiles ((4 * c + a) * 64 + rid) t }
    | none => { s with mems.tiles := sdel s.tiles ((4 * c + a) * 64 + rid) }
  | .arrFlags a w => s.setArrFlags c a w
  | .vecFlags w => s.setVecFlags c w
  | .sfuFlags w => s.setSfuFlags c w
  | .conFlags w => s.orF (pgCon (regionOf c)) Reg.CON_FLAGS w
  | .updFlags w => s.orF (pgUpd (regionOf c)) Reg.UPD_FLAGS w
  | .rowStat nar empty row =>
    let pg := pgVec c
    let fresh := !s.flag pg Reg.VEC_ROW_STAT_ROW_NAR && !s.flag pg Reg.VEC_ROW_STAT_ROW_EMPTY
    let s := if nar then s.setF pg Reg.VEC_ROW_STAT_ROW_NAR 1 else s
    let s := if empty then s.setF pg Reg.VEC_ROW_STAT_ROW_EMPTY 1 else s
    if fresh && (nar || empty) then s.setF pg Reg.VEC_ROW_STAT_FIRST_ROW row else s
  | .arrQcap a line rid => s.captureArr c a slot line rid
  | .vecQcap i => s.captureVec c slot i
  | .gather g cls => s.gathReport (regionOf c) g cls
  | .count pg f n => s.count pg f n
  | .event pg code sev data => s.raise pg (match code with
      | 0x1B => 11 | 0x1C => 12 | _ => 0) code sev data
  | .varied => s.setF pgDev Reg.DEV_DET_STAT_VARIED 1
  | .touch a n cause => s.touch a n cause

/-- The byte runs that some effects store. -/
def memRuns (es : List Eff) : List (Nat × List Byte) := es.filterMap (fun e => match e with | .mem a bs => some (a, bs) | _ => none)

def Eff.isMem : Eff → Bool
  | .mem .. => true
  | _ => false

/-- A run without its bytes in [lo, hi). -/
def cutRun (lo hi : Nat) (r : Nat × List Byte) : List (Nat × List Byte) :=
  if r.1 + r.2.length ≤ lo || decide (hi ≤ r.1) then [r]
  else [(r.1, r.2.take (lo - r.1)), (hi, r.2.drop (hi - r.1))].filter (fun p => !p.2.isEmpty)

/-- The writes of one launch meet in the merge buffers (R427, R428): a code word that they write whole is written without a
read, so that an error in it is gone; one that they write in part is read and merged once, and an uncorrectable one is not
written. No entry leaves the buffers before the launch completes (log 88). -/
def State.writeRuns (s : State) (runs : List (Nat × List Byte)) : State :=
  let starts (r : Nat × List Byte) : List Nat :=
    let w := cwBytes r.1
    (List.range ((r.1 % w + r.2.length + w - 1) / w)).map (fun i => r.1 / w * w + w * i)
  let bad := ((runs.flatMap starts).filter (fun a => s.errAt a = 2)).eraseDups
  let whole (a : Nat) : Bool :=
    (List.range (cwBytes a)).all (fun i => runs.any (fun r => decide (r.1 ≤ a + i) && decide (a + i < r.1 + r.2.length)))
  let part := bad.filter (fun a => !whole a)
  let s := { s with mems.errs := (bad.filter whole).foldl (fun m a => sset (fun _ => 0) m (cwOf s.part a) 0) s.errs }
  let s := part.foldl (fun s a => let io := instOf s.part a; s.foundUE io.1 io.2 9) s
  let kept := part.foldl (fun rs a => rs.flatMap (cutRun a (a + cwBytes a))) runs
  kept.foldl (fun s r => s.writeBytes 0 r.1 r.2) s

/-- The effects of a launch take place. -/
def State.applyEffs (s : State) (c slot : Nat) (es : List Eff) : State :=
  if s.errs.isEmpty then es.foldl (fun s e => s.applyEff c slot e) s
  else (es.filter (fun e => !e.isMem)).foldl (fun s e => s.applyEff c slot e) (s.writeRuns (memRuns es))

end Sys2Proof.Machine
end

