-- ==== Sys2Proof/Machine/Sequencer.lean ====
section
/-! DEFINITION. The sequencer of a cluster: fetch (R312, R313), the issue rule with the dependency table (R314, R315),
refusal (R60, R320), traps, the cluster signature (R381), class 6 (R326 to R329), the sequencer commands (R356, R357),
and how flights begin (R335 to R337, R701). Every launch of every class issues through `State.tryIssue`. A command that
finds another descriptor at the head of the queue, or its instant not reached, changes nothing (log 1). -/
namespace Sys2Proof.Machine

/-! ### Refusal and traps -/

/-- R60, R696: nothing launches from the descriptor, and the cluster issues no further one. -/
def State.refuseDesc (s : State) (c : Nat) (d : Desc) : State :=
  (s.raise (pgDoc c) 0 0x01 3 (leBytes 2 d.slot ++ leBytes 1 d.cls ++ leBytes 1 d.opc)).setDoc c docStopped

/-- SEQ_TRAP (R131, R429, R696): the cause bits, the event, the TRAPPED state. -/
def State.trap (s : State) (c bit slot : Nat) (after : Option (Nat × Nat)) : State :=
  let s := s.setF (pgDoc c) Reg.DOC_TRAP_CAUSE (s.getF (pgDoc c) Reg.DOC_TRAP_CAUSE ||| 2 ^ bit)
  let s := s.raiseBy (pgDoc c) 1 0x02 3 (leBytes 1 (s.getF (pgDoc c) Reg.DOC_TRAP_CAUSE) ++ leBytes 2 slot) after
  if s.doc c = docDone then s else s.setDoc c docTrapped

/-! ### Fetch (R312, R313) -/

/-- The instruction-memory slot of a cluster. -/
def State.imSlot (s : State) (c i : Nat) : BitVec 256 := sget (fun _ => 0) s.im (8192 * c + i)

/-- Error marks of an instruction-memory slot: the greatest of its four code words. -/
def State.imErr (s : State) (c i : Nat) : Nat :=
  if s.errs.isEmpty then 0
  else ((List.range 4).map (fun j => sget (fun _ => 0) s.errs (cwName (3 * 4096 + c) (32 * i + 8 * j)) % 3)).foldl max 0

/-- The descriptor that starts in a slot. -/
def State.descAt (s : State) (c i : Nat) : Desc :=
  let w := s.imSlot c i
  { slot := i, w := w, ext := if w.getLsbD 14 && decide (i < 8191) then s.imSlot c (i + 1) else 0,
    seen := s.now }

/-- Slots that a descriptor occupies. -/
def Desc.len (d : Desc) : Nat := if d.hasExt && decide (d.slot < 8191) then 2 else 1

/-- Every operation of the opcode tables (R164, R208, R217, R241, R290, R323, R325, R326, R331). -/
def listedOpc (cls opc : Nat) : Bool :=
  match cls with
  | 0 => opc = 1
  | 1 => decide (1 ≤ opc) && decide (opc ≤ 15)
  | 2 => decide (1 ≤ opc) && decide (opc ≤ 18)
  | 3 => decide (1 ≤ opc) && decide (opc ≤ 5)
  | 4 => decide (1 ≤ opc) && decide (opc ≤ 13)
  | 5 => decide (1 ≤ opc) && decide (opc ≤ 8)
  | 6 => decide (1 ≤ opc) && decide (opc ≤ 7)
  | 7 => decide (1 ≤ opc) && decide (opc ≤ 3)
  | 8 => decide (1 ≤ opc) && decide (opc ≤ 10)
  | _ => false

/-- The cluster may issue descriptors of the flight in progress. -/
def State.issuable (s : State) (c : Nat) : Bool :=
  s.doc c = docFlight && (s.clu c).next.isNone && !(s.clu c).halting

/-- No flight has begun and no FLIGHT or BARRIER has issued: control descriptors issue as they reach the head (R326), and no
launch does. -/
def State.preFlight (s : State) (c : Nat) : Bool :=
  s.doc c = docBarrier && (s.clu c).next.isNone && (s.clu c).barrier.isNone

/-- DESCRIPTOR_FETCH (R313): the next descriptor enters the queue, with its extension. A head descriptor that no operation
lists is refused here, since no launch command takes it (R320). -/
def execDescriptorFetch (c : Nat) (s : State) : Result :=
  let k := s.clu c
  let junk := match k.queue.head? with
    | some d => (s.issuable c || s.preFlight c) && !listedOpc d.cls d.opc
    | none => false
  if !s.running c then .next s
  else if junk then
    match k.queue.head? with
    | some d => .next (s.refuseDesc c d)
    | none => .next s
  else if 32 ≤ k.queue.length || decide (8192 ≤ k.fetchPc) then .next s
  else
    let d := s.descAt c k.fetchPc
    let e := if d.len = 2 then max (s.imErr c d.slot) (s.imErr c (d.slot + 1)) else s.imErr c d.slot
    let bad := if s.imErr c d.slot = 2 then d.slot else d.slot + 1
    if e = 2 then
      .next ((s.foundUE (3 * 4096 + c) (32 * bad) 1).trap c 2 bad (some (0x08, pgClu c)))
    else
      let s := if e = 1 then s.foundCE (3 * 4096 + c) else s
      .next (s.setClu c { k with queue := k.queue ++ [d], fetchPc := k.fetchPc + d.len })

/-! ### The issue rule (R314, R315, R320) -/

/-- What the class of a descriptor says of it: refused or not, the ranges it reads, the entries it would hold in the
dependency table, whether its unit takes it, and what its launch does once it has left the queue. -/
structure Plan where
  bad : Bool
  reads : List DepRange
  holds : List DepRange
  free : Bool
  go : State → State

/-- Every entry of the cluster's dependency table. -/
def Cluster.deps (k : Cluster) : List DepRange := k.launches.flatMap (·.deps) ++ k.colls.flatMap (·.deps)

/-- R315, R639: no range overlaps an entry that it must wait for (a reader of Catalogue entries waits for no CATSAVE, which
only reads them), the table has room, and results of the old placement
have reached a moved cluster that writes. -/
def State.depFree (s : State) (c : Nat) (p : Plan) : Bool :=
  let tbl := (s.clu c).deps
  let rd := p.reads ++ p.holds.filter (fun h => !h.writes)
  let wr := p.holds.filter (·.writes)
  let pg := pgRgn (regionOf c)
  let drained := decide ((s.rgn (regionOf c)).repairLocal ≠ c % 16) || s.getF pg Reg.RGN_EPOCH_OUT_COUNT = 0
  (wr.isEmpty || drained) && (p.holds.isEmpty || decide (tbl.length + p.holds.length ≤ 32))
    && rd.all (fun r => tbl.all (fun e => !(e.writes || !e.cat) || !e.overlaps r))
    && wr.all (fun r => tbl.all (fun e => !e.overlaps r))

/-- R314: at or after S + T_OFF, unless ASREADY; control descriptors at once (R326). -/
def State.due (s : State) (c : Nat) (d : Desc) : Bool :=
  d.cls = 6 || d.asready || decide ((s.clu c).fS + s.cyc c d.tOff ≤ s.rot)

/-- The refusals that hold for every class (R60, R312, R320, R370): an extension beyond the memory, T_OFF outside the
flight, reserved codes of RND and GSRC where they are read, free-running draws under STRICT. -/
def State.commonBad (s : State) (c : Nat) (d : Desc) : Bool :=
  (d.slot = 8191 && d.hasExt)
    || (decide (d.cls ≠ 6) && !d.asready && decide ((s.clu c).fLen ≤ d.tOff))
    || (d.rounds && d.rnd = 3)
    || (d.rounds && d.vary && d.rnd = 2 && s.flag pgDev Reg.DEV_DET_CTL_STRICT)
    || (decide (d.cls ≤ 4) && d.gsrc = 3)

/-- The instant at which the next descriptor can issue: one cycle(G) after the last (R314). -/
def State.issueAt (s : State) (c : Nat) : Nat := max s.now ((s.clu c).lastIssue + s.cyc c 1)

/-- The elapsed instant from which the head descriptor `d` is due and not yet counted as waiting: its own instant, the
beginning of the flight, its arrival at the head. -/
def State.dueFrom (s : State) (c : Nat) (d : Desc) : Nat :=
  let k := s.clu c
  let own := if d.cls = 6 || d.asready then 0 else s.now - (s.rot - (k.fS + s.cyc c d.tOff))
  let begun := if d.cls = 6 then 0 else s.now - (s.rot - k.begun)
  max (max own begun) (max (k.lastIssue + s.cyc c 1) (max d.seen k.waitAt))

/-- DOC_CNT_WAIT counts the whole cycles(G) in which the head descriptor was due but not ready, up to instant `t` (R357). -/
def State.waited (s : State) (c : Nat) (d : Desc) (t : Nat) : State :=
  let t0 := s.dueFrom c d
  let n := (t - t0) * s.freq (dieOf c) / 512
  if n = 0 then s
  else (s.setClu c { s.clu c with waitAt := t0 + s.cyc c n }).count (pgDoc c) Reg.DOC_CNT_WAIT n

/-- The head descriptor leaves the queue. -/
def State.popHead (s : State) (c : Nat) : State :=
  let k := s.clu c
  (s.setClu c { k with queue := k.queue.tail, lastIssue := s.issueAt c }).count (pgDoc c) Reg.DOC_CNT_ISSUE 1

/-- The head descriptor `d` issues: its wait ends, and it leaves the queue. -/
def State.issue (s : State) (c : Nat) (d : Desc) : State := (s.waited c d (s.issueAt c)).popHead c

/-- One attempt to issue the head descriptor as operation `opc` of class `cls`. -/
def State.tryIssue (s : State) (c cls opc : Nat) (plan : State → Desc → Plan) : State :=
  match (s.clu c).queue.head? with
  | none => s
  | some d =>
    if !(d.cls = cls && d.opc = opc) || !(s.issuable c || (cls = 6 && s.preFlight c)) || !s.due c d then s
    else
      let p := plan s d
      if p.bad || s.commonBad c d then s.refuseDesc c d
      else if !(p.free && s.depFree c p) then s.waited c d s.now
      else p.go (s.issue c d)

/-- The launch of descriptor `d` enters the cluster's table; it holds `holds` and completes after `dur` cycles(G). -/
def State.addLaunch (s : State) (c : Nat) (d : Desc) (holds : List DepRange) (dur epi phase amask : Nat) (effs : List Eff)
    (epis : List EpiRun := []) (stalls : List (Nat × Nat × Nat) := []) : State :=
  let k := s.clu c
  let t := k.lastIssue
  let l : Launch := { slot := d.slot, cls := d.cls, opc := d.opc, amask := amask, start := t, due := t + s.cyc c dur,
                      deps := holds, phase := phase, epiAt := t + s.cyc c epi, desc := d, effs := effs, seq := k.issued,
                      epis := epis, stalls := stalls }
  s.setClu c { k with launches := k.launches ++ [l], issued := k.issued + 1 }

/-! ### Signature units (R381) -/

/-- Every byte of some runs, by address. -/
def runBytes (runs : List (Nat × List Byte)) : List (Nat × Byte) :=
  runs.foldl (fun m r => (r.2.zipIdx).foldl (fun m (b, i) => sput m (r.1 + i) b) m) []

/-- The blocks of 64 bytes that some bytes touch, ascending. -/
def blocksOf (m : List (Nat × Byte)) : List Nat :=
  (m.foldl (fun l p => match l with | b :: _ => if b = p.1 / 64 then l else p.1 / 64 :: l | [] => [p.1 / 64]) []).reverse

/-- The store units of a launch: address word, byte mask, block. `dev` where the class names device addresses. -/
def storeUnits (dev : Bool) (runs : List (Nat × List Byte)) : List Byte :=
  let m := runBytes runs
  (blocksOf m).flatMap (fun b =>
    let own := m.filter (fun p => p.1 / 64 = b)
    let a := 64 * b
    let addr := if dev then a else 0xFFFF * 2 ^ 48 + (a - cluBase) % 0x800000
    let mask := (own.map (fun p => 2 ^ (p.1 % 64))).foldl (· + ·) 0
    leBytes 8 addr ++ leBytes 8 mask ++ (List.range 64).map (fun i => sget (fun _ => 0) own (a + i)))

/-- A payload unit: destination member index, then the payload padded to 64 bytes. -/
def payloadUnits (dst : Nat) (bs : List Byte) : List Byte :=
  (List.range (ceilDiv bs.length 64)).flatMap (fun i =>
    let p := (bs.drop (64 * i)).take 64
    leBytes 8 dst ++ p ++ List.replicate (64 - p.length) 0)

/-- Adds bytes to the units of a launch, while a mode that uses signatures is on. -/
def State.addUnits (s : State) (c key : Nat) (bs : List Byte) : State :=
  if s.getF pgDev Reg.DEV_DET_CTL_DIVERGE = 0 || bs.isEmpty then s
  else
    let k := s.clu c
    s.setClu c { k with units := sset (fun _ => []) k.units key (sget (fun _ => []) k.units key ++ bs) }

/-- A launch completes: its effects take place, its entries are released. -/
def State.finish (s : State) (c : Nat) (l : Launch) : State :=
  let s := s.applyEffs c l.slot l.effs
  let s := s.addUnits c (2 * l.seq) (storeUnits (l.cls = 3) (memRuns l.effs))
  let k := s.clu c
  s.setClu c { k with launches := k.launches.filter (fun x => x ≠ l), lastDone := max k.lastDone l.due }

/-- R299, R333: an engine of the region serves a launch with an operand in the weight store of cluster c. -/
def State.wsHeld (s : State) (c : Nat) : Bool :=
  let k := s.rgn (regionOf c)
  (match k.restorerRun with | some x => x.ws.contains c | none => false)
    || (match k.conservatorRun with | some x => x.ws.contains c | none => false)

/-- A class-0 launch of cluster c is in its steps (R166). -/
def State.inSteps (s : State) (c : Nat) : Bool := (s.clu c).arrFree.any (fun t => decide (s.now < t))

/-- The oldest launch of a class that has reached its completion instant. -/
def State.doneLaunch (s : State) (c cls : Nat) : Option Launch :=
  (s.clu c).launches.find? (fun l => l.cls = cls && decide (l.due ≤ s.now))

/-- Completion of the oldest finished launch of a class. -/
def State.complete (s : State) (c cls : Nat) : State :=
  match s.doneLaunch c cls with
  | some l => s.finish c l
  | none => s

/-! ### DOC_CTL (R356, R357) -/

/-- The cluster's region has been released (R611). -/
def State.released (s : State) (c : Nat) : Bool := (s.getF pgPwr Reg.PWR_RGN_REL_MASK).testBit (regionOf c)

/-- Offset of DOC_CTL. -/
def docCtlOff : Nat := 0x800

/-- DOC_GO: in state IDLE, fetching starts at DOC_START; the cluster reads BARRIER from then on (log 33). -/
def execDocGo (c val : Nat) (s : State) : Result :=
  let s := s.writeReg (pgDoc c) docCtlOff val true
  if !val.testBit 0 || s.doc c ≠ docIdle || !s.reaches (pgDoc c) || !s.released c then .next s
  else
    let k := s.clu c
    .next ((s.setClu c { k with fetchPc := s.getF (pgDoc c) Reg.DOC_START_START, queue := [], loops := [none, none, none, none],
                                next := none, halting := false, barrier := none, signals := [] }).setDoc c docBarrier)

/-- R329, R356: the barrier or resume instant has passed, or the package is unlocked and the group spans packages. -/
def State.missed (s : State) (g t : Nat) : Bool := decide (t < s.rot) || (!s.locked && !(s.others g).isEmpty)

def State.barrierMissed (s : State) (c g t : Nat) : State := s.raise (pgDoc c) 2 0x03 3 (leBytes 1 g ++ leBytes 8 t)

/-- Address of the save area of a cluster. -/
def State.ctxAddr (s : State) (c : Nat) : Nat :=
  s.getF (pgDoc c) Reg.DOC_CTX_LO_ADDR + s.getF (pgDoc c) Reg.DOC_CTX_HI_ADDR * 2 ^ 32

/-- Accumulator lines of a tile (R177): one per tile row in F32 mode, one per 32 quire bits else. -/
def TileRec.lines (t : TileRec) : Nat := t.rows * (if t.f32 then 1 else t.width / 32)

/-- The valid tile records of a cluster. -/
def State.tilesOf (s : State) (c : Nat) : List (Nat × TileRec) :=
  s.tiles.filter (fun p => decide (256 * c ≤ p.1) && decide (p.1 < 256 * (c + 1)))

/-- Bytes of a save area that holds some tiles: 4 KiB and 128 bytes for each accumulator line in use (R355). -/
def ctxBytes (ts : List (Nat × TileRec)) : Nat := 4096 + 128 * min 4096 ((ts.map (fun p => p.2.lines)).foldl (· + ·) 0)

/-- The saved context comes back: sequencer, tiles with their entries, sticky flags (R355, R356). -/
def State.restoreCtx (s : State) (c : Nat) (x : Ctx) : State :=
  let s := s.setClu c { s.clu c with saved := none, fetchPc := x.pc, queue := x.queue, loops := x.loops, next := x.next }
  let s := { s with mems.tiles := x.tiles.foldl (fun m (p : Nat × TileRec) => sput m p.1 p.2) (sclear s.tiles (c * 256) ((c + 1) * 256)),
                    mems.am := x.am.foldl (fun m (p : Nat × BitVec 512) => sset (fun _ => 0) m p.1 p.2) (sclear s.am (c * 131072) ((c + 1) * 131072)) }
  let s := (x.arrFlags.zipIdx).foldl (fun s (w, a) => s.setF (pgArr c) (arrFlagsF a) w) s
  let s := (s.setF (pgVec c) vecFlagsF x.vecFlags).setF (pgVec c) sfuFlagsF x.sfuFlags
  s.setWord (regIdx (pgVec c) Reg.VEC_ROW_STAT_ROW_NAR) x.rowStat

/-- DOC_RESUME (R356): the saved context comes back, and flight n + 1 begins at the written instant; a cluster saved with a
BARRIER at the head of its queue waits for that BARRIER's instant. A save area that holds an uncorrectable word raises
PREEMPTED with the save marked invalid (R429, cause DMA). -/
def execDocResume (c val : Nat) (s : State) : Result :=
  let s := s.writeReg (pgDoc c) docCtlOff val true
  let k := s.clu c
  match k.saved with
  | none => .next s
  | some x =>
    let t := s.getF (pgDoc c) Reg.DOC_RESUME_LO_T + s.getF (pgDoc c) Reg.DOC_RESUME_HI_T * 2 ^ 32
    let n := ctxBytes x.tiles
    if !val.testBit 1 || s.doc c ≠ docSaved || !s.reaches (pgDoc c) then .next s
    else if s.missed x.grp t then .next (s.barrierMissed c x.grp t)
    else if s.ueIn (s.ctxAddr c) n then
      let s := s.touch (s.ctxAddr c) n 8
      .next (s.raise (pgDoc c) 3 0x04 2 (leBytes 1 x.grp ++ leBytes 8 x.idx ++ leBytes 1 0))
    else
      let s := (s.restoreCtx c x).setRun x.grp { s.run x.grp with idx := x.idx, step := x.step, tStart := t }
      let bar := if x.next.isSome then some (t, x.step, (s.run x.grp).code, x.grp) else none
      .next ((s.setClu c { s.clu c with barrier := bar }).setDoc c docBarrier)

/-- DOC_ABORT (R357): the stop state at once, without a message to the group, in every state. -/
def execDocAbort (c val : Nat) (s : State) : Result :=
  let s := s.writeReg (pgDoc c) docCtlOff val true
  if val.testBit 2 && s.reaches (pgDoc c) then .next (s.stopCluster c) else .next s

/-! ### Flights -/

/-- Body bits of a class-6 descriptor above `hi` are 0. -/
def Desc.above (d : Desc) (hi : Nat) : Bool := d.f 255 (hi + 1) = 0

/-- FLIGHT is refused (R335, R326). -/
def badFlight (d : Desc) : Bool :=
  let n := d.f 87 64
  decide (n < 64) || !d.above 88 || (d.slot = 8191 && d.hasExt)

/-- FLIGHT (R326, R335): in a flight it closes the flight in progress at its landing; after a BARRIER it opens flight 1.
With neither, the flight opens at the present instant, at the clock code in force (log 32); a group in the stop state
starts again only from a BARRIER, so there the cluster stops (R347). -/
def execFlight (c : Nat) (s : State) : Result :=
  let k := s.clu c
  match k.queue.head? with
  | none => .next s
  | some d =>
    if !(d.cls = 6 && d.opc = 1) || k.next.isSome || k.halting || !(s.doc c = docFlight || s.doc c = docBarrier) then .next s
    else if badFlight d then .next (s.refuseDesc c d)
    else if s.preFlight c && (s.run d.grp).stopped then .next ((s.popHead c).stopCluster c)
    else
      let s := s.popHead c
      let k := s.clu c
      let bar := if s.doc c = docBarrier && k.barrier.isNone then some (s.rot, (s.run d.grp).step, s.clkCode (dieOf c), d.grp)
        else k.barrier
      let s := if s.doc c = docBarrier && k.barrier.isNone then
          s.setRun d.grp { s.run d.grp with idx := 0, code := s.clkCode (dieOf c), tStart := s.rot }
        else s
      .next (s.setClu c { k with next := some (d.f 87 64, d.w.getLsbD 88, d.grp), barrier := bar })

/-- The body of BARRIER is refused (R326, R701), or its groups reach beyond the package in Foyer service (R612). -/
def State.badBarrier (s : State) (d : Desc) : Bool :=
  decide (8 < d.f 195 192) || !d.above 195 || (d.slot = 8191 && d.hasExt) || (!s.full && !(s.others d.grp).isEmpty)

/-- A run of group g starts anew: step counter STEP0, landing index 0, agreed code CLK (R326, R379, R701). The other
clusters of the same barrier find it started. -/
def State.startRun (s : State) (g t step0 clk : Nat) : State :=
  let r := s.run g
  if r.tStart = t && r.idx = 0 && r.step = step0 && !r.stopped && r.lams.isEmpty then s.setRun g { r with code := clk }
  else
    let early := r.msgs.filter (fun m => m.idx = 1 && r.tStart = 0 && r.idx = 0)
    s.setRun g { idx := 0, step := step0, code := clk, tStart := t, msgs := early, switch := r.switch, winEnd := r.winEnd }

/-- BARRIER (R320, R326, R329, R701). A BARRIER at the head while a flight is in progress waits for its landing. -/
def execBarrier (c : Nat) (s : State) : Result :=
  let k := s.clu c
  match k.queue with
  | d :: rest =>
    if !(d.cls = 6 && d.opc = 2) || decide (s.doc c ≠ docBarrier) || k.barrier.isSome then .next s
    else if s.badBarrier d then .next (s.refuseDesc c d)
    else
      match rest.head? with
      | none => .next s
      | some n =>
        if !(n.cls = 6 && n.opc = 1) then .next (s.refuseDesc c n)
        else
          let t := d.f 127 64
          let s := s.popHead c
          if s.missed d.grp t then .next ((s.barrierMissed c d.grp t).setDoc c docStopped)
          else
            let s := s.startRun d.grp t (d.f 191 128) (d.f 195 192)
            let k := s.clu c
            let s := s.setF (pgDoc c) Reg.DOC_STAT_GRP d.grp
            let s := (s.setF (pgDoc c) Reg.DOC_LAND_LO_IDX 0).setF (pgDoc c) Reg.DOC_LAND_HI_IDX 0
            .next (s.setClu c { k with barrier := some (t, d.f 191 128, d.f 195 192, d.grp) })
  | [] => .next s

/-- Units of n cycles(G) at an agreed clock code (R336). -/
def unitsAt (code n : Nat) : Nat := cyclesAt (freqOf code) n

/-- A cluster begins the flight that its FLIGHT opened, scheduled from `t` to `lam`. -/
def State.beginFlight (s : State) (c t lam : Nat) : State :=
  let k := s.clu c
  match k.next with
  | none => s
  | some (len, stp, g) =>
    let s := s.setClu c { k with fS := t, fLam := lam, fLen := len, fStep := stp, begun := max t s.rot, next := none,
                                 barrier := none, units := [], issued := 0, collSeq := [], lastDone := s.now }
    (s.setF (pgDoc c) Reg.DOC_STAT_GRP g).setDoc c docFlight

/-- The cluster's region copies a slot: no cluster of it begins a flight (R643). -/
def State.copying (s : State) (c : Nat) : Bool := s.getF (pgRgn (regionOf c)) Reg.RGN_REPAIR_STAT_STATE = 2

/-- Clusters that wait for the instant of group g's barrier, their FLIGHT issued, and may begin it. -/
def State.barred (s : State) (g : Nat) : List Nat :=
  (List.range 512).filter (fun c => s.doc c = docBarrier && (s.clu c).next.isSome && !s.copying c
    && (match (s.clu c).barrier with | some (t, _, _, h) => h = g && decide (t ≤ s.rot) | none => false))

/-- What a BARRIER that begins on the package resets: the THROTTLES count (R368), UNCHECKED (R387), broken streams
(R469). -/
def State.barrierBegins (s : State) : State :=
  let s := { s with plat.throtCount := 0,
                    fabric.tx := s.tx.map (fun (t : TxStream) => if t.broken then { t with next := 0, fresh := true, broken := false } else t) }
  s.setF pgDev Reg.DEV_DET_STAT_UNCHECKED 0

/-- BARRIER_START (R326, R336, R379): the Rotunda count has reached T_START, and the group's first flight begins; after a
resume, the flight that follows the saved landing. A cluster that the first records of a replayed log stop begins none (R395). -/
def execBarrierStart (g : Nat) (s : State) : Result :=
  match s.barred g with
  | [] => .next s
  | c0 :: cs =>
    let k0 := s.clu c0
    let t := match k0.barrier with | some (t, _, _, _) => t | none => 0
    let len := match k0.next with | some (n, _, _) => n | none => 0
    let gf := match k0.next with | some (_, _, x) => x | none => g
    let r := s.run gf
    let lam := t + unitsAt r.code len
    let s := if r.s = t && r.lam = lam then s else s.barrierBegins.setRun gf { r with s := t, lam := lam }
    let s := if s.replaying && s.getF pgDev Reg.DEV_DET_CTL_LOGGRP = gf then s.replayRead 0 else s
    .next ((c0 :: cs).foldl (fun s c => if s.doc c = docBarrier then s.beginFlight c t lam else s) s)

/-- R386: the comparison of the last landing's signatures is still to come, with LSWAIT = 1 in LOCKSTEP mode. -/
def State.awaitsTwin (s : State) (g : Nat) : Bool :=
  s.getF pgDev Reg.DEV_DET_CTL_DIVERGE = 1 && s.flag pgDev Reg.DEV_DET_CTL_LSWAIT
    && !s.flag pgDev Reg.DEV_DET_STAT_UNCHECKED && decide ((s.run g).checked < (s.run g).idx)

/-- FLIGHT_BEGIN (R337, R386, R643): at S_n, or when the landing window ends, whichever is later. -/
def execFlightBegin (g : Nat) (s : State) : Result :=
  let r := s.run g
  if r.stopped || decide (s.rot < r.s) || decide (s.rot < r.winEnd) || s.awaitsTwin g then .next s
  else
    let cs := (List.range 512).filter (fun c => s.doc c = docWindow && !s.copying c && (s.clu c).saved.isNone && !(s.clu c).landed
      && (match (s.clu c).next with | some (_, _, h) => h = g | none => false))
    .next (cs.foldl (fun s c => s.beginFlight c r.s r.lam) s)

/-! ### The other control descriptors -/

/-- A plan of class 6. -/
def ctlPlan (bad free : Bool) (go : State → State) : Plan := { bad := bad, reads := [], holds := [], free := free, go := go }

/-- A jump of LOOP: the queue is fetched again from TARGET. -/
def State.jump (s : State) (c target : Nat) (loops : List (Option Nat)) : State :=
  let k := s.clu c
  s.setClu c { k with queue := [], fetchPc := target, loops := loops }

/-- The plan of a LOOP (R327). -/
def loopPlan (c : Nat) (s : State) (d : Desc) : Plan :=
  let target := d.f 76 64
  let ctr := d.f 78 77
  let n := d.f 110 79
  let loops := (s.clu c).loops
  ctlPlan (n = 0 || decide (d.slot < target) || !d.above 110) true (fun t =>
    match loops.getD ctr none with
    | none => if n = 1 then t else t.jump c target (loops.set ctr (some (n - 2)))
    | some 0 => t.setClu c { t.clu c with loops := loops.set ctr none }
    | some (v + 1) => t.jump c target (loops.set ctr (some v)))

/-- LOOP (R327). -/
def execLoop (c : Nat) (s : State) : Result := .next (s.tryIssue c 6 3 (loopPlan c))

/-- The plan of a FENCE (R326). -/
def fencePlan (c : Nat) (s : State) (d : Desc) : Plan :=
  ctlPlan (!d.above 63) ((s.clu c).launches.isEmpty && (s.clu c).colls.isEmpty) id

/-- FENCE (R326). -/
def execFence (c : Nat) (s : State) : Result := .next (s.tryIssue c 6 4 (fencePlan c))

/-- The next record of queue q that INTAKE sees in the flight in progress of group g (R328, R384, R389, R394). -/
def State.visible (s : State) (q g : Nat) : Option IqRec :=
  let x := s.iq q
  let r := s.run g
  let mode := s.getF pgDev Reg.DEV_DET_CTL_DIVERGE
  let opened := if r.idx = 0 then r.tStart else (((r.lams.find? (fun p => p.1 = r.idx)).map (·.2)).getD 0)
  match x.recs.head? with
  | none => none
  | some rec_ =>
    if mode = 0 then (if rec_.reached < opened then some rec_ else none)
    else if mode = 1 then
      let own := ((r.counts.find? (fun p => p.1 = r.idx)).map (·.2)).getD []
      let his := if s.flag pgDev Reg.DEV_DET_STAT_UNCHECKED then own
        else ((r.twin.find? (fun m => m.idx = r.idx)).map (·.counts)).getD []
      if decide (0 < r.idx) && rec_.reached < opened && decide (x.taken < min (own.getD q 0) (his.getD q 0)) then some rec_ else none
    else if mode = 3 && s.replayEnd then none
    else if rec_.land ≤ r.idx then some rec_ else none

/-- R384: in LOCKSTEP mode an INTAKE after landing n waits until the twin's counts for landing n are here, so that both twins
take the same records in the same flights. -/
def State.countsKnown (s : State) (g : Nat) : Bool :=
  let r := s.run g
  s.getF pgDev Reg.DEV_DET_CTL_DIVERGE ≠ 1 || r.idx = 0 || s.flag pgDev Reg.DEV_DET_STAT_UNCHECKED
    || r.twin.any (fun m => m.idx = r.idx)

/-- The first record leaves its queue. -/
def State.dropRec (s : State) (q : Nat) : State :=
  let x := s.iq q
  match x.recs with
  | [] => s
  | r :: rest =>
    let ring := 65536 * s.getF pgPci (Reg.PCI_IQ_SIZE_PAGES q)
    let n := padUp (8 + r.payload.length) 8
    s.setIq q { x with recs := rest, rd := if ring = 0 then 0 else (x.rd + n) % ring, taken := x.taken + 1 }

/-- What INTAKE copies of a record (R538, R552): its payload; of an Accession record a 16-byte prefix and the plaintext,
and nothing where the session's keys are no longer held. -/
def State.intakeData (s : State) (r : IqRec) : Option (List Byte) :=
  match r.acc with
  | none => some r.payload
  | some (sid, ep, seq) =>
    (s.accSess.find? (fun e => e.sid = sid && e.epoch = ep)).map (fun e =>
      leBytes 4 sid ++ leBytes 4 0 ++ leBytes 8 seq
        ++ gcm e.secret 0 seq ((r.payload.drop 32).take (r.payload.length - 48)))

/-- The bytes of an INTAKE, and whether it sets INV (R328, R552). -/
def State.intakeBytes (s : State) (r : Option IqRec) (mx : Nat) : List Byte × Bool :=
  match r with
  | none => (leBytes 8 0, false)
  | some x => match s.intakeData x with
    | none => (leBytes 8 0, true)
    | some bs => (leBytes 8 bs.length ++ bs.take mx, decide (mx < bs.length))

/-- REPLAY_KEY (R395): a logged frame whose session key is gone stops the group. -/
def State.replayKey (s : State) (g : Nat) (r : IqRec) : State :=
  match r.acc with
  | some (sid, ep, _) =>
    if s.getF pgDev Reg.DEV_DET_CTL_DIVERGE = 3 && (s.intakeData r).isNone then
      ((s.raise pgDev 10 0x1A 3 (leBytes 4 sid ++ leBytes 4 ep ++ leBytes 4 r.seq)).enterStop g).sendStops g
    else s
  | none => s

/-- What an INTAKE of queue q does: the record's length and at most `mx` of its bytes, at local address `dst`. -/
def State.intakeGo (s : State) (c q dst mx : Nat) : State :=
  let r := if s.doc c = docFlight then s.visible q (s.grpOf c) else none
  let (bs, inv) := s.intakeBytes r mx
  let s := if r.isSome then s.dropRec q else s
  let k := s.clu c
  let s := (s.setClu c { k with issued := k.issued + 1 }).writeBytes 0 (localAddr c dst) bs
  let s := s.addUnits c (2 * k.issued) (storeUnits false [(localAddr c dst, bs)])
  let s := if inv then s.setVecFlags c Flags.INV.word else s
  match r with
  | some x => s.replayKey (s.grpOf c) x
  | none => s

/-- The plan of an INTAKE. -/
def intakePlan (c : Nat) (s : State) (d : Desc) : Plan :=
  let dst := d.f 87 68
  let mx := d.f 111 88
  { bad := !d.above 111 || !localOk dst (8 + mx) || !s.full, reads := [], holds := [depOf c dst (8 + mx) true],
    free := s.doc c ≠ docFlight || s.countsKnown (s.grpOf c)
    go := fun t => t.intakeGo c (d.f 67 64) dst mx }

/-- INTAKE (R326, R328, R552): an 8-byte length and at most MAXLEN bytes; length 0 where no record is visible. The length
is the record's own (log 34). -/
def execIntake (c : Nat) (s : State) : Result := .next (s.tryIssue c 6 5 (intakePlan c))

/-- The plan of a SIGNAL (R326). -/
def signalPlan (c : Nat) (_s : State) (d : Desc) : Plan :=
  ctlPlan (!d.above 79) true (fun t => t.setClu c { t.clu c with signals := (t.clu c).signals ++ [d.f 79 64] })

/-- SIGNAL (R326): raised in the landing window. -/
def execSignal (c : Nat) (s : State) : Result := .next (s.tryIssue c 6 6 (signalPlan c))

/-- HALT (R326): the cluster stops after the landing of the flight in progress; with none in progress, at once
(log 32). -/
def execHalt (c : Nat) (s : State) : Result :=
  let k := s.clu c
  match k.queue.head? with
  | none => .next s
  | some d =>
    if !(d.cls = 6 && d.opc = 7) || k.halting || k.next.isSome || !(s.doc c = docFlight || s.doc c = docBarrier) then .next s
    else if !d.above 63 || (d.slot = 8191 && d.hasExt) then .next (s.refuseDesc c d)
    else
      let s := s.popHead c
      if s.doc c = docFlight then .next (s.setClu c { s.clu c with halting := true })
      else
        let g := s.grpOf c
        .next ((s.setDoc c docDone).raise (pgDoc c) 5 0x06 0 (leBytes 1 g ++ leBytes 8 (s.run g).idx))

/-- Class-2 launches lose the cycles of the SFU that array epilogues take (R233): the end of the grants in `lo` to `hi`, and
the cycles lost. `one` is a cycle(G). -/
def sfuLost (one lo hi : Nat) (taken : List Nat) : Nat × Nat :=
  taken.foldl (fun (x : Nat × Nat) g => if lo ≤ g && decide (g < x.1) then (x.1 + one, x.2 + 1) else x) (hi, 0)

end Sys2Proof.Machine
end

