-- ==== Sys2Proof/Machine/Vector.lean ====
section
/-! DEFINITION. Class 1: the vector engine (R204 to R216, R322), and QADD on quires (R148, R151). -/
namespace Sys2Proof.Machine

/-! ### What classes 1 and 2 share (R206, R207, R322) -/

/-- A class-1 or class-2 descriptor, its format codes decoded. -/
structure VecDesc where
  e : Nat
  fmt : Fmt
  inF : Fmt
  outF : Fmt
  blkCode : Nat
  dir : Bool
  blockmax : Bool
  scat : Nat
  xcat : Nat
  xch : Bool
  a : Nat
  b : Nat
  c : Nat
  o : Nat
  pair : Nat
  deriving DecidableEq, Repr

def Desc.vec (d : Desc) : Option VecDesc :=
  match Fmt.ofCode (d.f 91 88), Fmt.ofCode (d.f 95 92), Fmt.ofCode (d.f 99 96) with
  | some f, some i, some o =>
    some { e := d.f 87 64, fmt := f, inF := i, outF := o, blkCode := d.f 102 100, dir := d.f 103 103 = 1,
           blockmax := d.f 104 104 = 1, scat := d.f 116 105, xcat := d.f 128 117, xch := d.f 129 129 = 1,
           a := d.f 149 130, b := d.f 169 150, c := d.f 189 170, o := d.f 209 190, pair := d.f 229 210 }
  | _, _, _ => none

/-- The operand formats of the vector engine (R206). -/
def veFmt (f : Fmt) : Bool := [Fmt.fp32, .p32, .p16, .p8].contains f

def VecDesc.blk (x : VecDesc) : Nat := (blkSize x.blkCode).getD 8

/-- A vector of the launch in memory. -/
def VecDesc.tensor (x : VecDesc) (c addr : Nat) (f : Fmt) : Tensor :=
  { addr := localAddr c addr, rows := 1, cols := x.e, fmt := f, blk := x.blk, dirCols := x.dir, xcat := x.xcat, xch := x.xch }

/-- A reserved BLK code where a memory format is block-scaled (R71). -/
def VecDesc.badBlk (x : VecDesc) : Bool := (x.inF.isSP || x.outF.isSP) && (blkSize x.blkCode).isNone

/-- Catalogue entries used (R274). -/
def VecDesc.cats (x : VecDesc) : List Nat :=
  (if x.inF.isInt || x.outF.isInt then [x.xcat] else []) ++ (if x.outF.isSP && !x.blockmax then [x.scat] else [])

def readDep (lo n : Nat) : DepRange := { cat := false, lo := lo, hi := lo + n, writes := false }

def writeDep (lo n : Nat) : DepRange := { cat := false, lo := lo, hi := lo + n, writes := true }

/-- A range of the launch stays in one memory of its cluster (R320). -/
def depIn (c : Nat) (r : DepRange) : Bool :=
  let o := r.lo - cluBase - c * 0x800000
  let n := r.hi - r.lo
  decide (cluBase + c * 0x800000 ≤ r.lo) &&
    (if o < 0x400000 then decide (o + n ≤ 0x400000) else decide (o < 0x500000) && decide (o + n ≤ 0x500000))

/-- Elements of one pass (R207). -/
def passElems (w : Nat) : Nat := 8192 / w

def VecDesc.passes (x : VecDesc) (w : Nat) : Nat := ceilDiv (x.e * w) 8192

/-- The free-running generator moves on, and the launch is marked as varied (R370). -/
def State.vary (s : State) (d : Desc) : State := if s.freeRunning d then { s with draw := s.draw + 1 } else s

def State.variedEff (s : State) (d : Desc) : List Eff := if s.freeRunning d then [.varied] else []

/-- The vector engine is taken for `n` cycles(G) from the issue. -/
def State.takeVe (s : State) (c n : Nat) : State :=
  let k := s.clu c
  s.setClu c { k with veFree := k.lastIssue + s.cyc c n }

def State.veIdle (s : State) (c : Nat) : Bool := decide ((s.clu c).veFree ≤ s.now)

/-- The passes that an uncorrectable word spoils: those of the elements drawn from one (R429, VEC). -/
def badPasses (ps : Nat) (ls : List (List Elem)) : List Nat :=
  (ls.flatMap (fun l => l.zipIdx.filterMap (fun (e, i) => if e.ue then some (i / ps) else none))).eraseDups

/-! ### Element results (R208 to R216) -/

/-- The exact result of one element, and its flags, before the rounding of R209. A product of an infinity and zero sets INV
also where the addend is NaN (log 86). -/
def veElem (op : Nat) (a b c : Val) : Val × Flags :=
  let nn : Flags := { inv := a.isNan || b.isNan }
  let isZ (v : Val) : Bool := match v with | .fin x => x.isZero | _ => false
  match op with
  | 1 => a.add b
  | 2 => a.add b.neg
  | 3 => a.mul b
  | 4 => let (p, f) := a.mul b; let (y, g) := p.add c; (y, f.or g)
  | 5 => a.div b
  | 6 => (if a.lt b then b else a, nn)
  | 7 => (if b.lt a then b else a, nn)
  | 8 => (.fin (.ofInt (if a.lt b then 1 else 0)), nn)
  | 9 => (.fin (.ofInt (if a.eqv b then 1 else 0)), nn)
  | 10 => (if isZ c then b else a, {})
  | 11 => (match a with | .fin x => .fin x.abs | .inf _ => .inf false | .nan => .nan, {})
  | _ => (a.neg, {})

/-- R214 to R216: result and residual as codes of the operand format, both rounded with RNE, and their flags. -/
def twoCodes (f : Fmt) (y : Val) : Nat × Nat × Flags :=
  let (hi, fh) := encodeFmt f .rne true y
  match decodeFmt f hi with
  | .nan => (hi, hi, { inv := fh.inv })
  | .inf _ => (hi, 0, { inv := fh.inv, ovf := fh.ovf })
  | .fin h =>
    if fh.ovf then (hi, 0, { ovf := true, inv := fh.inv })
    else match y with
      | .fin v =>
        let rest := v.sub h
        if rest.isZero then (hi, 0, { inv := fh.inv })
        else let (lo, fl) := encodeFmt f .rne true (.fin rest); (hi, lo, { inv := fh.inv, inx := fl.inx, unf := fl.unf })
      | _ => (hi, 0, { inv := fh.inv })

/-- Operands that an operation reads: a, then b, then c. -/
def veOperands (op : Nat) (x : VecDesc) : List Nat :=
  match op with
  | 4 | 10 => [x.a, x.b, x.c]
  | 11 | 12 => [x.a]
  | _ => [x.a, x.b]

def vePair (op : Nat) : Bool := op = 13 || op = 14

/-! ### Timing (R213) -/

/-- Elements per cycle(G) in a 32-bit format, and the latency. -/
def veRate (op : Nat) : Nat × Nat :=
  match op with
  | 3 | 4 => (256, 5)
  | 5 => (32, 16)
  | 13 | 14 => (128, 6)
  | _ => (256, 4)

/-- Cycles(G) for which a launch of E elements of w bits issues: none for E = 0 (log 86). -/
def veIssue (op e w : Nat) : Nat :=
  let ps := passElems w
  let rate := (veRate op).1 * 32 / w
  let n := ceilDiv (e * w) 8192
  if e = 0 then 0 else (n - 1) * ceilDiv ps rate + ceilDiv (e - (n - 1) * ps) rate

/-! ### The launch -/

/-- The effects of a class-1 launch other than QADD, from the operands as they stand at its issue. -/
def State.veEffs (s : State) (c op : Nat) (d : Desc) (x : VecDesc) : List Eff :=
  let ls := (veOperands op x).map (fun a => s.load c (x.tensor c a x.inF) x.fmt)
  let el (k i : Nat) : Val := match ls[k]? with | some l => (l.at 0 i).val | none => .fin .zero
  let w := x.fmt.width
  let bad := badPasses (passElems w) (ls.map (fun l => l.rows.getD 0 []))
  let spoilt (i : Nat) : Bool := bad.contains (i / passElems w)
  let ctx := s.rndCtx d
  let rnd (i : Nat) : Rnd := ctx.at 0 0 i
  let one (i : Nat) : Nat × Nat × Flags :=
    if vePair op then
      let (y, f) := if op = 13 then (el 0 i).add (el 1 i) else (el 0 i).mul (el 1 i)
      let (hi, lo, g) := twoCodes x.fmt y
      (hi, lo, f.or g)
    else
      let (y, f) := veElem op (el 0 i) (el 1 i) (el 2 i)
      let (q, g) := encodeFmt x.fmt (rnd i) d.sat y
      (q, 0, f.or g)
  let rs := (List.range x.e).map one
  let outs := rs.zipIdx.map (fun (r, i) => if spoilt i then Val.nan else decodeFmt x.fmt r.1)
  let pairs := rs.zipIdx.map (fun (r, i) => if spoilt i then Val.nan else decodeFmt x.fmt r.2.1)
  let st (a : Nat) : Store := { t := x.tensor c a x.outF, sat := d.sat, blockmax := x.blockmax, scat := x.scat }
  let w1 := s.store c (st x.o) [outs] (fun _ i => ctx.at 0 0 i)
  let w2 : Stored := if vePair op then s.store c (st x.pair) [pairs] (fun _ i => ctx.at 0 1 i) else { runs := [], fl := {}, mag := none }
  let fl := orFlags (ls.map (·.fl) ++ rs.map (fun r => r.2.2) ++ [w1.fl, w2.fl])
  w1.effs ++ w2.effs ++ [.vecFlags fl.word, .count (pgVec c) Reg.VEC_CNT_PASS (x.passes w)]
    ++ d.report 1 ((ls.head?.map (·.mag)).getD none) ++ d.report 2 w1.mag ++ s.variedEff d

/-- What a class-1 launch other than QADD does. -/
def State.veGo (s : State) (c op : Nat) (d : Desc) (x : VecDesc) (reads holds : List DepRange) : State :=
  let effs := s.veEffs c op d x
  let n := veIssue op x.e x.fmt.width
  let s := ((reads.foldl (fun s r => s.touch r.lo (r.hi - r.lo) 4) s).touchCats c 5 x.cats).vary d
  (s.takeVe c n).addLaunch c d holds (max 1 (n - 1 + (veRate op).2)) 0 0 0 effs

/-- The plan of a class-1 operation other than QADD. -/
def vePlan (c op : Nat) (s : State) (d : Desc) : Plan :=
  match d.vec with
  | none => { bad := true, reads := [], holds := [], free := true, go := id }
  | some x =>
    let rd := (veOperands op x).map (fun a => let t := x.tensor c a x.inF; readDep t.addr t.size)
    let wr := (x.o :: (if vePair op then [x.pair] else [])).map (fun a => let t := x.tensor c a x.outF; writeDep t.addr t.size)
    { bad := !veFmt x.fmt || x.inF = .qfull || x.outF = .qfull || x.badBlk || !d.above 229 || !(rd ++ wr).all (depIn c),
      reads := rd ++ x.cats.map (fun i => depCat i 1 false), holds := wr, free := s.veIdle c,
      go := fun t => t.veGo c op d x rd wr }

/-- VE ADD (R208, R209). -/
def execVeAdd (c : Nat) (s : State) : Result := .next (s.tryIssue c 1 1 (vePlan c 1))

/-- VE SUB (R208, R209). -/
def execVeSub (c : Nat) (s : State) : Result := .next (s.tryIssue c 1 2 (vePlan c 2))

/-- VE MUL (R208, R209). -/
def execVeMul (c : Nat) (s : State) : Result := .next (s.tryIssue c 1 3 (vePlan c 3))

/-- VE FMA (R208, R209). -/
def execVeFma (c : Nat) (s : State) : Result := .next (s.tryIssue c 1 4 (vePlan c 4))

/-- VE DIV (R208 to R210). -/
def execVeDiv (c : Nat) (s : State) : Result := .next (s.tryIssue c 1 5 (vePlan c 5))

/-- VE MAX (R88, R208, R210). -/
def execVeMax (c : Nat) (s : State) : Result := .next (s.tryIssue c 1 6 (vePlan c 6))

/-- VE MIN (R88, R208, R210). -/
def execVeMin (c : Nat) (s : State) : Result := .next (s.tryIssue c 1 7 (vePlan c 7))

/-- VE CMPLT (R88, R208, R210). -/
def execVeCmplt (c : Nat) (s : State) : Result := .next (s.tryIssue c 1 8 (vePlan c 8))

/-- VE CMPEQ (R88, R208, R210). -/
def execVeCmpeq (c : Nat) (s : State) : Result := .next (s.tryIssue c 1 9 (vePlan c 9))

/-- VE SEL (R208, R210). -/
def execVeSel (c : Nat) (s : State) : Result := .next (s.tryIssue c 1 10 (vePlan c 10))

/-- VE ABS (R208, R210). -/
def execVeAbs (c : Nat) (s : State) : Result := .next (s.tryIssue c 1 11 (vePlan c 11))

/-- VE NEG (R86, R208, R210). -/
def execVeNeg (c : Nat) (s : State) : Result := .next (s.tryIssue c 1 12 (vePlan c 12))

/-- VE TWOSUM (R214 to R216). -/
def execVeTwosum (c : Nat) (s : State) : Result := .next (s.tryIssue c 1 13 (vePlan c 13))

/-- VE TWOPROD (R214 to R216). -/
def execVeTwoprod (c : Nat) (s : State) : Result := .next (s.tryIssue c 1 14 (vePlan c 14))

/-! ### QADD (R148, R151) -/

/-- The quires of a QFULL vector read from memory: each with the marker of an uncorrectable word. -/
def State.loadQuires (s : State) (addr n : Nat) (q : Quire) : List (Nat × Bool) :=
  let b := q.width / 8
  (List.range n).map (fun i => (ofLeBytes (s.readBytes 0 (addr + i * b) b), s.ueIn (addr + i * b) b))

/-- The effects of a QADD. -/
def State.qaddEffs (s : State) (c : Nat) (d : Desc) (x : VecDesc) (q : Quire) : List Eff :=
  let as := s.loadQuires (localAddr c x.a) x.e q
  let bs := s.loadQuires (localAddr c x.b) x.e q
  let ps := passElems q.width
  let bad := ((as.zip bs).zipIdx.filterMap (fun (p, i) => if p.1.2 || p.2.2 then some (i / ps) else none)).eraseDups
  let rs := (as.zip bs).zipIdx.map (fun (p, i) => if bad.contains (i / ps) then (q.nar, false) else q.add p.1.1 p.2.1)
  let ovr := rs.zipIdx.find? (fun r => r.1.2)
  [Eff.mem (localAddr c x.o) (rs.flatMap (fun r => leBytes (q.width / 8) r.1))]
    ++ (match ovr with | some (_, i) => [Eff.vecQcap i, .vecFlags 16] | none => [])
    ++ [.count (pgVec c) Reg.VEC_CNT_PASS (x.passes q.width)]
    ++ d.report 1 (maxMag (as.map (fun a => q.val a.1))) ++ d.report 2 (maxMag (rs.map (fun r => q.val r.1)))
    ++ s.variedEff d

/-- What a QADD does. -/
def State.qaddGo (s : State) (c : Nat) (d : Desc) (x : VecDesc) (q : Quire) (reads holds : List DepRange) : State :=
  let effs := s.qaddEffs c d x q
  let n := x.passes q.width
  let s := (reads.foldl (fun s r => s.touch r.lo (r.hi - r.lo) 4) s).vary d
  (s.takeVe c n).addLaunch c d holds (max 1 (n - 1 + 4)) 0 0 0 effs

/-- The plan of a QADD. -/
def qaddPlan (c : Nat) (s : State) (d : Desc) : Plan :=
  match d.vec, Quire.ofCode (d.f 102 100) with
  | some x, some q =>
    let n := x.e * (q.width / 8)
    let rd := [readDep (localAddr c x.a) n, readDep (localAddr c x.b) n]
    let wr := [writeDep (localAddr c x.o) n]
    { bad := x.fmt ≠ .qfull || x.inF ≠ .qfull || x.outF ≠ .qfull || !d.above 229 || !(rd ++ wr).all (depIn c),
      reads := rd, holds := wr, free := s.veIdle c, go := fun t => t.qaddGo c d x q rd wr }
  | _, _ => { bad := true, reads := [], holds := [], free := true, go := id }

/-- VE QADD (R148, R151, R213). -/
def execVeQadd (c : Nat) (s : State) : Result := .next (s.tryIssue c 1 15 (qaddPlan c))

/-- VECTOR_LAUNCH_COMPLETE (R213): the results of the last pass can be read. -/
def execVectorLaunchComplete (c : Nat) (s : State) : Result := .next (s.complete c 1)

end Sys2Proof.Machine
end

