-- ==== Sys2Proof/Machine/Collective.lean ====
section
/-! DEFINITION. Class 5: the moves, the reductions and ALLMAX (R325, R366, R367, R370, R371, R495 to R521). A payload
travels in pieces: each piece is one chunk, one window entry of a combining point and one part of a result. -/
namespace Sys2Proof.Machine

/-! ### The delivery header (R501) -/

/-- The fields of a delivery header. The tree marks a partial by PART = 1 with the position of its cluster in DPOS, and a
sum by PART = 0 with the position of the last rank it covers in DPOS; results travel with CLOAK = 0 (log 39). -/
structure CollHdr where
  grp : Nat
  opc : Nat
  srcm : Nat
  dstm : Nat
  dpos : Nat
  cloak : Bool
  part : Bool
  rflags : Nat
  ord : Bool
  cseq : Nat
  off : Nat
  deriving DecidableEq, Repr

def CollHdr.bytes (h : CollHdr) : List Byte :=
  leBytes 8 (h.grp + h.opc * 2 ^ 8 + h.srcm * 2 ^ 16 + h.dstm * 2 ^ 26 + h.dpos * 2 ^ 36 + h.cloak.toNat * 2 ^ 45
    + h.part.toNat * 2 ^ 46 + h.rflags * 2 ^ 47 + h.ord.toNat * 2 ^ 52) ++ leBytes 4 h.cseq ++ leBytes 4 h.off

def CollHdr.read (data : List Byte) : CollHdr :=
  let x := ofLeBytes (data.take 8)
  { grp := bits x 7 0, opc := bits x 15 8, srcm := bits x 25 16, dstm := bits x 35 26, dpos := bits x 44 36,
    cloak := x.testBit 45, part := x.testBit 46, rflags := bits x 51 47, ord := x.testBit 52,
    cseq := ofLeBytes ((data.drop 8).take 4), off := ofLeBytes ((data.drop 12).take 4) }

/-- The virtual channel of an operation (R497). -/
def collVc (opc : Nat) : Nat := if opc = 1 || opc = 2 || opc = 7 then 0 else 1

def isMove (opc : Nat) : Bool := opc = 1 || opc = 2 || opc = 7
def isF32 (opc : Nat) : Bool := opc = 5 || opc = 6

/-- Result to the members of ROOT only (R497). -/
def toRoot (opc : Nat) : Bool := opc = 3 || opc = 5

/-- The pieces of a payload: at most 4,080 bytes, whole elements (R501, log 39). -/
def pieces (unit : Nat) (bs : List Byte) : List (Nat × List Byte) :=
  let n := 4080 / unit * unit
  (List.range (ceilDiv bs.length n)).map (fun i => (n * i, (bs.drop (n * i)).take n))

/-! ### The tree and the ranks (R490, R507) -/

def Group.n (g : Group) : Nat := g.members.length

def Group.treeIndex (g : Group) (root m : Nat) : Nat := (m + g.n - root) % g.n

def Group.parent (g : Group) (root m : Nat) : Nat := ((g.treeIndex root m - 1) / 4 + root) % g.n

def Group.children (g : Group) (root m : Nat) : List Nat :=
  let q := g.treeIndex root m
  ((List.range 4).map (fun i => 4 * q + 1 + i)).filterMap (fun k => if k < g.n then some ((k + root) % g.n) else none)

/-- The path from member x up to member m, x first; empty where x is not in the branch of m. -/
def Group.path (g : Group) (root m : Nat) : Nat → Nat → List Nat
  | 0, _ => []
  | f + 1, x =>
    if x = m then [m]
    else if g.treeIndex root x = 0 then []
    else match g.path root m f (g.parent root x) with
      | [] => []
      | l => x :: l

def Group.clustersOf (g : Group) (m : Nat) : List Nat := (g.members[m]?.map Member.clusters).getD []

def Group.ranks (g : Group) : Nat := g.rbase g.n

/-- The member that holds a rank. -/
def Group.memberOf (g : Group) (r : Nat) : Nat :=
  ((List.range g.n).find? (fun m => decide (g.rbase m ≤ r) && decide (r < g.rbase (m + 1)))).getD 0

/-- F32CHUNK in elements (R396). -/
def State.f32Chunk (s : State) : Nat := match s.getF pgDev Reg.DEV_DET_CTL_F32CHUNK with | 0 => 1024 | 1 => 4096 | _ => 16384

/-- The segment length: every rank for at most 256 members, else S (R366, R367, R510). -/
def State.segLen (s : State) (g : Group) : Nat :=
  if g.n ≤ 256 then max 1 g.ranks else max 1 (g.wmin * 16384 / s.f32Chunk)

/-! ### Combining elements (R508, R509, R512, R517) -/

/-- Two elements combined: the code, flags in the layout of R155. -/
def combElem (opc width fmt a b : Nat) : Nat × Nat :=
  if opc = 3 || opc = 4 then
    let q : Quire := match width with | 128 => .q128 | 256 => .q256 | _ => .q512
    let (x, o) := q.add a b
    (x, if o then 16 else 0)
  else if isF32 opc then
    let (y, f) := (decodeFP32 a).add (decodeFP32 b)
    let (x, g) := encodeFP32 .rne y
    (x, (f.or g).word)
  else
    let f := (Fmt.ofCode fmt).getD .p8
    let va := decodeFmt f a
    let vb := decodeFmt f b
    ((encodeFmt f .rne true (if va.lt vb then vb else va)).1, if va.isNan || vb.isNan then 8 else 0)

/-- The elements of some bytes. -/
def elemsOf (width : Nat) (bs : List Byte) : List Nat :=
  let n := width / 8
  (List.range (bs.length / n)).map (fun i => ofLeBytes ((bs.drop (n * i)).take n))

/-- Two runs of elements combined: bytes, flags, index of the first sum that overflowed, number of them. -/
def combBytes (opc width fmt : Nat) (a b : List Byte) : List Byte × Nat × Option Nat × Nat :=
  let rs := ((elemsOf width a).zip (elemsOf width b)).map (fun (p : Nat × Nat) => combElem opc width fmt p.1 p.2)
  (rs.flatMap (fun r => leBytes (width / 8) r.1), (rs.map (·.2)).foldl (· ||| ·) 0, rs.findIdx? (fun r => 16 ≤ r.2),
    (rs.filter (fun r => 16 ≤ r.2)).length)

/-! ### Stop (R503) -/

/-- COLL_MISMATCH: the event, the stop state of a landing group, stop messages. -/
def State.collMismatch (s : State) (lg grp cseq srcm off : Nat) : State :=
  let s := s.raise pgDev 3 0x13 3 (leBytes 1 grp ++ leBytes 4 cseq ++ leBytes 2 srcm ++ leBytes 4 off)
  (s.enterStop lg).sendStops lg

/-- The class-5 launch of a cluster with a group and sequence number. -/
def State.collOf (s : State) (c grp cseq : Nat) : Option Coll :=
  (s.clu c).colls.find? (fun x => x.grp = grp && x.cseq = cseq)

/-- The landing group of a collective group's clusters on this package is stopped (R521). -/
def State.collStopped (s : State) (grp : Nat) : Bool :=
  (s.myClusters grp).any (fun c => s.doc c = docStopped && (s.run (s.grpOf c)).stopped)

/-- An offending chunk, against the launch that it meets (R503). -/
def Coll.clashes (x : Coll) (h : CollHdr) (n : Nat) : Bool :=
  decide (h.opc ≠ x.opc) || (isF32 x.opc && h.ord != x.ordered) || decide (x.bytes < h.off + n)

/-! ### Delivery to clusters (R502, R504, R505, R508) -/

/-- Holds a chunk for some clusters, or for whatever it is for where it has not been distributed (no clusters). -/
def State.holdEarly (s : State) (die : Nat) (cs : List Nat) (data : List Byte) : State :=
  { s with fabric.early := s.early ++ [({ die := die, clusters := cs, data := data } : EarlyRec)] }.count (pgClo die) Reg.CLO_CNT_EARLY 1

/-- A piece is taken by its launch in one cluster. -/
def State.toLaunch (s : State) (c : Nat) (h : CollHdr) (bs : List Byte) : State :=
  let k := s.clu c
  s.setClu c { k with colls := k.colls.map (fun x =>
    if x.grp = h.grp && x.cseq = h.cseq then { x with got := x.got ++ [(h.srcm, h.off, bs, h.rflags)] } else x) }

/-- A piece reaches some clusters: their launches take it, and the early store holds one copy for those whose launch has
not issued. -/
def State.toClusters (s : State) (die : Nat) (cs : List Nat) (h : CollHdr) (bs : List Byte) : State :=
  let (ready, wait) := cs.partition (fun c => (s.collOf c h.grp h.cseq).isSome)
  let s := ready.foldl (fun s c => s.toLaunch c h bs) s
  if wait.isEmpty then s else s.holdEarly die wait (h.bytes ++ bs)

/-- A piece reaches one cluster. -/
def State.toCluster (s : State) (die c : Nat) (h : CollHdr) (bs : List Byte) : State := s.toClusters die [c] h bs

/-- A piece of a result reaches this member: every member cluster takes it, and it goes on down the tree (R508). -/
def State.publish (s : State) (g : Group) (root : Nat) (h : CollHdr) (bs : List Byte) : State :=
  match s.midx g with
  | none => s
  | some me =>
    let s := s.toClusters (s.cloOf h.grp 0) (g.clustersOf me) h bs
    if toRoot h.opc then s
    else (g.children root me).foldl (fun s m =>
      s.sendChunk ((g.members[m]?.map (·.pkg)).getD 0) 1 0
        ({ h with srcm := me, dstm := m, dpos := 0, cloak := false, part := false }.bytes ++ bs)) s

/-! ### Combining points (R507 to R518) -/

/-- The item that a chunk addressed to a Cloakroom carries. -/
def itemOf (g : Group) (h : CollHdr) (bs : List Byte) (segLen : Nat) : CombIn :=
  let last := g.rbase h.srcm + h.dpos
  let x : CombIn := { grp := h.grp, cseq := h.cseq, opc := h.opc, ordered := h.ord, off := h.off, kind := 0, lo := last,
                      hi := last, flags := h.rflags, bytes := bs, since := 0 }
  if h.part then x
  else if h.ord then { x with kind := 2, lo := last / segLen * segLen }
  else { x with kind := 1, lo := h.srcm, hi := h.srcm }

/-- The delivery header of an item on its way to member `dst`. -/
def CombIn.header (x : CombIn) (g : Group) (dst : Nat) : CollHdr :=
  let m := if x.kind = 1 then x.lo else g.memberOf x.hi
  { grp := x.grp, opc := x.opc, srcm := m, dstm := dst, dpos := if x.kind = 1 then 0 else x.hi - g.rbase m, cloak := true,
    part := x.kind = 0, rflags := x.flags, ord := x.ordered, cseq := x.cseq, off := x.off }

/-- An item belongs to a reduction of this point: the chain of its segment where its ranks come before or are this
package's own, else the tree point or the root. -/
def Comb.takes (y : Comb) (base segLen : Nat) (x : CombIn) : Bool :=
  y.grp = x.grp && y.cseq = x.cseq && y.off = x.off &&
    (if y.chain then y.ordered && x.lo / segLen = y.lo / segLen && decide (x.hi ≤ y.hi) && decide (y.next ≤ x.lo) && (x.kind = 0 || decide (x.hi < base))
     else true)

/-- The reduction that an item belongs to; a chain comes before the root. -/
def combFor (ys : List Comb) (base segLen : Nat) (x : CombIn) : Option Comb :=
  match ys.find? (fun y => y.chain && y.takes base segLen x) with
  | some y => some y
  | none => ys.find? (fun y => !y.chain && y.takes base segLen x)

/-- The item may be combined now: in any order, or at its place in rank order. -/
def Comb.ready (y : Comb) (x : CombIn) : Bool := !y.ordered || decide (x.lo = y.next)

/-- Some items (kind, lo, hi) are every input of the tree point of member m: of each member below it, the partials or the sum
of a branch that holds it (R508, R516). -/
def Group.covered (g : Group) (root m : Nat) (have_ : List (Nat × Nat × Nat)) : Bool :=
  (List.range g.n).all (fun x =>
    let p := g.path root m 7 x
    p.isEmpty || (p.filter (fun k => k ≠ m)).any (fun k => have_.contains (1, k, k))
      || (List.range (g.clustersOf x).length).all (fun i => have_.contains (0, g.rbase x + i, g.rbase x + i)))

/-- Every input of the tree point of member m has arrived. -/
def Comb.full (y : Comb) (g : Group) (m : Nat) : Bool := g.covered y.root m y.have_

/-- The first logical rank by which an item is ordered (R516): a sum of a branch goes by its member. -/
def Group.itemRank (g : Group) (x : CombIn) : Nat := if x.kind = 1 then g.rbase x.lo else x.lo

/-- The running sum with one more item (R366, R508, R512). -/
def Comb.add (y : Comb) (x : CombIn) : Comb × Nat :=
  let y := { y with have_ := y.have_ ++ [(x.kind, x.lo, x.hi)], next := x.hi + 1, flags := y.flags ||| x.flags }
  match y.acc with
  | none => ({ y with acc := some x.bytes }, 0)
  | some a =>
    let (bs, f, q, n) := combBytes y.opc y.width y.fmt a x.bytes
    ({ y with acc := some bs, flags := y.flags ||| f, qidx := match y.qidx with | some i => some i | none => q.map (· + y.off * 8 / y.width) }, n)

/-- At the root of an ordered reduction, the end of a segment adds its sum to the total (R367). -/
def Comb.endSegment (y : Comb) (segLen ranks : Nat) : Comb :=
  if y.chain || !y.ordered || !(y.next % segLen = 0 || y.next = ranks) then y
  else
    match y.acc, y.total with
    | some a, none => { y with acc := none, total := some a }
    | some a, some t =>
      let (bs, f, _, _) := combBytes y.opc y.width y.fmt t a
      { y with acc := none, total := some bs, flags := y.flags ||| f }
    | none, _ => y

/-- The reduction is complete at this point. -/
def Comb.done (y : Comb) (g : Group) (me : Nat) : Bool :=
  if y.chain then decide (y.hi < y.next) else if y.ordered then decide (g.ranks ≤ y.next) else y.full g me

/-- Where the output of a chain, or of an item that passes through, goes (R510, R516): the package of the next rank, or
the combining point of ROOT at the end of a segment. -/
def chainDest (g : Group) (y : Comb) (segLen : Nat) : Nat :=
  if (y.hi + 1) % segLen = 0 || y.hi + 1 = g.ranks then y.root else g.memberOf (y.hi + 1)

/-- An item that waits for its window (R514): as many windows of a group are open as it holds slots. -/
def State.windowOpen (s : State) (d : Nat) (g : Group) (x : CombIn) : Bool :=
  let open_ := ((sget (fun _ => []) s.combs d).filter (fun y => y.grp = x.grp && !y.have_.isEmpty)).map
    (fun (y : Comb) => (y.cseq, y.off / 65536))
  open_.contains (x.cseq, x.off / 65536) || decide (open_.eraseDups.length < g.rslots)

def State.setCombIn (s : State) (d : Nat) (l : List CombIn) : State := { s with fabric.combIn := sset (fun _ => []) s.combIn d l }
def State.setCombs (s : State) (d : Nat) (l : List Comb) : State := { s with fabric.combs := sset (fun _ => []) s.combs d l }

/-- An item goes to the combining point of member `dst`, where `here` takes it on this package. -/
def State.toPoint (s : State) (g : Group) (dst : Nat) (x : CombIn) (here : State → CombIn → State) : State :=
  if s.midx g = some dst then here s x
  else s.sendChunk ((g.members[dst]?.map (·.pkg)).getD 0) 1 0 ((x.header g dst).bytes ++ x.bytes)

/-- An item waits at this package's combining point: its Cloakroom, or the endpoint list. -/
def State.waitHere (s : State) (g : Group) (x : CombIn) : State :=
  match g.clo with
  | some d =>
    let x := if s.windowOpen d g x then x else { x with since := s.now + 1 }
    s.setCombIn d (sget (fun _ => []) s.combIn d ++ [x])
  | none => { s with fabric.endIn := s.endIn ++ [x] }

/-- In endpoint mode the items of a chain pass on unchanged, in rank order (R516). -/
def State.passChain : Nat → Group → State → State
  | 0, _, s => s
  | n + 1, g, s =>
    let seg := s.segLen g
    let base := (s.midx g).elim 0 g.rbase
    let next := s.endIn.find? (fun x => match combFor s.endComb base seg x with
      | some y => y.chain && y.ready x
      | none => false)
    match next with
    | none => s
    | some x =>
      match combFor s.endComb base seg x with
      | none => s
      | some y =>
        let y' := { y with next := x.hi + 1 }
        let rest := s.endComb.erase y
        let s := { s with fabric.endIn := s.endIn.erase x, fabric.endComb := if y'.hi < y'.next then rest else rest ++ [y'] }
        passChain n g (s.toPoint g (chainDest g y seg) x (fun s x => { s with fabric.endIn := s.endIn ++ [x] }))

/-- In endpoint mode the items of the tree pass on unchanged to the parent, in rank order, once the last has come (R516). -/
def State.passTree (s : State) (g : Group) (root me : Nat) (x : CombIn) : State :=
  let same (z : CombIn) : Bool := z.grp = x.grp && z.cseq = x.cseq && z.off = x.off
  let (mine, rest) := s.endIn.partition same
  if g.covered root me (mine.map (fun z => (z.kind, z.lo, z.hi))) then
    let gone (y : Comb) : Bool := y.grp = x.grp && y.cseq = x.cseq && y.off = x.off
    let s := { s with fabric.endIn := rest, fabric.endComb := s.endComb.filter (fun y => !gone y) }
    ((List.range g.ranks).flatMap (fun r => mine.filter (fun z => g.itemRank z = r))).foldl
      (fun s z => s.toPoint g (g.parent root me) z (fun s _ => s)) s
  else s

/-- An item arrives at the combining point of this package (R508, R516): a package without slots passes on the items of its
chains, and, where it is not the root, those of the tree. -/
def State.atPoint (s : State) (g : Group) (root : Nat) (x : CombIn) : State :=
  let s := s.waitHere g x
  if g.clo.isSome then s
  else if x.ordered then s.passChain (s.endIn.length + 1) g
  else match s.midx g with
    | some me => if me = root then s else s.passTree g root me x
    | none => s

/-! ### The launch (R496 to R500) -/

/-- The fields of a class-5 body. -/
structure CollDesc where
  count : Nat
  fmt : Nat
  dist : Nat
  root : Nat
  src : Nat
  dst : Nat
  perm : Nat
  deriving DecidableEq, Repr

def Desc.coll (d : Desc) : CollDesc :=
  { count := d.f 87 64, fmt := d.f 91 88, dist := d.f 103 92, root := d.f 113 104, src := d.f 133 114, dst := d.f 153 134,
    perm := d.f 173 154 }

/-- Bits of one element, of a quire for QFULL; 0 for a reserved code. -/
def CollDesc.width (x : CollDesc) : Nat :=
  match Fmt.ofCode x.fmt with
  | some .qfull => (match x.dist % 4 with | 0 => 128 | 1 => 256 | _ => 512)
  | some f => f.width
  | none => 0

def CollDesc.bytes (x : CollDesc) : Nat := x.count * x.width / 8

/-- R497: FMT, DIST or ROOT outside the table of the operation. -/
def CollDesc.outside (x : CollDesc) (opc n : Nat) : Bool :=
  let f := Fmt.ofCode x.fmt
  let fmtOk : Bool := match opc with
    | 1 | 2 | 7 => decide (f ≠ none) && decide (f ≠ some .qfull)
    | 3 | 4 => decide (f = some .qfull)
    | 5 | 6 => decide (f = some .fp32)
    | _ => [some Fmt.p8, some .p16, some .p32, some .fp32].contains f
  let distOk : Bool := match opc with
    | 1 | 7 => true
    | 3 | 4 => decide (x.dist < 3)
    | _ => x.dist = 0
  let rootOk : Bool := if isMove opc then x.root = 0 else decide (x.root < n)
  !fmtOk || !distOk || !rootOk

/-- The sequence number of the cluster's next class-5 launch of a group (R496). -/
def State.cseqNext (s : State) (c grp lg : Nat) : Nat × Nat :=
  let n := sget (fun _ => 0) (s.clu c).collSeq grp
  (((s.run lg).idx + 1) % 2 ^ 22 * 1024 + n % 1024, n)

/-- R506: a RINGSTEP of an even flight sends from DST and receives into SRC. -/
def State.ringSwap (s : State) (opc lg : Nat) : Bool := opc = 7 && ((s.run lg).idx + 1) % 2 = 0

/-- The member table of a PERMUTE as this cluster reads it: entries that name no member are none, and set INV. An entry of
an uncorrectable word takes a free value (log 40). -/
def State.permTable (s : State) (c n perm : Nat) : List (Option Nat) × Bool :=
  let es := (List.range n).map (fun m =>
    let a := localAddr c perm + 2 * m
    if s.ueIn a 2 then Config.freeDraw (s.draw * 2 ^ 44 + 15 * 2 ^ 40 + m) % 65536 else s.readNat a 2)
  (es.map (fun v => if v < n then some v else none), es.any (fun v => decide (n ≤ v) && decide (v ≠ 0xFFFF)))

/-- Members that a move sends to and receives from (R504 to R506). -/
def State.movePeers (s : State) (c opc me n : Nat) (x : CollDesc) : Option Nat × List Nat × Bool :=
  if opc = 2 then
    let (t, inv) := s.permTable c n x.perm
    ((t.getD me none), (List.range n).filter (fun m => t.getD m none = some me), inv)
  else
    let d := signed 12 x.dist
    (some (((me : Int) + d) % (n : Int)).toNat, [(((me : Int) - d) % (n : Int)).toNat], false)

/-- The NaR or NaN code of a format under R100; the quire NaR code for QFULL (R429). -/
def spoiltCode (fmt width : Nat) : Nat :=
  match Fmt.ofCode fmt with
  | some .qfull => 2 ^ (width - 1)
  | some .int8 => 128
  | some .int4 => 8
  | some f => (encodeFmt f .rne true .nan).1
  | none => 0

/-- The payload as it is sent: elements drawn from an uncorrectable word are replaced (R429, VEC). -/
def State.collPayload (s : State) (a n width fmt : Nat) : List Byte :=
  let bs := s.readBytes 0 a n
  if !s.ueIn a n then bs
  else if width = 4 then
    bs.zipIdx.map (fun (b, i) => if s.ueIn (a + i) 1 then BitVec.ofNat 8 (17 * spoiltCode fmt 4) else b)
  else
    let w := width / 8
    (List.range (n / w)).flatMap (fun i =>
      if s.ueIn (a + w * i) w then leBytes w (spoiltCode fmt width) else (bs.drop (w * i)).take w)

/-- The combining points of a launch on this package (R508, R510, R516): one reduction for each piece, and one chain for
each segment that has ranks here. The first cluster of the launch opens them. -/
def State.openCombs (s : State) (c : Nat) (g : Group) (x : Coll) : State :=
  let me := (s.midx g).getD 0
  let base := g.rbase me
  let top := g.rbase (me + 1) - 1
  let seg := s.segLen g
  let here := match g.clo with | some d => sget (fun _ => []) s.combs d | none => s.endComb
  if isMove x.opc || here.any (fun y => y.grp = x.grp && y.cseq = x.cseq && y.cluster = (g.clustersOf me).headD c) then s
  else
    let end0 := (g.clustersOf me).headD c
    let mk (p : Nat × List Byte) (chain : Bool) (lo hi next : Nat) : Comb :=
      { grp := x.grp, cseq := x.cseq, opc := x.opc, lgrp := s.grpOf c, ordered := x.ordered && isF32 x.opc, fmt := x.fmt,
        width := x.width, root := x.root, off := p.1, len := p.2.length, chain := chain, lo := lo, hi := hi, have_ := [],
        next := next, acc := none, total := none, flags := 0, qidx := none, cluster := end0 }
    let ps := pieces (x.width / 8) (List.replicate x.bytes 0)
    let new := ps.flatMap (fun p =>
      if isF32 x.opc && x.ordered then
        ((List.range (top / seg + 1 - base / seg)).map (fun i =>
          let lo := (base / seg + i) * seg
          mk p true lo (min (lo + seg - 1) top) lo))
          ++ (if me = x.root then [mk p false 0 0 0] else [])
      else [mk p false 0 0 0])
    match g.clo with
    | some d => s.setCombs d (here ++ new)
    | none => { s with fabric.endComb := s.endComb ++ new }

/-- A chunk of VC0 or VC1 with a class-5 OPC reaches this package (R501 to R503, R508, R521). -/
def State.collChunk (s : State) (die : Nat) (data : List Byte) : State :=
  let h := CollHdr.read data
  let bs := data.drop 16
  match s.group h.grp with
  | none => s.count (pgClo (min die (s.part.xdies - 1))) Reg.CLO_CNT_DISCARD 1
  | some g =>
    let mine := s.myClusters h.grp
    if s.collStopped h.grp then s.count (pgClo (s.cloOf h.grp die)) Reg.CLO_CNT_DISCARD 1
    else if isMove h.opc then
      match mine[h.dpos]? with
      | none => s
      | some c =>
        match s.collOf c h.grp h.cseq with
        | none => s.toCluster die c h bs
        | some x => if x.clashes h bs.length then s.collMismatch (s.grpOf c) h.grp h.cseq h.srcm h.off else s.toCluster die c h bs
    else
      let known := mine.findSome? (fun c => (s.collOf c h.grp h.cseq).map (fun x => (c, x)))
      let clash := match known with | some (_, x) => x.clashes h bs.length | none => false
      let lg := match known with | some (c, _) => s.grpOf c | none => 0
      if clash then s.collMismatch lg h.grp h.cseq h.srcm h.off
      else if !h.cloak then
        match known with
        | some (_, x) => s.publish g x.root h bs
        | none => s.holdEarly die [] data
      else
        let combs := (match g.clo with | some d => sget (fun _ => []) s.combs d | none => s.endComb).filter
          (fun (y : Comb) => y.grp = h.grp && y.cseq = h.cseq)
        let x := itemOf g h bs (s.segLen g)
        match combs.head?, known with
        | some y, _ =>
          if y.opc ≠ h.opc || y.ordered != (h.ord && isF32 h.opc) then s.collMismatch y.lgrp h.grp h.cseq h.srcm h.off
          else s.atPoint g y.root x
        | none, some (_, k) => s.atPoint g k.root x
        | none, none => s.holdEarly die [] data

/-- A launch that has issued takes what the early store holds for it (R502); a record that holds its chunk for other
clusters too stays for them. -/
def State.drainEarly (s : State) (c grp cseq : Nat) : State :=
  let mine (e : EarlyRec) : Bool :=
    let h := CollHdr.read e.data
    h.grp = grp && h.cseq = cseq && (e.clusters.isEmpty || e.clusters.contains c)
  let later := s.early.filterMap (fun e =>
    if !mine e then some e
    else if (e.clusters.erase c).isEmpty then none
    else some { e with clusters := e.clusters.erase c })
  (s.early.filter mine).foldl (fun s e =>
    if e.clusters.isEmpty then s.collChunk e.die e.data
    else
      let h := CollHdr.read e.data
      match s.collOf c grp cseq with
      | some x => if x.clashes h (e.data.length - 16) then s.collMismatch (s.grpOf c) grp cseq h.srcm h.off
          else s.toLaunch c h (e.data.drop 16)
      | none => s) { s with fabric.early := later }

/-- The payload of a move goes to the cluster of the same position of member `dst`, on this package where it is the member
itself. -/
def State.sendMove (s : State) (g : Group) (me dst pos : Nat) (x : Coll) (bs : List Byte) : State :=
  (pieces (max 1 (x.width / 8)) bs).foldl (fun s (p : Nat × List Byte) =>
    let h : CollHdr := { grp := x.grp, opc := x.opc, srcm := me, dstm := dst, dpos := pos, cloak := false, part := false,
                         rflags := 0, ord := false, cseq := x.cseq, off := p.1 }
    if dst = me then s.collChunk (s.cloOf x.grp 0) (h.bytes ++ p.2)
    else s.sendChunk ((g.members[dst]?.map (·.pkg)).getD 0) 0 0 (h.bytes ++ p.2)) s

/-- The partials of a cluster go to their combining point (R508 to R511): the chain of their rank, else the point of this
member. -/
def State.sendPartials (s : State) (g : Group) (me pos : Nat) (x : Coll) (bs : List Byte) : State :=
  let r := g.rbase me + pos
  (pieces (x.width / 8) bs).foldl (fun s (p : Nat × List Byte) =>
    s.atPoint g x.root { grp := x.grp, cseq := x.cseq, opc := x.opc, ordered := x.ordered && isF32 x.opc, off := p.1,
                         kind := 0, lo := r, hi := r, flags := 0, bytes := p.2, since := 0 }) s

/-- Member index that the partials of the cluster of position `pos` of member `me` go to, for the signature (R381): its own
combining point; in endpoint mode what its chain sends on goes where `chainDest` says, and an item of the tree to the parent
(R510, R516). -/
def Group.payloadDest (g : Group) (seg me pos : Nat) (x : Coll) : Nat :=
  if g.clo.isSome then me
  else if x.ordered && isF32 x.opc then
    let next := min (min (((g.rbase me + pos) / seg + 1) * seg) (g.rbase (me + 1))) g.ranks
    if next % seg = 0 || next = g.ranks then x.root else g.memberOf next
  else if me = x.root then me else g.parent x.root me

/-- What a class-5 launch does when it issues. -/
def State.collGo (s : State) (c opc : Nat) (d : Desc) (g : Group) (me : Nat) (x : CollDesc) (src dst : Nat) (recv : Bool)
    (peer : Option Nat) (senders : List Nat) (inv : Bool) (holds : List DepRange) : State :=
  let lg := s.grpOf c
  let (cseq, n) := s.cseqNext c d.grp lg
  let bs := s.collPayload src x.bytes x.width x.fmt
  let pos := (g.clustersOf me).findIdx (fun k => k = c)
  let strict := s.flag pgDev Reg.DEV_DET_CTL_STRICT
  let involved := if isMove opc then peer.toList ++ senders else (List.range g.n)
  let k := s.clu c
  let l : Coll := { slot := d.slot, start := k.lastIssue, grp := d.grp, cseq := cseq, opc := opc, ordered := !(d.vary && isF32 opc && !strict),
                    fmt := x.fmt, width := x.width, bytes := x.bytes, root := x.root, src := src, dst := dst,
                    need := if isMove opc then x.bytes * senders.length else if recv then x.bytes else 0,
                    peers := involved.filter (fun m => decide (m ≠ me)), got := [],
                    inv := inv, vary := d.vary && opc = 2 && x.fmt = Fmt.fp32.code, last := [], qidx := none, deps := holds, seq := k.issued }
  let l := { l with ordered := if isF32 opc then l.ordered else false }
  let s := s.setClu c { k with colls := k.colls ++ [l], issued := k.issued + 1,
                               collSeq := sset (fun _ => 0) k.collSeq d.grp (n + 1) }
  let s := (s.touch src x.bytes 4).touch (localAddr c x.perm) (if opc = 2 then 2 * g.n else 0) 4
  let s := if opc = 2 && s.ueIn (localAddr c x.perm) (2 * g.n) then { s with draw := s.draw + 1 } else s
  let s := if isF32 opc && !l.ordered then s.setF pgDev Reg.DEV_DET_STAT_VARIED 1 else s
  let run := s.run lg
  let gone := l.peers.find? (fun m => run.finals.any (fun f => decide (f.2 ≤ run.idx) && some f.1 = g.members[m]?.map (·.pkg)))
  match gone with
  | some m => s.collMismatch lg d.grp cseq m 0
  | none =>
    let s := s.openCombs c g l
    let to_ := if isMove opc then peer.getD me else g.payloadDest (s.segLen g) me pos l
    let s := if isMove opc && peer.isNone then s
      else s.addUnits c (2 * l.seq + 1) ((pieces (max 1 (x.width / 8)) bs).flatMap (fun p => payloadUnits to_ p.2))
    let s := if isMove opc then (match peer with | some m => s.sendMove g me m pos l bs | none => s)
      else s.sendPartials g me pos l bs
    s.drainEarly c d.grp cseq

/-- The plan of a class-5 operation. -/
def collPlan (c opc : Nat) (s : State) (d : Desc) : Plan :=
  let x := d.coll
  let lg := s.grpOf c
  let no : Plan := { bad := true, reads := [], holds := [], free := true, go := id }
  match s.group d.grp with
  | none => no
  | some g =>
    match s.midx g with
    | none => no
    | some me =>
      let swap := s.ringSwap opc lg
      let src := localAddr c (if swap then x.dst else x.src)
      let dst := localAddr c (if swap then x.src else x.dst)
      let (peer, senders, inv) := if isMove opc then s.movePeers c opc me g.n x else (none, [], false)
      let recv := if isMove opc then !senders.isEmpty else !(toRoot opc) || me = x.root
      let end0 := g.clo.isNone && isF32 opc && me = x.root && (g.clustersOf me).head? = some c && decide (256 < g.n)
      let rd := readDep src x.bytes :: (if opc = 2 then [readDep (localAddr c x.perm) (2 * g.n)] else [])
      let wr := (if recv then [writeDep dst x.bytes] else []) ++ (if end0 then [writeDep src x.bytes] else [])
      { bad := !(g.clustersOf me).contains c || x.outside opc g.n || (isMove opc && !g.uniform)
          || (x.width = 4 && x.count % 2 = 1) || decide (1024 ≤ (s.cseqNext c d.grp lg).2) || decide (d.f 255 174 ≠ 0)
          || (!s.full && !(s.others d.grp).isEmpty)
          || !(rd ++ wr).all (depIn c),
        reads := rd, holds := wr, free := (s.clu c).colls.isEmpty,
        go := fun t => t.collGo c opc d g me x src dst recv peer senders inv wr }

/-- SHIFT (R504). -/
def execShift (c : Nat) (s : State) : Result := .next (s.tryIssue c 5 1 (collPlan c 1))

/-- PERMUTE (R370, R505). -/
def execPermute (c : Nat) (s : State) : Result := .next (s.tryIssue c 5 2 (collPlan c 2))

/-- REDUCE (R508). -/
def execReduce (c : Nat) (s : State) : Result := .next (s.tryIssue c 5 3 (collPlan c 3))

/-- ALLREDUCE (R508). -/
def execAllreduce (c : Nat) (s : State) : Result := .next (s.tryIssue c 5 4 (collPlan c 4))

/-- F32REDUCE (R366, R367, R370, R510, R511). -/
def execF32reduce (c : Nat) (s : State) : Result := .next (s.tryIssue c 5 5 (collPlan c 5))

/-- F32ALLREDUCE (R366, R367, R370, R510, R511). -/
def execF32allreduce (c : Nat) (s : State) : Result := .next (s.tryIssue c 5 6 (collPlan c 6))

/-- RINGSTEP (R506). -/
def execRingstep (c : Nat) (s : State) : Result := .next (s.tryIssue c 5 7 (collPlan c 7))

/-- ALLMAX (R509). -/
def execAllmax (c : Nat) (s : State) : Result := .next (s.tryIssue c 5 8 (collPlan c 8))

/-! ### Completion (R499, R500, R505, R512) -/

/-- The pieces of a launch in the order in which they are applied: ascending sending member, or order of arrival for the
VARY form under STRICT = 0 (R370, R505). -/
def State.collOrder (s : State) (x : Coll) : List (Nat × Nat × List Byte × Nat) :=
  if x.vary && !s.flag pgDev Reg.DEV_DET_CTL_STRICT then x.got
  else (List.range 1024).flatMap (fun m => x.got.filter (fun p => p.1 = m))

/-- What memory holds at a range after the pieces of a launch, as a list of bytes from its address, and the flags of its
additions (R505). -/
def State.collApply (s : State) (x : Coll) : List (Nat × List Byte) × Nat :=
  let ps := s.collOrder x
  if !x.vary then (ps.map (fun (p : Nat × Nat × List Byte × Nat) => (x.dst + p.2.1, p.2.2.1)), 0)
  else
    let start := s.collPayload x.dst x.bytes 32 Fmt.fp32.code
    let (bs, fl) := ps.foldl (fun (a : List Byte × Nat) (p : Nat × Nat × List Byte × Nat) =>
      let off := p.2.1
      let n := p.2.2.1.length
      let (r, f, _, _) := combBytes 5 32 Fmt.fp32.code ((a.1.drop off).take n) p.2.2.1
      (a.1.take off ++ r ++ a.1.drop (off + n), a.2 ||| f)) (start, 0)
    ([(x.dst, bs)], fl)

/-- The first element of a result that came with QOVF and is the quire NaR code (log 41). -/
def Coll.qovfIndex (x : Coll) : Option Nat :=
  if !x.got.any (fun p => p.2.2.2.testBit 4) then none
  else if x.qidx.isSome then x.qidx
  else
    let hit := x.got.filterMap (fun p =>
      if p.2.2.2.testBit 4 then
        ((elemsOf x.width p.2.2.1).findIdx? (fun v => v = 2 ^ (x.width - 1))).map (· + p.2.1 * 8 / x.width)
      else none)
    some (hit.foldl min (hit.headD 0))

/-- A chunk that cluster c sends for a launch waits for room in the retention buffer (R471, R499). -/
def State.collWaits (s : State) (c : Nat) (x : Coll) : Bool :=
  match s.group x.grp with
  | none => false
  | some g =>
    let me := (s.midx g).getD 0
    s.stalled.any (fun q =>
      let h := CollHdr.read q.2.2.2
      decide (q.2.1 < 2) && h.grp = x.grp && h.cseq = x.cseq && h.srcm = me && (g.clustersOf me)[h.dpos]? = some c)

/-- COLLECTIVE_COMPLETE (R499, R512): the launch has received every element and handed every chunk to the router. -/
def execCollectiveComplete (c : Nat) (s : State) : Result :=
  let k := s.clu c
  match k.colls.find? (fun x => decide (x.need ≤ x.received) && !s.collWaits c x) with
  | none => .next s
  | some x =>
    let (runs, fl) := s.collApply x
    let s := if x.vary && decide (0 < x.need) then s.touch x.dst x.bytes 4 else s
    let runs := runs ++ x.last.map (fun (p : Nat × List Byte) => (x.src + p.1, p.2))
    let s := runs.foldl (fun s (p : Nat × List Byte) => s.writeBytes 0 p.1 p.2) s
    let s := s.addUnits c (2 * x.seq) (storeUnits false runs)
    let rf := (x.got.map (fun p => p.2.2.2)).foldl (· ||| ·) 0
    let s := match x.qovfIndex with | some i => s.captureVec c x.slot i | none => s
    let s := s.setVecFlags c (rf ||| fl ||| (if x.inv then 8 else 0))
    let s := if x.vary && decide (0 < x.need) && !s.flag pgDev Reg.DEV_DET_CTL_STRICT then s.setF pgDev Reg.DEV_DET_STAT_VARIED 1 else s
    let k := s.clu c
    .next (s.setClu c { k with colls := k.colls.erase x, lastDone := max k.lastDone s.now })

/-! ### CLOAKROOM_COMBINE and ENDPOINT_PASS -/

/-- R513: QOVF at a combining point. -/
def State.cloQovf (s : State) (d grp cseq n : Nat) : State :=
  if n = 0 then s
  else
    let pg := pgClo d
    let s := if s.flag pg Reg.CLO_QCAP_VALID then s.setF pg Reg.CLO_QCAP_MULTI 1
      else ((s.setF pg Reg.CLO_QCAP_GRP grp).setF pg Reg.CLO_QCAP_SEQ_CSEQ cseq).setF pg Reg.CLO_QCAP_VALID 1
    let s := s.count pg Reg.CLO_CNT_QOVF n
    s.raise pg 3 0x2B 2 (leBytes 4 (s.word (regIdx pg Reg.CLO_QCAP_GRP)).toNat
      ++ leBytes 4 (s.getF pg Reg.CLO_QCAP_SEQ_CSEQ))

/-- What a complete reduction sends on (R508, R510): the result, a sum to the parent, or a sum along the chain. -/
def State.sendSum (s : State) (g : Group) (me : Nat) (y : Comb) : State :=
  let bs := (if y.ordered && !y.chain then y.total else y.acc).getD []
  let x : CombIn := { grp := y.grp, cseq := y.cseq, opc := y.opc, ordered := y.ordered, off := y.off, kind := 2, lo := y.lo,
                      hi := y.hi, flags := y.flags, bytes := bs, since := 0 }
  if y.chain then s.toPoint g (chainDest g y (s.segLen g)) x (fun s x => s.waitHere g x)
  else if me = y.root then
    s.publish g y.root { grp := y.grp, opc := y.opc, srcm := me, dstm := me, dpos := 0, cloak := false, part := false,
                         rflags := y.flags, ord := y.ordered, cseq := y.cseq, off := y.off } bs
  else s.toPoint g (g.parent y.root me) { x with kind := 1, lo := me, hi := me } (fun s _ => s)

/-- The elements of a window whose word of the Cloakroom is marked uncorrectable, with that word. The manual does not place
elements in the Cloakroom's words: `Config.place` does (log 76). -/
def State.cloakWords (s : State) (d : Nat) (y : Comb) : List (Nat × Nat) :=
  if s.errs.isEmpty then []
  else
    let w := max 1 (y.width / 8)
    (List.range (y.len / w)).filterMap (fun i =>
      let a := 8 * (Config.place 0 [d, y.grp, y.cseq, y.off + i * w] % 0xC00000)
      if sget (fun _ => 0) s.errs (cwName (6 * 4096 + d) a) = 2 then some (i, a) else none)

/-- Bytes of a window with some elements at the quire NaR code (R513), or the NaR or NaN value of a format that is no
quire. -/
def cloakBytes (opc width fmt : Nat) (bad : List Nat) (bs : List Byte) : List Byte :=
  (elemsOf width bs).zipIdx.flatMap (fun (p : Nat × Nat) =>
    leBytes (width / 8) (if bad.contains p.2 then
      (if opc = 3 || opc = 4 then 2 ^ (width - 1) else if isF32 opc then 0x7FC00000
       else (encodeFmt ((Fmt.ofCode fmt).getD .p8) .rne true .nan).1)
      else p.1))

/-- An item of a Cloakroom that can be combined now, with its reduction and its group. -/
def State.combReady (s : State) (d : Nat) (x : CombIn) : Option (CombIn × Comb × Group) :=
  match s.group x.grp with
  | none => none
  | some g =>
    match combFor (sget (fun _ => []) s.combs d) ((s.midx g).elim 0 g.rbase) (s.segLen g) x with
    | none => none
    | some y => if y.ready x && s.windowOpen d g x then some (x, y, g) else none

/-- The item that a Cloakroom serves next (R515): groups in rotation by ascending index, and within a group the first. -/
def State.cloPick (s : State) (d : Nat) : Option (CombIn × Comb × Group) :=
  let ready := (sget (fun _ => []) s.combIn d).filterMap (s.combReady d)
  let next := ready.filter (fun p => decide (sget (fun _ => 0) s.cloTurn d ≤ p.1.grp))
  let pool := if next.isEmpty then ready else next
  pool.find? (fun p => pool.all (fun q => decide (p.1.grp ≤ q.1.grp)))

/-- CLOAKROOM_COMBINE (R508 to R516): an item of a Cloakroom that can be combined is added or compared, and a complete sum
is sent on. -/
def execCloakroomCombine (d : Nat) (s : State) : Result :=
  let items := sget (fun _ => []) s.combIn d
  match s.cloPick d with
  | none => .next s
  | some (x, y, g) =>
    let me := (s.midx g).getD 0
    let (z, ovf) := y.add x
    let z := z.endSegment (s.segLen g) g.ranks
    let s := (s.setCombIn d (items.erase x)).freeItems [x]
    let s := { s with fabric.cloTurn := sset (fun _ => 0) s.cloTurn d (x.grp + 1) }
    let bad := s.cloakWords d z
    let z := if bad.isEmpty then z else { z with acc := z.acc.map (cloakBytes z.opc z.width z.fmt (bad.map (·.1))) }
    let s := (bad.map (·.2)).eraseDups.foldl (fun s w => s.foundUE (6 * 4096 + d) w 11) s
    let s := s.count (pgClo d) Reg.CLO_CNT_ADD (ceilDiv (8 * x.bytes.length) 2048)
    let s := if 0 < x.since then s.count (pgClo d) Reg.CLO_CNT_WAIT ((s.now + 1 - x.since) * 25 / 256) else s
    let s := s.cloQovf d x.grp x.cseq ovf
    let rest := (sget (fun _ => []) s.combs d).erase y
    if z.done g me then
      let s := if isF32 z.opc then s.count (pgClo d) Reg.CLO_CNT_F32
          (ceilDiv (z.off / 4 + z.len / 4) s.f32Chunk - ceilDiv (z.off / 4) s.f32Chunk) else s
      .next ((s.setCombs d rest).sendSum g me z)
    else .next (s.setCombs d (rest ++ [z]))

/-- The launch of the endpoint cluster with what its passes leave: the sum of the last segment, and the first overflow. -/
def State.setLast (s : State) (c : Nat) (z : Comb) (segmented : Bool) : State :=
  let k := s.clu c
  s.setClu c { k with colls := k.colls.map (fun x =>
    if x.grp = z.grp && x.cseq = z.cseq then
      { x with last := if segmented then x.last ++ [(z.off, z.acc.getD [])] else x.last,
               qidx := match x.qidx with | some i => some i | none => z.qidx }
    else x) }

/-- ENDPOINT_PASS (R516, R517): the endpoint cluster, its launch issued, combines the first item that can be, in passes of
8,192 bits between the passes of other launches, which they delay. DST and SRC take the sums on completion (log 42). -/
def execEndpointPass (c : Nat) (s : State) : Result :=
  let pick := s.endIn.findSome? (fun x =>
    match s.group x.grp, s.collOf c x.grp x.cseq with
    | some g, some _ =>
      match combFor s.endComb ((s.midx g).elim 0 g.rbase) (s.segLen g) x with
      | none => none
      | some y => if !y.chain && y.ready x && y.cluster = c && decide (s.midx g = some y.root) then some (x, y, g) else none
    | _, _ => none)
  match pick with
  | none => .next s
  | some (x, y, g) =>
    let me := (s.midx g).getD 0
    let (z, _) := y.add x
    let z' := z.endSegment (s.segLen g) g.ranks
    let n := ceilDiv (8 * x.bytes.length) 8192
    let s := s.count (pgVec c) Reg.VEC_CNT_ENDPT n
    let k := s.clu c
    let delay := s.cyc c n
    let s := s.setClu c { k with
      veFree := if s.now < k.veFree then k.veFree + delay else k.veFree,
      launches := k.launches.map (fun l => if l.cls = 1 || l.cls = 2 || l.cls = 4 then { l with due := l.due + delay } else l) }
    let s := { s with fabric.endIn := s.endIn.erase x, fabric.endComb := s.endComb.erase y }
    if z'.done g me then
      let s := s.setLast c z (z.ordered && decide (256 < g.n))
      .next (s.sendSum g me z')
    else .next { s with fabric.endComb := s.endComb ++ [z'] }

end Sys2Proof.Machine
end

