-- ==== Sys2Proof/Machine/Dma.lean ====
section
/-! DEFINITION. Host DMA (R532 to R537, R539, R541, R542) and BAR2 (R530, R531). -/
namespace Sys2Proof.Machine

/-! ### Channels (R532 to R536) -/

/-- Entries of the ring of channel c; its indices count modulo twice that (R532). -/
def State.dmaRing (s : State) (c : Nat) : Nat := 2 ^ s.getF pgPci (Reg.PCI_DMA_SIZE_LOG2N c)

/-- The channel may start its next descriptor (R532, R534, R536, R626). -/
def State.dmaReady (s : State) (c : Nat) : Bool :=
  decide (c < 16) && s.flag pgPci (Reg.PCI_DMA_CTL_EN c) && !s.flag pgPci (Reg.PCI_DMA_STAT_HALTED c)
    && !s.dma.any (fun p => p.1 = c) && !s.warnLow
    && decide (s.getF pgPci (Reg.PCI_DMA_HEAD_IDX c) ≠ s.getF pgPci (Reg.PCI_DMA_TAIL_IDX c) % (2 * s.dmaRing c))

/-- R536, DESC. -/
def dmaDescBad (d : DmaDesc) : Bool :=
  decide (2 < d.op) || d.resv || decide (d.caddr % 16 ≠ 0) || d.len = 0 || decide (2 ^ 32 ≤ d.len)
    || (d.op = 2 && decide (1048576 < d.len)) || (decide (d.op ≠ 2) && decide (2 ^ 48 ≤ d.daddr))

/-- Stacks that a range of HBM addresses touches; none where it leaves them. -/
def hbmStacks (a n : Nat) : Option (List Nat) :=
  if a + n ≤ 12 * stackSize then some ((List.range 12).filter (fun x => decide (a < (x + 1) * stackSize) && decide (x * stackSize < a + n)))
  else none

/-- R536: DADDR, in Foyer service for every HBM range (R612); CLUSTER for the memory of a running cluster; else 0. -/
def State.dmaRange (s : State) (a n : Nat) : Nat :=
  match hbmStacks a n with
  | some xs => if !s.full || xs.any (fun x => s.stackGone x || !s.flag (pgMem x) Reg.MEM_STAT_FILLED) then 2 else 0
  | none =>
    let first := (a - cluBase) / 0x800000
    let last := (a + n - 1 - cluBase) / 0x800000
    let cs := (List.range (last + 1 - first)).map (fun i => first + i)
    let inside := decide (cluBase ≤ a) && decide (last < 512) && (cs.all (fun c =>
      decide (max a (cluBase + c * 0x800000) + (min (a + n) (cluBase + (c + 1) * 0x800000) - max a (cluBase + c * 0x800000))
        ≤ cluBase + c * 0x800000 + 0x500000)))
    if !inside then 2 else if cs.any s.running then 7 else 0

/-- The source lies wholly within the sealed window (R537). -/
def State.inSealWindow (s : State) (a n : Nat) : Bool :=
  let lo := 65536 * s.getF pgPci Reg.PCI_SEALWIN_FIRST
  decide (lo ≤ a) && decide (a + n ≤ lo + 65536 * s.getF pgPci Reg.PCI_SEALWIN_PAGES) && s.plain a n

/-- The status with which a transfer ends, apart from QFULL, in the order DESC, DADDR, CLUSTER, SEALED, HOST, UE (log 48). -/
def State.dmaStatus (s : State) (d : DmaDesc) (hostOk : Bool) : Nat :=
  if dmaDescBad d then 6
  else if d.op = 2 then (if !s.full then 2 else if hostOk then 0 else 3)
  else
    let r := s.dmaRange d.daddr d.len
    if r ≠ 0 then r
    else if d.op = 1 then
      if s.flag pgSec Reg.SEC_STAT_SEALED && !s.inSealWindow d.daddr d.len then 4
      else if s.ueIn d.daddr d.len then 1 else 0
    else if hostOk then 0 else 3

/-- The destination of a failed transfer: any mix of old and new bytes (R536; log 48). -/
def State.mixWrite (s : State) (a : Nat) (bs : List Byte) : State :=
  let (v, t) := s.drawFree
  bs.zipIdx.foldl (fun t (b, i) =>
    let ok := match addrKind s.part (a + i) with | .hbm _ _ | .ws _ _ | .ab _ _ => true | _ => false
    if ok && (Config.freeDraw (v * 2 ^ 32 + i)) % 2 = 1 then t.writeBytes 0 (a + i) [b] else t) t

/-- Channel c starts a descriptor: the data moves, and the record follows (R534, R535). -/
def State.dmaStart (s : State) (c : Nat) (d : DmaDesc) (hostOk : Bool) (data : List Byte) : State :=
  let bs := (data ++ List.replicate (d.len - data.length) 0).take d.len
  let st := s.dmaStatus d hostOk
  let go (s : State) (st : Nat) (held : Bool) : State :=
    { s.setF pgPci (Reg.PCI_DMA_STAT_BUSY c) 1 with plat.dma := sput s.dma c { desc := d, status := st, held := held } }
  match d.op, st with
  | 0, 0 => go (s.writeBytes 0 d.daddr bs) 0 false
  | 0, 6 => go s 6 false
  | 0, _ => go (s.mixWrite d.daddr bs) st false
  | 1, 0 => go ((s.touch d.daddr d.len 8).emit (.hostWrite d.haddr (s.readBytes 0 d.daddr d.len))) 0 false
  | 1, 1 => go (s.touch d.daddr d.len 8) 1 false
  | 2, 0 =>
    let n := s.logHeld.length
    let (t, refused) := s.arrive d.q 0 bs none (some c)
    if refused then go (t.count pgPci Reg.PCI_CNT_QFULL 1) 5 false else go t 0 (decide (n < t.logHeld.length))
  | _, _ => go s st false

/-- DMA_H2D (R534 to R536). -/
def execDmaH2d (c : Nat) (d : DmaDesc) (hostOk : Bool) (data : List Byte) (s : State) : Result :=
  if s.dmaReady c then .next (s.dmaStart c d hostOk data) else .next s

/-- DMA_D2H (R534 to R537). -/
def execDmaD2h (c : Nat) (d : DmaDesc) (s : State) : Result :=
  if s.dmaReady c then .next (s.dmaStart c d true []) else .next s

/-- DMA_QPUSH (R538, R539). -/
def execDmaQpush (c : Nat) (d : DmaDesc) (hostOk : Bool) (data : List Byte) (s : State) : Result :=
  if s.dmaReady c then .next (s.dmaStart c d hostOk data) else .next s

/-- DMA_COMPLETION (R535, R536, R541, R542): record, then head, then halt or interrupt. -/
def execDmaCompletion (c : Nat) (s : State) : Result :=
  match s.dma.find? (fun p => p.1 = c) with
  | none => .next s
  | some (_, x) =>
    if x.held then .next s
    else
      let head := s.getF pgPci (Reg.PCI_DMA_HEAD_IDX c)
      let n := s.dmaRing c
      let idx := head % n
      let rec_ := leBytes 8 x.desc.ctag ++ leBytes 4 (if x.status = 0 then x.desc.len else 0) ++ leBytes 1 x.status
        ++ leBytes 1 c ++ leBytes 2 idx
      let s := { s.emit (.hostWrite x.desc.caddr rec_) with plat.dma := sdel s.dma c }
      let s := s.setF pgPci (Reg.PCI_DMA_HEAD_IDX c) ((head + 1) % (2 * n))
      let s := (s.setF pgPci (Reg.PCI_DMA_STAT_BUSY c) 0).setF pgPci (Reg.PCI_DMA_STAT_LAST c) x.status
      let halt := decide (x.status ≠ 0) && decide (x.status ≠ 5)
      let s := if halt then (s.setF pgPci (Reg.PCI_DMA_STAT_HALTED c) 1).raise pgPci 0 0x2F 3
          (leBytes 1 c ++ leBytes 2 idx ++ leBytes 1 x.status) else s
      .next (if x.desc.irq || halt then s.msix c else s)

/-- PCI_DMA_RESUME: PCI_DMA_CTL[c], offset 0x210 + 0x20 c of the PCI page, with RESUME (R536). -/
def execPciDmaResume (c val : Nat) (s : State) : Result :=
  let s := s.writeReg pgPci (0x210 + 32 * c) val true
  if val.testBit 1 && decide (c < 16) && s.reaches pgPci then .next (s.setF pgPci (Reg.PCI_DMA_STAT_HALTED c) 0) else .next s

/-! ### BAR2 (R530, R531) -/

/-- BAR2_ACCESS (R429, R530, R531): a read returns the data through key slot 0; a refused read is Unsupported Request, a
refused write is dropped. -/
def execBar2Access (addr len : Nat) (write : Option (List Byte)) (s : State) : Result :=
  let ok := !s.flag pgSec Reg.SEC_STAT_SEALED && decide (0 < len) && decide (addr % 4096 + len ≤ 4096)
    && decide (addr + len ≤ 2 ^ s.bar2Log2)
    && (match hbmStacks addr len with
      | some xs => s.full && xs.all (fun x => !s.stackGone x && s.flag (pgMem x) Reg.MEM_STAT_FILLED)
      | none => false)
  match write with
  | some bs =>
    if ok then .next (s.writeBytes 0 addr ((bs ++ List.replicate (len - bs.length) 0).take len))
    else .next (s.count pgPci Reg.PCI_CNT_UR 1)
  | none =>
    if ok then .next ((s.touch addr len 8).emit (.hostRead (s.readBytes 0 addr len)))
    else .next ((s.count pgPci Reg.PCI_CNT_UR 1).emit .unsupported)

end Sys2Proof.Machine
end

