-- ==== Sys2Proof/Machine/Ethernet.lean ====
section
/-! DEFINITION. The Ethernet ports, the host frame rings, Accession (R545 to R553, R581 to R583) and session-cache transfers
(R554 to R559). -/
namespace Sys2Proof.Machine

/-! ### Accession messages (R549 to R551) -/

/-- The header of an outgoing message (R549). -/
def accHeader (type sid seq len epoch : Nat) : List Byte :=
  leBytes 1 1 ++ leBytes 1 type ++ leBytes 2 0 ++ leBytes 4 sid ++ leBytes 8 seq ++ leBytes 4 len ++ leBytes 4 epoch ++ leBytes 8 0

/-- The session of a SID (R550). -/
def State.accSession (s : State) (sid : Nat) : Option AccSess := s.accSess.find? (fun e => e.sid = sid)

def State.setAcc (s : State) (x : AccSess) : State :=
  { s with inq.accSess := s.accSess.map (fun e => if e.sid = x.sid then x else e) }

/-- TYPEs that an entry permits: a peer's XFER, XACK and CLOSE, a user's REQUEST, RESPONSE and CLOSE (R582). -/
def AccSess.permits (x : AccSess) (type : Nat) : Bool :=
  if x.peer then decide (4 ≤ type) && decide (type ≤ 6) else type = 2 || type = 3 || type = 6

/-- Sends one encrypted message of a session by port e (R550, R551). -/
def State.accSend (s : State) (e : Nat) (x : AccSess) (type : Nat) (plain : List Byte) : State :=
  let h := accHeader type x.sid x.txSeq plain.length x.epoch
  let ct := gcm x.secret 1 x.txSeq plain
  (s.setAcc { x with txSeq := x.txSeq + 1 }).emit (.accession e x.ip x.port (h ++ ct ++ gcmTag x.secret 1 x.txSeq (h ++ ct)))

/-- Reads the header of a datagram; none where it is no whole message of version 1 (R549). -/
def parseAcc (e ip port : Nat) (bs : List Byte) : Option AccMsg :=
  let at_ (o n : Nat) : Nat := ofLeBytes ((bs.drop o).take n)
  let len := at_ 16 4
  let type := at_ 1 1
  let ok := at_ 0 1 = 1 && decide (1 ≤ type) && decide (type ≤ 6) && at_ 2 2 = 0 && at_ 24 8 = 0
    && decide (bs.length = 48 + len) && decide (len ≤ if type = 4 then 8200 else 8192)
  if ok then some { e := e, type := type, sid := at_ 4 4, seq := at_ 8 8, epoch := at_ 20 4, ip := ip, port := port, bytes := bs }
  else none

/-- The encrypted part of a message, and its plaintext under the keys of its session. -/
def AccMsg.text (m : AccMsg) : List Byte := (m.bytes.drop 32).take (m.bytes.length - 48)
def AccMsg.plain (m : AccMsg) (x : AccSess) : List Byte := gcm x.secret 0 m.seq m.text

/-- The first waiting message of a TYPE at port e. -/
def State.accFirst (s : State) (e type : Nat) : Option AccMsg := s.accIn.find? (fun m => m.e = e && m.type = type)

/-- R551: checks a message. The session with the message's SEQ marked as accepted, or none. -/
def State.accAccept (s : State) (m : AccMsg) (tagOk : Bool) : State × Option AccSess :=
  let s := { s with inq.accIn := s.accIn.erase m }
  match s.accSession m.sid with
  | none => (s.count (pgEth m.e) Reg.ETH_CNT_ACCBAD 1, none)
  | some x =>
    if x.epoch ≠ m.epoch || !x.permits m.type || !tagOk then (s.count (pgEth m.e) Reg.ETH_CNT_ACCBAD 1, none)
    else if decide (m.seq + 65 ≤ x.top) || x.window.contains m.seq then (s.count (pgEth m.e) Reg.ETH_CNT_ACCREPLAY 1, none)
    else
      let top := max x.top (m.seq + 1)
      let y := { x with top := top, window := (m.seq :: x.window).filter (fun q => decide (top < q + 65)) }
      ((s.setAcc y).count (pgEth m.e) Reg.ETH_CNT_ACC 1, some y)

/-! ### Frames (R545 to R548) -/

/-- ETH_LINK_STATE_CHANGE (R545, R561). -/
def execEthLinkStateChange (e : Nat) (up : Bool) (s : State) : Result :=
  .next (s.setF (pgEth e) Reg.ETH_STAT_UP (up && s.flag (pgEth e) Reg.ETH_CFG_EN).toNat)

/-- Entries of host ring r (0 receive, 1 transmit); its indices count modulo twice that, as those of R532 do (log 55). -/
def State.hostRing (s : State) (e r : Nat) : Nat := 2 ^ s.getF (pgEth e) (Reg.ETH_HR_SIZE_LOG2N r)

/-- The descriptor at the head of host ring r; none where the host has given none. -/
def State.hostDesc (s : State) (e r : Nat) : Option Nat :=
  let head := s.getF (pgEth e) (Reg.ETH_HR_HEAD_IDX r)
  let n := s.hostRing e r
  if head = s.getF (pgEth e) (Reg.ETH_HR_TAIL_IDX r) % (2 * n) then none
  else some (s.getF (pgEth e) (Reg.ETH_HR_LO_ADDR r) * 16 + s.getF (pgEth e) (Reg.ETH_HR_HI_ADDR r) * 2 ^ 32 + 16 * (head % n))

def State.hostAdvance (s : State) (e r : Nat) : State :=
  s.setF (pgEth e) (Reg.ETH_HR_HEAD_IDX r) ((s.getF (pgEth e) (Reg.ETH_HR_HEAD_IDX r) + 1) % (2 * s.hostRing e r))

def State.ethIp (s : State) (e : Nat) : Nat :=
  ((List.range 4).map (fun i => s.getF (pgEth e) (Reg.ETH_IP_ADDR i) * 2 ^ (32 * i))).foldl (· + ·) 0

/-- A frame for the host receive ring (R547, R548), with its interrupt (R541, R542, log 55). -/
def State.hostFrame (s : State) (e : Nat) (f : EthFrame) : State :=
  match s.hostDesc e 0 with
  | none => s.count (pgEth e) Reg.ETH_CNT_RXDROP 1
  | some d =>
    if f.hlen < f.bytes.length then s.count (pgEth e) Reg.ETH_CNT_RXDROP 1
    else (((s.emit (.hostWrite f.hbuf f.bytes)).emit (.hostWrite (d + 10) (leBytes 2 f.bytes.length ++ leBytes 1 1))).hostAdvance e 0).msix 18

/-- A frame is carried: at most 9,216 bytes with its FCS of 4 (R545). -/
def frameCarried (bytes : List Byte) : Bool := decide (bytes.length ≤ 9212)

/-- ETH_FRAME_RECEIVE (R545, R547, R548, R551). -/
def execEthFrameReceive (e : Nat) (f : EthFrame) (s : State) : Result :=
  let pg := pgEth e
  if !s.flag pg Reg.ETH_CFG_EN then .next s
  else if !f.fcsOk then .next (s.count pg Reg.ETH_CNT_FCS 1)
  else if !frameCarried f.bytes then .next s
  else
    match f.udp with
    | none => .next (s.hostFrame e f)
    | some u =>
      if u.dstPort ≠ s.getF pg Reg.ETH_CFG_UDPPORT || u.dstIp ≠ s.ethIp e then .next (s.hostFrame e f)
      else match parseAcc e u.srcIp u.srcPort u.payload with
        | none => .next (s.count pg Reg.ETH_CNT_ACCBAD 1)
        | some m => .next { s with inq.accIn := s.accIn ++ [m] }

/-- ETH_FRAME_TRANSMIT (R541, R545, R548): the frame that the descriptor at the head of the transmit ring names; one that is too
long is not carried, and its descriptor is done (log 55). -/
def execEthFrameTransmit (e : Nat) (frame : List Byte) (s : State) : Result :=
  match s.hostDesc e 1 with
  | none => .next s
  | some d =>
    if !s.flag (pgEth e) Reg.ETH_CFG_EN then .next s
    else .next (((((if frameCarried frame then s.emit (.frame e frame) else s)).emit (.hostWrite (d + 12) (leBytes 1 1))).hostAdvance e 1).msix 19)

/-! ### HELLO, REQUEST, CLOSE (R552, R581 to R583) -/

/-- A SID for a new session: not zero and not in use; which one is free. -/
def State.newSid (s : State) (v : Nat) : Nat :=
  let start := v % (2 ^ 32 - 1)
  let cand := (List.range 1025).map (fun i => 1 + (start + i) % (2 ^ 32 - 1))
  (cand.find? (fun x => !s.accSess.any (fun e => e.sid = x))).getD 1

/-- R582, R583, R595: the Curator admits a HELLO. -/
def State.helloOk (s : State) (m : AccMsg) (role : Nat) (h : HelloIn) : Bool :=
  let owner := (s.cur.owner.map (·.ownerId)).getD (leBytes 16 0)
  let peerOk := h.reportOk && h.reportOwner == owner && (!s.sealed || (h.reportSealed && !h.reportSealBroken))
  h.complete && s.flag pgSec Reg.SEC_HELLO_CTL_EN && !(s.sealed && s.getF pgSec Reg.SEC_STAT_SEAL = 2)
    && (role = 0 || (role = 1 && peerOk)) && !s.cur.entropyBad && !s.cur.replacing && !s.flag pgSec Reg.SEC_STAT_RECOVERY
    && (if m.sid = 0 then decide (s.accSess.length < 1024) else (s.accSession m.sid).isSome)

/-- HELLO (R581 to R583): fragments of one source make one HELLO; the Curator fills a session entry and replies. -/
def execHello (e : Nat) (h : HelloIn) (s : State) : Result :=
  match s.accFirst e 1 with
  | none => .next s
  | some m =>
    let s := { s with inq.accIn := s.accIn.filter (fun x => !(x.e = e && x.type = 1 && x.ip = m.ip && x.port = m.port)) }
    let role := ofLeBytes ((m.text.drop 2).take 1)
    if !s.helloOk m role h then .next (s.count pgSec Reg.SEC_CNT_HELLOBAD 1)
    else
      let (_, s) := s.drawEntropy
      let secret := s.cur.draws
      let (v, s) := s.drawFree
      let old := s.accSession m.sid
      let x : AccSess :=
        { sid := if m.sid = 0 then s.newSid v else m.sid, epoch := (old.map (fun (y : AccSess) => y.epoch + 1)).getD 1,
          secret := secret, queue := (s.cur.cfg.map (·.intakeQ)).getD 0, peer := role = 1, ip := m.ip, port := m.port,
          top := 0, window := [], txSeq := 0 }
      let s := { s with inq.accSess := x :: s.accSess.filter (fun y => y.sid ≠ x.sid) }
      let plain := leBytes 1 0 ++ leBytes 1 1 ++ leBytes 1 role ++ cryptoBytes 42 32 [secret]
        ++ cryptoBytes 43 48 (secret :: m.text.map (·.toNat))
      let msg := accHeader 1 x.sid 0 plain.length x.epoch ++ plain ++ cryptoBytes 44 16 (plain.map (·.toNat))
      .next (((s.count (pgEth e) Reg.ETH_CNT_ACC 1).count pgSec Reg.SEC_CNT_HELLO 1).emit (.accession e x.ip x.port msg))

/-- REQUEST (R552, R612). -/
def execRequest (e : Nat) (tagOk : Bool) (s : State) : Result :=
  match s.accFirst e 2 with
  | none => .next s
  | some m =>
    if !s.full then .next ({ s with inq.accIn := s.accIn.erase m }.count (pgEth e) Reg.ETH_CNT_QFULL 1)
    else match s.accAccept m tagOk with
      | (s, none) => .next s
      | (s, some x) =>
        let (s, refused) := s.arrive x.queue (1 + e) m.bytes (some (m.sid, m.epoch, m.seq)) none
        .next (if refused then s.count (pgEth e) Reg.ETH_CNT_QFULL 1 else s)

/-- CLOSE (R583): the entry's keys and epoch secret go. -/
def execClose (e : Nat) (tagOk : Bool) (s : State) : Result :=
  match s.accFirst e 6 with
  | none => .next s
  | some m => match s.accAccept m tagOk with
    | (s, none) => .next s
    | (s, some x) => .next { s with inq.accSess := s.accSess.filter (fun y => y.sid ≠ x.sid) }

/-! ### The egress ring (R553) -/

/-- One entry after another from ETH_EGR_HEAD on, at most `n`. An entry whose SID is absent or whose LEN exceeds 8,192 is
discarded and passed over, READY cleared (log 56). -/
def State.egress (e : Nat) : Nat → State → State
  | 0, s => s
  | n + 1, s =>
    let base := 65536 * s.getF (pgEth e) Reg.ETH_EGR_CFG_PAGE
    let size := 65536 * s.getF (pgEth e) Reg.ETH_EGR_SIZE_PAGES
    let off := s.getF (pgEth e) Reg.ETH_EGR_HEAD_OFF
    let h := s.ringRead base size off 32
    let sid := ofLeBytes (h.take 4)
    let len := ofLeBytes ((h.drop 4).take 4)
    if !(ofLeBytes ((h.drop 8).take 1)).testBit 0 then s
    else
      let s1 := match s.accSession sid with
        | some x =>
          if 8192 < len || !x.permits 3 then s.count (pgEth e) Reg.ETH_CNT_ACCBAD 1
          else s.accSend e x 3 (s.ringRead base size ((off + 32) % size) len)
        | none => s.count (pgEth e) Reg.ETH_CNT_ACCBAD 1
      let word := (ofLeBytes ((h.drop 8).take 1)) / 2 * 2
      let s2 := s1.ringWrite base size ((off + 8) % size) (leBytes 1 word)
      State.egress e n (s2.setF (pgEth e) Reg.ETH_EGR_HEAD_OFF ((off + 32 + (len + 31) / 32 * 32) % size))

/-- The egress scan of both ports at a landing of group g. -/
def State.egressAt (s : State) (g : Nat) : State :=
  [0, 1].foldl (fun s e =>
    let size := 65536 * s.getF (pgEth e) Reg.ETH_EGR_SIZE_PAGES
    if s.getF (pgEth e) Reg.ETH_CFG_EGRGRP = g && s.flag (pgEth e) Reg.ETH_CFG_EN && decide (size ≠ 0) then s.egress e (size / 32)
    else s) s

/-! ### Session-cache transfers (R554 to R559) -/

/-- One item of the stream (R555); a TRANSIT span is sent as DISPLAY. -/
def State.xferItem (s : State) (r : SessRec) (t k : Nat) : List Byte :=
  let e := s.span r t k
  let tier := if e.tier = tierTransit then tierDisplay else e.tier
  let h := leBytes 16 (t + k * 2 ^ 10 + tier * 2 ^ 32 + e.fill * 2 ^ 34)
  if tier = tierEmpty then []
  else if tier = tierReserve then
    h ++ s.readBytes r.kslot (e.p0 * 65536) 65536 ++ s.readBytes r.kslot (e.p1 * 65536 + 4096 * e.sslot) 4096
  else h ++ (List.range r.dpages).flatMap (fun i => s.readBytes r.kslot (e.page i * 65536) 65536)

/-- The whole stream of session n (R555). -/
def State.xferStream (s : State) (n : Nat) : List Byte :=
  let r := s.sess n
  s.readBytes 0 (s.sessBase + 64 * n) 64 ++ r.spans.flatMap (fun (t, k) => s.xferItem r t k)

/-- An uncorrectable word lies in what the stream reads. -/
def State.xferUE (s : State) (n : Nat) : Bool :=
  let r := s.sess n
  !s.errs.isEmpty && (s.ueIn (s.sessBase + 64 * n) 64 || r.spans.any (fun (t, k) =>
    let e := s.span r t k
    s.ueIn (r.spanAddr t k) 16 || (e.tier = tierReserve && (s.ueIn (e.p0 * 65536) 65536 || s.ueIn (e.p1 * 65536 + 4096 * e.sslot) 4096))
      || ((e.tier = tierDisplay || e.tier = tierTransit) && (List.range r.dpages).any (fun i => s.ueIn (e.page i * 65536) 65536))))

/-- A transfer ends in failure (R559). The event carries RX as the register reads. -/
def State.xferFail (s : State) (xnum why : Nat) : State :=
  let s := (s.setF pgDev Reg.DEV_XFER_STAT_FAIL 1).setF pgDev Reg.DEV_XFER_STAT_WHY why
  s.raise pgDev 15 0x1F 2 (leBytes 2 xnum ++ leBytes 1 (s.getF pgDev Reg.DEV_XFER_STAT_RX) ++ leBytes 1 why)

def State.xferDone (s : State) (xnum bytes : Nat) : State :=
  let s := ((s.setF pgDev Reg.DEV_XFER_STAT_DONE 1).setF pgDev Reg.DEV_XFER_STAT_WHY 0).setF pgDev Reg.DEV_XFER_DONEB_KIB (bytes / 1024)
  s.raise pgDev 14 0x1E 0 (leBytes 2 xnum ++ leBytes 1 (s.getF pgDev Reg.DEV_XFER_STAT_RX) ++ leBytes 4 (bytes / 1024))

/-- The outgoing transfer fails. -/
def State.xferOutFail (s : State) (why : Nat) : State :=
  match s.xferOut with
  | none => s
  | some x => ({ s with arch.xferOut := none }.setF pgDev Reg.DEV_XFER_STAT_BUSY 0).xferFail x.xnum why

/-- The incoming transfer fails; the destination session keeps the spans written so far (R556). -/
def State.xferInFail (s : State) (why : Nat) : State :=
  match s.xferIn with
  | none => s
  | some x => ({ s with arch.xferIn := none }.xferFail x.xnum why).setF pgDev Reg.DEV_XFER_STAT_RX 0

/-- Sends XFER messages of an Accession transfer from the byte `sent` on, while fewer than 512 are unacknowledged (R558). -/
def State.xferPump : Nat → State → State
  | 0, s => s
  | n + 1, s =>
    match s.xferOut with
    | none => s
    | some x =>
      if x.path = 0 || x.stream.length ≤ x.sent || decide (512 * 8192 ≤ x.sent - x.acked) then s
      else match s.accSession x.dest with
        | none => s.xferOutFail 8
        | some a =>
          let part := (x.stream.drop x.sent).take 8192
          let s := s.accSend (x.path - 1) a 4 (leBytes 8 x.sent ++ part)
          let s := { s with arch.xferOut := some { x with sent := x.sent + part.length } }
          State.xferPump n (s.setF pgDev Reg.DEV_XFER_DONEB_KIB ((x.sent + part.length) / 1024))

/-- XFER_START: DEV_XFER_CTL, offset 0x1A0 of the DEV page, with GO (R554, R555, R557, R559). Reasons are judged in the
order of their codes; a GO that fails at once starts no numbered transfer (log 52). -/
def execXferStart (val : Nat) (s : State) : Result :=
  let s := s.writeReg pgDev 0x1A0 val true
  if !val.testBit 31 || !s.reaches pgDev then .next s
  else
    let n := s.getF pgDev Reg.DEV_XFER_CTL_SESS
    let path := s.getF pgDev Reg.DEV_XFER_CTL_PATH
    let dest := s.getF pgDev Reg.DEV_XFER_DEST_ID
    let num := s.getF pgDev Reg.DEV_XFER_STAT_XNUM
    let permit := path = 0 || (decide (path < 3) && (match s.accSession dest with | some a => a.peer | none => false))
    if s.xferOut.isSome then .next (s.xferFail num 1)
    else if (s.sess n).state ≠ sessActive then .next (s.xferFail num 2)
    else if s.xferUE n then .next (s.xferFail num 7)
    else if !permit then .next (s.xferFail num 8)
    else
      let num := (num + 1) % 65536
      let stream := s.xferStream n
      let s := (s.setF pgDev Reg.DEV_XFER_STAT_XNUM num).setF pgDev Reg.DEV_XFER_STAT_BUSY 1
      let x : XferOut := { path := path, dest := dest, xnum := num, stream := stream, sent := 0, acked := 0, resends := 0,
                           progressAt := s.now }
      if path = 0 then
        let s := (pieces 1 stream).zipIdx.foldl (fun s (p, i) =>
          let h : CollHdr := { grp := 0, opc := 0, srcm := 0, dstm := 0, dpos := 0, cloak := false, part := false, rflags := 0,
                               ord := false, cseq := num, off := i }
          s.sendChunk (dest % 4096) 3 0 (h.bytes ++ p.2)) s
        let s := s.setF pgDev Reg.DEV_XFER_DONEB_KIB (stream.length / 1024)
        .next { s with arch.xferOut := some { x with sent := stream.length } }
      else .next ({ s with arch.xferOut := some x }.xferPump 512)

/-- Where a transfer may be received: the armed session, ACTIVE with LEN 0 (R556). -/
def State.xferArmed (s : State) : Option Nat :=
  let n := s.getF pgDev Reg.DEV_XFER_ARM_SESS
  if s.flag pgDev Reg.DEV_XFER_ARM_EN && (s.sess n).state = sessActive && (s.sess n).len = 0 then some n else none

/-- A scale slot of the session for a Reserve span that arrives: as R415 gives them, by R413. -/
def State.scaleSlot (s : State) (n : Nat) : Option (Nat × Nat × State) :=
  let r := s.sess n
  if r.scnext < 16 then some (r.scpg, r.scnext, s.setSess n { r with scnext := r.scnext + 1 })
  else (s.grant false).map (fun (p, t) => (p, 0, t.setSess n { r with scpg := p, scnext := 1 }))

/-- Writes one item into the destination session; a failure code where it cannot (R556, R559). -/
def State.xferPlace (s : State) (n t k tier fill : Nat) (data : List Byte) : Nat × State :=
  let r := s.sess n
  if r.ns ≤ k || r.nstream < t || (s.span r t k).tier ≠ tierEmpty then (4, s)
  else if tier = tierReserve then
    match s.grant false with
    | none => (5, s)
    | some (p, s1) => match s1.scaleSlot n with
      | none => (5, s)
      | some (q, sl, s2) =>
        let s3 := (s2.writeBytes r.kslot (p * 65536) (data.take 65536)).writeBytes r.kslot (q * 65536 + 4096 * sl) (data.drop 65536)
        (0, s3.setSpan r t k { p0 := p, p1 := q, p2 := 0, p3 := 0, tier := tierReserve, sslot := sl, fill := fill })
  else
    match s.grantN false r.dpages with
    | none => (5, s)
    | some (ps, s1) =>
      let s2 := ps.zipIdx.foldl (fun s (p, i) => s.writeBytes r.kslot (p * 65536) ((data.drop (65536 * i)).take 65536)) s1
      (0, s2.setSpan r t k { p0 := ps.getD 0 0, p1 := ps.getD 1 0, p2 := ps.getD 2 0, p3 := ps.getD 3 0, tier := tierDisplay,
                             sslot := 0, fill := fill })

/-- Takes the source record and the items that have arrived whole. -/
def State.xferParse : Nat → State → State
  | 0, s => s
  | f + 1, s =>
    match s.xferIn with
    | none => s
    | some x =>
      let r := s.sess x.sess
      match x.len with
      | none =>
        if x.buf.length < 64 then s
        else
          let w := ofLeBytes (x.buf.take 64)
          if bits w 11 10 ≠ r.dsel || bits w 12 12 ≠ r.dfmt || bits w 23 14 ≠ r.nstream || bits w 68 46 ≠ r.maxpos then s.xferInFail 4
          else State.xferParse f { s with arch.xferIn := some { x with len := some (bits w 91 69), buf := x.buf.drop 64 } }
      | some _ =>
        if x.buf.length < 16 then s
        else
          let w := ofLeBytes (x.buf.take 16)
          let tier := bits w 33 32
          let size := if tier = tierReserve then 65536 + 4096 else r.dpages * 65536
          if x.buf.length < 16 + size then s
          else
            match s.xferPlace x.sess (bits w 9 0) (bits w 31 10) tier (bits w 45 34) ((x.buf.drop 16).take size) with
            | (0, t) => State.xferParse f { t with arch.xferIn := some { x with buf := x.buf.drop (16 + size) } }
            | (why, t) => t.xferInFail why

/-- Stream bytes in order. -/
def State.xferFeed (s : State) (bs : List Byte) : State :=
  match s.xferIn with
  | none => s
  | some x =>
    let s := { s with arch.xferIn := some { x with buf := x.buf ++ bs, got := x.got + bs.length } }
    State.xferParse (bs.length + 2) (s.setF pgDev Reg.DEV_XFER_DONEB_KIB ((x.got + bs.length) / 1024))

/-- The first bytes of a stream reach this package (R556, R559). -/
def State.xferBegin (s : State) (path src xnum : Nat) : State :=
  if s.xferIn.isSome then s.xferFail xnum 1
  else
    let s := s.setF pgDev Reg.DEV_XFER_STAT_RX 1
    let x : XferIn := { sess := (s.xferArmed).getD 0, xnum := xnum, path := path, src := src, len := none, got := 0, buf := [], unacked := 0 }
    let t := { s with arch.xferIn := some x }
    if s.xferArmed.isNone then t.xferInFail 3 else t

/-- A chunk of a transfer over Efurn (R557). -/
def State.xferChunk (s : State) (src : Nat) (data : List Byte) : State :=
  let h := CollHdr.read data
  let mine (s : State) : Bool := match s.xferIn with | some x => x.path = 0 && x.src = src && x.xnum = h.cseq % 65536 | none => false
  let s := if h.off = 0 && !mine s then s.xferBegin 0 src (h.cseq % 65536) else s
  match s.xferIn with
  | some x => if mine s && decide (x.got = 4080 * h.off) then s.xferFeed (data.drop 16) else s
  | none => s

/-- An XACK with the offset received in order (R558). -/
def State.sendXack (s : State) : State :=
  match s.xferIn with
  | none => s
  | some x => match s.accSession x.src with
    | none => s
    | some a =>
      ({ s with arch.xferIn := some { x with unacked := 0 } }).accSend (x.path - 1) a 5 (leBytes 8 x.got)

/-- XFER (R558): the number of a transfer does not travel in XFER messages, so that of an incoming one is free (log 52). -/
def execXfer (e : Nat) (tagOk : Bool) (s : State) : Result :=
  match s.accFirst e 4 with
  | none => .next s
  | some m => match s.accAccept m tagOk with
    | (s, none) => .next s
    | (s, some a) =>
      let p := m.plain a
      let off := ofLeBytes (p.take 8)
      let mine (s : State) : Bool := match s.xferIn with | some x => x.path = 1 + e && x.src = a.sid | none => false
      let s := if off = 0 && !mine s then (let (v, s) := s.drawFree; s.xferBegin (1 + e) a.sid (v % 65536)) else s
      match s.xferIn with
      | none => .next s
      | some x =>
        if !mine s then .next s
        else
          let s := { s with arch.xferIn := some { x with unacked := x.unacked + 1 } }
          let s := if x.got = off then s.xferFeed (p.drop 8) else s
          .next (if 16 ≤ x.unacked + 1 then s.sendXack else s)

/-- XACK_TIMER (R558). -/
def execXackTimer (s : State) : Result :=
  match s.xferIn with
  | some x => if 0 < x.unacked then .next s.sendXack else .next s
  | none => .next s

/-- XACK (R558): an advance lets further messages go. -/
def execXack (e : Nat) (tagOk : Bool) (s : State) : Result :=
  match s.accFirst e 5 with
  | none => .next s
  | some m => match s.accAccept m tagOk with
    | (s, none) => .next s
    | (s, some a) =>
      match s.xferOut with
      | none => .next s
      | some x =>
        let off := ofLeBytes ((m.plain a).take 8)
        if x.path ≠ 1 + e || x.dest ≠ a.sid || off ≤ x.acked || decide (x.sent < off) then .next s
        else .next ({ s with arch.xferOut := some { x with acked := off, resends := 0, progressAt := s.now } }.xferPump 512)

/-- XFER_RESEND_TIMEOUT (R558): no advance within 200 us. -/
def execXferResendTimeout (s : State) : Result :=
  match s.xferOut with
  | none => .next s
  | some x =>
    if x.path = 0 || x.sent ≤ x.acked || decide (s.now < x.progressAt + us 200) then .next s
    else if 8 ≤ x.resends then .next (s.xferOutFail 6)
    else
      .next ({ s with arch.xferOut := some { x with sent := x.acked, resends := x.resends + 1, progressAt := s.now } }.xferPump 512)

/-- XFER_COMPLETE (R556, R559): the outgoing stream has been acknowledged to its end, or the incoming one (rx) has ended at an
item's end. How the receiver learns the end is not stated (log 52). -/
def execXferComplete (rx : Bool) (s : State) : Result :=
  if rx then
    match s.xferIn with
    | some x => match x.len with
      | some n =>
        if x.buf.isEmpty then
          let s := s.setSess x.sess { s.sess x.sess with len := n }
          .next (({ s with arch.xferIn := none }.xferDone x.xnum x.got).setF pgDev Reg.DEV_XFER_STAT_RX 0)
        else .next s
      | none => .next s
    | none => .next s
  else
    match s.xferOut with
    | none => .next s
    | some x =>
      let dst := x.dest % 4096
      let open_ := if x.path = 0 then s.retained.any (fun r => r.dst = dst && r.vc = 3) || s.stalled.any (fun q => q.1 = dst && q.2.1 = 3)
          || (dst = s.pkg && s.loop.any (fun q => q.1 = 3)) else decide (x.acked < x.stream.length)
      if open_ then .next s
      else .next (({ s with arch.xferOut := none }.setF pgDev Reg.DEV_XFER_STAT_BUSY 0).xferDone x.xnum x.stream.length)

end Sys2Proof.Machine
end

