-- ==== Sys2Proof/Machine/Efurn.lean ====
section
/-! DEFINITION. The Efurn ports (R443 to R488, R580): bring-up, lanes, keys, credits, chunks, streams, acknowledgements and
retries. Lanes in LANE_DOWN and LANESET messages are numbered within the sender's port, from 0 (log 50). What arrives, arrives
by the commands of the table, one for a codeword, a HOP message and a chunk: the receiver has restored the order of the
stream (R453). -/
namespace Sys2Proof.Machine

def lnkDown : Nat := 0
def lnkTrain : Nat := 1
def lnkAlign : Nat := 2
def lnkIdcheck : Nat := 3
def lnkKeyx : Nat := 4
def lnkUp : Nat := 5
def lnkMiswire : Nat := 6
def lnkFailed : Nat := 7

def State.lnk (s : State) (k : Nat) : Nat := s.getF (pgLnk k) Reg.LNK_STAT_STATE
def State.setLnk (s : State) (k v : Nat) : State := s.setF (pgLnk k) Reg.LNK_STAT_STATE v

/-! ### Lanes (R443 to R446) -/

/-- First lane of a port on its die (R444). -/
def State.laneBase (s : State) (k : Nat) : Nat := if k % 2 = 0 then 0 else 16 - widthLanes (s.getF (pgLnk k) Reg.LNK_CFG_WIDTH)

/-- The configured lanes of a port, as a mask of the die's lanes (R444). -/
def State.cfgLanes (s : State) (k : Nat) : Nat :=
  (2 ^ widthLanes (s.getF (pgLnk k) Reg.LNK_CFG_WIDTH) - 1) * 2 ^ s.laneBase k

/-- Set bits of a 16-bit mask. -/
def popcount16 (m : Nat) : Nat := ((List.range 16).filter (fun i => m.testBit i)).length

def State.setLanes (s : State) (k m : Nat) : State :=
  (s.setF (pgLnk k) Reg.LNK_STAT_LANES m).setF (pgLnk k) Reg.LNK_STAT_NACT (popcount16 m)

def State.lanes (s : State) (k : Nat) : Nat := s.getF (pgLnk k) Reg.LNK_STAT_LANES

/-- Mask `a` without the bits of `b`. -/
def without (a b : Nat) : Nat := a - (a &&& b)

/-! ### Port states (R479, R480) -/

/-- The port trains where it is enabled and has lanes (R479). -/
def State.trains (s : State) (k : Nat) : Bool :=
  s.flag (pgLnk k) Reg.LNK_CFG_EN && decide (widthLanes (s.getF (pgLnk k) Reg.LNK_CFG_WIDTH) ≠ 0)

/-- The port leaves service: flits under way are lost and its queue is given up; retained chunks are sent again after their
timeout, by the route of that instant (R460, R467), and forwarded ones free the buffers that they fill. -/
def State.dropQueue (s : State) (k : Nat) : State :=
  let q := (s.port k).txq
  let s := s.updPort k (fun p => { p with txq := [], owed := [] })
  let s := q.foldl (fun s x => match x.back with
    | some (j, key) => s.oweCredit j key (chunkFlits x.data.length)
    | none => s) s
  { s with fabric.retained := s.retained.map (fun r => if r.port = k && r.queued then { r with queued := false, last := s.now } else r) }

/-- The port goes DOWN and trains again; LINK_DOWN with its cause (R476, R479, R484, R696). -/
def State.linkDown (s : State) (k cause : Nat) : State :=
  let s := ((s.dropQueue k).setLanes k 0).setF (pgLnk k) Reg.LNK_STAT_PENDING 0
  let s := s.updPort k (fun p => { p with good := 0, txOff := 0, lswitch := none, rekeyAt := none, rekeying := false, consec := [],
                                          winUc := [], tagFails := [] })
  (s.setLnk k (if s.trains k then lnkTrain else lnkDown)).raise (pgLnk k) 3 0x22 3 (leBytes 1 cause)

/-- A state of bring-up fails: FAILED, LINK_DOWN, and another try after 1 s (R479, R580). -/
def State.linkFail (s : State) (k cause : Nat) : State :=
  let s := s.updPort k (fun p => { p with failedAt := s.now, settled := true, good := 0 })
  ((s.setLanes k 0).setLnk k lnkFailed).raise (pgLnk k) 3 0x22 3 (leBytes 1 cause)

/-- PMD_TRAINING_DONE (R479, R480): lanes of the die that passed. -/
def execPmdTrainingDone (k lanesOk : Nat) (s : State) : Result :=
  if s.lnk k ≠ lnkTrain then .next s
  else
    let good := lanesOk &&& s.cfgLanes k
    if good = 0 then .next (s.linkFail k 0)
    else .next ((s.updPort k (fun p => { p with good := good })).setLnk k lnkAlign)

/-- LANE_ALIGN_DONE (R445, R479, R480): a bundle in another order than straight (0) or reversed (1) fails. IDENT follows. -/
def execLaneAlignDone (k lanesOk order : Nat) (s : State) : Result :=
  if s.lnk k ≠ lnkAlign then .next s
  else
    let good := lanesOk &&& (s.port k).good
    if good = 0 || decide (2 ≤ order) then .next (s.linkFail k 0)
    else
      let s := (s.updPort k (fun p => { p with good := good, rev := order = 1, slot := 0, restart := s.now })).setLnk k lnkIdcheck
      .next (s.sendHop k 0xD [s.pkg, k, s.getF (pgLnk k) Reg.LNK_CFG_ROLE])

/-- R51, R54, R480: the partner that the role of port k admits. -/
def State.partner (s : State) (k : Nat) : Nat :=
  match s.getF (pgLnk k) Reg.LNK_CFG_ROLE with
  | 0 =>
    let d := k / 2
    let n := ringLen d
    let x := coordOf d s.pkg
    let y := if k % 2 = 0 then (x + 1) % n else (x + n - 1) % n
    let w := 2 ^ (match d with | 0 => 0 | 1 => 3 | _ => 6)
    s.pkg - x * w + y * w
  | 1 => s.pkg ^^^ 0x800
  | _ => s.getF (pgLnk k) Reg.LNK_CFG_PEER

/-- IDENT_RECEIVE (R54, R480): LINK_MISWIRE again only where the partner ID has changed. -/
def execIdentReceive (k id port : Nat) (s : State) : Result :=
  if s.lnk k ≠ lnkIdcheck then .next s
  else
    let pg := pgLnk k
    let s := ((s.setF pg Reg.LNK_PEER_ID id).setF pg Reg.LNK_PEER_PORT port).setF pg Reg.LNK_PEER_VALID 1
    let s := (s.count pg Reg.LNK_CNT_FLIT_RX 1).updPort k (fun p => { p with rxCtr := p.rxCtr + 1 })
    if id = s.partner k then .next (s.setLnk k lnkKeyx)
    else
      let again := (s.port k).miswire = some id
      let s := (s.updPort k (fun p => { p with failedAt := s.now, settled := true, miswire := some id })).setLnk k lnkMiswire
      .next (if again then s else s.raise pg 4 0x23 3 (leBytes 2 s.pkg ++ leBytes 2 id ++ leBytes 1 port))

/-- R580: the partner is accepted. -/
def State.keyxOk (s : State) (i : KeyxIn) : Bool :=
  i.certOk && i.sigOk && (s.cur.owner.isNone || (i.cfgOk && (!s.sealed || (i.peerSealed && !i.peerSealBroken))))

/-- KEYX_DONE (R472, R473, R479, R580): the port comes UP on its good lanes, or fails with cause KEYX. -/
def execKeyxDone (k : Nat) (i : KeyxIn) (s : State) : Result :=
  if s.lnk k ≠ lnkKeyx then .next s
  else if !s.keyxOk i || s.cur.entropyBad then .next (s.linkFail k 2)
  else
    let pg := pgLnk k
    let s := ((s.setLanes k (s.port k).good).setLnk k lnkUp).setF pg Reg.LNK_STAT_ENC (s.flag pg Reg.LNK_CFG_ENC || i.peerEnc).toNat
    let s := s.updPort k (fun p => { p with settled := true, txOff := 0, lswitch := none, rekeyAt := none, rekeying := false,
                                            keyGen := p.keyGen + 1, txCtr := 0, rxCtr := 0, consec := [], winUc := [],
                                            tagFails := [], used := [], owed := [], peerEnc := i.peerEnc, slot := 0,
                                            restart := s.now, turn := 2, left := 0 })
    .next (s.raise pg 2 0x21 0 (leBytes 4 (s.readReg pg 0x804).toNat ++ leBytes 1 (s.getF pg Reg.LNK_STAT_NACT)))

/-- LINK_RETRY_TIMER (R479, R480): 1 s after FAILED or MISWIRE. -/
def execLinkRetryTimer (k : Nat) (s : State) : Result :=
  if !(s.lnk k = lnkFailed || s.lnk k = lnkMiswire) || decide (s.now < (s.port k).failedAt + ms 1000) then .next s
  else .next (s.setLnk k (if s.trains k then lnkTrain else lnkDown))

/-! ### Lane drops (R481 to R484) -/

/-- R483: the instant of a lane switch: the first scheduled landing of LGRP at least 4 us ahead that is known on the deciding
package; 4 us ahead where there is none (log 49). -/
def State.switchAt (s : State) (k : Nat) : Nat :=
  let g := s.getF (pgLnk k) Reg.LNK_CFG_LGRP
  let r := s.run g
  if !(s.flying g).isEmpty && decide (s.rot + us 4 ≤ r.lam) then r.lam else s.rot + us 4

/-- The lanes that a port will use: after the scheduled switch, else the active ones. -/
def State.nextLanes (s : State) (k : Nat) : Nat := ((s.port k).lswitch.map (·.1)).getD (s.lanes k)

/-- This end decides to drop lanes (a mask of the die's): LANESET and PENDING, or DOWN where no lane is left (R483, R484). -/
def State.decideDrop (s : State) (k gone : Nat) : State :=
  let new := without (s.nextLanes k) gone
  if new = 0 then s.linkDown k 3
  else if new = s.nextLanes k then s
  else
    let t := s.switchAt k
    let s := (s.updPort k (fun p => { p with lswitch := some (new, t) })).setF (pgLnk k) Reg.LNK_STAT_PENDING 1
    s.sendHop k 0xB [new / 2 ^ s.laneBase k, t]

/-- A lane is faulty (R481): cause 0 lost lock, 1 codewords. -/
def State.laneFaulty (s : State) (k lane cause : Nat) : State :=
  if s.lnk k ≠ lnkUp || !(s.lanes k).testBit lane || (s.port k).txOff.testBit lane then s
  else
    let s := s.updPort k (fun p => { p with txOff := p.txOff ||| 2 ^ lane })
    let s := s.sendHop k 0xA [2 ^ lane / 2 ^ s.laneBase k]
    let s := s.orF (pgLnk k) Reg.LNK_LANE_FAULT_LANES (2 ^ lane)
    (s.raise (pgLnk k) 5 0x24 1 (leBytes 1 lane ++ leBytes 1 cause)).decideDrop k (2 ^ lane)

/-- LANE_LOCK_LOSS (R481). -/
def execLaneLockLoss (k lane : Nat) (s : State) : Result := .next (s.laneFaulty k lane 0)

/-- Adds to a per-lane count. -/
def addAt (m : List (Nat × Nat)) (i n : Nat) : List (Nat × Nat) := sset (fun _ => 0) m i (sget (fun _ => 0) m i + n)

/-- Lanes on which codewords arrive: the active ones; before the port is UP, from ALIGN on, those that passed training. -/
def State.rxLanes (s : State) (k : Nat) : Nat :=
  if s.lnk k = lnkUp then s.lanes k else if 2 ≤ s.lnk k && decide (s.lnk k ≤ lnkKeyx) then (s.port k).good else 0

/-- CODEWORD_RECEIVE (R451, R452, R481, R482): the decoder corrects up to 15 symbols. -/
def execCodewordReceive (k lane : Nat) (ok : Bool) (corrected badFlits : Nat) (s : State) : Result :=
  let pg := pgLnk k
  if !(s.rxLanes k).testBit lane then .next s
  else if ok && decide (corrected ≤ 15) then
    let s := s.updPort k (fun p => { p with consec := sset (fun _ => 0) p.consec lane 0, corr := addAt p.corr lane corrected })
    .next (if badFlits = 0 then s else s.count pg Reg.LNK_CNT_BAD badFlits)
  else
    let w := ms (s.getF pg Reg.LNK_HEALTH_WIN_MS)
    let s := (s.count pg Reg.LNK_CNT_CW_UNC 1).updPort k (fun p =>
      { p with consec := addAt p.consec lane 1, uc := addAt p.uc lane 1,
               winUc := (p.winUc.filter (fun (x : Nat × Nat) => decide (s.now < x.2 + w))) ++ [(lane, s.now)] })
    if s.lnk k ≠ lnkUp then .next s
    else if 4 ≤ sget (fun _ => 0) (s.port k).consec lane then .next (s.laneFaulty k lane 1)
    else if s.flag pg Reg.LNK_CFG_AUTODROP
        && decide (s.getF pg Reg.LNK_HEALTH_THRESH < ((s.port k).winUc.filter (fun (x : Nat × Nat) => x.1 = lane)).length)
        && (s.nextLanes k).testBit lane then .next (s.decideDrop k (2 ^ lane))
    else .next s

/-- A tag fails (R476): LINK_AUTH, and DOWN with cause AUTH at the seventeenth within 1 ms. -/
def State.tagFail (s : State) (k vc src : Nat) : State :=
  let s := (s.count (pgLnk k) Reg.LNK_CNT_AUTH 1).raise (pgLnk k) 7 0x26 1 (leBytes 1 vc ++ leBytes 2 src)
  let s := s.updPort k (fun p => { p with tagFails := p.tagFails.filter (fun t => decide (s.now < t + ms 1)) ++ [s.now] })
  if 16 < (s.port k).tagFails.length then s.linkDown k 1 else s

/-- A HOP message on port k: `f` acts where the port is UP and the tag holds (R473, R476). -/
def State.onHop (s : State) (k : Nat) (tagOk : Bool) (f : State → State) : State :=
  if s.lnk k ≠ lnkUp then s
  else
    let s := s.hopIn k
    if s.flag (pgLnk k) Reg.LNK_STAT_ENC && !tagOk then s.tagFail k 2 (s.getF (pgLnk k) Reg.LNK_PEER_ID) else f s

/-- The mask of the die's lanes that the partner's lanes, numbered within its port, meet here: in reversed order where the
bundle is (R445). -/
def State.lanesHere (s : State) (k lanes : Nat) : Nat :=
  let w := widthLanes (s.getF (pgLnk k) Reg.LNK_CFG_WIDTH)
  let m := if (s.port k).rev then
      ((List.range w).map (fun i => if lanes.testBit i then 2 ^ (w - 1 - i) else 0)).foldl (· + ·) 0
    else lanes % 2 ^ w
  m * 2 ^ s.laneBase k &&& s.lanes k

/-- LANE_DOWN_RECEIVE (R481): the lanes are no longer sent on (log 50). -/
def execLaneDownReceive (k : Nat) (m : HopLanes) (s : State) : Result :=
  .next (s.onHop k m.tagOk (fun s => s.updPort k (fun p => { p with txOff := p.txOff ||| s.lanesHere k m.lanes })))

/-- LANESET_RECEIVE (R483). -/
def execLanesetReceive (k : Nat) (m : HopLanes) (t : Nat) (s : State) : Result :=
  .next (s.onHop k m.tagOk (fun s =>
    (s.updPort k (fun p => { p with lswitch := some (s.lanesHere k m.lanes, t) })).setF (pgLnk k) Reg.LNK_STAT_PENDING 1))

/-- Elapsed time of the alignment pattern of a lane switch: 64 cycles(X) (R483). -/
def alignTime : Nat := 656

/-- LANE_SWITCH (R453, R483, R484): at the switch instant the port uses the new lane set, and the rotation restarts after the
alignment pattern; flits wait in the queue meanwhile. -/
def execLaneSwitch (k : Nat) (s : State) : Result :=
  match (s.port k).lswitch with
  | none => .next s
  | some (new, t) =>
    if s.rot < t || decide (s.lnk k ≠ lnkUp) then .next s
    else
      let was := s.lanes k
      let s := (s.updPort k (fun p => { p with lswitch := none, txOff := p.txOff &&& new, slot := 0,
                                               restart := s.now + alignTime })).setF (pgLnk k) Reg.LNK_STAT_PENDING 0
      let s := (s.setLanes k new).raise (pgLnk k) 6 0x25 1 (leBytes 2 was ++ leBytes 2 new)
      .next (if new = 0 then s.linkDown k 3 else s)

/-! ### LNK_LANECMD (R475, R479, R482, R487) -/

/-- LNK_LANECMD is offset 0x110; LANE applies before the actions act (R673). -/
def State.laneCmd (s : State) (k val : Nat) : State :=
  let s := s.writeReg (pgLnk k) 0x110 val true
  let val := if s.reaches (pgLnk k) then val else 0
  let lane := s.getF (pgLnk k) Reg.LNK_LANECMD_LANE
  let s := if val.testBit 4 && decide (s.lnk k = lnkUp) && (s.nextLanes k).testBit lane then s.decideDrop k (2 ^ lane) else s
  let s := if val.testBit 5 && decide (s.lnk k = lnkUp) then s.startRekey k else s
  if val.testBit 6 && decide (s.lnk k = lnkUp) then s.linkDown k 4 else s

/-- LANE_DROP_CMD: LNK_LANECMD with DROP (R482, R483). -/
def execLaneDropCmd (k val : Nat) (s : State) : Result := .next (s.laneCmd k val)

/-- LINK_REKEY_CMD: LNK_LANECMD with REKEY (R475). -/
def execLinkRekeyCmd (k val : Nat) (s : State) : Result := .next (s.laneCmd k val)

/-- LINK_RETRAIN_CMD: LNK_LANECMD with TRAIN (R479). -/
def execLinkRetrainCmd (k val : Nat) (s : State) : Result := .next (s.laneCmd k val)

/-! ### Keys and tags (R473 to R476) -/

/-- REKEY_RECEIVE (R475, R476): the first REKEY of an exchange is answered; both ends switch 4 us after it. -/
def execRekeyReceive (k : Nat) (tagOk : Bool) (s : State) : Result :=
  .next (s.onHop k tagOk (fun s => (s.startRekey k).updPort k (fun p => { p with rekeyAt := some (s.rot + us 4) })))

/-- REKEY_SWITCH (R475). -/
def execRekeySwitch (k : Nat) (s : State) : Result :=
  match (s.port k).rekeyAt with
  | none => .next s
  | some t =>
    if s.rot < t then .next s
    else .next (s.updPort k (fun p => { p with rekeyAt := none, rekeying := false, keyGen := p.keyGen + 1, txCtr := 0, rxCtr := 0 }))

/-- The partner of port k credits back `n` flits of a channel and class (R464). -/
def State.credited (s : State) (k vc cls n : Nat) : State :=
  s.updPort k (fun p =>
    { p with used := sset (fun _ => 0) p.used (2 * vc + cls) (sget (fun _ => 0) p.used (2 * vc + cls) - n) })

/-- CREDIT_RECEIVE (R464, R477): a CREDIT HOP flit, or the credit fields of an IDLE flit. -/
def execCreditReceive (k vc cls : Nat) (m : CreditMsg) (s : State) : Result :=
  if m.hop then .next (s.onHop k m.tagOk (fun s => s.credited k vc cls m.flits))
  else if s.lnk k ≠ lnkUp then .next s
  else .next (s.credited k vc cls m.flits)

/-! ### Chunks and streams (R461, R465 to R471) -/

/-- The leaving port of a chunk in transit (R458, R460): within a dimension it keeps its direction. -/
def State.forwardPort (s : State) (k dst : Nat) : Option (Nat × Bool) :=
  (firstDim s.pkg dst).map (fun d =>
    if decide (k < 6) && decide (k / 2 = d) then s.orOpposite (if k % 2 = 0 then k + 1 else k - 1)
    else s.orOpposite (if ringPlus (ringLen d) (coordOf d s.pkg) (coordOf d dst) then 2 * d else 2 * d + 1))

/-- 2 * VC + CLS of a chunk, and its flits. -/
def chunkKey (ch : Chunk) : Nat := 2 * ch.vc + ch.cls
def chunkWords (ch : Chunk) : Nat := chunkFlits ch.data.length

/-- A chunk for another package (R458 to R461, R485, R486): it fills its receive buffer until it has left. -/
def State.forward (s : State) (k : Nat) (ch : Chunk) : State :=
  let bad (s : State) : State := (s.count (pgLnk k) Reg.LNK_CNT_BAD (chunkWords ch)).oweCredit k (chunkKey ch) (chunkWords ch)
  if s.getF (pgLnk k) Reg.LNK_CFG_ROLE = 2 && decide (6 ≤ k) then bad s
  else match s.forwardPort k ch.dst with
    | none => bad s
    | some (j, re) =>
      let s := if re then s.count (pgLnk j) Reg.LNK_CNT_REROUTE 1 else s
      let s := s.count (pgLnk j) Reg.LNK_CNT_FWD 1
      let cls := if decide (k < 6) && decide (k / 2 = j / 2) then ch.cls else 0
      s.sendOn j (s.classOn j cls) ch.src ch.dst ch.vc ch.seq ch.kind ch.fresh ch.data (some (k, (chunkKey ch)))

def State.rxStream (s : State) (src vc : Nat) : Option RxStream := s.rx.find? (fun r => r.src = src && r.vc = vc)

def State.setRx (s : State) (r : RxStream) : State := { s with fabric.rx := r :: s.rx.filter (fun u => !(u.src = r.src && u.vc = r.vc)) }

/-- A chunk of a stream is delivered (R462, R501, R557). The effect of a VC2 message, and of the twin's cluster signatures, is
the command of that message (log 51). -/
def State.deliver (s : State) (k src vc : Nat) (data : List Byte) : State :=
  if vc = 2 then s
  else if vc = 3 then (if (CollHdr.read data).opc = 0 && !(CollHdr.read data).part then s.xferChunk src data else s)
  else s.collChunk (k / 2) data

/-- Delivers the held chunks that have come in turn (R465, R468). -/
def State.deliverHeld (k src vc : Nat) : Nat → State → State
  | 0, s => s
  | n + 1, s =>
    match s.rxStream src vc with
    | none => s
    | some r => match r.held.find? (fun h => h.1 = r.next) with
      | none => s
      | some h =>
        let r := { r with next := (r.next + 1) % 2 ^ 32, held := r.held.filter (fun x => x.1 ≠ h.1), unacked := r.unacked + 1,
                          since := if r.unacked = 0 then s.now else r.since }
        let s := (s.setRx r).deliver k src vc h.2.2
        State.deliverHeld k src vc n (if 16 ≤ r.unacked then (s.setRx { r with unacked := 0 }).sendAck src vc h.1 else s)

/-- A verified chunk for this package (R466, R468 to R470). -/
def State.accept (s : State) (k : Nat) (ch : Chunk) : State :=
  if ch.crc ≠ (crc32c ch.data).toNat then
    (s.count (pgLnk k) Reg.LNK_CNT_CRC 1).raise (pgLnk k) 8 0x27 1 (leBytes 2 ch.src ++ leBytes 1 ch.vc ++ leBytes 4 ch.seq)
  else if ch.vc = 2 && ch.kind = 4 then s
  else
    let known := s.rxStream ch.src ch.vc
    if known.isNone && !ch.fresh then s
    else
      let r := known.getD { src := ch.src, vc := ch.vc, next := ch.seq, held := [], unacked := 0, since := 0 }
      let d := (ch.seq + 2 ^ 32 - r.next) % 2 ^ 32
      if 2 ^ 31 ≤ d then (s.count (pgLnk k) Reg.LNK_CNT_DUP 1).sendAck ch.src ch.vc ((r.next + 2 ^ 32 - 1) % 2 ^ 32)
      else if 64 ≤ d then s
      else if r.held.any (fun h => h.1 = ch.seq) then s.count (pgLnk k) Reg.LNK_CNT_DUP 1
      else State.deliverHeld k ch.src ch.vc 65 (s.setRx { r with held := r.held ++ [(ch.seq, ch.kind, ch.data)] })

/-- The parent answers a TIME flit of a child with the stamps of its arrival and of the answer (R306, R311, R478). -/
def State.answerTime (s : State) (k t1 : Nat) : State := s.sendHop k 0x8 [t1, s.timeOf (pgLnk k), s.timeOf (pgLnk k)]

/-- The receive buffer of a chunk that has been accepted: free at once, or, where the chunk is an item that waits for a window
of its Cloakroom, filled until it is taken in (R464, R514). `s` is the state before. -/
def State.keepBuffer (s t : State) (k : Nat) (ch : Chunk) : State :=
  let h := CollHdr.read ch.data
  let item (g : Group) (d : Nat) : Option (Nat × CombIn) :=
    ((sget (fun _ => []) t.combIn d).find? (fun z => decide (0 < z.since) &&
      decide ({ z with since := 0 } = itemOf g h (ch.data.drop 16) (t.segLen g)))).map (fun z => (d, z))
  match (t.group h.grp).bind (fun g => g.clo.bind (item g)) with
  | none => t.oweCredit k (chunkKey ch) (chunkWords ch)
  | some (d, z) =>
    if (sget (fun _ => []) s.combIn d).contains z then t.oweCredit k (chunkKey ch) (chunkWords ch)
    else t.setCombIn d ((sget (fun _ => []) t.combIn d).map (fun y =>
      if y = z then { y with back := some (k, chunkKey ch, chunkWords ch) } else y))

/-- CHUNK_RECEIVE (R452, R461, R464, R468, R470, R473, R474, R476): the last flit of a chunk, or a HOP flit of KIND TIME. A
chunk with a flit of a reserved header is never whole; so is one longer than 4,096 bytes (R456). -/
def execChunkReceive (k : Nat) (ch : Chunk) (s : State) : Result :=
  let pg := pgLnk k
  if s.lnk k ≠ lnkUp then .next s
  else if ch.ty = 2 then .next (s.onHop k ch.tagOk (fun s => if ch.kind = 8 then s.answerTime k ch.t1 else s))
  else
    let n := if ch.ty ≠ 1 || ch.data.isEmpty || decide (4096 < ch.data.length) then (chunkWords ch) else min ch.badFlits (chunkWords ch)
    let s := ch.credits.foldl (fun s q => s.credited k q.1 q.2.1 q.2.2) s
    if n ≠ 0 then .next (((s.count pg Reg.LNK_CNT_BAD n).count pg Reg.LNK_CNT_FLIT_RX ((chunkWords ch) - n)).oweCredit k (chunkKey ch) (chunkWords ch))
    else
      let s := ((s.count pg Reg.LNK_CNT_FLIT_RX (chunkWords ch)).updPort k (fun p => { p with rxCtr := p.rxCtr + 1 })).counterRekey k
      if s.flag pg Reg.LNK_STAT_ENC && !ch.tagOk then .next ((s.oweCredit k (chunkKey ch) (chunkWords ch)).tagFail k ch.vc ch.src)
      else if ch.dst = s.pkg then
        .next (if 2 ≤ ch.vc then (s.oweCredit k (chunkKey ch) (chunkWords ch)).accept k ch
          else s.keepBuffer (s.accept k ch) k ch)
      else .next (s.forward k ch)

/-- Chunks of this package for itself are delivered, in the order sent (R458). -/
def State.deliverLoop (s : State) : State :=
  s.loop.foldl (fun s q => s.deliver 0 s.pkg q.1 q.2.2) { s with fabric.loop := [] }

/-- ACK_RECEIVE (R466, R467): the retained chunks of the stream up to SEQ are released, and chunks that wait for their slots
are sent (R471). -/
def execAckReceive (src vc seq : Nat) (s : State) : Result :=
  .next ({ s with fabric.retained := s.retained.filter (fun r =>
    !(r.dst = src && r.vc = vc && decide ((seq + 2 ^ 32 - r.seq) % 2 ^ 32 < 2 ^ 31))) }).admitStalled

/-- ACK_TIMER (R466): deliveries that no ACK has covered. -/
def execAckTimer (src vc : Nat) (s : State) : Result :=
  match s.rxStream src vc with
  | none => .next s
  | some r =>
    if r.unacked = 0 then .next s
    else .next ((s.setRx { r with unacked := 0 }).sendAck src vc ((r.next + 2 ^ 32 - 1) % 2 ^ 32))

/-- The retry timeout of a retained chunk (R467). -/
def State.retryAfter (s : State) (r : Retained) : Nat :=
  if r.vc = 2 then 1600 * s.getF (pgLnk r.port) Reg.LNK_RETRY_TMO2 else us (s.getF (pgLnk r.port) Reg.LNK_RETRY_TMO)

/-- A chunk is lost (R469, R557): CHUNK_LOST; it is discarded, and no later chunk of its stream is sent, so that those retained
are given up too; the first loss of a stream sends BREAK to the destination, on VC2 also where that is the broken stream
(log 51). -/
def State.chunkLost (s : State) (r : Retained) : State :=
  let s := s.raise (pgLnk r.port) 9 0x28 2 (leBytes 2 r.dst ++ leBytes 1 r.vc ++ leBytes 4 r.seq)
  let mine (dst vc seq : Nat) : Bool := dst = r.dst && vc = r.vc && decide ((seq + 2 ^ 32 - r.seq) % 2 ^ 32 < 2 ^ 31)
  let t := s.txStream r.dst r.vc
  let s := { s with fabric.retained := s.retained.filter (fun x => !mine x.dst x.vc x.seq),
                    fabric.ports := s.ports.map (fun (p : Nat × Port) => (p.1, { p.2 with txq := p.2.txq.filter (fun x =>
                      !(x.src = s.pkg && decide (x.kind ≠ 4) && x.fidx = 0 && mine x.dst x.vc x.seq)) })),
                    fabric.stalled := s.stalled.filter (fun q => !(q.1 = r.dst && q.2.1 = r.vc)) }
  let s := s.setTx { t with broken := true }
  let s := (if t.broken then s else s.pushChunk r.dst 2 5 (leBytes 1 r.vc)).admitStalled
  match s.xferOut with
  | some x => if x.path = 0 && x.dest % 4096 = r.dst && r.vc = 3 then s.xferOutFail 6 else s
  | none => s

/-- An uncorrectable word in the retention slot of a chunk (R429, ROUTER; log 76): which slot a chunk takes is free. -/
def State.slotBad (s : State) (r : Retained) : Option Nat :=
  if s.errs.isEmpty then none
  else
    let o := 4608 * (Config.place 1 [r.port / 2, r.dst, r.vc, r.seq] % 3640)
    ((List.range (ceilDiv r.data.length 8)).map (fun i => o + 8 * i)).find? (fun a =>
      sget (fun _ => 0) s.errs (cwName (8 * 4096 + r.port / 2) a) = 2)

/-- RETRY_TIMEOUT (R429, R460, R467, R469): the chunk goes out again by the route of the instant, or is lost after its fourth
sending. Where its retention slot has failed it is resent from its source, which still holds its bytes (R429; log 76). -/
def execRetryTimeout (dst vc seq : Nat) (s : State) : Result :=
  match s.retained.find? (fun r => r.dst = dst && r.vc = vc && r.seq = seq) with
  | none => .next s
  | some r =>
    if r.queued || decide (s.now < r.last + s.retryAfter r) then .next s
    else if 4 ≤ r.sent then .next (s.chunkLost r)
    else
      let s := match s.slotBad r with | some a => s.foundUE (8 * 4096 + r.port / 2) a 13 | none => s
      let (k, re) := (s.routePort dst).getD (r.port, false)
      let s := if re then s.count (pgLnk k) Reg.LNK_CNT_REROUTE 1 else s
      let s := s.count (pgLnk k) Reg.LNK_CNT_RETRY 1
      let s := { s with fabric.retained := s.retained.map (fun x => if x = r then { r with port := k, sent := r.sent + 1, last := s.now, queued := true } else x) }
      .next (s.sendOn k (s.classOn k 0) s.pkg r.dst r.vc r.seq r.kind r.fresh r.data)

/-- BREAK_RECEIVE (R469): the stream starts again with a FRESH chunk. -/
def execBreakReceive (k src vc : Nat) (s : State) : Result :=
  .next ({ s with fabric.rx := s.rx.filter (fun r => !(r.src = src && r.vc = vc)) }.raise (pgLnk k) 10 0x29 2 (leBytes 2 src ++ leBytes 1 vc))

end Sys2Proof.Machine
end

