-- ==== Sys2Proof/Machine/Matrix.lean ====
section
/-! DEFINITION. Class 0: matrix launches on the arrays of a cluster (R111 to R203, R278 to R280, R321). The launch reads
its operands and forms its entries when it issues; its epilogue writes the outputs; its flags are set when it completes.
Stalls of the ports are left out: they change only when things happen (R195). -/
namespace Sys2Proof.Machine

/-! ### The descriptor (R321) -/

/-- A class-0 descriptor, its format codes decoded. -/
structure MatDesc where
  m : Nat
  n : Nat
  k : Nat
  op : Fmt
  aMem : Fmt
  bMem : Fmt
  out : Fmt
  amask : Nat
  f32 : Bool
  init : Nat
  /-- Units of the shape in force: 32, 16 or 8 (R168). -/
  units : Nat
  fin : Bool
  opair : Bool
  rid : Nat
  trow : Nat
  aAddr : Nat
  bAddr : Nat
  oAddr : Nat
  aStride : Nat
  oStride : Nat
  bias : Fmt
  esc : Nat
  ebias : Nat
  eact : Nat
  ecat : Nat
  aBlk : Nat
  aDir : Bool
  bBlk : Nat
  bDir : Bool
  oBlk : Nat
  oDir : Bool
  blockmax : Bool
  scat : Nat
  aXcat : Nat
  aXch : Bool
  bXcat : Nat
  bXch : Bool
  oXcat : Nat
  oXch : Bool
  csen : Bool
  pre : Fmt
  pairAddr : Nat
  preAddr : Nat
  biasAddr : Nat
  csAddr : Nat
  deriving DecidableEq, Repr

def blkOf (code : Nat) : Nat := (blkSize code).getD 8

/-- Units of the array in a shape: 0 for a code that AUTO resolves by N (R168). -/
def shapeUnits (code n : Nat) : Nat :=
  match code with
  | 1 => 32
  | 2 => 16
  | 3 => 8
  | _ => if n ≤ 8 then 8 else if n ≤ 16 then 16 else 32

/-- The fields of a class-0 descriptor; none where a format code that is read is reserved (R60). -/
def Desc.mat (d : Desc) : Option MatDesc :=
  match Fmt.ofCode (d.f 123 120), Fmt.ofCode (d.f 131 128), Fmt.ofCode (d.f 135 132), Fmt.ofCode (d.f 139 136) with
  | some op, some am, some bm, some out =>
    some { m := d.f 79 64, n := d.f 95 80, k := d.f 119 96, op := op, aMem := am, bMem := bm, out := out,
           amask := d.f 143 140, f32 := d.f 145 144 = 1, init := d.f 147 146, units := shapeUnits (d.f 149 148) (d.f 95 80),
           fin := d.f 150 150 = 1, opair := d.f 151 151 = 1, rid := d.f 157 152, trow := d.f 167 158,
           aAddr := d.f 187 168, bAddr := d.f 207 188, oAddr := d.f 227 208, aStride := d.f 241 228,
           oStride := d.f 255 242, bias := (Fmt.ofCode (d.x 3 0)).getD .qfull, esc := d.x 5 4, ebias := d.x 7 6,
           eact := d.x 12 8, ecat := d.x 24 13, aBlk := blkOf (d.x 27 25), aDir := d.x 28 28 = 1,
           bBlk := blkOf (d.x 31 29), bDir := d.x 32 32 = 1, oBlk := blkOf (d.x 35 33), oDir := d.x 36 36 = 1,
           blockmax := d.x 37 37 = 1, scat := d.x 49 38, aXcat := d.x 61 50, aXch := d.x 62 62 = 1,
           bXcat := d.x 74 63, bXch := d.x 75 75 = 1, oXcat := d.x 87 76, oXch := d.x 88 88 = 1, csen := d.x 89 89 = 1,
           pre := (Fmt.ofCode (d.x 93 90)).getD .fp64, pairAddr := d.x 113 94, preAddr := d.x 133 114,
           biasAddr := d.x 153 134, csAddr := d.x 173 154 }
  | _, _, _, _ => none

/-! ### Geometry (R161, R168 to R178) -/

/-- Lanes per unit: L of R161 for shape N32, widened with the shape, a sixteenth of it in F32 mode (R169, R170). -/
def MatDesc.lanes (x : MatDesc) : Nat := 512 / x.op.width * (32 / x.units) / (if x.f32 then 16 else 1)

/-- Lines of a tile row (R177). -/
def MatDesc.lines (x : MatDesc) : Nat := if x.f32 then 1 else x.op.quire.width / 32

/-- Bytes of one entry (R177). -/
def MatDesc.entryBytes (x : MatDesc) : Nat := if x.f32 then 4 else x.op.quire.width / 8

/-- Rows of output that share a tile row (R178). -/
def MatDesc.wide (x : MatDesc) : Nat := 32 / x.units

/-- Tile rows of the tile (R178). -/
def MatDesc.tileRows (x : MatDesc) : Nat := ceilDiv x.m x.wide * ceilDiv x.n x.units

/-- Tile row and place of output element (i, j) (R178). -/
def MatDesc.place (x : MatDesc) (i j : Nat) : Nat × Nat :=
  (i / x.wide * ceilDiv x.n x.units + j / x.units, x.units * (i % x.wide) + j % x.units)

/-- Accumulator-memory key of an entry of array a of cluster c. -/
def MatDesc.key (x : MatDesc) (c a i j : Nat) : Nat :=
  let (rho, p) := x.place i j
  ((4 * c + a) * 1024 + x.trow + rho * x.lines) * 32 + p

/-- Number of the tile record of array a of cluster c. -/
def tileKey (c a rid : Nat) : Nat := (4 * c + a) * 64 + rid

/-- Arrays of AMASK, ascending. -/
def arraysOf (amask : Nat) : List Nat := (List.range 4).filter (fun a => amask.testBit a)

/-- Weight reads of a launch: unit blocks times lane blocks (R169). -/
def MatDesc.wreads (x : MatDesc) : Nat := ceilDiv x.n x.units * ceilDiv x.k x.lanes

/-- Steps of a launch on each array (R169). -/
def MatDesc.steps (x : MatDesc) : Nat := x.m * x.wreads

/-! ### Operands -/

def MatDesc.tensorA (x : MatDesc) (c a : Nat) : Tensor :=
  { addr := localAddr c x.aAddr + 64 * a * x.aStride, rows := x.m, cols := x.k, fmt := x.aMem, blk := x.aBlk,
    dirCols := x.aDir, xcat := x.aXcat, xch := x.aXch }

def MatDesc.tensorB (x : MatDesc) (c : Nat) : Tensor :=
  { addr := localAddr c x.bAddr, rows := x.k, cols := x.n, fmt := x.bMem, blk := x.bBlk, dirCols := x.bDir,
    xcat := x.bXcat, xch := x.bXch, chanCol := true }

/-- The output at a local address, of array a. -/
def MatDesc.tensorO (x : MatDesc) (c a addr : Nat) : Tensor :=
  { addr := localAddr c addr + 64 * a * x.oStride, rows := x.m, cols := x.n, fmt := x.out, blk := x.oBlk,
    dirCols := x.oDir, xcat := x.oXcat, xch := x.oXch, chanCol := true }

/-- The preload tensor or vector (R121, R122, R163). -/
def MatDesc.tensorP (x : MatDesc) (c a : Nat) : Tensor :=
  { addr := localAddr c x.preAddr + (if x.init = 3 then 0 else 64 * a * x.oStride), rows := if x.init = 3 then 1 else x.m,
    cols := x.n, fmt := x.pre, blk := x.oBlk, dirCols := x.oDir }

/-- The bias vector or tensor (R140, R163). -/
def MatDesc.tensorBias (x : MatDesc) (c a : Nat) : Tensor :=
  { addr := localAddr c x.biasAddr + (if x.ebias = 1 then 0 else 64 * a * x.oStride),
    rows := if x.ebias = 1 then 1 else x.m, cols := if x.ebias = 2 then 1 else x.n, fmt := x.bias }

/-- Bytes that a tensor of this launch occupies; a QFULL element has the width of the accumulation (R115). -/
def MatDesc.bytesOf (x : MatDesc) (t : Tensor) : Nat := if t.fmt = .qfull then t.rows * t.cols * x.entryBytes else t.size

/-- The column sums are read (R279, R280). -/
def MatDesc.usesCs (x : MatDesc) : Bool := x.csen && x.op.isInt && !x.f32

/-- Every range that the launch reads. -/
def MatDesc.reads (x : MatDesc) (c : Nat) : List (Nat × Nat) :=
  let b := x.tensorB c
  (b.addr, x.bytesOf b) ::
    ((arraysOf x.amask).flatMap (fun a =>
      let t := x.tensorA c a
      let p := x.tensorP c a
      let s := x.tensorBias c a
      (t.addr, x.bytesOf t) :: (if 2 ≤ x.init then [(p.addr, x.bytesOf p)] else [])
        ++ (if x.fin && decide (x.ebias ≠ 0) then [(s.addr, x.bytesOf s)] else []))
     ++ (if x.usesCs then [(localAddr c x.csAddr, 4 * x.n)] else []))

/-- Every range that the launch writes. -/
def MatDesc.writes (x : MatDesc) (c : Nat) : List (Nat × Nat) :=
  if !x.fin then []
  else (arraysOf x.amask).flatMap (fun a =>
    let o := x.tensorO c a x.oAddr
    let p := x.tensorO c a x.pairAddr
    (o.addr, x.bytesOf o) :: (if x.opair then [(p.addr, x.bytesOf p)] else []))

/-- Catalogue entries that the launch uses (R274): first entry and count. -/
def MatDesc.cats (x : MatDesc) : List (Nat × Nat) :=
  let ch (cond : Bool) (cat : Nat) (each : Bool) (n : Nat) : List (Nat × Nat) :=
    if cond then [(cat, if each then n else 1)] else []
  ch (x.op.isInt || x.aMem.isInt) x.aXcat x.aXch x.m ++ ch (x.op.isInt || x.bMem.isInt) x.bXcat x.bXch x.n
    ++ ch (x.fin && x.out.isInt) x.oXcat x.oXch x.n
    ++ ch (x.fin && decide (x.esc ≠ 0)) x.ecat (decide (2 ≤ x.esc)) (if x.esc = 2 then x.n else x.m)
    ++ ch (x.fin && x.out.isSP && !x.blockmax) x.scat false 1

/-! ### Refusal -/

/-- A range lies in the weight store or the activation buffer of cluster c. -/
def rangeIn (c : Nat) (r : Nat × Nat) : Bool :=
  let a := r.1 - cluBase - c * 0x800000
  decide (cluBase + c * 0x800000 ≤ r.1) &&
    (if a < 0x400000 then decide (a + r.2 ≤ 0x400000) else decide (a < 0x500000) && decide (a + r.2 ≤ 0x500000))

/-- R122: the preload formats of an accumulation. -/
def MatDesc.preOk (x : MatDesc) : Bool :=
  match x.pre with
  | .qfull => !x.f32
  | .int8 | .int4 | .fp64 => false
  | p =>
    if x.f32 then true
    else if x.op.isInt then false
    else match x.op.quire with
      | .q128 => [Fmt.p8, .e4m3, .e5m2].contains p
      | .q256 => [Fmt.p8, .p16, .sp8, .sp4, .e4m3, .e5m2].contains p
      | .q512 => true

/-- The plain formats of R140 and R146. -/
def plainFmt (f : Fmt) : Bool := [Fmt.p8, .p16, .p32, .e4m3, .e5m2, .fp32].contains f

/-- R182: a KEEP continues record RID of every array. -/
def State.keepOk (s : State) (c : Nat) (x : MatDesc) : Bool :=
  (arraysOf x.amask).all (fun a =>
    match s.tiles.find? (fun p => p.1 = tileKey c a x.rid) with
    | none => false
    | some (_, t) => t.f32 == x.f32 && (x.f32 || t.width = x.op.quire.width) && t.trow = x.trow && t.rows = x.tileRows
        && t.shape = x.units)

/-- The refusals of a class-0 descriptor (R60, R71, R112, R123, R124, R139, R140, R145, R146, R164, R179, R182, R218, R276,
R320). A memory format QFULL, which no conversion reads (R97), is refused as well (log 35). -/
def State.badMat (s : State) (c : Nat) (d : Desc) (x : MatDesc) : Bool :=
  let blk (f : Fmt) (code : Nat) : Bool := f.isSP && (blkSize code).isNone
  decide (d.f 123 120 ≠ d.f 127 124) || [Fmt.fp32, .fp64, .qfull].contains x.op || x.aMem = .qfull || x.bMem = .qfull
    || x.out = .fp64 && decide (x.eact ≠ 0)
    || decide (2 ≤ d.f 145 144) || x.amask = 0 || x.m = 0 || x.n = 0 || x.k = 0
    || blk x.aMem (d.x 27 25) || blk x.op (d.x 27 25) || blk x.bMem (d.x 31 29) || blk x.op (d.x 31 29)
    || blk x.out (d.x 35 33) || (decide (2 ≤ x.init) && (!x.preOk || blk x.pre (d.x 35 33)))
    || (x.esc = 2 && decide (4095 < x.ecat + x.n - 1)) || (x.esc = 3 && decide (4095 < x.ecat + x.m - 1))
    || (decide (x.ebias ≠ 0) && !plainFmt x.bias)
    || decide (18 ≤ x.eact)
    || (x.out = .qfull && (x.esc ≠ 0 || x.ebias ≠ 0 || x.eact ≠ 0 || x.f32 || x.opair))
    || (x.opair && (decide (x.eact ≠ 0) || !plainFmt x.out))
    || ((x.op.isInt || x.aMem.isInt) && x.aXch && decide (4095 < x.aXcat + x.m - 1))
    || ((x.op.isInt || x.bMem.isInt) && x.bXch && decide (4095 < x.bXcat + x.n - 1))
    || (x.out.isInt && x.oXch && decide (4095 < x.oXcat + x.n - 1))
    || decide (x.trow % x.lines ≠ 0) || decide (1024 < x.trow + x.tileRows * x.lines)
    || (x.init = 1 && !s.keepOk c x)
    || decide (d.x 255 174 ≠ 0)
    || !(inWs x.bAddr (x.bytesOf (x.tensorB c)))
    || !(x.reads c).all (rangeIn c) || !(x.writes c).all (rangeIn c)

/-! ### Exact accumulation (R111 to R120, R278) -/

/-- A value as the arrays multiply it: INT operands as raw codes in exact mode and as q - z in F32 mode (R126, R278). -/
def matOp (f32 : Bool) (f : Fmt) (z : Int) (e : Elem) : Val :=
  if f.isInt then
    (match e.val with | .nan => .nan | _ => .fin (.ofInt (signed f.width e.code - (if f32 then z else 0))))
  else e.val

/-- A product as a term of a quire: its units, or none where it makes the entry NaR, and INV (R119). -/
def quireTerm (q : Quire) (a b : Val) : Option Int × Bool :=
  match a, b with
  | .nan, _ => (none, false)
  | _, .nan => (none, false)
  | .fin x, .fin y => (some (q.units (x.mul y)), false)
  | _, _ => (none, true)

/-- The exact sum of one step (R160). -/
def stepSum (q : Quire) (ps : List (Val × Val)) : Option Int × Bool :=
  ps.foldl (fun (acc : Option Int × Bool) p =>
    let (t, i) := quireTerm q p.1 p.2
    (match acc.1, t with | some u, some v => some (u + v) | _, _ => none, acc.2 || i)) (some 0, false)

/-- An entry as an engine adds into it: its integer, none for NaR; flags; the number of the first addition that left the
real range. -/
structure EntAcc where
  v : Option Int
  fl : Flags
  ovr : Option Nat
  deriving DecidableEq, Repr

/-- One addition into an entry, judged after it (R117 to R119). -/
def EntAcc.add (q : Quire) (n : Nat) (e : EntAcc) (t : Option Int × Bool) : EntAcc :=
  let fl := if t.2 then e.fl.or Flags.INV else e.fl
  match e.v, t.1 with
  | some u, some w =>
    if (q.write (u + w)).2 then { v := none, fl := fl.or { qovf := true }, ovr := some (e.ovr.getD n) }
    else { e with v := some (u + w), fl := fl }
  | _, _ => { e with v := none, fl := fl }

/-- The pairs of a reduction cut into the lane blocks of the fold (R169). -/
def laneBlocks {α : Type} (ls k : Nat) (ps : List α) : List (List α) :=
  (List.range (ceilDiv k ls)).map (fun b => (ps.drop (b * ls)).take ls)

/-- The additions of one launch into one entry: its steps in order, then the INT corrections as one addition (log 36). -/
def exactEntry (q : Quire) (ls k : Nat) (start : EntAcc) (ps : List (Val × Val)) (corr : Option Int) : EntAcc :=
  let e := ((laneBlocks ls k ps).zipIdx).foldl (fun e (p, n) => e.add q n (stepSum q p)) start
  match corr with
  | some w => e.add q (ceilDiv k ls) (some (w * ((2 ^ q.frac : Nat) : Int)), false)
  | none => e

/-- A preload value as an addend of a quire (R122, R123). -/
def preTerm (q : Quire) (v : Val) : Option Int × Bool :=
  match v with
  | .fin x => (some (q.units x), false)
  | .nan => (none, false)
  | .inf _ => (none, true)

/-! ### F32 mode (R125 to R137) -/

/-- An F32-mode entry: its value; held at infinity after an overflow at r = 3 (R135). -/
structure F32Ent where
  v : Val
  held : Bool
  fl : Flags
  deriving DecidableEq, Repr

def roundF32 (v : Val) : Val × Flags := let (c, f) := encodeFP32 .rne v; (decodeFP32 c, f)

/-- One term. None asks for a replay: r is below 3 and the term or the sum overflowed. -/
def f32Term (r : Nat) (e : F32Ent) (a b : Val) : Option F32Ent :=
  if e.held then some e
  else
    let (p0, f0) := a.mul b
    let (p, f1) := roundF32 (match p0 with | .fin x => .fin (x.scale (- (8 * r : Nat))) | w => w)
    let (t, f2) := e.v.add p
    let (u, f3) := roundF32 t
    let fl := ((e.fl.or f0).or f1).or (f2.or f3)
    if f1.ovf || f3.ovf then (if r < 3 then none else some { v := if f1.ovf then p else u, held := true, fl := fl })
    else some { v := u, held := false, fl := fl }

/-- One entry of one pass; `dr` steps of r have been taken in this launch (R133). -/
def f32Entry (r dr : Nat) (start : F32Ent) (ps : List (Val × Val)) : Option F32Ent :=
  let (v, f) := roundF32 (match start.v with | .fin x => .fin (x.scale (- (8 * dr : Nat))) | w => w)
  ps.foldl (fun (e : Option F32Ent) p => e.bind (fun e => f32Term r e p.1 p.2))
    (some (if start.held then start else { v := v, held := false, fl := f }))

/-- Every entry of a pass, or none where one asks for a replay. -/
def f32Pass (r dr : Nat) (tile : List (F32Ent × List (Val × Val))) : Option (List F32Ent) :=
  tile.foldr (fun t acc => match f32Entry r dr t.1 t.2, acc with | some e, some l => some (e :: l) | _, _ => none) (some [])

/-- The passes of a launch: entries, the record's r, replays made (R133, R135). At r = 3 no pass asks for another. -/
def f32Tile (tile : List (F32Ent × List (Val × Val))) : Nat → Nat → Nat → List F32Ent × Nat × Nat
  | 0, r, dr => ((f32Pass 3 dr tile).getD [], r, dr)
  | n + 1, r, dr =>
    match f32Pass r dr tile with
    | some l => (l, r, dr)
    | none => f32Tile tile n (r + 1) (dr + 1)

/-- An F32-mode entry as the accumulator memory holds it: the 32-bit code; bit 32 is the model's mark of a held entry. -/
def F32Ent.code (e : F32Ent) : Nat := (encodeFP32 .rne e.v).1 + (if e.held then 2 ^ 32 else 0)

def f32OfCode (w : Nat) : F32Ent := { v := decodeFP32 w, held := w.testBit 32, fl := {} }

/-! ### One array's share of a launch -/

/-- What a launch leaves in the tile of one array. -/
structure TileOut where
  /-- Entries row by row, as the accumulator memory holds them. -/
  codes : List (List Nat)
  fl : Flags
  r : Nat
  replays : Nat
  /-- First line of the tile row of the first QOVF in fold order (R118, R682). -/
  overLine : Option Nat
  mag : Option Num
  deriving DecidableEq, Repr

/-- Zero point of the channel of row or column k of an INT operand. -/
def State.chanZp (s : State) (c cat : Nat) (each : Bool) (k : Nat) : Int := (s.catEnt c (cat + if each then k else 0)).zp

def State.chanVal (s : State) (c cat : Nat) (each : Bool) (k : Nat) : Val :=
  (s.catEnt c (cat + if each then k else 0)).val

/-- Uncorrectable words in the tile's lines (R186). -/
def State.tileUe (s : State) (c a : Nat) (x : MatDesc) : List Nat :=
  if s.errs.isEmpty then []
  else (List.range (16 * x.tileRows * x.lines)).filterMap (fun k =>
    let off := a * 0x20000 + 128 * x.trow + 8 * k
    if sget (fun _ => 0) s.errs (cwName (2 * 4096 + c) off) = 2 then some off else none)

/-- The column sum of column j: 0 where no vector is read; none where its word is uncorrectable (R279, R429). -/
def State.colSum (s : State) (c : Nat) (x : MatDesc) (j : Nat) : Option Int :=
  let a := localAddr c x.csAddr + 4 * j
  if !x.usesCs then some 0 else if s.ueIn a 4 then none else some (signed 32 (ofLeBytes (s.readBytes 0 a 4)))

/-- The tile of array a after the launch's steps, from the loaded operands. A position of a KEEP launch to which the record's
launches gave no entry continues from what the memory holds there (log 86). -/
def State.matTile (s : State) (c a : Nat) (x : MatDesc) (la lb : Loaded) : TileOut :=
  let q := x.op.quire
  let za (i : Nat) : Int := if x.op.isInt then s.chanZp c x.aXcat x.aXch i else 0
  let zb (j : Nat) : Int := if x.op.isInt then s.chanZp c x.bXcat x.bXch j else 0
  let rowsA := la.rows.zipIdx.map (fun (r, i) => r.map (matOp x.f32 x.op (za i)))
  let colsB := (List.range x.n).map (fun j => lb.rows.map (fun r =>
    matOp x.f32 x.op (zb j) (r.getD j { code := 0, val := .fin .zero, ue := false })))
  let sumA := la.rows.map (fun r => (r.map (fun e => signed x.op.width e.code)).foldl (· + ·) 0)
  let tp := x.tensorP c a
  let lp : Loaded := if x.init < 2 || x.pre = .qfull then { rows := [], fl := {}, mag := none } else s.load c tp x.pre
  let opUe := s.ueIn (x.tensorB c).addr (x.bytesOf (x.tensorB c)) || s.ueIn (x.tensorA c a).addr (x.bytesOf (x.tensorA c a))
  let amUe := x.init = 1 && !(s.tileUe c a x).isEmpty
  let old (i j : Nat) : Nat := (sget (fun _ => 0) s.am (x.key c a i j)).toNat
  let pi (i : Nat) : Nat := if x.init = 3 then 0 else i
  let preQ (i j : Nat) : Option Int :=
    let ad := tp.addr + (pi i * x.n + j) * x.entryBytes
    if s.ueIn ad x.entryBytes then none else q.read (ofLeBytes (s.readBytes 0 ad x.entryBytes))
  let cells := (List.range x.m).map (fun i => (List.range x.n).map (fun j => (i, j)))
  let pairs (i j : Nat) : List (Val × Val) := (rowsA.getD i []).zip (colsB.getD j [])
  let fl0 := (la.fl.or lb.fl).or lp.fl
  let rec0 := (s.tiles.find? (fun p => p.1 = tileKey c a x.rid)).map (·.2)
  if x.f32 then
    let start (i j : Nat) : F32Ent :=
      match x.init with
      | 0 => { v := .fin .zero, held := false, fl := {} }
      | 1 => if amUe then { v := .nan, held := false, fl := {} } else f32OfCode (old i j)
      | _ => { v := (lp.at (pi i) j).val, held := false, fl := {} }
    let r0 := if x.init = 1 then (rec0.map (·.replays)).getD 0 else 0
    let (es, r, n) := f32Tile (cells.flatten.map (fun (i, j) => (start i j, pairs i j))) 4 r0 0
    let codes := cells.map (fun row => row.map (fun (i, j) =>
      if opUe then 0x7FC00000 else ((es.getD (i * x.n + j) { v := .nan, held := false, fl := {} }).code)))
    let cnt := (if x.init = 1 then (rec0.map (·.count)).getD 0 else if 2 ≤ x.init then 1 else 0) + x.k
    { codes := codes, r := r, replays := n, overLine := none, mag := la.mag,
      fl := (orFlags (fl0 :: es.map (·.fl))).or { longsum := decide (2 ^ 20 < cnt), replay := decide (0 < n) } }
  else
    let start (i j : Nat) : EntAcc :=
      match x.init with
      | 0 => { v := some 0, fl := {}, ovr := none }
      | 1 => { v := if amUe then none else q.read (old i j), fl := {}, ovr := none }
      | _ =>
        let (v, inv) := if x.pre = .qfull then (preQ i j, false) else preTerm q (lp.at (pi i) j).val
        { v := v, fl := if inv then Flags.INV else {}, ovr := none }
    let ent (i j : Nat) : EntAcc :=
      let corr : Option Int :=
        if x.op.isInt then
          some (- zb j * sumA.getD i 0 - za i * ((s.colSum c x j).getD 0) + (x.k : Int) * za i * zb j)
        else none
      exactEntry q x.lanes x.k (start i j) (pairs i j) corr
    let es := cells.map (fun row => row.map (fun (i, j) => (i, j, ent i j)))
    let nkb := ceilDiv x.k x.lanes
    let fold (i j n : Nat) : Nat :=
      ((if n = nkb then ceilDiv x.n x.units * nkb else j / x.units * nkb + n) * x.m + i) * x.n + j
    let overs := es.flatten.filterMap (fun (i, j, e) => e.ovr.map (fun n => (fold i j n, x.trow + (x.place i j).1 * x.lines)))
    let first := overs.foldl (fun (b : Option (Nat × Nat)) o => match b with
      | some p => if o.1 < p.1 then some o else b
      | none => some o) none
    { codes := es.map (fun row => row.map (fun (_, j, e) =>
        if opUe || (s.colSum c x j).isNone then q.nar else match e.v with | some v => (q.write v).1 | none => q.nar)),
      fl := orFlags (fl0 :: es.flatten.map (fun (_, _, e) => e.fl)), r := 0, replays := 0, overLine := first.map (·.2),
      mag := la.mag }

/-! ### The epilogue (R138 to R147) -/

/-- An output before its final rounding: a value, or a held entry with its sign (R135). -/
inductive EpiVal where
  | val (y : Val) (f : Flags)
  | held (neg : Bool)
  deriving DecidableEq, Repr

/-- R135: the saturated value that a held entry is written as. The table of R135 has no row for FP64: FP32's largest finite
magnitude stands there (DESIGN CHOICE, log 86). -/
def heldCode (f : Fmt) (neg : Bool) : Nat :=
  match f with
  | .int8 | .int4 => if neg then 2 ^ (f.width - 1) else 2 ^ (f.width - 1) - 1
  | .fp64 => (encodeFP64 .rne (decodeFP32 (if neg then 0xFF7FFFFF else 0x7F7FFFFF))).1
  | _ => let (_, mx, _) := fmtRange f; (encodeFmt f .rne true (.fin (withSign neg mx))).1

/-- R139 to R144, R280: the exact y of output element (i, j). -/
def State.epiVal (s : State) (c : Nat) (x : MatDesc) (r : Nat) (bias : Loaded) (code i j : Nat) : EpiVal :=
  let e := f32OfCode code
  if x.f32 && e.held then .held (match e.v with | .inf s => s | .fin v => v.isNeg | .nan => false)
  else
    let v : Val := if x.f32 then (match e.v with | .fin y => .fin (y.scale (8 * r : Nat)) | w => w) else x.op.quire.val code
    match v with
    | .nan => .val .nan {}
    | v =>
      let k := x.ecat + (match x.esc with | 2 => j | 3 => i | _ => 0)
      let bad := decide (x.esc ≠ 0) && (s.catEnt c k).bad
      let sg : Val := if x.esc = 0 then .fin (.ofInt 1) else (s.catEnt c k).val
      let (s1, f1) := if x.op.isInt then sg.mul (s.chanVal c x.aXcat x.aXch i) else (sg, {})
      let (s2, f2) := if x.op.isInt then s1.mul (s.chanVal c x.bXcat x.bXch j) else (s1, {})
      let (t, f3) := s2.mul v
      let b : Val := match x.ebias with
        | 0 => .fin .zero
        | 1 => (bias.at 0 j).val
        | 2 => (bias.at i 0).val
        | _ => (bias.at i j).val
      let (y, f4) := t.add b
      .val y ((if bad then Flags.INV else {}).or ((f1.or f2).or (f3.or f4)))

/-- R146, R147: the pair of an exact y, and its flags. An E4M3 overflow with SAT = 0 leaves NaN in hi and, by the first
bullet of R147, in lo (log 86). -/
def pairCodes (f : Fmt) (sat : Bool) (rh rl : Rnd) (y : Val) : Nat × Nat × Flags :=
  let (hi, fh) := encodeFmt f rh sat y
  let keep : Flags := { inv := fh.inv }
  match decodeFmt f hi with
  | .nan => (hi, hi, { keep with ovf := fh.ovf })
  | .inf _ => (hi, 0, { keep with ovf := fh.ovf })
  | .fin h =>
    if fh.ovf then (hi, 0, { keep with ovf := true })
    else match y with
      | .fin v =>
        let rest := v.sub h
        if rest.isZero then (hi, 0, keep)
        else let (lo, fl) := encodeFmt f rl sat (.fin rest); (hi, lo, { keep with inx := fl.inx, unf := fl.unf })
      | _ => (hi, 0, keep)

/-- The epilogue of array a: byte runs of the outputs, flags, largest |y|. Under OPAIR the lo of a held entry is 0
(log 86). -/
def State.matEpilogue (s : State) (c a : Nat) (d : Desc) (x : MatDesc) (t : TileOut) : Stored :=
  let o := x.tensorO c a x.oAddr
  if x.out = .qfull then
    { runs := [(o.addr, t.codes.flatten.flatMap (fun q => leBytes x.entryBytes q))], fl := {},
      mag := maxMag (t.codes.flatten.map x.op.quire.val) }
  else
    let bias : Loaded := if x.ebias = 0 then { rows := [], fl := {}, mag := none } else s.load c (x.tensorBias c a) x.bias
    let ys := t.codes.zipIdx.map (fun (row, i) => row.zipIdx.map (fun (q, j) => s.epiVal c x t.r bias q i j))
    let y (i j : Nat) : EpiVal := (ys.getD i []).getD j (.held false)
    let ctx := s.rndCtx d
    let rnd (part i j : Nat) : Rnd := ctx.at a part (i * x.n + j)
    let yv (e : EpiVal) : Val := match e with | .val v _ => v | .held _ => .nan
    let yf := orFlags (bias.fl :: ys.flatten.map (fun e => match e with | .val _ f => f | .held _ => {}))
    let mag := maxMag (ys.flatten.map yv)
    if x.opair then
      let pr (i j : Nat) : Nat × Nat × Flags :=
        match y i j with
        | .held neg => (heldCode x.out neg, 0, {})
        | .val v _ => pairCodes x.out d.sat (rnd 0 i j) (rnd 1 i j) v
      let ps := (List.range x.m).map (fun i => (List.range x.n).map (fun j => pr i j))
      let run (addr : Nat) (g : Nat × Nat × Flags → Nat) : List (Nat × List Byte) :=
        let ot := x.tensorO c a addr
        ps.zipIdx.map (fun (r, i) => (ot.addr + i * ot.rowBytes, packRow x.out (r.map g)))
      { runs := run x.oAddr (·.1) ++ run x.pairAddr (fun p => p.2.1),
        fl := orFlags (yf :: ps.flatten.map (fun p => p.2.2)), mag := mag }
    else
      let ak6 := s.flag (pgVec c) Reg.VEC_SFU_CTL_AK6
      let act (v : Val) : SfuVal :=
        match v with
        | .nan => .fixed .nan {}
        | v => if x.eact = 0 then .fixed v {} else sfuEval (ak6 && ak6Set x.eact) x.eact v.toW
      let rs := ys.map (fun row => row.map (fun e => act (yv e)))
      let vals := rs.map (fun row => row.map (·.value))
      let st : Store := { t := o, sat := d.sat, blockmax := x.blockmax, scat := x.scat }
      let w := s.storeWith c st vals (rnd 0) (fun i j oc =>
        match y i j with
        | .held neg => (heldCode x.out neg, {})
        | .val .nan _ => oc.encode .nan
        | .val v _ => if x.eact = 0 then oc.encode v else sfuResult ak6 x.eact .qfull oc v.toW)
      { runs := w.runs, fl := orFlags (yf :: w.fl :: rs.flatten.map (·.flags)), mag := mag }

/-! ### Timing (R173, R174, R185 to R189, R197 to R200) -/

/-- λ of R174. -/
def MatDesc.lambda (x : MatDesc) : Nat := (match x.op.width with | 16 => 8 | 32 => 10 | _ => 6) + (if x.f32 then 4 else 0)

/-- Unit blocks and lane blocks of the fold (R169). -/
def MatDesc.nbs (x : MatDesc) : Nat := ceilDiv x.n x.units

def MatDesc.kbs (x : MatDesc) : Nat := ceilDiv x.k x.lanes

/-- Cycles(G) of each step of weight tile (kb, nb): as the weight scale port delivers its block scales (R173). -/
def MatDesc.gap (x : MatDesc) (nb kb : Nat) : Nat :=
  if !x.op.isSP then 1
  else
    let spans (lo hi : Nat) : Nat := (hi - 1) / x.bBlk - lo / x.bBlk + 1
    let u0 := nb * x.units
    let u1 := min x.n (u0 + x.units)
    let k0 := kb * x.lanes
    let k1 := min x.k (k0 + x.lanes)
    max 1 (ceilDiv (if x.bDir then (u1 - u0) * spans k0 k1 else (k1 - k0) * spans u0 u1) 128)

/-- Cycles(G) of the steps of unit block nb from lane block `from_` on. -/
def MatDesc.blockCycles (x : MatDesc) (nb from_ : Nat) : Nat :=
  if !x.op.isSP then x.m * (x.kbs - from_)
  else ((List.range (x.kbs - from_)).map (fun i => x.m * x.gap nb (from_ + i))).foldl (· + ·) 0

/-- Cycles(G) of the steps of one pass without a stall. -/
def MatDesc.stepCycles (x : MatDesc) : Nat := ((List.range x.nbs).map (fun nb => x.blockCycles nb 0)).foldl (· + ·) 0

/-- Cycles(G) of tile row ρ on the output path (R187). -/
def MatDesc.rowCycles (x : MatDesc) (r : Nat) : Nat :=
  let outs := min x.units (x.n - r % x.nbs * x.units) * min x.wide (x.m - r / x.nbs * x.wide)
  let w := if x.out = .qfull then 8 * x.entryBytes else x.out.width
  max 1 (ceilDiv (ceilDiv (outs * w) 8 * (if x.opair then 2 else 1)) 128)

/-- For every tile row, the cycles(G) of the rows before it: when it is read, counted from the start of the epilogue. -/
def MatDesc.rowStarts (x : MatDesc) : List Nat :=
  ((List.range x.tileRows).foldl (fun (acc : List Nat × Nat) r => (acc.2 :: acc.1, acc.2 + x.rowCycles r)) ([], 0)).1.reverse

/-- The SFU grants of epilogues, one a cycle(G) (R188): array, instants in cycles(G) from which its tile rows ask, grants
that the first of them still lacks. `taken` are cycles given before. The cycles granted, latest first. -/
def sfuGrantRun (mult : Nat) (taken : Nat → Bool) : Nat → Nat → Nat → List (Nat × List Nat × Nat) → List Nat → List Nat
  | 0, _, _, _, out => out
  | n + 1, t, last, q, out =>
    let q := q.filter (fun x => !x.2.1.isEmpty)
    if taken t then sfuGrantRun mult taken n (t + 1) last q out
    else
      let asks := q.filter (fun x => decide (x.2.1.headD 0 ≤ t))
      match asks with
      | [] =>
        match q with
        | [] => out
        | y :: ys => sfuGrantRun mult taken n (ys.foldl (fun m x => min m (x.2.1.headD 0)) (y.2.1.headD 0)) last q out
      | a :: _ =>
        let x := (asks.find? (fun x => decide (last < x.1))).getD a
        let left := if x.2.2 ≤ 1 then (x.2.1.tail, mult) else (x.2.1, x.2.2 - 1)
        sfuGrantRun mult taken n (t + 1) x.1 (q.map (fun y => if y.1 = x.1 then (y.1, left.1, left.2) else y)) (t :: out)

/-- Cycles(G) from the launch instant to the completion of a launch whose epilogues start at the given cycles (R187 to R189),
and the cycles of the SFU that they take. -/
def MatDesc.epiRun (x : MatDesc) (taken : Nat → Bool) (busyTaken : Nat) (epis : List (Nat × Nat)) : Nat × List Nat :=
  let starts := x.rowStarts
  let latest := (epis.map (·.2)).foldl max 0
  if x.eact = 0 then (latest + 4 + (starts.getLast?.getD 0) + 1, [])
  else
    let mult := if x.eact = 15 then 2 else 1
    let q := epis.map (fun (a, e) => (a, starts.map (fun r => e + 4 + r), mult))
    let fuel := 2 * (epis.length * x.tileRows * (mult + 1)) + busyTaken + 2
    let g := sfuGrantRun mult taken fuel 0 4 q []
    (g.headD latest + (if x.eact = 15 then 24 else 12), g.reverse)

/-- Cycles(G) by which the rise to level 8 delays the launch (R199, R314): the whole rise with ASREADY; of a scheduled
launch what is left of it since the descriptor was fetched (log 83). The descriptor has left the queue. -/
def State.rampCycles (s : State) (c : Nat) (d : Desc) (x : MatDesc) : Nat :=
  let rise (lv : Nat → Nat) : Nat := ((arraysOf x.amask).map (fun a => 4 * (8 - lv a))).foldl max 0
  let need := rise (s.shownLevel c)
  if d.asready then need
  else min need (rise (fun a => s.getF (pgArr c) (arrLevel a)) - s.cyclesIn c (s.now - d.seen))

/-! ### Stalls behind an earlier epilogue (R185) -/

/-- The instants at which epilogues still to come, and those in progress, read accumulator lines of array a: first line, last
line plus 1, instant. -/
def State.epiReads (s : State) (c a : Nat) : List (Nat × Nat × Nat) :=
  (s.clu c).launches.flatMap (fun l =>
    match l.desc.mat with
    | none => []
    | some x => (l.epis.filter (fun e => e.arr = a)).flatMap (fun e =>
        x.rowStarts.zipIdx.map (fun (n, r) =>
          (x.trow + r * x.lines, x.trow + (r + 1) * x.lines, e.at_ + s.cyc c n))))

/-- The stalls of a launch on one array, in cycles(G) from its launch instant `t0`: a step into a tile row that an earlier
epilogue still reads waits for the cycle after that read (log 59). The first lane block of each unit block meets them; the
rest follow without one. -/
def State.stallRun (s : State) (c a t0 : Nat) (x : MatDesc) : List (Nat × Nat) :=
  let rds := s.epiReads c a
  if rds.isEmpty then []
  else
    let wait (r : Nat) : Nat :=
      let lo := x.trow + r * x.lines
      let t := ((rds.filter (fun p => decide (p.1 < lo + x.lines) && decide (lo < p.2.1))).map (fun p => p.2.2)).foldl max 0
      if t < t0 then 0 else s.cyclesIn c (t - t0) + 1
    ((List.range x.nbs).foldl (fun (acc : Nat × List (Nat × Nat)) nb =>
      let (t, out) := (List.range x.m).foldl (fun (acc : Nat × List (Nat × Nat)) i =>
        let w := wait (x.place i (nb * x.units)).1
        if acc.1 < w then (w + x.gap nb 0, acc.2 ++ [(acc.1, w)]) else (acc.1 + x.gap nb 0, acc.2)) acc
      (t + x.blockCycles nb 1, out)) (0, [])).2

/-- Cycles(G) of a stall in which the level of the array is 0 (R200). -/
def stallDark (n : Nat) : Nat := n - 90

/-! ### The commands -/

/-- Entries and record of array a as the launch leaves them (R180, R181, R130). -/
def State.putTile (s : State) (c a : Nat) (x : MatDesc) (t : TileOut) : State :=
  let am := t.codes.zipIdx.foldl (fun m (row, i) => row.zipIdx.foldl (fun m (q, j) =>
    sset (fun _ => 0) m (x.key c a i j) (BitVec.ofNat 512 q)) m) s.am
  let k := tileKey c a x.rid
  let old := (s.tiles.find? (fun p => p.1 = k)).map (·.2)
  let cnt := (if x.init = 1 then (old.map (·.count)).getD 0 else if 2 ≤ x.init then 1 else 0) + x.k
  let hi := x.trow + x.tileRows * x.lines
  let clash (p : Nat × TileRec) : Bool :=
    let lr := if p.2.f32 then 1 else p.2.width / 32
    p.1 / 64 = 4 * c + a && decide (p.1 ≠ k) && decide (p.2.trow < hi) && decide (x.trow < p.2.trow + p.2.rows * lr)
  let tiles := if x.init = 1 then s.tiles else s.tiles.filter (fun p => !clash p)
  let r : TileRec := { f32 := x.f32, width := x.op.quire.width, trow := x.trow, rows := x.tileRows, shape := x.units,
                       m := x.m, n := x.n, count := cnt, replays := t.r }
  let o := a * 0x20000 + 128 * x.trow
  let errs := if x.init = 1 then s.errs
    else sclear s.errs (cwName (2 * 4096 + c) o) (cwName (2 * 4096 + c) (o + 128 * x.tileRows * x.lines))
  { s with mems.am := am, mems.tiles := sput tiles k r, mems.errs := errs }

/-- The code of a NaR entry. -/
def MatDesc.narCode (x : MatDesc) : Nat := if x.f32 then 0x7FC00000 else x.op.quire.nar

/-- R186: a read finds uncorrectable words in the tile of array a: each is reported, and every entry of the tile is NaR. The
error marks stay (R429). The words' offsets name array and line; no register or datum holds RID (log 62). -/
def State.spoilTile (s : State) (c a : Nat) (x : MatDesc) (ue : List Nat) : State :=
  let s := ue.foldl (fun s off => s.foundUE (2 * 4096 + c) off 3) s
  let am := (List.range x.m).foldl (fun m i => (List.range x.n).foldl (fun m j =>
    sset (fun _ => 0) m (x.key c a i j) (BitVec.ofNat 512 x.narCode)) m) s.am
  { s with mems.am := am }

/-- What the epilogue of array a writes and sets, from the entries of the tile. -/
def State.epiEffs (s : State) (c a : Nat) (d : Desc) (x : MatDesc) (t : TileOut) : List Eff :=
  let w := s.matEpilogue c a d x t
  w.effs ++ [.arrFlags a w.fl.word] ++ d.report 2 w.mag

/-- What array a contributes: the state with its tile, the effects of its steps, of its epilogue, and its replays. -/
def State.matArray (s : State) (c a : Nat) (d : Desc) (x : MatDesc) (lb : Loaded) : State × List Eff × List Eff × Nat :=
  let la := s.load c (x.tensorA c a) x.op
  let t := s.matTile c a x la lb
  let w := if x.fin then s.epiEffs c a d x t else []
  let ue := if x.init = 1 then s.tileUe c a x else []
  let s := ue.foldl (fun s off => s.foundUE (2 * 4096 + c) off 3) s
  let effs := (match t.overLine with | some l => [Eff.arrQcap a l x.rid] | none => [])
    ++ [.arrFlags a t.fl.word, .count (pgArr c) (Reg.ARR_CNT_STEP a) (x.steps * (1 + t.replays)),
        .count (pgArr c) Reg.ARR_CNT_REPLAY t.replays, .count (pgArr c) Reg.ARR_CNT_WREAD (x.wreads * t.replays)]
    ++ d.report 1 t.mag
  (s.putTile c a x t, effs, w, t.replays)

/-- One array of a launch in progress: its number, effects of its steps and of its epilogue, replays, stalls in cycles(G)
from the launch instant. -/
structure MatRun where
  arr : Nat
  effs : List Eff
  epi : List Eff
  replays : Nat
  stalls : List (Nat × Nat)
  deriving DecidableEq, Repr

def MatRun.stalled (r : MatRun) : Nat := (r.stalls.map (fun p => p.2 - p.1)).foldl (· + ·) 0

/-- Cycles(G) from the launch instant to the end of the array's last step: every pass, 16 cycles before each replay (R134),
the stalls. -/
def MatRun.busy (r : MatRun) (x : MatDesc) : Nat := x.stepCycles * (1 + r.replays) + 16 * r.replays + r.stalled

/-- Cycles(G) of ballast within the launch: those without a step, at a level above 0 (R203). -/
def MatRun.ballast (r : MatRun) (x : MatDesc) : Nat :=
  r.busy x - x.steps * (1 + r.replays) - (r.stalls.map (fun p => stallDark (p.2 - p.1))).foldl (· + ·) 0

/-- The counts of stalls and ballast of array a that a launch brings at its completion; the rise before it is `ramp` cycles
long, 31 at most from level 0 (log 83). -/
def MatRun.counts (r : MatRun) (c lv ramp : Nat) (x : MatDesc) : List Eff :=
  [.count (pgArr c) (Reg.ARR_CNT_STALL r.arr) r.stalled,
   .count (pgArr c) (Reg.ARR_CNT_BALLAST r.arr) ((if lv = 0 then min 31 ramp else ramp) + r.ballast x)]

/-- The activity of array `a` from the issue of a launch on (R197 to R200): the rise to level 8 at `t0`, the hold after the
last step; the ballast of the idle time is counted. -/
def State.levelGo (s : State) (c t0 ramp : Nat) (x : MatDesc) (r : MatRun) : State :=
  let lv := s.getF (pgArr c) (arrLevel r.arr)
  let from_ := max (s.shownLevel c r.arr) (8 - ceilDiv ramp 4)
  let since := s.cyclesIn c (s.now - (s.clu c).ballAt.getD r.arr 0)
  let s := s.count (pgArr c) (Reg.ARR_CNT_BALLAST r.arr) (if lv = 0 then min since (31 - min 31 ramp) else since)
  let k := s.clu c
  (s.setClu c { k with rise := k.rise.set r.arr (t0, from_),
                       levelAt := k.levelAt.set r.arr (t0 + s.cyc c (r.busy x - 1)),
                       ballAt := k.ballAt.set r.arr (t0 + s.cyc c (r.busy x)) }).setF (pgArr c) (arrLevel r.arr) 8

/-- The SFU is taken in some cycles by array epilogues: class-2 launches in progress go on later (R233). -/
def State.takeSfu (s : State) (c : Nat) (cyc : List Nat) : State :=
  if cyc.isEmpty then s
  else
    let k := s.clu c
    let one := s.cyc c 1
    let late (l : Launch) : Nat := if l.cls = 2 then (sfuLost one s.now l.epiAt cyc).2 else 0
    let most := (k.launches.map late).foldl max 0
    s.setClu c { k with
      sfuTaken := k.sfuTaken.filter (fun g => decide (s.now ≤ g)) ++ cyc,
      launches := k.launches.map (fun l =>
        if late l = 0 then l
        else { l with epiAt := l.epiAt + one * late l, due := l.due + one * late l,
                      effs := l.effs ++ [.count (pgVec c) Reg.VEC_CNT_SFUWAIT (late l)] }),
      veFree := k.veFree + one * most, sfuFree := k.sfuFree + one * most }

/-- The effects that a launch brings whatever its arrays do. -/
def State.matOwn (s : State) (c : Nat) (d : Desc) (x : MatDesc) : List Eff :=
  [.count (pgArr c) Reg.ARR_CNT_WREAD x.wreads]
    ++ (if x.fin && decide (x.eact ≠ 0) then
          [.count (pgVec c) Reg.VEC_CNT_SFU (x.m * x.n * (if x.eact = 15 then 2 else 1) * (arraysOf x.amask).length)]
        else [])
    ++ (if s.freeRunning d then [.varied] else [])

/-- What issuing a matrix launch does. -/
def State.matGo (s : State) (c : Nat) (d : Desc) (x : MatDesc) (holds : List DepRange) : State :=
  let lb := s.load c (x.tensorB c) x.op
  let s0 := (x.reads c).foldl (fun s r => s.touch r.1 r.2 2) s
  let s0 := s0.touchCats c 5 ((x.cats.flatMap (fun p => (List.range p.2).map (fun i => p.1 + i))).eraseDups)
  let ramp := s.rampCycles c d x
  let t0 := (s.clu c).lastIssue + s.cyc c ramp
  let (s1, runs) := (arraysOf x.amask).foldl (fun (acc : State × List MatRun) a =>
    let (t, es, ws, n) := acc.1.matArray c a d x lb
    (t, acc.2 ++ [{ arr := a, effs := es, epi := ws, replays := n, stalls := s.stallRun c a t0 x }])) (s0, [])
  let most := (runs.map (fun r => r.busy x)).foldl max 0
  let epis := runs.map (fun r => (r.arr, r.busy x - 1 + x.lambda))
  let one := s.cyc c 1
  let taken (t : Nat) : Bool := (s.clu c).sfuTaken.any (fun g => decide (g < t0 + s.cyc c t + one) && decide (t0 + s.cyc c t < g + one))
  let (endAt, grants) := if x.fin then x.epiRun taken (s.clu c).sfuTaken.length epis
    else ((epis.map (·.2)).foldl max 0, [])
  let effs := runs.flatMap (fun r => r.effs ++ r.counts c (s.getF (pgArr c) (arrLevel r.arr)) ramp x) ++ s.matOwn c d x
  let s2 := (runs.foldl (fun (s : State) r => s.levelGo c t0 ramp x r) (s1.count (pgDoc c) Reg.DOC_CNT_WAIT ramp)).takeSfu c
    (grants.map (fun g => t0 + s.cyc c g))
  let s2 := if s.freeRunning d then { s2 with draw := s2.draw + 1 } else s2
  let k := s2.clu c
  let s2 := s2.setClu c { k with lastIssue := t0,
                                 arrFree := k.arrFree.zipIdx.map (fun (t, a) => if x.amask.testBit a then t0 + s.cyc c most else t) }
  let er : List EpiRun := if x.fin then (runs.zip epis).map (fun (r, e) =>
      { arr := r.arr, at_ := t0 + s.cyc c e.2, begun := false, effs := r.epi }) else []
  let first := (epis.tail.map (·.2)).foldl min ((epis.head?.map (·.2)).getD 0)
  s2.addLaunch c d holds endAt first 0 x.amask effs er
    (runs.flatMap (fun r => r.stalls.map (fun p => (r.arr, t0 + s.cyc c p.1, t0 + s.cyc c p.2))))

/-- The plan of a MATMUL. -/
def matPlan (c : Nat) (s : State) (d : Desc) : Plan :=
  match d.mat with
  | none => { bad := true, reads := [], holds := [], free := true, go := id }
  | some x =>
    let rd := (x.reads c).map (fun r => ({ cat := false, lo := r.1, hi := r.1 + r.2, writes := false } : DepRange))
    let ct := x.cats.map (fun p => depCat p.1 p.2 false)
    let wr := (x.writes c).map (fun r => ({ cat := false, lo := r.1, hi := r.1 + r.2, writes := true } : DepRange))
    { bad := s.badMat c d x, reads := rd ++ ct, holds := wr,
      free := !s.wsHeld c && (arraysOf x.amask).all (fun a => decide ((s.clu c).arrFree.getD a 0 ≤ s.now)),
      go := fun t => t.matGo c d x wr }

/-- MATMUL (R111 to R186, R321). -/
def execMatmul (c : Nat) (s : State) : Result := .next (s.tryIssue c 0 1 (matPlan c))

/-- The first epilogue of a launch that is due and has not begun. -/
def Launch.nextEpi (l : Launch) (now : Nat) : Option EpiRun :=
  if l.cls = 0 then l.epis.find? (fun e => !e.begun && decide (e.at_ ≤ now)) else none

/-- The launch with the epilogue of one array begun, whose effects at its completion join its own. -/
def Launch.beginEpi (l : Launch) (e : EpiRun) (effs : List Eff) : Launch :=
  let epis := l.epis.map (fun x => if x.arr = e.arr then { x with begun := true, effs := [] } else x)
  { l with epis := epis, phase := if epis.all (·.begun) then 1 else 0, effs := l.effs ++ effs.filter (fun x => !x.isMem) }

/-- The effects of an epilogue as it reads the tile: a tile that holds an uncorrectable word has become NaR (R144, R186). -/
def State.epiNow (s : State) (c : Nat) (l : Launch) (e : EpiRun) : State × List Eff :=
  match l.desc.mat with
  | none => (s, e.effs)
  | some x =>
    let ue := s.tileUe c e.arr x
    if ue.isEmpty then (s, e.effs)
    else
      let s := s.spoilTile c e.arr x ue
      let t : TileOut := { codes := List.replicate x.m (List.replicate x.n x.narCode), fl := {}, r := 0, replays := 0,
                           overLine := none, mag := none }
      (s, s.epiEffs c e.arr l.desc x t)

/-- EPILOGUE_START (R167, R183, R186, R187): every entry of the tile of one array is final; its epilogue reads its tile rows
and writes the outputs (log 64). -/
def execEpilogueStart (c : Nat) (s : State) : Result :=
  match (s.clu c).launches.find? (fun l => (l.nextEpi s.now).isSome) with
  | none => .next s
  | some l =>
    match l.nextEpi s.now with
    | none => .next s
    | some e =>
      let (s, effs) := s.epiNow c l e
      let outs := effs.filter Eff.isMem
      let s := (s.applyEffs c l.slot outs).addUnits c (2 * l.seq) (storeUnits false (memRuns outs))
      let k := s.clu c
      .next (s.setClu c { k with launches := k.launches.map (fun m => if m = l then l.beginEpi e effs else m) })

/-- The causes of R131 and R157 that a completing launch brings: bit 0 LONGSUM, bit 1 QOVF. -/
def State.matCauses (s : State) (c : Nat) (l : Launch) : List Nat :=
  let fl := l.effs.foldl (fun n e => match e with | .arrFlags _ w => n ||| w | _ => n) 0
  (if fl.testBit 5 && s.flag (pgArr c) Reg.ARR_TRAP_EN_LONGSUM then [0] else [])
    ++ (if fl.testBit 4 && s.flag (pgArr c) Reg.ARR_TRAP_EN_QOVF then [1] else [])

/-- MATRIX_LAUNCH_COMPLETE (R131, R157, R189, R190): flags are set, entries released; one SEQ_TRAP with every cause. -/
def execMatrixLaunchComplete (c : Nat) (s : State) : Result :=
  match (s.clu c).launches.find? (fun l => l.cls = 0 && decide (l.due ≤ s.now) && (l.phase = 1 || l.epis.isEmpty)) with
  | none => .next s
  | some l =>
    let causes := s.matCauses c l
    let t := s.finish c l
    match causes with
    | [] => .next t
    | [b] => .next (t.trap c b l.slot none)
    | b :: _ =>
      .next ((t.setF (pgDoc c) Reg.DOC_TRAP_CAUSE (t.getF (pgDoc c) Reg.DOC_TRAP_CAUSE ||| 3)).trap c b l.slot none)

/-- ACTIVITY_LEVEL_STEP (R197, R200): after the hold of 32 cycles(G), and then every 4, the level falls by one, but not
below what the next scheduled launch needs. At level 0 the ballast of the hold and the fall is counted. -/
def execActivityLevelStep (c a : Nat) (s : State) : Result :=
  let k := s.clu c
  let a := a % 4
  let lv := s.getF (pgArr c) (arrLevel a)
  let at_ := k.levelAt.getD a 0
  let hold := if lv = 8 then 32 else 4
  let need := match s.nextLaunch c a with | some (n, _) => 8 - n / 4 | none => 0
  if lv = 0 || decide (s.now < at_ + s.cyc c hold) || decide (lv ≤ need) then .next s
  else
    let s := if lv = 1 then s.count (pgArr c) (Reg.ARR_CNT_BALLAST a) (s.ballPending c a) else s
    .next ((s.setClu c { k with levelAt := k.levelAt.set a (at_ + s.cyc c hold),
                                ballAt := if lv = 1 then k.ballAt.set a s.now else k.ballAt }).setF (pgArr c) (arrLevel a) (lv - 1))

end Sys2Proof.Machine
end

