-- ==== Sys2Proof/Machine/Engines.lean ====
section
/-! DEFINITION. Classes 7 and 8: the Restorer (R290 to R302, R330) and the Conservator (R331 to R334, R685 to R687), one
engine of each a region, which serve their launches one at a time in order of issue. -/
namespace Sys2Proof.Machine

/-! ### What both engines share (R299, R333) -/

/-- A range that an engine of region r may name (R292, R334, R401, R612): cluster memory of the region, or plain memory,
which Foyer service does not offer. -/
def State.engRange (s : State) (r a n : Nat) : Bool :=
  match cluRange s.part a n with
  | some c => regionOf c = r
  | none => s.full && s.plain a n

/-- The clusters whose weight store holds a range. -/
def wsOf (p : PartNo) (rs : List (Nat × Nat)) : List Nat :=
  (rs.filterMap (fun (q : Nat × Nat) => match addrKind p q.1 with | .ws c _ => some c | _ => none)).eraseDups

/-- The part of a device range that is local to cluster c (R315). -/
def depHere (c : Nat) (w : Bool) (q : Nat × Nat) : List DepRange :=
  if cluBase + c * 0x800000 ≤ q.1 && decide (q.1 < cluBase + (c + 1) * 0x800000) then
    [{ cat := false, lo := q.1, hi := q.1 + q.2, writes := w }]
  else []

/-- The next launch in order of issue; in one cycle(G), the lowest cluster first (R299). -/
def firstService : List Service → Option Service
  | [] => none
  | x :: xs => match firstService xs with
    | none => some x
    | some y => some (if decide (y.issued < x.issued) || (y.issued = x.issued && decide (y.cluster < x.cluster)) then y else x)

/-- The launch enters its cluster's table and the engine's queue: `put` queues it. -/
def State.queueService (s : State) (c : Nat) (d : Desc) (holds : List DepRange) (ws : List Nat) (rdir : Nat)
    (hyper : List Nat) (put : Region → Service → Region) : State :=
  let k := s.clu c
  let x : Service := { cluster := c, seq := k.issued, desc := d, issued := k.lastIssue, rdir := rdir, hyper := hyper,
                       seed := s.seedOf d.seed, step := (s.run d.grp).step,
                       vary := if s.freeRunning d then some s.draw else none, ws := ws, due := 0, effs := [] }
  let s := s.addLaunch c d holds 0 0 0 0 []
  let s := if d.cls = 7 then s.vary d else s
  s.setRgn (regionOf c) (put (s.rgn (regionOf c)) x)

/-- A served launch completes: its effects take place and its entries are released. -/
def State.endService (s : State) (x : Service) : State :=
  let c := x.cluster
  let s := s.applyEffs c x.desc.slot x.effs
  let s := s.addUnits c (2 * x.seq) (storeUnits true (memRuns x.effs))
  let k := s.clu c
  s.setClu c { k with launches := k.launches.filter (fun l => !(l.cls = x.desc.cls && l.seq = x.seq)),
                      lastDone := max k.lastDone x.due }

/-! ### Class 7: fields (R291, R330) -/

structure UpdDesc where
  pf : Fmt
  gf : Fmt
  sf : Fmt
  rows : Nat
  cols : Nat
  blkCode : Nat
  dir : Bool
  hset : Nat
  fmen : Bool
  sid : Nat
  p : Nat
  g : Nat
  m : Nat
  v : Nat
  f : Nat
  deriving DecidableEq, Repr

def Desc.upd (d : Desc) : Option UpdDesc :=
  match Fmt.ofCode (d.f 67 64), Fmt.ofCode (d.f 71 68), Fmt.ofCode (d.f 75 72) with
  | some pf, some gf, some sf =>
    some { pf := pf, gf := gf, sf := sf, rows := d.f 91 76, cols := d.f 115 92, blkCode := d.f 118 116,
           dir := d.f 119 119 = 1, hset := d.f 123 120, fmen := d.f 124 124 = 1, sid := d.f 132 125, p := d.x 47 0,
           g := d.x 95 48, m := d.x 143 96, v := d.x 191 144, f := d.x 239 192 }
  | _, _, _ => none

def UpdDesc.blk (x : UpdDesc) : Nat := (blkSize x.blkCode).getD 8

def UpdDesc.tensor (x : UpdDesc) (a : Nat) (f : Fmt) : Tensor :=
  { addr := a, rows := x.rows, cols := x.cols, fmt := f, blk := x.blk, dirCols := x.dir }

/-- Blocks of the update (R293). -/
def UpdDesc.blocks (x : UpdDesc) : Nat := x.rows * x.cols / x.blk

/-- The elements of block b, ascending (R72). -/
def UpdDesc.members (x : UpdDesc) (b : Nat) : List (Nat × Nat) :=
  if x.dir then
    let n := x.rows / x.blk
    (List.range x.blk).map (fun k => (b % n * x.blk + k, b / n))
  else
    let n := x.cols / x.blk
    (List.range x.blk).map (fun k => (b / n, b % n * x.blk + k))

/-- Ranges read and written: parameter, m, v for ADAPT; gradient and mask are read only. -/
def UpdDesc.writes (x : UpdDesc) (opc : Nat) : List (Nat × Nat) :=
  [(x.p, (x.tensor x.p x.pf).size), (x.m, (x.tensor x.m x.sf).size)]
    ++ (if opc = 2 then [(x.v, (x.tensor x.v x.sf).size)] else [])

def UpdDesc.reads (x : UpdDesc) : List (Nat × Nat) :=
  (x.g, (x.tensor x.g x.gf).size) :: (if x.fmen then [(x.f, ceilDiv x.blocks 8)] else [])

/-- The ranges that a launch in progress has still to write: those of its entries and of its stores. -/
def Launch.toWrite (l : Launch) : List (Nat × Nat) :=
  (l.deps.filter (fun e => e.writes && !e.cat)).map (fun e => (e.lo, e.hi - e.lo))
    ++ (memRuns (l.effs ++ l.epis.flatMap (·.effs))).map (fun r => (r.1, r.2.length))

/-- A class-7 launch reads nothing that an earlier launch of a cluster of its region has still to write (R212, R299). -/
def State.operandsReady (s : State) (x : Service) : Bool :=
  match x.desc.upd with
  | none => true
  | some u =>
    let rs := u.writes x.desc.opc ++ u.reads
    let clash (q : Nat × Nat) : Bool := rs.any (fun r => decide (q.1 < r.1 + r.2) && decide (r.1 < q.1 + q.2))
    (List.range 16).all (fun i =>
      let k := s.clu (16 * regionOf x.cluster + i)
      k.launches.all (fun l => decide (x.issued ≤ l.start) || !l.toWrite.any clash)
        && k.colls.all (fun l => decide (x.issued ≤ l.start)
            || !(l.deps.any (fun e => e.writes && !e.cat && clash (e.lo, e.hi - e.lo)))))

/-- The engine may begin: no class-0 launch is in its steps in a cluster whose weight store is used, and the results of
earlier launches that a class-7 launch reads are there (R299). -/
def State.mayServe (s : State) (x : Service) : Bool :=
  x.ws.all (fun c => !s.inSteps c) && (decide (x.desc.cls ≠ 7) || s.operandsReady x)

/-- R292, R317: the descriptor is refused. -/
def State.badUpd (s : State) (c opc : Nat) (d : Desc) (x : UpdDesc) : Bool :=
  !d.hasExt || !([Fmt.sp8, .p16, .p32].contains x.pf) || !([Fmt.sp8, .p16].contains x.gf) || !([Fmt.sp8, .p16].contains x.sf)
    || (blkSize x.blkCode).isNone || x.rows = 0 || x.cols = 0 || decide ((if x.dir then x.rows else x.cols) % x.blk ≠ 0)
    || decide (d.f 255 133 ≠ 0) || decide (d.x 255 240 ≠ 0)
    || !(x.writes opc ++ x.reads).all (fun q => s.engRange (regionOf c) q.1 q.2)

/-! ### The update (R294 to R298) -/

/-- A result rounded to FP32, with its flags. -/
def f32Of (p : Val × Flags) : Val × Flags := let (y, f) := roundF32 p.1; (y, p.2.or f)

/-- The square root of an FP32 value, rounded to FP32 (R295). -/
def f32Sqrt (a : Val) : Val × Flags :=
  match a with
  | .nan => (.nan, {})
  | .inf false => (.inf false, {})
  | .inf true => (.nan, Flags.INV)
  | .fin x =>
    if x.isZero then (.fin .zero, {})
    else if x.isNeg then (.nan, Flags.INV)
    else
      let s := 40 - x.log2 / 2
      let (r, exact) := sqrtCut x s
      roundF32 (.fin (if exact then { m := (r : Int), e := - s } else { m := 2 * (r : Int) + 1, e := - s - 1 }))

/-- A chain of FP32 operations that collects flags. -/
structure FAcc where
  v : Val
  fl : Flags
  deriving DecidableEq, Repr

def FAcc.of (v : Val) : FAcc := { v := v, fl := {} }
def FAcc.lift (f : Val → Val → Val × Flags) (a b : FAcc) : FAcc :=
  let (y, g) := f32Of (f a.v b.v)
  { v := y, fl := (a.fl.or b.fl).or g }
def FAcc.add (a b : FAcc) : FAcc := FAcc.lift Val.add a b
def FAcc.sub (a b : FAcc) : FAcc := FAcc.lift (fun x y => x.add y.neg) a b
def FAcc.mul (a b : FAcc) : FAcc := FAcc.lift Val.mul a b
def FAcc.div (a b : FAcc) : FAcc := FAcc.lift Val.div a b
def FAcc.sqrt (a : FAcc) : FAcc := let (y, f) := f32Sqrt a.v; { v := y, fl := a.fl.or f }

/-- +1, -1 or 0 (R295); a NaN propagates (R297). -/
def signOf (a : FAcc) : FAcc :=
  match a.v with
  | .nan => a
  | .inf n => { a with v := .fin (.ofInt (if n then -1 else 1)) }
  | .fin x => { a with v := .fin (.ofInt (if x.isZero then 0 else if x.isNeg then -1 else 1)) }

/-- The hyperparameters of a launch, and what it forms once (R295, R296). -/
structure Hyper where
  eta : FAcc
  b1 : FAcc
  b2 : FAcc
  lam : FAcc
  eps : FAcc
  gs : FAcc
  n1 : FAcc
  n2 : FAcc
  c1 : FAcc
  c2 : FAcc
  /-- Flags of the constants that the operation uses. -/
  fl : Flags
  deriving DecidableEq, Repr

/-- The exact value of B^t, rounded to FP32 (R296). -/
def powT (b : Val) (t : Nat) : FAcc :=
  match b with
  | .fin x => let (y, f) := roundF32 (.fin { m := x.m ^ t, d := x.d ^ t, e := x.e * t }); { v := y, fl := f }
  | w => .of w

def hyperOf (opc : Nat) (h : List Nat) (step : Nat) : Hyper :=
  let at_ (i : Nat) : FAcc := { v := decodeFP32 (h.getD i 0), fl := {} }
  let one : FAcc := FAcc.of (.fin (.ofInt 1))
  let t0 := h.getD 6 0 + h.getD 7 0 * 2 ^ 32
  let early := decide (step < t0)
  let t := if early then 1 else step - t0 + 1
  let n1 := one.sub (at_ 1)
  let n2 := one.sub (at_ 2)
  let c (i : Nat) : FAcc := if opc = 2 then one.div (one.sub (powT (at_ i).v t)) else one
  let fl : Flags := match opc with
    | 2 => (((n1.fl.or n2.fl).or (c 1).fl).or (c 2).fl).or { inv := early }
    | 3 => n1.fl
    | _ => {}
  { eta := at_ 0, b1 := at_ 1, b2 := at_ 2, lam := at_ 3, eps := at_ 4, gs := at_ 5, n1 := { n1 with fl := {} },
    n2 := { n2 with fl := {} }, c1 := { c 1 with fl := {} }, c2 := { c 2 with fl := {} }, fl := fl }

/-- One element of restore_block: p, m and v. -/
def restoreElem (opc : Nat) (h : Hyper) (g p m v : FAcc) : FAcc × FAcc × FAcc :=
  let g := g.mul h.gs
  match opc with
  | 1 =>
    let g := g.add (h.lam.mul p)
    let m := (h.b1.mul m).add g
    (p.sub (h.eta.mul m), m, v)
  | 2 =>
    let m := (h.b1.mul m).add (h.n1.mul g)
    let v := (h.b2.mul v).add (h.n2.mul (g.mul g))
    let q := (m.mul h.c1).div (((v.mul h.c2).sqrt).add h.eps)
    (p.sub (h.eta.mul (q.add (h.lam.mul p))), m, v)
  | _ =>
    let m := (h.b1.mul m).add (h.n1.mul g)
    (p.sub (h.eta.mul ((signOf m).add (h.lam.mul p))), m, v)

/-- The elements of a block, each loaded into FP32 (R99, R295), and whether one was drawn from an uncorrectable word. -/
def State.loadBlock (s : State) (t : Tensor) (es : List (Nat × Nat)) : List FAcc × Bool :=
  let ls := es.map (fun (q : Nat × Nat) => s.elemOf 0 0 t q.1 q.2)
  (ls.map (fun (e : Elem × Flags) => let (y, f) := roundF32 e.1.val; { v := y, fl := e.2.or f }), ls.any (fun e => e.1.ue))

/-- The bytes of a block's new values and its scale, with the flags of the writeback (R75, R298). -/
def storeBlock (t : Tensor) (es : List (Nat × Nat)) (vs : List Val) (rnd : Nat → Rnd) (sat : Bool) :
    List (Nat × List Byte) × Flags :=
  let exp := if t.fmt.isSP then blockMax t.fmt vs else 0
  let out := (es.zip vs).map (fun (q : (Nat × Nat) × Val) =>
    let o : OutCtx := { fmt := t.fmt, rnd := rnd (q.1.1 * t.cols + q.1.2), sat := sat, exp := exp }
    (t.elemAddr q.1.1 q.1.2, o.encode q.2))
  let runs := out.map (fun r => (r.1, leBytes (t.fmt.width / 8) r.2.1))
  let scale := match es.head? with
    | some e => if t.fmt.isSP then [(t.scaleAddr + t.scaleIdx e.1 e.2, leBytes 1 (unsigned 6 exp))] else []
    | none => []
  (runs ++ scale, orFlags (out.map (fun r => r.2.2)))

/-- The draws of a served launch under a stream id (R298). -/
def Service.rndCtx (k : Service) (sid : Nat) : RndCtx :=
  { code := k.desc.rnd, seed := k.seed, step := k.step, stream := sid % 256, cls := 7, vary := k.vary }

/-- What one block does: bytes, flags, and whether it is frozen, skipped or updated (0, 1, 2). -/
def State.updBlock (s : State) (x : UpdDesc) (k : Service) (h : Hyper) (b : Nat) :
    List (Nat × List Byte) × Flags × Nat :=
  let opc := k.desc.opc
  let es := x.members b
  let maskUe := x.fmen && s.ueIn (x.f + b / 8) 1
  if x.fmen && !maskUe && (s.readByte 0 (x.f + b / 8)).getLsbD (b % 8) then ([], {}, 0)
  else
    let tp := x.tensor x.p x.pf
    let tm := x.tensor x.m x.sf
    let tv := x.tensor x.v x.sf
    let (gs, ug) := s.loadBlock (x.tensor x.g x.gf) es
    let (ps, up) := s.loadBlock tp es
    let (ms, um) := s.loadBlock tm es
    let (vs, uv) := if opc = 2 then s.loadBlock tv es else (es.map (fun _ => FAcc.of (.fin .zero)), false)
    let lf := orFlags ((gs ++ ps ++ ms ++ vs).map (·.fl))
    let open_ := gs.any (fun g => match g.v with | .fin _ => false | _ => true)
    if maskUe || ug || up || um || uv then ([], Flags.INV, 1)
    else if open_ then ([], lf.or Flags.INV, 1)
    else
      let rs := (List.range es.length).map (fun i =>
        let at_ (l : List FAcc) : FAcc := { l.getD i (FAcc.of .nan) with fl := {} }
        restoreElem opc h (at_ gs) (at_ ps) (at_ ms) (at_ vs))
      let rnd (sid e : Nat) : Rnd := (k.rndCtx sid).at 0 0 e
      let wp := storeBlock tp es (rs.map (fun r => r.1.v)) (rnd x.sid) k.desc.sat
      let wm := storeBlock tm es (rs.map (fun r => r.2.1.v)) (rnd (x.sid + 1)) k.desc.sat
      let wv := if opc = 2 then storeBlock tv es (rs.map (fun r => r.2.2.v)) (rnd (x.sid + 2)) k.desc.sat else ([], {})
      let af := orFlags (rs.map (fun r => (r.1.fl.or r.2.1.fl).or r.2.2.fl))
      (wp.1 ++ wm.1 ++ wv.1, orFlags [lf, af, wp.2, wm.2, wv.2], 2)

/-- The effects of a class-7 launch and its cycles(G) (R300). -/
def State.updEffs (s : State) (r : Nat) (x : UpdDesc) (k : Service) : List Eff × Nat :=
  let h := hyperOf k.desc.opc k.hyper k.step
  let bs := (List.range x.blocks).map (fun b => s.updBlock x k h b)
  let num (i : Nat) : Nat := (bs.filter (fun o => o.2.2 = i)).length
  let fl := orFlags (h.fl :: bs.map (fun o => o.2.1))
  let rate := if k.desc.opc = 2 then 32 else 64
  (bs.flatMap (fun o => o.1.map (fun p => Eff.mem p.1 p.2))
    ++ [.updFlags (fl.word % 16), .count (pgUpd r) Reg.UPD_CNT_BLK (num 2), .count (pgUpd r) Reg.UPD_CNT_FROZEN (num 0),
        .count (pgUpd r) Reg.UPD_CNT_SKIP (num 1)] ++ (if k.vary.isSome then [.varied] else []),
    (num 1 + num 2) * ceilDiv x.blk rate + num 0 + 40)

/-! ### Class 7: the launch -/

/-- The plan of a class-7 operation. -/
def updPlan (c opc : Nat) (s : State) (d : Desc) : Plan :=
  match d.upd with
  | none => { bad := true, reads := [], holds := [], free := true, go := id }
  | some x =>
    let pg := pgUpd (regionOf c)
    let hy := (List.range 8).map (fun i => (s.word (pg * 1024 + (0x100 + 0x20 * x.hset) / 4 + i)).toNat)
    let wr := (x.writes opc).flatMap (depHere c true)
    { bad := s.badUpd c opc d x, reads := x.reads.flatMap (depHere c false), holds := wr,
      free := (x.writes opc ++ x.reads).all (fun q => s.filled q.1 q.2),
      go := fun t => t.queueService c d wr (wsOf t.part (x.writes opc)) 0 hy
        (fun k v => { k with restorer := k.restorer ++ [v] }) }

/-- MOMENTUM (R290 to R302). -/
def execMomentum (c : Nat) (s : State) : Result := .next (s.tryIssue c 7 1 (updPlan c 1))

/-- ADAPT (R290 to R302). -/
def execAdapt (c : Nat) (s : State) : Result := .next (s.tryIssue c 7 2 (updPlan c 2))

/-- SIGNM (R290 to R302). -/
def execSignm (c : Nat) (s : State) : Result := .next (s.tryIssue c 7 3 (updPlan c 3))

/-- RESTORER_SERVICE_START (R299): the next launch in order of issue begins, once no cluster whose weight store it uses
has a class-0 launch in its steps. -/
def execRestorerServiceStart (r : Nat) (s : State) : Result :=
  let k := s.rgn r
  match firstService k.restorer, k.restorerRun with
  | some x, none =>
    match x.desc.upd with
    | none => .next s
    | some u =>
      if !s.mayServe x then .next s
      else
        let (effs, n) := s.updEffs r u x
        let s := (u.writes x.desc.opc ++ u.reads).foldl (fun s q => s.touch q.1 q.2 7) s
        let k := s.rgn r
        .next (s.setRgn r { k with restorer := k.restorer.erase x,
                                   restorerRun := some { x with effs := effs, due := s.now + s.cyc (16 * r) n } })
  | _, _ => .next s

/-- UPDATE_COMPLETE (R300). -/
def execUpdateComplete (r : Nat) (s : State) : Result :=
  match (s.rgn r).restorerRun with
  | none => .next s
  | some x =>
    if s.now < x.due then .next s
    else
      let s := s.endService x
      .next (s.setRgn r { s.rgn r with restorerRun := none })

/-! ### Class 8: fields (R331, R334) -/

structure ConDesc where
  m : Nat
  n : Nat
  k : Nat
  dbl : Bool
  odbl : Bool
  cinit : Bool
  a : Nat
  b : Nat
  c : Nat
  o : Nat
  deriving DecidableEq, Repr

def Desc.con (d : Desc) : ConDesc :=
  { m := d.f 79 64, n := d.f 103 80, k := d.f 127 104, dbl := d.f 131 128 = 10, odbl := d.f 135 132 = 10,
    cinit := d.f 136 136 = 1, a := d.x 47 0, b := d.x 95 48, c := d.x 143 96, o := d.x 191 144 }

def eBytes (dbl : Bool) : Nat := if dbl then 8 else 4

/-- Operand ranges that the operation reads: base and bytes. -/
def ConDesc.reads (x : ConDesc) (opc : Nat) : List (Nat × Nat) :=
  let w := eBytes x.dbl
  let mn := x.m * x.n * w
  match opc with
  | 5 => [(x.a, mn), (x.b, mn), (x.c, mn)]
  | 6 | 9 => [(x.a, mn)]
  | 10 => [(x.a, x.m * x.k * w), (x.b, x.k * x.n * w)] ++ (if x.cinit then [(x.c, mn)] else [])
  | _ => [(x.a, mn), (x.b, mn)]

def ConDesc.write (x : ConDesc) : Nat × Nat := (x.o, x.m * x.n * eBytes x.odbl)

/-- R334. -/
def State.badCon (s : State) (c opc : Nat) (d : Desc) (x : ConDesc) : Bool :=
  let f := d.f 131 128
  let g := d.f 135 132
  !(f = 9 || f = 10) || !(g = 9 || g = 10) || (decide (opc ≠ 9) && decide (f ≠ g)) || x.m = 0 || x.n = 0
    || (if opc = 10 then x.k = 0 else decide (x.k ≠ 0)) || !d.hasExt || decide (d.f 255 137 ≠ 0) || decide (d.x 255 192 ≠ 0)
    || !(x.write :: x.reads opc).all (fun q => s.engRange (regionOf c) q.1 q.2)

/-! ### Class 8: results (R332) -/

/-- One operand element. One drawn from an uncorrectable word takes a free value: R429 lists no class-8 reader
(log 43). -/
def State.conElem (s : State) (dbl : Bool) (base i : Nat) : IVal :=
  let w := eBytes dbl
  let a := base + w * i
  idecode ⟨dbl⟩ (if s.ueIn a w then Config.freeDraw (s.draw * 2 ^ 44 + 14 * 2 ^ 40 + a % 2 ^ 40) % 2 ^ (8 * w)
    else s.readNat a w)

/-- The result of element (i, j), a code of the output format, and its IEEE flags. -/
def State.conResult (s : State) (opc : Nat) (x : ConDesc) (rd : RDir) (i j : Nat) : Nat × IFlags :=
  let f : IFmt := ⟨x.dbl⟩
  let e := i * x.n + j
  let at_ (base idx : Nat) : IVal := s.conElem x.dbl base idx
  match opc with
  | 1 => iadd f rd (at_ x.a e) (at_ x.b e)
  | 2 => isub f rd (at_ x.a e) (at_ x.b e)
  | 3 => imul f rd (at_ x.a e) (at_ x.b e)
  | 4 => idiv f rd (at_ x.a e) (at_ x.b e)
  | 5 => ifma f rd (at_ x.a e) (at_ x.b e) (at_ x.c e)
  | 6 => isqrtOp f rd (at_ x.a e)
  | 7 => iminmax f rd false (at_ x.a e) (at_ x.b e)
  | 8 => iminmax f rd true (at_ x.a e) (at_ x.b e)
  | 9 => icvt f ⟨x.odbl⟩ rd (at_ x.a e)
  | _ =>
    let start := if x.cinit then (if s.ueIn (x.c + eBytes x.dbl * e) (eBytes x.dbl)
        then Config.freeDraw (s.draw * 2 ^ 44 + 14 * 2 ^ 40 + (x.c + eBytes x.dbl * e) % 2 ^ 40) % 2 ^ (8 * eBytes x.dbl)
        else s.readNat (x.c + eBytes x.dbl * e) (eBytes x.dbl)) else 0
    (List.range x.k).foldl (fun (acc : Nat × IFlags) k =>
      let (v, fl) := ifma f rd (at_ x.a (i * x.k + k)) (at_ x.b (k * x.n + j)) (idecode f acc.1)
      (v, acc.2.or fl)) (start, {})

/-- Cycles(G) of service and tail (R333). -/
def ConDesc.cycles (x : ConDesc) (opc : Nat) : Nat × Nat :=
  let mn := x.m * x.n
  match opc with
  | 4 | 6 => (ceilDiv mn 8, 40)
  | 10 => (max (ceilDiv mn 64) 8 * x.k, 20)
  | _ => (ceilDiv mn 64, 12)

/-- The effects of a class-8 launch. -/
def State.conEffs (s : State) (x : ConDesc) (k : Service) : List Eff :=
  let opc := k.desc.opc
  let rs := (List.range (x.m * x.n)).map (fun e => s.conResult opc x (RDir.ofCode k.rdir) (e / x.n) (e % x.n))
  [.mem x.o (rs.flatMap (fun r => leBytes (eBytes x.odbl) r.1)), .conFlags (rs.map (fun r => r.2.word) |>.foldl (· ||| ·) 0)]

/-- The plan of a class-8 operation. -/
def conPlan (c opc : Nat) (s : State) (d : Desc) : Plan :=
  let x := d.con
  let rd := (x.reads opc).flatMap (depHere c false)
  let wr := depHere c true x.write
  { bad := s.badCon c opc d x, reads := [], holds := rd ++ wr,
    free := (x.write :: x.reads opc).all (fun q => s.filled q.1 q.2),
    go := fun t => t.queueService c d (rd ++ wr) (wsOf t.part (x.write :: x.reads opc))
      (t.getF (pgCon (regionOf c)) Reg.CON_CFG_RDIR) [] (fun k v => { k with conservator := k.conservator ++ [v] }) }

/-- Class-8 ADD (R332). -/
def execConAdd (c : Nat) (s : State) : Result := .next (s.tryIssue c 8 1 (conPlan c 1))

/-- Class-8 SUB (R332). -/
def execConSub (c : Nat) (s : State) : Result := .next (s.tryIssue c 8 2 (conPlan c 2))

/-- Class-8 MUL (R332). -/
def execConMul (c : Nat) (s : State) : Result := .next (s.tryIssue c 8 3 (conPlan c 3))

/-- Class-8 DIV (R332). -/
def execConDiv (c : Nat) (s : State) : Result := .next (s.tryIssue c 8 4 (conPlan c 4))

/-- Class-8 FMA (R332). -/
def execConFma (c : Nat) (s : State) : Result := .next (s.tryIssue c 8 5 (conPlan c 5))

/-- Class-8 SQRT (R332). -/
def execConSqrt (c : Nat) (s : State) : Result := .next (s.tryIssue c 8 6 (conPlan c 6))

/-- Class-8 MINNUM (R332). -/
def execConMinnum (c : Nat) (s : State) : Result := .next (s.tryIssue c 8 7 (conPlan c 7))

/-- Class-8 MAXNUM (R332). -/
def execConMaxnum (c : Nat) (s : State) : Result := .next (s.tryIssue c 8 8 (conPlan c 8))

/-- Class-8 CVT (R332). -/
def execConCvt (c : Nat) (s : State) : Result := .next (s.tryIssue c 8 9 (conPlan c 9))

/-- Class-8 MATMUL (R332). -/
def execConMatmul (c : Nat) (s : State) : Result := .next (s.tryIssue c 8 10 (conPlan c 10))

/-- CONSERVATOR_SERVICE_START (R333). -/
def execConservatorServiceStart (r : Nat) (s : State) : Result :=
  let k := s.rgn r
  match firstService k.conservator, k.conservatorRun with
  | some x, none =>
    if !s.mayServe x then .next s
    else
      let u := x.desc.con
      let effs := s.conEffs u x
      let (n, tail) := u.cycles x.desc.opc
      let ue := (u.reads x.desc.opc).any (fun q => s.ueIn q.1 q.2)
      let s := (u.reads x.desc.opc).foldl (fun s q => s.touch q.1 q.2 4) s
      let s := if ue then { s with draw := s.draw + 1 } else s
      let k := s.rgn r
      .next (s.setRgn r { k with conservator := k.conservator.erase x,
                                 conservatorRun := some { x with effs := effs, due := s.now + s.cyc (16 * r) (n + tail) } })
  | _, _ => .next s

/-- CONSERVATOR_COMPLETE (R333). CON_CNT_OP counts whole units of 1,024 elements. -/
def execConservatorComplete (r : Nat) (s : State) : Result :=
  match (s.rgn r).conservatorRun with
  | none => .next s
  | some x =>
    if s.now < x.due then .next s
    else
      let s := s.endService x
      let u := x.desc.con
      let (n, tail) := u.cycles x.desc.opc
      let k := s.rgn r
      let e := k.conElems + u.m * u.n
      let s := s.setRgn r { k with conservatorRun := none, conElems := e % 1024 }
      .next ((s.count (pgCon r) Reg.CON_CNT_OP (e / 1024)).count (pgCon r) Reg.CON_CNT_BUSY (n + tail))

end Sys2Proof.Machine
end

