-- ==== Sys2Proof/Machine/Function.lean ====
section
/-! DEFINITION. Class 2: the special-function unit (R217 to R240). The functions and their final rounding stand in
Sfu.lean; here they run over vectors, with ROPE on its phases (R230 to R232). -/
namespace Sys2Proof.Machine

/-! ### Timing (R233, R234) -/

/-- Grants that a launch of E elements of w bits takes when nothing else asks for the SFU: 32 slots each, lane group by
lane group. -/
def sfuGrants (fn e w : Nat) : Nat :=
  let cap := 32 * (32 / w)
  let mult := if fn = 15 || fn = 18 then 2 else 1
  ((List.range 8).map (fun g =>
    let full := e / (8 * cap) * cap
    let rest := min cap (e % (8 * cap) - g * cap)
    full * mult / 32 + ceilDiv (rest * mult) 32)).foldl (· + ·) 0

/-- λ_SFU. -/
def sfuLatency (fn : Nat) : Nat := match fn with | 15 => 24 | 18 => 14 | _ => 12

/-! ### Launches -/

/-- The outputs of a launch stored at a local address: unrounded results, and the code of each in its context. -/
def State.sfuStore (s : State) (c addr part : Nat) (d : Desc) (x : VecDesc) (vals : List Val)
    (enc : Nat → OutCtx → Nat × Flags) : Stored :=
  let st : Store := { t := x.tensor c addr x.outF, sat := d.sat, blockmax := x.blockmax, scat := x.scat }
  let ctx := s.rndCtx d
  s.storeWith c st [vals] (fun _ i => ctx.at 0 part i) (fun _ i o => enc i o)

/-- The effects of any class-2 launch: its stores, flags, counts and reports. -/
def State.sfuAll (s : State) (c fn : Nat) (d : Desc) (x : VecDesc) (ws : List Stored) (fl : Flags) (mag : Option Num) :
    List Eff :=
  let out := (ws.map (·.mag)).foldl (fun (m : Option Num) o => match m, o with
    | some a, some b => some (a.max b)
    | none, o => o
    | m, none => m) none
  let slots := x.e * (if fn = 15 || fn = 18 then 2 else 1)
  ws.flatMap Stored.effs ++ [.sfuFlags (orFlags (fl :: ws.map (·.fl))).word,
      .count (pgVec c) Reg.VEC_CNT_PASS (x.passes x.fmt.width), .count (pgVec c) Reg.VEC_CNT_SFU slots]
    ++ d.report 1 mag ++ d.report 2 out ++ s.variedEff d

/-- What follows the results of any class-2 launch. Cycles of the SFU that array epilogues take come on top of its grants
(R233). -/
def State.sfuLaunch (s : State) (c fn : Nat) (d : Desc) (x : VecDesc) (reads holds : List DepRange) (effs : List Eff) : State :=
  let n := sfuGrants fn x.e x.fmt.width
  let s := ((reads.foldl (fun s r => s.touch r.lo (r.hi - r.lo) 4) s).touchCats c 5 x.cats).vary d
  let k := s.clu c
  let lost := (sfuLost (s.cyc c 1) k.lastIssue (k.lastIssue + s.cyc c n) k.sfuTaken).2
  let s := s.takeVe c (n + lost)
  (s.setClu c { s.clu c with sfuFree := (s.clu c).veFree }).addLaunch c d holds (max 1 (n + lost - 1 + sfuLatency fn)) (n + lost) 0 0
    (effs ++ if lost = 0 then [] else [.count (pgVec c) Reg.VEC_CNT_SFUWAIT lost])

/-- The effects of a launch of function `fn` other than ROPE. -/
def State.sfuEffs (s : State) (c fn : Nat) (d : Desc) (x : VecDesc) : List Eff :=
  let l := s.load c (x.tensor c x.a x.inF) x.fmt
  let bad := badPasses (passElems x.fmt.width) [l.rows.getD 0 []]
  let ak6 := s.flag (pgVec c) Reg.VEC_SFU_CTL_AK6
  let inp (i : Nat) : Val := if bad.contains (i / passElems x.fmt.width) then .nan else (l.at 0 i).val
  let rs := (List.range x.e).map (fun i => sfuEval (ak6 && ak6Set fn) fn (inp i))
  let w := s.sfuStore c x.o 0 d x (rs.map (·.value)) (fun i o => sfuResult ak6 fn x.fmt o (inp i))
  s.sfuAll c fn d x [w] (orFlags (l.fl :: rs.map (·.flags))) l.mag

/-- What a launch of function `fn` other than ROPE does. -/
def State.sfuGo (s : State) (c fn : Nat) (d : Desc) (x : VecDesc) (reads holds : List DepRange) : State :=
  s.sfuLaunch c fn d x reads holds (s.sfuEffs c fn d x)

/-- The refusals of a class-2 descriptor (R206, R218, R71, R320). -/
def badSfu (c fn : Nat) (d : Desc) (x : VecDesc) (rs : List DepRange) : Bool :=
  !veFmt x.fmt || x.inF = .qfull || x.inF = .fp64 || x.outF = .qfull || x.outF = .fp64 || x.badBlk || !d.above 229
    || (fn = 18 && !(x.fmt = .fp32 || x.fmt = .p32)) || !rs.all (depIn c)

/-- The plan of a class-2 function other than ROPE. -/
def sfuPlan (c fn : Nat) (s : State) (d : Desc) : Plan :=
  match d.vec with
  | none => { bad := true, reads := [], holds := [], free := true, go := id }
  | some x =>
    let ti := x.tensor c x.a x.inF
    let to_ := x.tensor c x.o x.outF
    let rd := [readDep ti.addr ti.size]
    let wr := [writeDep to_.addr to_.size]
    { bad := badSfu c fn d x (rd ++ wr), reads := rd ++ x.cats.map (fun i => depCat i 1 false), holds := wr,
      free := s.veIdle c, go := fun t => t.sfuGo c fn d x rd wr }

/-- SFU EXP (R217 to R229). -/
def execSfuExp (c : Nat) (s : State) : Result := .next (s.tryIssue c 2 1 (sfuPlan c 1))

/-- SFU EXP2 (R217 to R229). -/
def execSfuExp2 (c : Nat) (s : State) : Result := .next (s.tryIssue c 2 2 (sfuPlan c 2))

/-- SFU LOG (R217 to R229). -/
def execSfuLog (c : Nat) (s : State) : Result := .next (s.tryIssue c 2 3 (sfuPlan c 3))

/-- SFU LOG2 (R217 to R229). -/
def execSfuLog2 (c : Nat) (s : State) : Result := .next (s.tryIssue c 2 4 (sfuPlan c 4))

/-- SFU RECIP (R217 to R229). -/
def execSfuRecip (c : Nat) (s : State) : Result := .next (s.tryIssue c 2 5 (sfuPlan c 5))

/-- SFU SQRT (R217 to R229). -/
def execSfuSqrt (c : Nat) (s : State) : Result := .next (s.tryIssue c 2 6 (sfuPlan c 6))

/-- SFU RSQRT (R217 to R229). -/
def execSfuRsqrt (c : Nat) (s : State) : Result := .next (s.tryIssue c 2 7 (sfuPlan c 7))

/-- SFU SIGMOID (R217 to R229). -/
def execSfuSigmoid (c : Nat) (s : State) : Result := .next (s.tryIssue c 2 8 (sfuPlan c 8))

/-- SFU TANH (R217 to R229). -/
def execSfuTanh (c : Nat) (s : State) : Result := .next (s.tryIssue c 2 9 (sfuPlan c 9))

/-- SFU ERF (R217 to R229). -/
def execSfuErf (c : Nat) (s : State) : Result := .next (s.tryIssue c 2 10 (sfuPlan c 10))

/-- SFU GELU_ERF (R217 to R229). -/
def execSfuGeluErf (c : Nat) (s : State) : Result := .next (s.tryIssue c 2 11 (sfuPlan c 11))

/-- SFU GELU_TANH (R217 to R229). -/
def execSfuGeluTanh (c : Nat) (s : State) : Result := .next (s.tryIssue c 2 12 (sfuPlan c 12))

/-- SFU GELU_SIG (R217 to R229). -/
def execSfuGeluSig (c : Nat) (s : State) : Result := .next (s.tryIssue c 2 13 (sfuPlan c 13))

/-- SFU SILU (R217 to R229). -/
def execSfuSilu (c : Nat) (s : State) : Result := .next (s.tryIssue c 2 14 (sfuPlan c 14))

/-- SFU SOFTPLUS (R217 to R229). -/
def execSfuSoftplus (c : Nat) (s : State) : Result := .next (s.tryIssue c 2 15 (sfuPlan c 15))

/-- SFU SINTURN (R217 to R229). -/
def execSfuSinturn (c : Nat) (s : State) : Result := .next (s.tryIssue c 2 16 (sfuPlan c 16))

/-- SFU COSTURN (R217 to R229). -/
def execSfuCosturn (c : Nat) (s : State) : Result := .next (s.tryIssue c 2 17 (sfuPlan c 17))

/-! ### ROPE (R230 to R232) -/

/-- The position of a ROPE launch: its integer, or none where every output is NaR or NaN, with the flag that says so. -/
def ropePos (v : Val) : Option Nat × Flags :=
  match v with
  | .nan => (none, {})
  | .inf _ => (none, Flags.INV)
  | .fin x => if x.isInt && !x.isNeg && decide (x.floor ≤ 4194304) then (some x.floor.toNat, {}) else (none, Flags.INV)

/-- The effects of a ROPE launch. -/
def State.ropeEffs (s : State) (c : Nat) (d : Desc) (x : VecDesc) : List Eff :=
  let l := s.load c { x.tensor c x.a x.inF with cols := 1 } x.fmt
  let (pos, fp) := ropePos (l.at 0 0).val
  let ps := passElems x.fmt.width
  let fq (i : Nat) : Nat := localAddr c x.b + 8 * i
  let bad := ((List.range x.e).filterMap (fun i => if s.ueIn (fq i) 8 then some (i / ps) else none)).eraseDups
  let res (cosine : Bool) (i : Nat) : SfuVal :=
    match pos with
    | none => .fixed .nan {}
    | some p =>
      if bad.contains (i / ps) || (l.at 0 0).ue then .fixed .nan {}
      else sfuEval false (if cosine then 17 else 16) (.fin (ropePhase p (ofLeBytes (s.readBytes 0 (fq i) 8))))
  let out (cosine : Bool) (addr part : Nat) : Stored :=
    s.sfuStore c addr part d x ((List.range x.e).map (fun i => (res cosine i).value))
      (fun i o => sfuRound false o (res cosine i))
  s.sfuAll c 18 d x [out true x.o 0, out false x.pair 1] (l.fl.or fp) l.mag

/-- What a ROPE launch does. -/
def State.ropeGo (s : State) (c : Nat) (d : Desc) (x : VecDesc) (reads holds : List DepRange) : State :=
  s.sfuLaunch c 18 d x reads holds (s.ropeEffs c d x)

/-- The plan of a ROPE. -/
def ropePlan (c : Nat) (s : State) (d : Desc) : Plan :=
  match d.vec with
  | none => { bad := true, reads := [], holds := [], free := true, go := id }
  | some x =>
    let ti := { x.tensor c x.a x.inF with cols := 1 }
    let t1 := x.tensor c x.o x.outF
    let t2 := x.tensor c x.pair x.outF
    let rd := [readDep ti.addr ti.size, readDep (localAddr c x.b) (8 * x.e)]
    let wr := [writeDep t1.addr t1.size, writeDep t2.addr t2.size]
    { bad := badSfu c 18 d x (rd ++ wr), reads := rd ++ x.cats.map (fun i => depCat i 1 false), holds := wr,
      free := s.veIdle c, go := fun t => t.ropeGo c d x rd wr }

/-- SFU ROPE (R230 to R232). -/
def execSfuRope (c : Nat) (s : State) : Result := .next (s.tryIssue c 2 18 (ropePlan c))

/-- SFU_LAUNCH_COMPLETE (R234): the last results can be read. -/
def execSfuLaunchComplete (c : Nat) (s : State) : Result := .next (s.complete c 2)

end Sys2Proof.Machine
end

