-- ==== Sys2Proof/Machine/Groups.lean ====
section
/-! DEFINITION. The group table (R489 to R494, R518, R519): group images, DEV_GRP_CMD, Cloakroom reservations. -/
namespace Sys2Proof.Machine

/-- The image of a group as memory holds it (R489): header and member entries. -/
structure GroupImage where
  header : Nat
  members : List Member
  /-- Reserved bits of the member entries that are set. -/
  resv : Bool
  deriving DecidableEq, Repr

def GroupImage.nmem (x : GroupImage) : Nat := bits x.header 9 0 + 1
def GroupImage.rslots (x : GroupImage) : Nat := bits x.header 20 10
def GroupImage.wmin (x : GroupImage) : Nat := bits x.header 25 21

def State.groupImage (s : State) (a : Nat) : GroupImage :=
  let h := s.readNat a 64
  let es := (List.range (bits h 9 0 + 1)).map (fun i => s.readNat (a + 64 + 72 * i) 72)
  { header := h, members := es.map (fun e => { pkg := bits e 11 0, mask := BitVec.ofNat 512 (bits e 575 64) }),
    resv := es.any (fun e => decide (bits e 15 12 ≠ 0) || decide (bits e 63 16 ≠ 0)) }

/-- R492: the image is refused with reason IMAGE. -/
def GroupImage.bad (x : GroupImage) : Bool :=
  decide (bits x.header 511 26 ≠ 0) || x.resv || x.members.any (fun m => m.mask = 0)
    || !([1, 2, 4, 8, 16].contains x.wmin) || decide (1408 < x.rslots)
    || decide ((x.members.map (·.pkg)).eraseDups.length ≠ x.members.length)

/-- R492: reason BUSY, a cluster that has g as its current landing group. -/
def State.groupHeld (s : State) (g : Nat) : Bool :=
  (List.range 512).any (fun c => (s.running c || s.doc c = docSaved) && s.grpOf c = g)

/-- Free slots of Cloakroom d, entry g apart. -/
def State.cloFree (s : State) (d g : Nat) : Nat :=
  1408 - ((s.groups.filter (fun (p : Nat × Group) => p.1 ≠ g && p.2.clo = some d)).map (fun p => p.2.rslots)).foldl (· + ·) 0

/-- R518: the lowest-numbered present and enabled Cloakroom with room. -/
def State.cloFor (s : State) (g n : Nat) : Option Nat :=
  (List.range s.part.xdies).find? (fun d => s.flag (pgClo d) Reg.CLO_CFG_EN && decide (n ≤ s.cloFree d g))

/-- A command that failed (R492). -/
def State.grpFail (s : State) (why : Nat) : State :=
  (s.setF pgDev Reg.DEV_GRP_STAT_FAIL 1).setF pgDev Reg.DEV_GRP_STAT_WHY why

def State.grpDone (s : State) : State :=
  (s.setF pgDev Reg.DEV_GRP_STAT_DONE 1).setF pgDev Reg.DEV_GRP_STAT_WHY 0

/-- LOAD of entry g (R492, R518). -/
def State.grpLoad (s : State) (g : Nat) : State :=
  let a := s.getF pgDev Reg.DEV_GRP_IMG_LO_ADDR + s.getF pgDev Reg.DEV_GRP_IMG_HI_ADDR * 2 ^ 32
  if s.groupHeld g then s.grpFail 1
  else if decide (a % 64 ≠ 0) || !s.plain a 64 then s.grpFail 4
  else if s.ueIn a 64 then (s.touch a 64 14).grpFail 2
  else
    let x := s.groupImage a
    let n := 64 + 72 * x.nmem
    if !s.plain a n then s.grpFail 4
    else if s.ueIn a n then (s.touch a n 14).grpFail 2
    else
      let s := s.touch a n 14
      if x.bad then s.grpFail 2
      else
        let me := x.members.find? (fun m => m.pkg = s.pkg)
        let absent := match me with
          | none => false
          | some m => m.clusters.any (fun c => !s.avail (regionOf c))
        if absent then s.grpFail 3
        else
          let want := me.isSome && decide (0 < x.rslots)
          let clo := if want then s.cloFor g x.rslots else none
          let e : Group := { members := x.members, wmin := x.wmin, rslots := x.rslots, clo := clo }
          let s := { s with sched.groups := sput s.groups g e }
          let s := if want && clo.isNone then s.raise (pgClo 0) 2 0x2A 1 (leBytes 1 g ++ leBytes 2 x.rslots) else s
          s.grpDone

/-- CLEAR of entry g (R492). -/
def State.grpClear (s : State) (g : Nat) : State :=
  if s.groupHeld g then s.grpFail 1 else { s with sched.groups := sdel s.groups g }.grpDone

/-- A write of DEV_GRP_CMD, offset 0x180 of the DEV page: the fields apply, then GO acts (R673). -/
def State.grpWrite (s : State) (val : Nat) : State :=
  let s := s.writeReg pgDev 0x180 val true
  if !val.testBit 31 || !s.reaches pgDev then s
  else
    match s.getF pgDev Reg.DEV_GRP_CMD_OP with
    | 1 => s.grpLoad (s.getF pgDev Reg.DEV_GRP_CMD_GRP)
    | 2 => s.grpClear (s.getF pgDev Reg.DEV_GRP_CMD_GRP)
    | _ => s.grpFail 5

/-- GRP_LOAD: DEV_GRP_CMD with OP = 1 and GO (R492). -/
def execGrpLoad (val : Nat) (s : State) : Result := .next (s.grpWrite val)

/-- GRP_CLEAR: DEV_GRP_CMD with OP = 2 and GO (R492). -/
def execGrpClear (val : Nat) (s : State) : Result := .next (s.grpWrite val)

end Sys2Proof.Machine
end

