-- ==== Sys2Proof/Machine/Reliability.lean ====
section
/-! DEFINITION. Error correction in service: the patrol scrubbers (R433, R434), the leaky buckets (R432), the checker test
mode (R436, R437), post-package repair (R438). -/
namespace Sys2Proof.Machine

/-! ### Code words (R424 to R426) -/

/-- Number of instances of a kind, and the size of each in bytes. -/
def kindSize (kind : Nat) : Nat :=
  match kind with
  | 0 => 0x400000 | 1 => 0x100000 | 2 => 0x80000 | 3 => 0x40000 | 4 => 0x8000 | 5 => 0x200000 | 6 => 0x6000000
  | 7 => 0x800000 | 8 => 0x1000000 | 9 => stackSize | _ => 0

/-- The instance code names a memory of the part (R3, R426). -/
def instOk (p : PartNo) (inst : Nat) : Bool :=
  let i := inst % 4096
  match inst / 4096 with
  | 0 | 1 | 2 | 3 | 4 => decide (i < 512)
  | 5 => decide (i < 32)
  | 6 | 8 => decide (i < p.xdies)
  | 7 => i = 0
  | 9 => p.hasStack i
  | _ => false

/-- Byte offset within its instance of the address that a code word is named by: the device address where the instance
has one, else the offset itself (R431; log 44). -/
def instOff (p : PartNo) (inst addr : Nat) : Option Nat :=
  let kind := inst / 4096
  let off : Option Nat :=
    if kind ≤ 1 || kind = 9 then
      let (i, o) := instOf p addr
      if i = inst then some o else none
    else if addr < kindSize kind then some addr else none
  if instOk p inst then off.map (fun o => o / (if kind = 9 then 32 else 8) * (if kind = 9 then 32 else 8)) else none

/-- The accumulator entries that hold byte `o` of an accumulator memory (R176 to R180): the key of the entry and the byte
within it, where a tile record covers the line. -/
def State.amByte (s : State) (i o : Nat) : Option (Nat × Nat) :=
  let a := o / 0x20000
  let line := o % 0x20000 / 128
  (s.tiles.find? (fun (p : Nat × TileRec) =>
    let lr := if p.2.f32 then 1 else p.2.width / 32
    p.1 / 64 = 4 * i + a && decide (p.2.trow ≤ line) && decide (line < p.2.trow + p.2.rows * lr))).map (fun p =>
      let lr := if p.2.f32 then 1 else p.2.width / 32
      let size := if p.2.f32 then 4 else p.2.width / 8
      let first := p.2.trow + (line - p.2.trow) / lr * lr
      let b := o % 0x20000 - 128 * first
      (((4 * i + a) * 1024 + first) * 32 + b / size, b % size))

/-- The data that readers of a code word get, without encryption: none where the manual places no state in the word. -/
def State.cwData (s : State) (inst off : Nat) : Option Nat :=
  let i := inst % 4096
  match inst / 4096 with
  | 0 => some (ofLeBytes ((List.range 8).map (fun k => s.byteAt (localAddr i 0 + off + k))))
  | 1 => some (ofLeBytes ((List.range 8).map (fun k => s.byteAt (localAddr i 0x80000 + off + k))))
  | 2 =>
    let bs := (List.range 8).map (fun k => (s.amByte i (off + k)).map (fun (p : Nat × Nat) =>
      BitVec.ofNat 8 ((sget (fun _ => (0 : BitVec 512)) s.am p.1).toNat >>> (8 * p.2))))
    if bs.all Option.isSome then some (ofLeBytes (bs.map (fun b => b.getD 0))) else none
  | 3 => some (bits (s.imSlot i (off / 32)).toNat (off % 32 * 8 + 63) (off % 32 * 8))
  | 4 => some (sget (fun _ => 0) s.cat (4096 * i + off / 8)).toNat
  | 9 => some (ofLeBytes ((List.range 32).map (fun k => s.byteAt (i * stackSize + off + k))))
  | _ => none

/-- One byte of an accumulator entry stored. -/
def State.pokeAm (s : State) (i o : Nat) (b : Byte) : State :=
  match s.amByte i o with
  | none => s
  | some (key, k) =>
    let v := sget (fun _ => (0 : BitVec 512)) s.am key
    let w := v.toNat - (v.toNat >>> (8 * k)) % 256 * 2 ^ (8 * k) + b.toNat * 2 ^ (8 * k)
    { s with mems.am := sset (fun _ => 0) s.am key (BitVec.ofNat 512 w) }

/-- Stores what readers of a code word get from then on. -/
def State.setCwData (s : State) (inst off v : Nat) : State :=
  let i := inst % 4096
  match inst / 4096 with
  | 0 => s.pokeBytes (localAddr i 0 + off) (leBytes 8 v)
  | 1 => s.pokeBytes (localAddr i 0x80000 + off) (leBytes 8 v)
  | 2 => ((leBytes 8 v).zipIdx).foldl (fun s (b, k) => s.pokeAm i (off + k) b) s
  | 3 =>
    let w := (s.imSlot i (off / 32)).toNat
    let sh := off % 32 * 8
    let w' := w - bits w (sh + 63) sh * 2 ^ sh + v % 2 ^ 64 * 2 ^ sh
    { s with mems.im := sset (fun _ => 0) s.im (8192 * i + off / 32) (BitVec.ofNat 256 w') }
  | 4 => { s with mems.cat := sset (fun _ => 0) s.cat (4096 * i + off / 8) (BitVec.ofNat 64 v) }
  | 9 => s.pokeBytes (i * stackSize + off) (leBytes 32 v)
  | _ => s

/-- Bits of data of a code word. -/
def cwBits (inst : Nat) : Nat := if inst / 4096 = 9 then 256 else 64

/-! ### The codes (R424; log 6) -/

/-- Check bits that bit `k` of an 80-bit SRAM code word takes part in: data first, then the check bits themselves. -/
def sramCol (k : Nat) : Nat := if k < 64 then Config.eccCol k % 2 ^ 16 else 2 ^ (k - 64)

/-- Check bits of SRAM data. -/
def sramEnc (data : Nat) : Nat :=
  (List.range 64).foldl (fun x k => if data.testBit k then x ^^^ sramCol k else x) 0

/-- The pairs (i, k), i < k, of the first n numbers. -/
def pairsOf (n : Nat) : List (Nat × Nat) :=
  (List.range n).flatMap (fun k => (List.range k).map (fun i => (i, k)))

/-- What the decoder concludes of an SRAM word (R424): verdict, bits corrected, data delivered. -/
def sramDecode (data chk : Nat) : Nat × Nat × Nat :=
  let synd := sramEnc data ^^^ chk % 2 ^ 16
  let flip (k : Nat) : Nat := if k < 64 then 2 ^ k else 0
  if synd = 0 then (0, 0, data)
  else match (List.range 80).find? (fun k => sramCol k = synd) with
    | some k => (1, 1, data ^^^ flip k)
    | none => match (pairsOf 80).find? (fun p => sramCol p.1 ^^^ sramCol p.2 = synd) with
      | some (i, k) => (1, 2, data ^^^ flip i ^^^ flip k)
      | none => (2, 0, data)

/-- Product in the field GF(2^8) of the HBM code. -/
def gfMul (a b : Nat) : Nat :=
  (List.range 8).foldl (fun r i =>
    let d := 2 * r
    let d := if 256 ≤ d then d ^^^ (256 + Config.eccRs 0 % 256) else d
    if b.testBit (7 - i) then d ^^^ a else d) 0

def gfPow (a : Nat) : Nat → Nat
  | 0 => 1
  | n + 1 => gfMul (gfPow a n) a

/-- The inverse of a nonzero element. -/
def gfInv (a : Nat) : Nat := gfPow a 254

/-- The four roots of the generator of the HBM code, successive powers of x. -/
def rsRoots : List Nat := (List.range 4).map (fun j => gfPow 2 (Config.eccRs 1 % 255 + j))

/-- Symbols of an HBM code word, by power of x: check symbols 0 to 3, data bytes from 4 on. -/
def rsSymbols (data chk : Nat) : List Nat :=
  (List.range 4).map (fun i => chk / 256 ^ i % 256) ++ (List.range 32).map (fun i => data / 256 ^ i % 256)

/-- The word's value at each root. -/
def rsSynds (syms : List Nat) : List Nat :=
  rsRoots.map (fun x => syms.foldr (fun c acc => gfMul acc x ^^^ c) 0)

/-- Check symbols of an HBM burst: the remainder of its data by the generator. -/
def rsEnc (data : Nat) : Nat :=
  let g := rsRoots.foldl (fun (p : List Nat) x =>
    ((0 :: p).zip (p ++ [0])).map (fun q => q.1 ^^^ gfMul q.2 x)) [1]
  let rem := ((List.range 32).reverse).foldl (fun (r : List Nat) i =>
    let fb := data / 256 ^ i % 256 ^^^ r.getD 3 0
    (List.range 4).map (fun k => (if k = 0 then 0 else r.getD (k - 1) 0) ^^^ gfMul fb (g.getD k 0))) [0, 0, 0, 0]
  rem.zipIdx.foldl (fun x (c, i) => x + c * 256 ^ i) 0

/-- What the decoder concludes of an HBM burst (R424): errors of two symbols at most are located and corrected. -/
def rsDecode (data chk : Nat) : Nat × Nat × Nat :=
  let ss := rsSynds (rsSymbols data chk)
  let s (j : Nat) : Nat := ss.getD j 0
  let fix (i e : Nat) : Nat := if i < 4 then 0 else e * 256 ^ (i - 4)
  let at_ (p : Nat × Nat) : Nat × Nat :=
    let x := gfPow 2 p.1
    let y := gfPow 2 p.2
    let b := gfMul (s 1 ^^^ gfMul (s 0) x) (gfInv (x ^^^ y))
    (s 0 ^^^ b, b)
  let fits (p : Nat × Nat) : Bool :=
    let x := gfPow 2 p.1
    let y := gfPow 2 p.2
    let (a, b) := at_ p
    let term (n : Nat) : Nat := gfMul a (gfPow x n) ^^^ gfMul b (gfPow y n)
    term 1 = s 1 && term 2 = s 2 && term 3 = s 3
  if ss.all (fun v => v = 0) then (0, 0, data)
  else match (pairsOf 36).find? fits with
    | none => (2, 0, data)
    | some (i, k) =>
      let (a, b) := at_ (i, k)
      let scale (n v : Nat) : Nat := gfMul v (gfInv (gfPow (gfPow 2 n) (Config.eccRs 1 % 255)))
      (1, (decide (a ≠ 0)).toNat + (decide (b ≠ 0)).toNat, data ^^^ fix i (scale i a) ^^^ fix k (scale k b))

/-- Check bits of a code word, and what the decoder concludes of one. -/
def eccEnc (inst data : Nat) : Nat := if inst / 4096 = 9 then rsEnc data else sramEnc data
def eccDecode (inst data chk : Nat) : Nat × Nat × Nat := if inst / 4096 = 9 then rsDecode data chk else sramDecode data chk

/-! ### Patrol (R433, R434) -/

/-- PATROL_SCRUB (R433): the scrubber of an instance reads its next code word. An HBM controller goes through its stack in
ascending address order; for an SRAM instance the manual gives no order, and `addr` names the word. -/
def execPatrolScrub (inst addr : Nat) (s : State) : Result :=
  match instOff s.part inst addr with
  | none => .next s
  | some off =>
    let hbm := decide (inst / 4096 = 9)
    let pg := pgMem (inst % 4096)
    let next := sget (fun _ => 0) s.scrubPos inst
    let on := if hbm then s.flag pg Reg.MEM_STAT_FILLED && !s.flag pg Reg.MEM_STAT_RETIRED && s.flag pg Reg.MEM_SCRUB_HOURS
        && off = next
      else s.sramFilled && s.flag pgEcc Reg.ECC_SCRUB_SRAM_MINUTES
    if !on then .next s
    else
      let name := cwName inst off
      let s := match sget (fun _ => 0) s.errs name with
        | 1 => { (s.foundCE inst) with mems.errs := sset (fun _ => 0) s.errs name 0 }
        | 2 => s.foundUE inst off 0
        | _ => s
      if !hbm then .next s
      else
        let n := (off + 32) % stackSize
        let s := { s with mems.scrubPos := sset (fun _ => 0) s.scrubPos inst n }
        let s := if n % 65536 = 0 then s.count pg Reg.MEM_CNT_SCRUBPG 1 else s
        .next (s.setF pg Reg.MEM_SCRUB_POS_PAGE (n / 65536))

/-- BUCKET_LEAK (R432): once every LEAK_MS milliseconds, every bucket above 0 loses 1. -/
def execBucketLeak (s : State) : Result :=
  let period := ms (s.getF pgEcc Reg.ECC_LB_CFG_LEAK_MS)
  if s.now < s.leakAt + period then .next s
  else .next { s with mems.leakAt := s.leakAt + period,
                      mems.buckets := (s.buckets.map (fun (p : Nat × Nat) => (p.1, p.2 - 1))).filter (fun p => decide (0 < p.2)) }

/-! ### The checker test mode (R436, R437) -/

/-- R437: the command is refused. -/
def State.testRefused (s : State) (inst off : Nat) : Bool :=
  let i := inst % 4096
  s.flag pgSec Reg.SEC_STAT_SEALED ||
    match inst / 4096 with
    | 0 | 1 | 2 | 3 | 4 => s.running i || s.doc i = docSaved
    | 6 => s.groups.any (fun (p : Nat × Group) => p.2.clo = some i && decide (0 < p.2.rslots))
    | 9 => s.inPool (i * stackSize + off)
    | _ => false

/-- The target of the test registers: instance code, and the byte offset of its code word. -/
def State.testTarget (s : State) : Nat × Option Nat :=
  let inst := s.getF pgEcc Reg.ECC_TEST_INST_INST
  (inst, instOff s.part inst (s.getF pgEcc Reg.ECC_TEST_ADDR_LO_ADDR + s.getF pgEcc Reg.ECC_TEST_ADDR_HI_ADDR * 2 ^ 32))

/-- HBM data passes the inline encryption on its way to memory (R421). -/
def State.encrypted (s : State) (inst : Nat) : Bool := inst / 4096 = 9 && s.flag (pgMem (inst % 4096)) Reg.MEM_CRYPT_CTL_EN

/-- Raw data and check bits stored unchanged. Readers get what the decoder makes of them; the plaintext of a raw encrypted
burst is a free value (log 6). -/
def State.testWrite (s : State) (inst off : Nat) : State :=
  let n := cwBits inst
  let data := ((List.range (n / 32)).map (fun i => s.getF pgEcc (Reg.ECC_TEST_DATA i) * 2 ^ (32 * i))).foldl (· + ·) 0
  let chk := s.getF pgEcc Reg.ECC_TEST_CHK % (if n = 256 then 2 ^ 32 else 2 ^ 16)
  let (verdict, _, fixed) := eccDecode inst data chk
  let s := { s with mems.rawChk := sput s.rawChk (cwName inst off) (chk + 2 ^ 32 * data),
                    mems.errs := sset (fun _ => 0) s.errs (cwName inst off) (if verdict = 0 then 3 else verdict) }
  if s.encrypted inst then
    let (f, s) := s.drawFree
    s.setCwData inst off f
  else s.setCwData inst off fixed

/-- The stored data and check bits of a code word: the raw ones while it is marked as raw; else the word's data (of an
encrypted burst, a free ciphertext; of a word in which the manual places no state, a free value) with the check bits of the
code (log 6). The check bits of an uncorrectable burst moved by R650 are free. -/
def State.testRaw (s : State) (inst off : Nat) : Nat × Nat :=
  let mark := sget (fun _ => 0) s.errs (cwName inst off)
  match if mark = 0 then none else s.rawChk.find? (fun p => p.1 = cwName inst off) with
  | some (_, raw) => (raw / 2 ^ 32, raw % 2 ^ 32)
  | none =>
    let data := match s.cwData inst off with
      | some v => if s.encrypted inst then Config.crypto 92 [inst, off, v] % 2 ^ 256 else v
      | none => Config.crypto 93 [inst, off] % 2 ^ 64
    (data, if mark = 2 then Config.crypto 91 [inst, off] % 2 ^ 32 else eccEnc inst data)

/-- Loads the stored word and the decoder's conclusion (R436). -/
def State.testRead (s : State) (inst off : Nat) : State :=
  let n := cwBits inst
  let (data, chk) := s.testRaw inst off
  let mark := sget (fun _ => 0) s.errs (cwName inst off) % 3
  let ncorr := (eccDecode inst data chk).2.1
  let s := (List.range (n / 32)).foldl (fun s i => s.setF pgEcc (Reg.ECC_TEST_DATA i) (data / 2 ^ (32 * i))) s
  let s := s.setF pgEcc Reg.ECC_TEST_CHK (if n = 256 then chk else chk % 2 ^ 16)
  (s.setF pgEcc Reg.ECC_TEST_STAT_VERDICT mark).setF pgEcc Reg.ECC_TEST_STAT_NCORR (if mark = 1 then ncorr else 0)

/-- No access to an HBM stack is served before its fill completes (R435). -/
def State.instServed (s : State) (inst : Nat) : Bool := decide (inst / 4096 ≠ 9) || s.flag (pgMem (inst % 4096)) Reg.MEM_STAT_FILLED

/-- A write of ECC_TEST_CMD, offset 0x1B4 of the ECC page: WRITE acts before READ. A command whose instance or address names
no code word is refused (log 44). -/
def State.testCmd (s : State) (val : Nat) : Result :=
  let s := s.writeReg pgEcc 0x1B4 val true
  if !val.testBit 0 && !val.testBit 1 || !s.reaches pgEcc then .next s
  else
    match s.testTarget with
    | (_, none) => .next (s.setF pgEcc Reg.ECC_TEST_STAT_REFUSED 1)
    | (inst, some off) =>
      if s.testRefused inst off then .next (s.setF pgEcc Reg.ECC_TEST_STAT_REFUSED 1)
      else if !s.instServed inst then .next s
      else
        let s := if val.testBit 0 then s.testWrite inst off else s
        let s := if val.testBit 1 then s.testRead inst off else s
        .next (s.setF pgEcc Reg.ECC_TEST_STAT_DONE 1)

/-- ECC_TEST_WRITE: ECC_TEST_CMD with WRITE (R436, R437). -/
def execEccTestWrite (val : Nat) (s : State) : Result := s.testCmd val

/-- ECC_TEST_READ: ECC_TEST_CMD with READ (R436, R437). -/
def execEccTestRead (val : Nat) (s : State) : Result := s.testCmd val

/-! ### Post-package repair (R438) -/

/-- A soft repair reads its row with correction and writes it back (R438): correctable words are found and corrected; an
uncorrectable one is found and stays as it is stored (log 45). -/
def State.repairRow (s : State) (x row : Nat) : State :=
  let inst := 9 * 4096 + x
  (s.errs.filter (fun (p : Nat × Nat) => p.1 / 2 ^ 48 = inst && Config.hbmRow x (p.1 % 2 ^ 48 * 32) % 2 ^ 30 = row)).foldl
    (fun s p =>
      match p.2 with
      | 1 => { (s.foundCE inst) with mems.errs := sset (fun _ => 0) s.errs p.1 0 }
      | 2 => s.foundUE inst (p.1 % 2 ^ 48 * 32) 0
      | _ => s) s

/-- A write of MEM_PPR_CTL, offset 0x110 of page MEM[x]; HARD stands in MEM_PPR_ROW. `spareLeft` says whether the stack
has a spare row for it. A request while a repair runs is ignored (log 45). -/
def State.pprWrite (s : State) (x val : Nat) (spareLeft : Bool) : State :=
  let pg := pgMem x
  let s := s.writeReg pg 0x110 val true
  if !val.testBit 0 || !s.part.hasStack x || !s.reaches pg || s.flag pg Reg.MEM_PPR_STAT_BUSY then s
  else if !spareLeft then s.setF pg Reg.MEM_PPR_STAT_FAIL 1
  else if s.flag pg Reg.MEM_PPR_ROW_HARD then
    { s with arch.repairWrites := s.repairWrites ++ [FlashOp.ppr x (s.word (regIdx pg Reg.MEM_PPR_ROW_PC)).toNat] }
  else (s.repairRow x ((s.word (regIdx pg Reg.MEM_PPR_ROW_PC)).toNat % 2 ^ 30)).setF pg Reg.MEM_PPR_STAT_BUSY 1

/-- PPR_SOFT: MEM_PPR_CTL.GO with HARD = 0 (R438). -/
def execPprSoft (x val : Nat) (spareLeft : Bool) (s : State) : Result := .next (s.pprWrite x val spareLeft)

/-- PPR_HARD: MEM_PPR_CTL.GO with HARD = 1 (R438). -/
def execPprHard (x val : Nat) (spareLeft : Bool) (s : State) : Result := .next (s.pprWrite x val spareLeft)

/-- PPR_SOFT_DONE (R438). -/
def execPprSoftDone (x : Nat) (s : State) : Result :=
  let pg := pgMem x
  if !s.flag pg Reg.MEM_PPR_STAT_BUSY then .next s
  else .next ((s.setF pg Reg.MEM_PPR_STAT_BUSY 0).setF pg Reg.MEM_PPR_STAT_DONE 1)

end Sys2Proof.Machine
end

