-- ==== Sys2Proof/Machine/Repair.lean ====
section
/-! DEFINITION. Live repair (R637 to R646): the placement epoch and inbound results, the move of a local index to the free
slot, the rescan, the repair record. -/
namespace Sys2Proof.Machine

/-! ### Placement epochs (R637 to R640) -/

/-- Cycles 10 to 13 of the window that begins a repair: the epoch advances, and the old one retires. How many inbound
results of it are not yet written depends on traffic that the model does not hold: a free value (log 46). -/
def State.advanceEpoch (s : State) (r : Nat) : State :=
  let pg := pgRgn r
  let old := s.getF pg Reg.PG_EPOCH_EPOCH
  let (n, s) := s.drawFree
  let n := n % 2 ^ 16
  let s := s.setF pg Reg.PG_EPOCH_EPOCH (old + 1)
  let s := s.setF pg Reg.PG_EPOCH_RETIRING old
  let s := (s.setF pg Reg.PG_EPOCH_RVALID (if n = 0 then 0 else 1)).setF pg Reg.RGN_EPOCH_OUT_COUNT n
  s.setRgn r { s.rgn r with epochAt := s.now }

/-- STALE_RESULT (R640). -/
def State.stale (s : State) (r epoch addr : Nat) : State :=
  let pg := pgRgn r
  let s := s.count pg Reg.RGN_CNT_STALE 1
  let s :=
    if s.flag pg Reg.RGN_STALE_HI_VALID then s.setF pg Reg.RGN_STALE_HI_MULTI 1
    else
      let s := (s.setF pg Reg.RGN_STALE_LO_ADDR addr).setF pg Reg.RGN_STALE_HI_ADDR (addr / 2 ^ 32)
      (s.setF pg Reg.RGN_STALE_HI_EPOCH epoch).setF pg Reg.RGN_STALE_HI_VALID 1
  s.raise pg 0 0x2D 2 (leBytes 4 (s.word (regIdx pg Reg.RGN_STALE_LO_ADDR)).toNat
    ++ leBytes 4 (s.word (regIdx pg Reg.RGN_STALE_HI_ADDR)).toNat)

/-- One inbound result is judged by its epoch (R639, R640). -/
def State.inboundNow (s : State) (c epoch addr : Nat) (data : List Byte) : State :=
  let r := regionOf c
  let pg := pgRgn r
  if epoch = s.getF pg Reg.PG_EPOCH_EPOCH then s.writeBytes 0 addr data
  else if s.flag pg Reg.PG_EPOCH_RVALID && epoch = s.getF pg Reg.PG_EPOCH_RETIRING then
    let s := s.writeBytes 0 addr data
    let n := s.getF pg Reg.RGN_EPOCH_OUT_COUNT - 1
    let s := s.setF pg Reg.RGN_EPOCH_OUT_COUNT n
    if n = 0 then s.setF pg Reg.PG_EPOCH_RVALID 0 else s
  else s.stale r epoch addr

/-- INBOUND_RESULT (R637, R639, R640): a result from outside the cluster reaches the controller of its region. While a copy
runs, it waits there. -/
def execInboundResult (c epoch addr : Nat) (data : List Byte) (s : State) : Result :=
  if cluRange s.part addr data.length ≠ some c then .next s
  else if s.copying c then
    let r := regionOf c
    let k := s.rgn r
    .next (s.setRgn r { k with inbound := k.inbound ++ [(c, epoch, addr, data)] })
  else .next (s.inboundNow c epoch addr data)

/-- EPOCH_RETIRE_TIMEOUT (R640). -/
def execEpochRetireTimeout (r : Nat) (s : State) : Result :=
  let pg := pgRgn r
  if !s.flag pg Reg.PG_EPOCH_RVALID || decide (s.now < (s.rgn r).epochAt + us (s.getF pg Reg.RGN_EPOCH_TMO_US)) then .next s
  else .next ((s.setF pg Reg.PG_EPOCH_RVALID 0).setF pg Reg.RGN_EPOCH_OUT_COUNT 0)

/-! ### The repair (R641 to R644) -/

/-- The slot that serves no local index (R641). -/
def State.freeSlot (s : State) (r : Nat) : Nat :=
  if s.flag (pgRgn r) Reg.RGN_SPARE_USED then s.getF (pgRgn r) Reg.RGN_SPARE_LOCAL else 16

/-- The reason for which a request fails; 0 where it is accepted (R641, log 92). -/
def State.repairWhy (s : State) (r i g : Nat) : Nat :=
  let pg := pgRgn r
  if s.getF pg Reg.RGN_REPAIR_STAT_STATE ≠ 0 then 1
  else if (List.range 16).any (fun k => s.running (16 * r + k) && decide (s.grpOf (16 * r + k) ≠ g)) then 2
  else if (s.getF pg Reg.RGN_SLOT_FAIL_SLOTS).testBit (s.freeSlot r)
      || (s.flag pg Reg.RGN_SPARE_USED && decide (s.getF pg Reg.RGN_SPARE_LOCAL ≠ i)) then 3
  else if s.flag pg Reg.PG_EPOCH_RVALID then 4
  else if !s.avail r then 5
  else 0

/-- The repair proceeds: the epoch advances, and the copy of 3,000 cycles(G) begins after a window of `n` cycles(G). -/
def State.startCopy (s : State) (r n : Nat) : State :=
  let s := s.advanceEpoch r
  let s := s.setF (pgRgn r) Reg.RGN_REPAIR_STAT_STATE 2
  s.setRgn r { s.rgn r with repairEnd := s.now + s.cyc (16 * r) (n + 3000) }

/-- Regions whose armed repair waits for a landing of group g (R642). -/
def State.armedRegions (s : State) (g : Nat) : List Nat :=
  (List.range 32).filter (fun r => s.getF (pgRgn r) Reg.RGN_REPAIR_STAT_STATE = 1 && (s.rgn r).repairGrp = g)

/-- REGION_REPAIR: RGN_REPAIR_CTL, offset 0x104 of page RGN[r], with GO (R641, R642). -/
def execRegionRepair (r val : Nat) (s : State) : Result :=
  let pg := pgRgn r
  let s := s.writeReg pg 0x104 val true
  if !val.testBit 31 || decide (32 ≤ r) || !s.reaches pg then .next s
  else
    let i := s.getF pg Reg.RGN_REPAIR_CTL_LOCAL
    let g := s.getF pg Reg.RGN_REPAIR_CTL_GRP
    let why := s.repairWhy r i g
    let s := s.setF pg Reg.RGN_REPAIR_STAT_WHY why
    if why ≠ 0 then .next (s.setF pg Reg.RGN_REPAIR_STAT_FAIL 1)
    else
      let s := s.setRgn r { s.rgn r with repairLocal := i, repairGrp := g }
      if s.regionRunning r then .next (s.setF pg Reg.RGN_REPAIR_STAT_STATE 1) else .next (s.startCopy r 0)

/-- The copy reads every memory of a cluster: correctable words are found and copied corrected (R642). -/
def State.copyWords (s : State) (c : Nat) : State :=
  let mine (k : Nat) : Bool := let i := k / 2 ^ 48; decide (i / 4096 < 5) && i % 4096 = c
  let hits := s.errs.filter (fun (p : Nat × Nat) => mine p.1 && p.2 = 1)
  let s := hits.foldl (fun s (p : Nat × Nat) => s.foundCE (p.1 / 2 ^ 48)) s
  { s with mems.errs := s.errs.filter (fun (p : Nat × Nat) => !(mine p.1 && p.2 = 1)) }

/-- REPAIR_COPY_DONE (R639, R642, R643): the new slot serves the local index, and the results that waited are written. -/
def execRepairCopyDone (r : Nat) (s : State) : Result :=
  let pg := pgRgn r
  let k := s.rgn r
  if decide (s.getF pg Reg.RGN_REPAIR_STAT_STATE ≠ 2) || decide (s.now < k.repairEnd) then .next s
  else
    let s := s.copyWords (16 * r + k.repairLocal)
    let used := s.flag pg Reg.RGN_SPARE_USED
    let s := (s.setF pg Reg.RGN_SPARE_USED (if used then 0 else 1)).setF pg Reg.RGN_SPARE_LOCAL (if used then 0 else k.repairLocal)
    let s := s.setF pg Reg.RGN_REPAIR_STAT_STATE 3
    let s := s.setRgn r { s.rgn r with vacated := if used then 16 else k.repairLocal, repairEnd := s.now + ms 5, inbound := [] }
    .next (k.inbound.foldl (fun s (x : Nat × Nat × Nat × List Byte) => s.inboundNow x.1 x.2.1 x.2.2.1 x.2.2.2) s)

/-- RESCAN_DONE (R38, R39, R644): the vacated slot has been rescanned. -/
def execRescanDone (r : Nat) (ok : Bool) (s : State) : Result :=
  let pg := pgRgn r
  if s.getF pg Reg.RGN_REPAIR_STAT_STATE ≠ 3 then .next s
  else
    let k := s.rgn r
    let s := if ok then s else s.failSlot r k.vacated
    let s := (s.setF pg Reg.RGN_REPAIR_STAT_STATE 0).setF pg Reg.RGN_REPAIR_STAT_DONE 1
    let s := s.count pg Reg.RGN_CNT_REPAIR 1
    let s := { s with arch.repairWrites := s.repairWrites ++ [FlashOp.repair r] }
    .next (s.raise pg 1 0x2E (if ok then 0 else 1) (leBytes 1 k.repairLocal ++ leBytes 1 (s.slotOf (16 * r + k.repairLocal))
      ++ leBytes 4 (s.getF pg Reg.RGN_SLOT_FAIL_SLOTS)))

/-- REPAIR_RECORD_WRITE (R597, R644): the Curator begins the next waiting write of the repair record, while no other flash
operation runs. -/
def execRepairRecordWrite (s : State) : Result :=
  match s.repairWrites with
  | [] => .next s
  | op :: rest =>
    if s.flashBusy || s.cur.flashHeld then .next s
    else .next { s with arch.repairWrites := rest, brd.cur := { s.cur with flashOp := some op, flashSent := true } }

end Sys2Proof.Machine
end

