-- ==== Sys2Proof/Machine/Time.lean ====
section
/-! DEFINITION. Rotunda time: stamps to the followers, the exchange with the parent, phase steps, setting the count (R303
to R311, R478). -/
namespace Sys2Proof.Machine

/-- A correction of the master count, which the follower counters follow. A step forward is made at once; by a step back
the count stands still until the time that it was ahead has passed, since it never decreases (R303, R309; log 70). -/
def State.stepCount (s : State) (delta : Int) : State :=
  let left : Int := delta - s.debt
  let up := left.toNat
  ({ s with time.rot := (s.rot + up) % 2 ^ 64, time.stamp := (s.stamp + up) % 2 ^ 64, time.debt := (-left).toNat }).count pgTim
    Reg.TIM_CNT_STEP 1

/-- R309: the phase step of one landing window, at most 64 units either way. -/
def State.windowStep (s : State) : State :=
  if s.stepDue = 0 then s
  else
    let d := max (-64) (min 64 s.stepDue)
    { s.stepCount d with time.stepDue := s.stepDue - d }

/-- ROTUNDA_STAMP (R305): after 64 cycles(REF), every follower counter takes the master count. -/
def execRotundaStamp (s : State) : Result :=
  if s.refPhase < 64 then .next s else .next { s with time.stamp := s.rot, time.refPhase := 0 }

/-- The trim limit of R304: 200 ppm of 160 units, in 2^-32 unit. -/
def trimMax : Nat := 137438953

/-- R308: the lock after an exchange with twice the offset `n`. -/
def State.lockStep (s : State) (n : Int) : State :=
  let s := { s with time.lockRun := if n.natAbs ≤ 32 then s.lockRun + 1 else 0,
                    time.unlockRun := if 64 < n.natAbs then s.unlockRun + 1 else 0 }
  if 64 ≤ s.lockRun then s.setF pgTim Reg.TIM_STAT_LOCK 1
  else if decide (4 ≤ s.unlockRun) && s.flag pgTim Reg.TIM_STAT_LOCK then
    let s := (s.setF pgTim Reg.TIM_STAT_LOCK 0).count pgTim Reg.TIM_CNT_UNLOCK 1
    s.raise pgTim 0 0x20 1 (leBytes 4 (s.getF pgTim Reg.TIM_OFFSET_THETA) ++ leBytes 1 (s.getF pgTim Reg.TIM_CFG_PARENT))
  else s

/-- TIME_EXCHANGE (R306, R308, R309, R478), over the parent port while that is UP: this package's TIME flit and its answer.
The law of the trim is not stated: within its limit the trim takes a free value, as does half a unit of a step (log 30). -/
def execTimeExchange (t : Stamps) (s : State) : Result :=
  let k := s.getF pgTim Reg.TIM_CFG_PARENT
  if s.flag pgTim Reg.TIM_CFG_ROLE || !s.portUp k then .next s
  else if t.bad then .next (s.sendHop k 0x8 [t.t1])
  else
    let s := (s.sendHop k 0x8 [t.t1]).hopIn k
    let n : Int := ((t.t2 : Int) - t.t1) - ((t.t4 : Int) - t.t3)
    let (r, s) := s.drawFree
    let theta : Int := (n + (r % 2 : Nat)) / 2
    let s := s.count pgTim Reg.TIM_CNT_XFER 1
    let s := (s.setF pgTim Reg.TIM_OFFSET_THETA (unsigned 32 (8 * n))).lockStep n
    if 2048 < n.natAbs then
      if s.anyFlight then .next { s with time.stepDue := theta }
      else .next { s.stepCount theta with time.stepDue := 0 }
    else
      let (v, s) := s.drawFree
      let trim : Int := (v % (2 * trimMax + 1) : Nat) - (trimMax : Int)
      .next ({ s with time.stepDue := 0 }.setF pgTim Reg.TIM_TRIM_TRIM (unsigned 32 trim))

/-- TIM_SET (R310): the count takes the written value at once; a follower loses its lock. -/
def execTimSet (val : Nat) (s : State) : Result :=
  let s := s.writeReg pgTim 0x128 val true
  if !s.reaches pgTim || !val.testBit 0 then .next s
  else
    let v := s.getF pgTim Reg.TIM_SET_LO_T + s.getF pgTim Reg.TIM_SET_HI_T * 2 ^ 32
    let s := { s with time.rot := v, time.rotFrac := 0, time.stamp := v, time.refPhase := 0, time.lockRun := 0, time.stepDue := 0,
                      time.debt := 0 }
    .next (s.setF pgTim Reg.TIM_STAT_LOCK 0)

end Sys2Proof.Machine
end

