-- ==== Sys2Proof/Machine/Landing.lean ====
section
/-! DEFINITION. Landings (R335 to R357, R701): who has landed, the landing window, messages of other members, dead members,
the stop state, pre-emption; gatherer advances (R283 to R285); lock-step with the twin (R380 to R388). -/
namespace Sys2Proof.Machine

/-! ### Who lands (R338, R348) -/

/-- The member clusters awaited at a landing of g: those of the loaded group but for ended and saved ones; without a
loaded group of this package, the clusters that fly in g or have landed. -/
def State.landSet (s : State) (g : Nat) : List Nat :=
  let m := s.myClusters g
  if m.isEmpty then (List.range 512).filter (fun c => (s.doc c = docFlight || (s.clu c).landed) && s.grpOf c = g)
  else m.filter (fun c => decide (s.doc c ≠ docDone) && decide (s.doc c ≠ docSaved))

/-- The flight of a cluster is closed: by a FLIGHT, by HALT, or by a BARRIER at the head of the queue. -/
def Cluster.closing (k : Cluster) : Bool :=
  k.next.isSome || k.halting || (match k.queue.head? with | some d => d.cls = 6 && d.opc = 2 | none => false)

/-- First condition of R338. -/
def State.clusterReady (s : State) (g c : Nat) : Bool :=
  let k := s.clu c
  s.doc c = docFlight && s.grpOf c = g && k.closing && k.launches.isEmpty && k.colls.isEmpty

/-- Members whose messages of landing n are awaited: not those that sent FINAL earlier (R348). -/
def State.awaited (s : State) (g n : Nat) : List Nat :=
  (s.others g).filter (fun p => !((s.run g).finals.any (fun f => f.1 = p && decide (f.2 < n))))

def State.hasMsg (s : State) (g n p : Nat) : Bool := (s.run g).msgs.any (fun m => m.idx = n && m.pkg = p)

/-- Second condition of R338: the messages of the landing before are here. -/
def State.heard (s : State) (g : Nat) : Bool := (s.run g).idx = 0 || (s.awaited g (s.run g).idx).all (s.hasMsg g (s.run g).idx)

/-- A cluster has landed, or both conditions of R338 hold for it. -/
def State.landable (s : State) (g c : Nat) : Bool := ((s.clu c).landed && s.doc c = docWindow) || (s.clusterReady g c && s.heard g)

/-- The clusters that land now: each on its own, at or after the scheduled landing instant (R338). -/
def State.landing (s : State) (g : Nat) : List Nat :=
  let r := s.run g
  if r.stopped || decide (s.rot < r.lam) then [] else (s.landSet g).filter (fun c => s.clusterReady g c && s.heard g)

/-- The package lands when all its member clusters have (R338), and no switch of the Archive that is due holds it (R416). -/
def State.canLand (s : State) (g : Nat) : Bool :=
  let r := s.run g
  let ms := s.landSet g
  !ms.isEmpty && !r.stopped && decide (r.lam ≤ s.rot) && ms.all (s.landable g) && s.switchReady g

/-- LANDING_INSTANT (R345): the scheduled landing instant finds the package not landed. A package held back only by trapped
clusters sends no notice. -/
def execLandingInstant (g : Nat) (s : State) : Result :=
  let r := s.run g
  let ms := s.landSet g
  let late := ms.filter (fun c => !s.landable g c && decide (s.doc c ≠ docTrapped))
  if r.stopped || ms.isEmpty || r.lam = 0 || decide (s.rot < r.lam) then .next s
  else if late.isEmpty && s.switchReady g then .next s
  else .next (s.sendNotice g)

/-! ### The gatherer (R283 to R285) -/

/-- The slots of a region that are shared with group g (R285, R288). -/
def State.sharedSlot (s : State) (r x g : Nat) : Bool :=
  s.flag (pgRgn r) (Reg.RGN_GATH_CFG_EN x) && s.flag (pgRgn r) (Reg.RGN_GATH_CFG_SHR x)
    && decide (s.getF (pgRgn r) (Reg.RGN_GATH_CFG_GRP x) = g)

/-- An advance: pushes a class and writes the scale (R283, R284). -/
def State.advanceSlot (s : State) (r x : Nat) (cls : Option Int) : State :=
  let pg := pgRgn r
  let key := 64 * r + x
  let hist := (cls :: sget (fun _ => []) s.gathHist key).take 8
  let s := { s with sched.gathHist := sset (fun _ => []) s.gathHist key hist }
  let s := (s.setF pg (Reg.RGN_GATH_HIST_DEPTH x) (min 8 (s.getF pg (Reg.RGN_GATH_HIST_DEPTH x) + 1))).count pg Reg.RGN_CNT_ADV 1
  let top := (hist.take (s.getF pg (Reg.RGN_GATH_CFG_WIN x) + 1)).foldl maxClass none
  let s := s.setF pg (Reg.RGN_GATH_HIST_WMAX x) (classCode top)
  match top with
  | none => s
  | some v =>
    let e := v - signed 5 (s.getF pg (Reg.RGN_GATH_CFG_TGT x))
    let e' := clampScale e
    let s := if e ≠ e' then s.setF pg (Reg.RGN_GATH_STAT_CLAMP x) 1 else s
    let i := s.getF pg (Reg.RGN_GATH_CFG_CIDX x)
    let s := (List.range 16).foldl (fun s j => s.applyEff (16 * r + j) 0 (.cat i (BitVec.ofNat 64 (unsigned 6 e')))) s
    (s.setF pg (Reg.RGN_GATH_STAT_NEXT x) (unsigned 6 e')).setF pg (Reg.RGN_GATH_STAT_VALID x) 1

/-- Takes the report of a slot: CUR returns to empty. -/
def State.takeReport (s : State) (r x : Nat) : State :=
  { (s.setF (pgRgn r) (Reg.RGN_GATH_STAT_CUR x) 0x800) with sched.reported := s.reported.filter (fun k => k ≠ 64 * r + x) }

/-- The slots of a region that advance by themselves: SHR = 0, with a report (R283). -/
def State.advanceLocal (s : State) (r : Nat) : State :=
  (List.range 64).foldl (fun s x =>
    if s.reported.contains (64 * r + x) && s.flag (pgRgn r) (Reg.RGN_GATH_CFG_EN x) && !s.flag (pgRgn r) (Reg.RGN_GATH_CFG_SHR x) then
      let cls := s.gathCur r x
      (s.takeReport r x).advanceSlot r x cls
    else s) s

/-- What the landed message says of the shared slots: each slot that received a report, with its greatest class over the
package's regions. -/
def State.sharedCur (s : State) (g : Nat) (rs : List Nat) : List (Nat × Option Int) :=
  (List.range 64).filterMap (fun x =>
    let hit := rs.filter (fun r => s.sharedSlot r x g && s.reported.contains (64 * r + x))
    if hit.isEmpty then none else some (x, (hit.map (fun r => s.gathCur r x)).foldl maxClass none))

/-- The shared slots of g start again for the next flight. -/
def State.resetShared (s : State) (g : Nat) (rs : List Nat) : State :=
  rs.foldl (fun s r => (List.range 64).foldl (fun s x => if s.sharedSlot r x g then s.takeReport r x else s) s) s

/-- The shared slots advance at landing n by what all members sent for landing n - 1 (R285). -/
def State.advanceShared (s : State) (g n : Nat) (rs : List Nat) : State :=
  let cur := ((s.run g).msgs.filter (fun m => m.idx + 1 = n)).flatMap (·.cur)
  (List.range 64).foldl (fun s x =>
    let mine := cur.filter (fun (p : Nat × Option Int) => p.1 = x)
    if mine.isEmpty then s
    else
      let cls := (mine.map (fun (p : Nat × Option Int) => p.2)).foldl maxClass none
      rs.foldl (fun s r => if s.sharedSlot r x g then s.advanceSlot r x cls else s) s) s

/-! ### The parts of the landing window (R341) -/

/-- The distinct regions and dies of some clusters, ascending. -/
def regionsOf (ms : List Nat) : List Nat := (List.range 32).filter (fun r => ms.any (fun c => regionOf c = r))
def diesOf (ms : List Nat) : List Nat := (List.range 4).filter (fun d => ms.any (fun c => dieOf c = d))

/-- The wanted clock code (R349, R351). -/
def State.wantedCode (s : State) (ms : List Nat) : Nat :=
  ((diesOf ms).map (fun d => if (s.throttle d).active then 0 else min 8 (s.permit d))).foldl min 8

/-- The Rotunda instant of an elapsed instant. -/
def State.rotAt (s : State) (t : Nat) : Nat := s.rot + t - s.now

/-- The cycle in which a cluster lands (R338) is that of the instant `lam`, or a later one where its last issue or completion,
or the last message of the landing before, came after that cycle: then it is late (R340). -/
def State.lateAt (s : State) (g c lam : Nat) : Bool :=
  let k := s.clu c
  let r := s.run g
  let heard := match r.msgAt.find? (fun p => p.1 = r.idx) with | some p => p.2 | none => 0
  decide (lam + s.cyc c 1 ≤ max heard (s.rotAt (max k.lastIssue k.lastDone)))

/-- A cluster lands: WINDOW, its slack, and whether it is late (R338, R340). -/
def State.landCluster (s : State) (g c lam : Nat) : State :=
  let pg := pgDoc c
  let late := s.lateAt g c lam
  let slack := if late then 0 else (lam - s.rotAt (s.clu c).lastDone) * s.freq (dieOf c) / 512
  let s := (s.setClu c { s.clu c with landed := true }).setDoc c docWindow
  let s := s.setF pg Reg.DOC_SLACK_MIN_SLACK (min slack (s.getF pg Reg.DOC_SLACK_MIN_SLACK))
  if late then s.count pg Reg.DOC_CNT_LATE 1 else s

/-- A landed message on the wire (log 51). -/
def landedBytes (m : LandedMsg) : List Byte :=
  leBytes 1 m.grp ++ leBytes 8 m.idx ++ leBytes 2 m.pkg ++ leBytes 1 m.code
    ++ leBytes 1 (m.final.toNat + 2 * m.preempt.toNat) ++ m.cur.flatMap (fun p => leBytes 1 p.1 ++ leBytes 2 (classCode p.2))

/-- The landed message goes to every other member, and counts here (R339). -/
def State.sendLanded (s : State) (m : LandedMsg) : State :=
  let r := s.run m.grp
  let s := s.setRun m.grp { r with msgs := r.msgs ++ [m], finals := if m.final then r.finals ++ [(m.pkg, m.idx)] else r.finals }
  (s.others m.grp).foldl (fun s p => s.sendChunk p 2 1 (landedBytes m)) s

/-- Cycles 2 to 5: pending commits of the pages of the clusters, and of the region pages whose GRP is g (R632). -/
def State.windowCommits (s : State) (g : Nat) (ms : List Nat) : State :=
  let s := ms.foldl (fun s c => [Block.clu, .arr, .vec, .doc].foldl (fun s b => s.commitAt b c) s) s
  (regionsOf ms).foldl (fun s r => [Block.rgn, .upd, .con].foldl (fun s b =>
    if s.getF (pageOf b r) Reg.PG_COMMIT_GRP = g then s.commitAt b r else s) s) s

/-- R353: the landing pre-empts the group. -/
def State.preempts (s : State) (g lam : Nat) : Bool :=
  s.flag pgTim Reg.TIM_PRE_CTL_ARM && decide (s.getF pgTim Reg.TIM_PRE_CTL_GRP = g)
    && decide (s.getF pgTim Reg.TIM_PRE_T_LO_T + s.getF pgTim Reg.TIM_PRE_T_HI_T * 2 ^ 32 ≤ lam)

/-- Cycles 26 to 29: the context of a cluster is taken, and it issues nothing further (R353, R355). -/
def State.beginSave (s : State) (c g n step : Nat) : State :=
  let k := s.clu c
  let x : Ctx :=
    { pc := k.fetchPc, loops := k.loops, queue := k.queue, next := k.next, grp := g, idx := n, step := step, tiles := s.tilesOf c,
      am := s.am.filter (fun p => decide (131072 * c ≤ p.1) && decide (p.1 < 131072 * (c + 1))),
      arrFlags := (List.range 4).map (fun a => s.getF (pgArr c) (arrFlagsF a)), vecFlags := s.getF (pgVec c) vecFlagsF,
      sfuFlags := s.getF (pgVec c) sfuFlagsF, rowStat := s.word (regIdx (pgVec c) Reg.VEC_ROW_STAT_ROW_NAR) }
  s.setClu c { k with saved := some x, next := none }

/-- The signature of a cluster for its flight (R381). -/
def State.clusterSig (s : State) (c : Nat) : BitVec 64 := crc64 ((s.clu c).units.flatMap (fun (p : Nat × List Byte) => p.2))

/-- The package signature over cluster signatures in ascending order (R382). -/
def packageSig (l : List (Nat × BitVec 64)) : BitVec 64 :=
  crc64 (l.flatMap (fun (p : Nat × BitVec 64) => leBytes 8 p.2.toNat))

/-- For each queue, the records that reached it before an instant (R383). -/
def State.reachedBefore (s : State) (lam : Nat) : List Nat :=
  (List.range 16).map (fun q => (s.iq q).taken + ((s.iq q).recs.filter (fun x => decide (x.reached < lam))).length)

/-- The B fields of the package (R368, R383). -/
def State.bFields (s : State) : List Nat :=
  let p := s.provenance
  [bits (p.getD 0 0) 23 8, bits (p.getD 1 0) 0 0, bits (p.getD 1 0) 3 2, p.getD 2 0, p.getD 3 0, p.getD 4 0, p.getD 5 0]

/-- The message to the twin (R383): the landed message of landing n, with the signature, the counts and, at the first landing,
the B fields (log 51). -/
def State.sendTwin (s : State) (g n : Nat) (sig : BitVec 64) (counts : List Nat) : State :=
  let b := if n = 1 then s.bFields.flatMap (leBytes 4) else []
  match (s.run g).msgs.find? (fun m => m.idx = n && m.pkg = s.pkg) with
  | some m => s.sendChunk s.twinPkg 2 1 (leBytes 8 sig.toNat ++ counts.flatMap (leBytes 4) ++ b ++ landedBytes m)
  | none => s

/-- The cluster signatures of a landing to the twin, on VC3 (R385). -/
def State.sendClusterSigs (s : State) (g n : Nat) : State :=
  let l := (((s.run g).cluSigs.find? (fun (p : Nat × List (Nat × BitVec 64)) => p.1 = n)).map
    (fun (p : Nat × List (Nat × BitVec 64)) => p.2)).getD []
  let h (i : Nat) : CollHdr := { grp := g, opc := 0, srcm := 0, dstm := 0, dpos := 0, cloak := false, part := true, rflags := 0,
                                 ord := false, cseq := n % 2 ^ 32, off := i }
  let bs := l.flatMap (fun (p : Nat × BitVec 64) => leBytes 2 p.1 ++ leBytes 8 p.2.toNat)
  (List.range (max 1 (ceilDiv bs.length 4080))).foldl (fun s i =>
    s.sendChunk s.twinPkg 3 0 ((h i).bytes ++ (bs.drop (4080 * i)).take 4080)) s

/-- The comparison of landing n, once both signatures are here (R385). -/
def State.compareTwin (s : State) (g n : Nat) : State :=
  let r := s.run g
  match r.sigs.find? (fun (p : Nat × BitVec 64) => p.1 = n), r.twin.find? (fun m => m.idx = n) with
  | some own, some m =>
    if n ≤ r.checked || s.flag pgDev Reg.DEV_DET_STAT_UNCHECKED then s
    else
      let s := (s.setRun g { r with checked := n }).count pgDev Reg.DEV_CNT_LSCMP 1
      let prov := match m.bfields with | some b => decide (b ≠ s.bFields) | none => false
      if prov then
        let s := s.lsCapture g n 0 true false
        (s.raise pgDev 5 0x15 3 s.lsData).enterStop g
      else if own.2 ≠ m.sig then
        let s := (s.raise pgDev 4 0x14 3 s.lsData).enterStop g
        (s.setRun g { s.run g with mismatch := true, lsAt := some n }).sendClusterSigs g n
      else s
  | _, _ => s

/-- Cycle 30: the signatures of the landing are latched, sent to the twin and logged (R382, R383, R390). -/
def State.latchSigs (s : State) (g n lam : Nat) (ms : List Nat) : State :=
  if s.getF pgDev Reg.DEV_DET_CTL_DIVERGE = 0 then s
  else
    let l := ms.map (fun c => (c, s.clusterSig c))
    let sig := packageSig l
    let counts := s.reachedBefore lam
    let r := s.run g
    let s := s.setRun g { r with sigs := (n, sig) :: r.sigs, cluSigs := (n, l) :: r.cluSigs, counts := (n, counts) :: r.counts }
    if s.lockstep then (s.sendTwin g n sig counts).compareTwin g n
    else if s.getF pgDev Reg.DEV_DET_CTL_DIVERGE = 2 && decide (s.getF pgDev Reg.DEV_DET_CTL_LOGGRP = g) then
      s.logRecordIn { q := 0, src := 0, kind := 1, land := n, payload := leBytes 8 sig.toNat, acc := none, chan := none }
    else s

/-- Cycle 31 in one cluster: the landing index, SIGNAL, EXHIBIT_DONE (R326, R341). -/
def State.endCluster (s : State) (g n c : Nat) : State :=
  let k := s.clu c
  let pg := pgDoc c
  let s := (s.setF pg Reg.DOC_LAND_LO_IDX n).setF pg Reg.DOC_LAND_HI_IDX (n / 2 ^ 32)
  let s := k.signals.foldl (fun s code => s.raise pg 4 0x05 0 (leBytes 2 code ++ leBytes 1 g ++ leBytes 8 n)) s
  let s := s.setClu c { s.clu c with signals := [], landed := false }
  if k.halting then (s.setDoc c docDone).raise pg 5 0x06 0 (leBytes 1 g ++ leBytes 8 n)
  else if k.next.isNone && k.saved.isNone then s.setDoc c docBarrier
  else s

/-- A die whose clock group is g at the end of the window of landing n: the release of its throttle, the move to its permitted
code, the agreed code (R342, R349, R613, R621). -/
def State.landClock (s : State) (g n code rel d : Nat) : State :=
  if bits (s.getF pgTim Reg.TIM_CLKGRP) (8 * d + 7) (8 * d) ≠ g then s
  else
    let s := if rel.testBit d && s.releasable d then s.release d else s
    let s := if s.clkDue.testBit d then { (s.setClock d (s.permit d)) with plat.clkDue := s.clkDue - 2 ^ d } else s
    if 2 ≤ n then s.setClock d code else s

/-- The windows of group g that have ended: the clocks switch at the end itself (R342). -/
def State.endWindow (s : State) (g : Nat) : State :=
  let r := s.run g
  match r.switch with
  | none => s
  | some (n, code, rel) =>
    if s.rot < r.winEnd then s
    else
      let u := min s.now (s.rot - r.winEnd)
      let s := s.setRun g { r with switch := none }
      s.earlier u (fun s => (List.range 4).foldl (fun s d => s.landClock g n code rel d) s)

/-- One REF cycle passes while no command waits: time advances (R304), the landing windows that end in it switch their clocks
(R342), the links send what waits (R453, R463), and regions that must leave service do once no cluster of them runs (R39, R43). -/
def State.idle (s : State) : State :=
  let s := s.tick.drainLinks.deliverLoop
  ((s.runs.map (·.1)).foldl State.endWindow s).endDrains

/-- The clusters of a landing whose region must leave service stop, and the region leaves it when none of its clusters runs
any more (R39, R43, R55). -/
def State.drainAt (s : State) (ms : List Nat) : State :=
  (ms.foldl (fun s c => if s.draining (regionOf c) && s.running c then s.stopCluster c else s) s).endDrains

/-- The agreed code of flight n + 1 (R349, R701). -/
def GroupRun.nextCode (r : GroupRun) : Nat :=
  let n := r.idx + 1
  if n < 2 then r.code
  else match (r.msgs.filter (fun m => m.idx + 1 = n)).map (·.code) with
    | [] => r.code
    | x :: xs => xs.foldl min x

/-- Removes what later landings do not use. -/
def GroupRun.prune (r : GroupRun) (lock : Bool) : GroupRun :=
  let n := r.idx
  { r with msgs := r.msgs.filter (fun m => decide (n ≤ m.idx)), msgAt := r.msgAt.filter (fun p => decide (n ≤ p.1)), notices := r.notices.filter (fun x => decide (n ≤ x.1)),
           lams := r.lams.take 4, twin := r.twin.filter (fun m => decide (n ≤ m.idx)),
           counts := r.counts.filter (fun x => decide (n ≤ x.1)),
           sigs := if lock then r.sigs.filter (fun x => decide (r.checked ≤ x.1)) else r.sigs.take 4,
           cluSigs := if lock then r.cluSigs.filter (fun x => decide (r.checked ≤ x.1)) else r.cluSigs.take 4 }

/-- R354: a member flagged PREEMPT for a landing at which this package did not pre-empt. -/
def State.splitCheck (s : State) (g n : Nat) : State :=
  let r := s.run g
  if r.preempted = some n || r.stopped then s
  else match r.msgs.find? (fun m => m.idx = n && m.preempt && decide (m.pkg ≠ s.pkg)) with
    | none => s
    | some m => (s.raise pgDev 2 0x12 3 (leBytes 1 g ++ leBytes 8 n ++ leBytes 2 m.pkg)).enterStop g

/-- The schedule of the flight that follows landing n (R336), and the run's next state. -/
def State.schedule (s : State) (g n : Nat) (ms : List Nat) (pre : Bool) : State :=
  let r := s.run g
  let go := ms.filter (fun c => !(s.clu c).halting && (s.clu c).next.isSome)
  let code := r.nextCode
  let rel := ((List.range 4).map (fun d =>
    if s.releasable d && decide (bits (s.getF pgTim Reg.TIM_CLKGRP) (8 * d + 7) (8 * d) = g) then 2 ^ d else 0)).foldl (· + ·) 0
  let stp := match ms.head? with | some c => (s.clu c).fStep | none => false
  let len := match go.head? with | some c => (match (s.clu c).next with | some (l, _, _) => l | none => 0) | none => 0
  let changed : Bool := decide (code ≠ r.code)
  let longer : Bool := changed || decide (rel ≠ 0)
  let t := r.lam + unitsAt r.code 32 + (if changed then us 1 else 0)
  let w := (ms.map (fun c => s.cyc c 32)).foldl max 0
  let r' : GroupRun :=
    { r with idx := n, step := (r.step + stp.toNat) % 2 ^ 64, code := code, s := if go.isEmpty then 0 else t,
             lam := if go.isEmpty || pre then 0 else t + unitsAt code len,
             winEnd := s.rot + w + (if longer then us 1 else 0), switch := some (n, code, rel),
             preempted := if pre then some n else r.preempted, lams := (n, r.lam) :: r.lams }
  s.setRun g (r'.prune s.lockstep)

/-- The landing window, in the order of R341. -/
def State.landWindow (s : State) (g : Nat) : State :=
  let r := s.run g
  let n := r.idx + 1
  let ms := s.landSet g
  let rs := regionsOf ms
  let pre := s.preempts g r.lam
  let final := ms.all (fun c => (s.clu c).halting)
  let msg : LandedMsg := { grp := g, idx := n, pkg := s.pkg, code := s.wantedCode ms, final := final, preempt := pre, cur := s.sharedCur g rs }
  let s := (s.resetShared g rs).sendLanded msg
  let at_ (n : Nat) : Nat := (ms.map (fun c => s.cyc c n)).foldl max 0
  let s := s.later (at_ 2) (fun s => s.windowCommits g ms)
  let s := (rs.foldl State.advanceLocal s).advanceShared g n rs
  let s := (s.armedRegions g).foldl (fun s x => s.startCopy x 32) s
  let s := (s.ageAt g).windowStep
  let step' := r.step + (match ms.head? with | some c => (s.clu c).fStep.toNat | none => 0)
  let s := if pre then ms.foldl (fun s c => if (s.clu c).halting then s else s.beginSave c g n step') (s.setAll pgTim Reg.TIM_PRE_CTL_ARM 0)
    else s
  let s := s.later (at_ 30) (fun s => s.latchSigs g n r.lam ms)
  let s := s.schedule g n ms pre
  let s := s.later (at_ 31) (fun s => ms.foldl (fun s c => s.endCluster g n c) s)
  let s := (s.egressAt g).splitCheck g n
  let s := if s.replaying && decide (s.getF pgDev Reg.DEV_DET_CTL_LOGGRP = g) then s.replayRead n else s
  (ms.foldl (fun s c => if (s.clu c).srst then s.softReset c else s) s).drainAt ms

/-- LANDING (R338 to R343): the clusters that can land do, each on its own; once all of the package's have, the landing window
runs (log 89). -/
def execLanding (g : Nat) (s : State) : Result :=
  let s := (s.landing g).foldl (fun s c => s.landCluster g c (s.run g).lam) s
  if s.canLand g then .next (s.landWindow g) else .next s

/-! ### Messages of other members (R339, R345 to R348, R354) -/

/-- A class-5 launch of the group, of a flight after landing n, that needs package p: its collective group, sequence number and
the member that p is. -/
def State.needsGone (s : State) (g n p : Nat) : Option (Nat × Nat × Nat) :=
  (s.stoppable g).findSome? (fun c => (s.clu c).colls.findSome? (fun x =>
    if decide (0 < (x.cseq / 1024 + 2 ^ 22 - n % 2 ^ 22) % 2 ^ 22) && decide ((x.cseq / 1024 + 2 ^ 22 - n % 2 ^ 22) % 2 ^ 22 < 2 ^ 21) then
      (s.group x.grp).bind (fun y =>
        (x.peers.find? (fun i => (y.members[i]?.map (·.pkg)) = some p)).map (fun i => (x.grp, x.cseq, i)))
    else none))

/-- LANDED_MESSAGE_RECEIVE (R338, R339, R348, R354). A FINAL message of a member that a launch of a later flight, already issued,
needs raises COLL_MISMATCH (R503, log 42). -/
def execLandedMessageReceive (m : LandedMsg) (s : State) : Result :=
  let r := s.run m.grp
  if !(s.others m.grp).contains m.pkg || s.hasMsg m.grp m.idx m.pkg then .next s
  else
    let s := s.setRun m.grp { r with msgs := r.msgs ++ [m], msgAt := (m.idx, s.rot) :: r.msgAt.filter (fun p => p.1 ≠ m.idx),
                                     finals := if m.final then r.finals ++ [(m.pkg, m.idx)] else r.finals }
    let s := if m.idx ≤ r.idx then s.splitCheck m.grp m.idx else s
    match (if m.final then s.needsGone m.grp m.idx m.pkg else none) with
    | some (grp, cseq, i) => .next (s.collMismatch m.grp grp cseq i 0)
    | none => .next s

/-- NOTICE_RECEIVE (R345, R346), from another member or, in LOCKSTEP mode, the twin: never renewed. -/
def execNoticeReceive (g idx pkg : Nat) (s : State) : Result :=
  let r := s.run g
  if (r.notices.any (fun x => x.1 = idx && x.2.1 = pkg))
      || !((s.others g).contains pkg || (s.lockstep && decide (pkg = s.twinPkg))) then .next s
  else .next (s.setRun g { r with notices := r.notices ++ [(idx, pkg, s.rot)] })

/-- The instant by which a message for landing n of package p is awaited (R346). -/
def State.judgeAt (s : State) (g n lam p : Nat) : Nat :=
  let dl := lam + us (s.getF pgTim Reg.TIM_LAND_CFG_DL)
  if (s.run g).notices.any (fun x => x.1 = n && x.2.1 = p && decide (x.2.2 ≤ dl)) then
    lam + us (s.getF pgTim Reg.TIM_LAND_CFG_LATE_MAX)
  else dl

/-- Landings whose messages can be judged: the one in progress and the latest past ones, oldest first. -/
def GroupRun.judged (r : GroupRun) : List (Nat × Nat) := r.lams.reverse ++ (if r.lam = 0 then [] else [(r.idx + 1, r.lam)])

/-- R383, R387: a twin message is overdue. -/
def State.twinLate (s : State) (g : Nat) : Option Nat :=
  if !s.lockstep || s.flag pgDev Reg.DEV_DET_STAT_UNCHECKED then none
  else
    let r := s.run g
    (r.judged.find? (fun (p : Nat × Nat) => decide (r.checked < p.1) && !r.twin.any (fun m => m.idx = p.1)
      && decide (s.judgeAt g p.1 p.2 s.twinPkg ≤ s.rot))).map (fun (p : Nat × Nat) => p.1)

/-- TWIN_LOST (R387). -/
def State.twinLost (s : State) (g n : Nat) : State :=
  let goOn := s.flag pgDev Reg.DEV_DET_CTL_TWINLOSS
  let s := s.raise pgDev 6 0x16 (if goOn then 1 else 3) (leBytes 1 g ++ leBytes 8 n)
  if goOn then s.setF pgDev Reg.DEV_DET_STAT_UNCHECKED 1 else s.enterStop g

/-- The member found dead first, and the landing (R346). A member that has sent FINAL judges nobody at later landings (R348);
in the stop state, only the landing whose mismatch brought it is still judged (R388). -/
def State.deadAt (s : State) (g : Nat) : Option (Nat × Nat) :=
  let r := s.run g
  r.judged.findSome? (fun (p : Nat × Nat) =>
    if r.finals.any (fun f => f.1 = s.pkg && decide (f.2 < p.1)) || (r.stopped && r.lsAt ≠ some p.1) then none
    else ((s.awaited g p.1).find? (fun x => !s.hasMsg g p.1 x && decide (r.idx ≤ p.1) && decide (s.judgeAt g p.1 p.2 x ≤ s.rot))).map
      (fun x => (p.1, x)))

/-- LANDING_DEADLINE (R346, R347, R387, R388): the first member found dead stops the group. -/
def execLandingDeadline (g : Nat) (s : State) : Result :=
  let dead := s.deadAt g
  let s := match (if (s.run g).stopped then none else s.twinLate g) with | some n => s.twinLost g n | none => s
  match dead with
  | none => .next s
  | some (n, x) =>
    let s := s.raise pgDev 0 0x10 3 (leBytes 1 g ++ leBytes 8 n ++ leBytes 2 x)
    let s := s.setRun g { s.run g with lsAt := none }
    .next ((s.sendStopsAt g n).enterStop g)

/-- STOP_MESSAGE_RECEIVE (R347, R626, R698): from another member or, in LOCKSTEP mode, the twin. -/
def execStopMessageReceive (g idx pkg : Nat) (s : State) : Result :=
  if (s.run g).stopped || !((s.others g).contains pkg || (s.lockstep && decide (pkg = s.twinPkg))) then .next s
  else .next ((s.raise pgDev 1 0x11 3 (leBytes 1 g ++ leBytes 8 idx ++ leBytes 2 pkg)).enterStop g)

/-! ### Context save (R353, R355) -/

/-- Uncorrectable accumulator words of the valid tiles of a cluster. -/
def State.tilesUe (s : State) (c : Nat) : List Nat :=
  if s.errs.isEmpty then []
  else (s.tilesOf c).flatMap
    (fun (p : Nat × TileRec) =>
      let a := p.1 / 64 % 4
      (List.range (16 * p.2.lines)).filterMap (fun k =>
        let off := a * 0x20000 + 128 * p.2.trow + 8 * k
        if sget (fun _ => 0) s.errs (cwName (2 * 4096 + c) off) = 2 then some off else none))

/-- CONTEXT_SAVE_COMPLETE (R353, R429): the save area is written, in a layout that is not stated, so its bytes are free
(log 57). -/
def execContextSaveComplete (c : Nat) (s : State) : Result :=
  match (s.clu c).saved with
  | none => .next s
  | some x =>
    if s.doc c ≠ docWindow then .next s
    else
      let bad := s.tilesUe c
      let s := bad.foldl (fun s off => s.foundUE (2 * 4096 + c) off 8) s
      let n := ctxBytes x.tiles
      let (v, s) := s.drawFree
      let bs : List Byte := (List.range n).map (fun i => BitVec.ofNat 8 (Config.freeDraw (v * 2 ^ 32 + i)))
      let s := if s.rangeOk (s.ctxAddr c) n then s.writeBytes 0 (s.ctxAddr c) bs else s
      let s := (s.setClu c { s.clu c with saveInvalid := !bad.isEmpty }).setDoc c docSaved
      .next (s.raise (pgDoc c) 3 0x04 (if bad.isEmpty then 0 else 2) (leBytes 1 x.grp ++ leBytes 8 x.idx ++ leBytes 1 bad.isEmpty.toNat))

/-! ### The twin (R383 to R388) -/

/-- TWIN_MESSAGE_RECEIVE (R383 to R385). -/
def execTwinMessageReceive (m : TwinMsg) (s : State) : Result :=
  let r := s.run m.grp
  if !s.lockstep || r.twin.any (fun x => x.idx = m.idx) then .next s
  else .next ((s.setRun m.grp { r with twin := r.twin ++ [m] }).compareTwin m.grp m.idx)

/-- CLUSTER_SIGNATURE_EXCHANGE (R385): the lowest logical cluster whose signatures differ is captured. -/
def execClusterSignatureExchange (g idx : Nat) (sigs : List (Nat × BitVec 64)) (s : State) : Result :=
  let r := s.run g
  let own := ((r.cluSigs.find? (fun (p : Nat × List (Nat × BitVec 64)) => p.1 = idx)).map
    (fun (p : Nat × List (Nat × BitVec 64)) => p.2)).getD []
  let sig (l : List (Nat × BitVec 64)) (c : Nat) : Option (BitVec 64) :=
    (l.find? (fun (p : Nat × BitVec 64) => p.1 = c)).map (fun (p : Nat × BitVec 64) => p.2)
  match (List.range 512).find? (fun c => decide (sig own c ≠ sig sigs c)) with
  | some c => if r.mismatch && decide (r.checked = idx) then .next ((s.lsCapture g idx c false false).setRun g { r with mismatch := false })
    else .next s
  | none => .next s

end Sys2Proof.Machine
end

