-- ==== Sys2Proof/Machine/Move.lean ====
section
/-! DEFINITION. Class 3: moves (R323, R401), with the page moves of the Archive (R406 to R413, R417). The duration of a
move is not promised (R700): it may complete from one cycle(G) after its launch on. -/
namespace Sys2Proof.Machine

/-! ### The descriptor (R323) -/

structure MoveDesc where
  rows : Nat
  cols : Nat
  sf : Option Fmt
  df : Option Fmt
  blkCode : Nat
  dir : Bool
  blockmax : Bool
  scat : Nat
  xcat : Nat
  xch : Bool
  src : Nat
  dst : Nat
  deriving DecidableEq, Repr

def Desc.move (d : Desc) : MoveDesc :=
  { rows := d.f 79 64, cols := d.f 103 80, sf := Fmt.ofCode (d.f 107 104), df := Fmt.ofCode (d.f 111 108),
    blkCode := d.f 114 112, dir := d.f 115 115 = 1, blockmax := d.f 116 116 = 1, scat := d.f 128 117,
    xcat := d.f 140 129, xch := d.f 141 141 = 1, src := d.f 189 142, dst := d.f 237 190 }

def MoveDesc.tensor (x : MoveDesc) (addr : Nat) (f : Fmt) : Tensor :=
  { addr := addr, rows := x.rows, cols := x.cols, fmt := f, blk := (blkSize x.blkCode).getD 8, dirCols := x.dir,
    xcat := x.xcat, xch := x.xch }

/-- A format code that a move may name: any but the reserved ones and QFULL, with a known block size where it is
block-scaled, and its channels in the Catalogue (R60, R71, R97, R276). -/
def MoveDesc.fmtOk (x : MoveDesc) (f : Option Fmt) : Bool :=
  match f with
  | none => false
  | some .qfull => false
  | some f => (!f.isSP || (blkSize x.blkCode).isSome) && (!f.isInt || !x.xch || decide (x.xcat + x.rows - 1 ≤ 4095))

/-- The part of a device range that is local to cluster c, as a dependency entry (R315). -/
def localDep (c a n : Nat) (w : Bool) : List DepRange :=
  if cluBase + c * 0x800000 ≤ a && decide (a < cluBase + (c + 1) * 0x800000) then
    [{ cat := false, lo := a, hi := a + n, writes := w }]
  else []

def MoveDesc.cats (x : MoveDesc) (sf df : Fmt) : List Nat :=
  (if sf.isInt || df.isInt then (List.range (if x.xch then x.rows else 1)).map (fun i => x.xcat + i) else [])
    ++ (if df.isSP && !x.blockmax then [x.scat] else [])

/-- A move enters the table; its flags are those of the vector engine (R101). -/
def State.moveLaunch (s : State) (c : Nat) (d : Desc) (holds : List DepRange) (effs : List Eff) : State :=
  s.addLaunch c d holds 1 0 0 0 (effs ++ s.variedEff d)

/-- A move descriptor that is refused whatever its operation: a reserved bit (R320). -/
def Desc.badMove (d : Desc) : Bool := !d.above 237

/-! ### COPY, CATLOAD, CATSAVE -/

/-- The effects of a COPY (R97 to R100). -/
def State.copyEffs (s : State) (d : Desc) (c : Nat) (x : MoveDesc) (sf df : Fmt) : List Eff :=
  let ts := x.tensor x.src sf
  let l := s.load c ts sf
  let vals := l.rows.map (fun r => r.map (fun e => convSource sf ((s.rndCtx d).at 0 0 0) e.val))
  let st : Store := { t := x.tensor x.dst df, sat := d.sat, blockmax := x.blockmax, scat := x.scat }
  let w := s.store c st vals (fun i j => (s.rndCtx d).at 0 0 (i * x.cols + j))
  w.effs ++ [.vecFlags (l.fl.or w.fl).word] ++ d.report 1 l.mag ++ d.report 2 w.mag

/-- What a COPY does (R429 MOVE). -/
def State.copyGo (s : State) (c : Nat) (d : Desc) (x : MoveDesc) (sf df : Fmt) (holds : List DepRange) : State :=
  let effs := s.copyEffs d c x sf df
  let s := ((s.touch x.src (x.tensor x.src sf).size 6).touchCats c 5 (x.cats sf df)).vary d
  s.moveLaunch c d holds effs

/-- The plan of a COPY. -/
def copyPlan (c : Nat) (s : State) (d : Desc) : Plan :=
  let x := d.move
  match x.sf, x.df with
  | some sf, some df =>
    let ns := (x.tensor x.src sf).size
    let nd := (x.tensor x.dst df).size
    let wr := localDep c x.dst nd true
    { bad := d.badMove || !x.fmtOk x.sf || !x.fmtOk x.df || !s.rangeOk x.src ns || !s.rangeOk x.dst nd,
      reads := localDep c x.src ns false ++ (x.cats sf df).map (fun i => depCat i 1 false), holds := wr,
      free := s.filled x.src ns && s.filled x.dst nd,
      go := fun t => t.copyGo c d x sf df wr }
  | _, _ => { bad := true, reads := [], holds := [], free := true, go := id }

/-- COPY (R323, R401). -/
def execCopy (c : Nat) (s : State) : Result := .next (s.tryIssue c 3 1 (copyPlan c))

/-- The malformed entry that R429 writes for an uncorrectable one. -/
def malformedEntry : BitVec 64 := BitVec.ofNat 64 (3 * 2 ^ 40)

/-- The effects of a CATLOAD: entry by entry, the word that memory holds. -/
def State.catloadEffs (s : State) (x : MoveDesc) : List Eff :=
  (List.range x.rows).map (fun k =>
    let a := x.src + 8 * k
    Eff.cat (x.dst % 4096 + k) (if s.ueIn a 8 then malformedEntry else BitVec.ofNat 64 (ofLeBytes (s.readBytes 0 a 8))))

/-- The plan of a CATLOAD. -/
def catloadPlan (c : Nat) (s : State) (d : Desc) : Plan :=
  let x := d.move
  let i0 := x.dst % 4096
  let n := 8 * x.rows
  let wr := [depCat i0 x.rows true]
  { bad := d.badMove || decide (4096 < i0 + x.rows) || !s.rangeOk x.src n,
    reads := localDep c x.src n false, holds := wr, free := s.filled x.src n,
    go := fun t => (t.touch x.src n 6).moveLaunch c d wr (t.catloadEffs x) }

/-- CATLOAD (R323, R429 MOVE). -/
def execCatload (c : Nat) (s : State) : Result := .next (s.tryIssue c 3 2 (catloadPlan c))

/-- The bytes that a CATSAVE writes. -/
def State.catsaveBytes (s : State) (c : Nat) (x : MoveDesc) : List Byte :=
  (List.range x.rows).flatMap (fun k =>
    leBytes 8 (if s.catErr c (x.src % 4096 + k) = 2 then malformedEntry else s.catWord c (x.src % 4096 + k)).toNat)

/-- The effects of a CATSAVE. -/
def State.catsaveEffs (s : State) (c : Nat) (x : MoveDesc) : List Eff :=
  if x.rows = 0 then [] else [.mem x.dst (s.catsaveBytes c x)]

/-- The plan of a CATSAVE. -/
def catsavePlan (c : Nat) (s : State) (d : Desc) : Plan :=
  let x := d.move
  let i0 := x.src % 4096
  let n := 8 * x.rows
  let hs := depCat i0 x.rows false :: localDep c x.dst n true
  { bad := d.badMove || decide (4096 < i0 + x.rows) || !s.rangeOk x.dst n,
    reads := [], holds := hs, free := s.filled x.dst n,
    go := fun t => (t.touchCats c 6 ((List.range x.rows).map (fun k => i0 + k))).moveLaunch c d hs (t.catsaveEffs c x) }

/-- CATSAVE (R315, R323, R429 MOVE): it holds the entries that it reads. -/
def execCatsave (c : Nat) (s : State) : Result := .next (s.tryIssue c 3 3 (catsavePlan c))

/-! ### Archive-window addresses (R407, R412) -/

structure ArcAddr where
  sess : Nat
  stream : Nat
  pos : Nat
  deriving DecidableEq, Repr

def arcAddr (a : Nat) : Option ArcAddr :=
  if bits a 47 46 = 3 then some { sess := bits a 45 32, stream := bits a 31 22, pos := bits a 21 0 } else none

/-- R412, R585: the launch meets an Archive fault. -/
def State.arcFault (s : State) (w : ArcAddr) (rows cols : Nat) : Bool :=
  let r := s.sess w.sess
  decide (r.state ≠ sessActive) || !s.hasKey r.kslot || decide (r.nstream < w.stream) || decide (r.maxpos < w.pos + rows) || decide (cols ≠ r.dim)

/-- ARC_FAULT and its count; POS is that of the address (log 37). -/
def arcFaultEffs (c : Nat) (w : ArcAddr) : List Eff :=
  [.vecFlags 8, .count pgDev Reg.DEV_ARC_CNT_FAULT 1,
   .event pgDev 0x1B 2 (leBytes 2 w.sess ++ leBytes 2 w.stream ++ leBytes 4 w.pos ++ leBytes 2 c)]

/-- SP4 with BLK B32 and DIR ROWS: the layout of the Reserve tier (R406). -/
def MoveDesc.reserveLayout (x : MoveDesc) (f : Fmt) : Bool := f = .sp4 && x.blkCode = 2 && !x.dir

/-! ### PAGEIN (R411) -/

/-- One position as a PAGEIN finds it: exact values, and codes with scale bytes where the span is in the Reserve tier. -/
structure PosIn where
  vals : List Val
  raw : Option (List Nat × List Nat)
  deriving DecidableEq, Repr

/-- Reads position p of a stream (R411). -/
def State.readPos (s : State) (r : SessRec) (t p : Nat) : PosIn :=
  let e := s.span r t (p / r.spanLen)
  let i := p % r.spanLen
  if decide (r.len ≤ p) || decide (e.fill ≤ i) || e.tier = tierEmpty then { vals := List.replicate r.dim (.fin .zero), raw := none }
  else if e.tier = tierReserve then
    let a := r.posAddr e i
    let sa := r.scaleAddr e i
    let codes := (List.range r.dim).map (fun j =>
      if s.ueIn (a + j / 2) 1 || s.ueIn (sa + j / 32) 1 then 8
      else ((s.readByte r.kslot (a + j / 2)).toNat >>> (if j % 2 = 0 then 0 else 4)) % 16)
    let scales := (List.range (r.dim / 32)).map (fun b => (s.readByte r.kslot (sa + b)).toNat)
    let vals := codes.zipIdx.map (fun (q, j) =>
      let sb := scales.getD (j / 32) 0
      if 64 ≤ sb then Val.nan
      else match decodeFmt .sp4 q with | .fin v => .fin (v.scale (signed 6 sb)) | v => v)
    { vals := vals, raw := some (codes, scales) }
  else { vals := s.displayVals r e i, raw := none }

/-- Reports the uncorrectable words of a position (R429 MOVE). -/
def State.touchPos (s : State) (r : SessRec) (t p : Nat) : State :=
  let e := s.span r t (p / r.spanLen)
  let i := p % r.spanLen
  if s.errs.isEmpty || decide (r.len ≤ p) || decide (e.fill ≤ i) || e.tier = tierEmpty then s
  else if e.tier = tierReserve then (s.touch (r.posAddr e i) (r.dim / 2) 6).touch (r.scaleAddr e i) (r.dim / 32) 6
  else s.touch (r.posAddr e i) (r.dim * r.fmt.width / 8) 6

/-- The effects of a PAGEIN (R411, R412): every position of the stream converted and stored, or NaR or NaN everywhere where
the launch meets an Archive fault. -/
def State.pageinEffs (s : State) (c : Nat) (d : Desc) (x : MoveDesc) (w : ArcAddr) (df : Fmt) : List Eff :=
  let st : Store := { t := x.tensor x.dst df, sat := d.sat, blockmax := x.blockmax, scat := x.scat }
  let rnd (i j : Nat) : Rnd := (s.rndCtx d).at 0 0 (i * x.cols + j)
  if s.arcFault w x.rows x.cols then
    let vals := List.replicate x.rows (List.replicate x.cols Val.nan)
    (s.storeWith c { st with blockmax := true } vals rnd (fun _ _ _ => (nanCode df, {}))).effs ++ arcFaultEffs c w
      ++ d.report 1 none ++ d.report 2 none
  else
    let r := s.sess w.sess
    let ps := (List.range x.rows).map (fun k => s.readPos r w.stream (w.pos + k))
    let keep (p : PosIn) : Bool := x.reserveLayout df && p.raw.isSome
    let vals := ps.map (fun p => if keep p then List.replicate r.dim (Val.fin .zero) else p.vals)
    let badScale := ps.any (fun p => !keep p && (match p.raw with | some (_, sc) => sc.any (fun b => decide (64 ≤ b)) | none => false))
    let o := s.store c st vals rnd
    let fl := if ps.all keep then {} else if badScale then o.fl.or Flags.INV else o.fl
    let copied := ps.zipIdx.flatMap (fun (p, i) =>
      match p.raw with
      | some (codes, scales) =>
        if keep p then
          [(x.dst + i * st.t.rowBytes, packRow .sp4 codes),
           (st.t.scaleAddr + i * (r.dim / 32), scales.map (BitVec.ofNat 8))]
        else []
      | none => [])
    o.effs ++ copied.map (fun p => Eff.mem p.1 p.2) ++ [.vecFlags fl.word]
      ++ d.report 1 (maxMag (ps.flatMap (·.vals))) ++ d.report 2 (maxMag (ps.flatMap (·.vals)))

/-- What a PAGEIN does (R411, R412). -/
def State.pageinGo (s : State) (c : Nat) (d : Desc) (x : MoveDesc) (w : ArcAddr) (df : Fmt) (holds : List DepRange) : State :=
  let effs := s.pageinEffs c d x w df
  if s.arcFault w x.rows x.cols then s.moveLaunch c d holds effs
  else
    let r := s.sess w.sess
    let s := ((List.range x.rows).foldl (fun s k => s.touchPos r w.stream (w.pos + k)) s).vary d
    (s.touchCats c 5 (x.cats .p8 df)).moveLaunch c d holds effs

/-- The plan of a PAGEIN. A source that is no Archive-window address is refused (log 35). -/
def pageinPlan (c : Nat) (s : State) (d : Desc) : Plan :=
  let x := d.move
  match arcAddr x.src, x.df with
  | some w, some df =>
    let nd := (x.tensor x.dst df).size
    let wr := localDep c x.dst nd true
    { bad := d.badMove || !x.fmtOk x.df || !s.rangeOk x.dst nd, reads := (x.cats .p8 df).map (fun i => depCat i 1 false),
      holds := wr, free := s.filled x.dst nd, go := fun t => t.pageinGo c d x w df wr }
  | _, _ => { bad := true, reads := [], holds := [], free := true, go := id }

/-- PAGEIN (R323, R401, R411, R412). -/
def execPagein (c : Nat) (s : State) : Result := .next (s.tryIssue c 3 4 (pageinPlan c))

/-! ### PAGEOUT (R410, R412, R413, R417) -/

/-- What a PAGEOUT leaves so far: state, byte runs written, flags, spans without pages. -/
structure PageOut where
  s : State
  runs : List (Nat × List Byte)
  fl : Flags
  noPage : List Nat
  deriving Repr

/-- Writes bytes of a position through the session's key slot. -/
def PageOut.write (o : PageOut) (kslot a : Nat) (bs : List Byte) : PageOut :=
  { o with s := o.s.writeBytes kslot a bs, runs := o.runs ++ [(a, bs)] }

/-- One position in the tier of its span. `raw` where the source is laid out as the Reserve tier. -/
def PageOut.position (o : PageOut) (r : SessRec) (e : Span) (i : Nat) (vals : List Val) (raw : Option (List Nat × List Nat))
    (rnd : Nat → Rnd) (sat : Bool) : PageOut :=
  if e.tier = tierReserve then
    let (codes, scales, fl) := match raw with
      | some (q, sc) => (packRow .sp4 q, sc.map (BitVec.ofNat 8), ({} : Flags))
      | none => reservePos vals
    { ((o.write r.kslot (r.posAddr e i) codes).write r.kslot (r.scaleAddr e i) scales) with fl := o.fl.or fl }
  else
    let qs := vals.zipIdx.map (fun (v, j) => encodeFmt r.fmt (rnd j) sat v)
    { (o.write r.kslot (r.posAddr e i) (packRow r.fmt (qs.map (·.1)))) with fl := o.fl.or (orFlags (qs.map (·.2))) }

/-- Zeros for a position below the new FILL that was never written. -/
def PageOut.zero (o : PageOut) (r : SessRec) (e : Span) (i : Nat) : PageOut :=
  if e.tier = tierReserve then
    (o.write r.kslot (r.posAddr e i) (List.replicate (r.dim / 2) 0)).write r.kslot (r.scaleAddr e i) (List.replicate (r.dim / 32) 0)
  else o.write r.kslot (r.posAddr e i) (List.replicate (r.dim * r.fmt.width / 8) 0)

/-- The span ready for a write: pages for an EMPTY one (R410, R413), the requantisation of a TRANSIT one cancelled
(R417). None where the pool grants no pages. -/
def State.openSpan (s : State) (n t k : Nat) : Option State :=
  let r := s.sess n
  let e := s.span r t k
  if e.tier = tierEmpty then
    match s.grantN false r.dpages with
    | none => none
    | some (ps, s') => some (s'.setSpan r t k { p0 := ps.getD 0 0, p1 := ps.getD 1 0, p2 := ps.getD 2 0, p3 := ps.getD 3 0,
                                                tier := tierDisplay, sslot := 0, fill := 0 })
  else if e.tier = tierTransit then some (s.cancelRequant n t k)
  else some s

/-- The positions of one span: `rows` are (position, values, raw layout, row index). -/
def PageOut.span (o : PageOut) (d : Desc) (x : MoveDesc) (w : ArcAddr) (k : Nat)
    (rows : List (Nat × List Val × Option (List Nat × List Nat) × Nat)) : PageOut :=
  match o.s.openSpan w.sess w.stream k with
  | none => { o with noPage := o.noPage ++ [k], fl := o.fl.or Flags.INV }
  | some s =>
    let r := s.sess w.sess
    let e := s.span r w.stream k
    let first := k * r.spanLen
    let lo := (rows.head?.map (fun p => p.1 - first)).getD 0
    let hi := rows.foldl (fun m p => max m (p.1 + 1 - first)) e.fill
    let o := { o with s := s }
    let o := (List.range (lo - e.fill)).foldl (fun o i => o.zero r e (e.fill + i)) o
    let o := rows.foldl (fun (o : PageOut) p =>
      o.position r e (p.1 - first) p.2.1 p.2.2.1 (fun j => (s.rndCtx d).at 0 0 (p.2.2.2 * x.cols + j)) d.sat) o
    let s2 := o.s.setSpan r w.stream k { e with fill := hi }
    { o with s := s2.setSess w.sess { r with len := max r.len (first + hi) } }

/-- The spans that a PAGEOUT writes (with the state after it), and the effects that it leaves for its completion: a span
that gets no page is reported (R412). -/
def State.pageoutWork (s : State) (c : Nat) (d : Desc) (x : MoveDesc) (w : ArcAddr) (sf : Fmt) : PageOut × List Eff :=
  let r := s.sess w.sess
  let ts := x.tensor x.src sf
  let l := s.load c ts sf
  let raw (i : Nat) : Option (List Nat × List Nat) :=
    if x.reserveLayout sf then
      some ((l.rows.getD i []).zipIdx.map (fun (e, j) => if e.ue then 8 else s.elemCode 0 ts i j),
        (List.range (r.dim / 32)).map (fun b => (s.readByte 0 (ts.scaleAddr + i * (r.dim / 32) + b)).toNat))
    else none
  let row (i : Nat) : Nat × List Val × Option (List Nat × List Nat) × Nat :=
    (w.pos + i, (l.rows.getD i []).map (fun e => convSource sf ((s.rndCtx d).at 0 0 0) e.val), raw i, i)
  let s := ((s.touch x.src ts.size 6).touchCats c 5 (x.cats sf .p8)).vary d
  let rows := (List.range x.rows).map row
  let spans := (rows.map (fun p => p.1 / r.spanLen)).eraseDups
  let o := spans.foldl (fun (o : PageOut) k => o.span d x w k (rows.filter (fun p => p.1 / r.spanLen = k)))
    { s := s, runs := [], fl := {}, noPage := [] }
  let same := rows.all (fun p => p.2.2.1.isSome && (s.span r w.stream (p.1 / r.spanLen)).tier = tierReserve)
  let fl := if same then o.fl else o.fl.or l.fl
  let evs := o.noPage.flatMap (fun k =>
    [Eff.count pgDev Reg.DEV_ARC_CNT_NOPAGE 1,
     .event pgDev 0x1C 2 (leBytes 2 w.sess ++ leBytes 2 w.stream ++ leBytes 4 k ++ leBytes 2 c)])
  (o, [.vecFlags fl.word] ++ evs ++ d.report 1 l.mag ++ d.report 2 l.mag)

/-- What a PAGEOUT does. -/
def State.pageoutGo (s : State) (c : Nat) (d : Desc) (x : MoveDesc) (w : ArcAddr) (sf : Fmt) : State :=
  if s.arcFault w x.rows x.cols then s.moveLaunch c d [] (arcFaultEffs c w ++ d.report 1 none ++ d.report 2 none)
  else
    let (o, effs) := s.pageoutWork c d x w sf
    (o.s.moveLaunch c d [] effs).addUnits c (2 * (s.clu c).issued) (storeUnits true o.runs)

/-- The plan of a PAGEOUT. A destination that is no Archive-window address is refused (log 35). -/
def pageoutPlan (c : Nat) (s : State) (d : Desc) : Plan :=
  let x := d.move
  match arcAddr x.dst, x.sf with
  | some w, some sf =>
    let ns := (x.tensor x.src sf).size
    { bad := d.badMove || !x.fmtOk x.sf || !s.rangeOk x.src ns,
      reads := localDep c x.src ns false ++ (x.cats sf .p8).map (fun i => depCat i 1 false), holds := [],
      free := s.filled x.src ns, go := fun t => t.pageoutGo c d x w sf }
  | _, _ => { bad := true, reads := [], holds := [], free := true, go := id }

/-- PAGEOUT (R323, R401, R410, R412). -/
def execPageout (c : Nat) (s : State) : Result := .next (s.tryIssue c 3 5 (pageoutPlan c))

/-- Bytes that a move carries: what it writes, or what a PAGEOUT reads. -/
def Launch.moved (l : Launch) : Nat :=
  if l.opc = 5 then ((l.desc.move.sf.map (fun f => f.bytes l.desc.move.cols)).getD 0) * l.desc.move.rows
  else (l.effs.map (fun e => match e with | .mem _ bs => bs.length | .cat _ _ => 8 | _ => 0)).foldl (· + ·) 0

/-- RGN_CNT_DMA counts full KiB (R685). -/
def State.countDma (s : State) (r n : Nat) : State :=
  let k := s.rgn r
  let b := k.dmaBytes + n
  (s.setRgn r { k with dmaBytes := b % 1024 }).count (pgRgn r) Reg.RGN_CNT_DMA (b / 1024)

/-- MOVE_COMPLETE (R700): every destination byte or entry is written. -/
def execMoveComplete (c : Nat) (s : State) : Result :=
  match s.doneLaunch c 3 with
  | none => .next s
  | some l => .next ((s.complete c 3).countDma (regionOf c) l.moved)

end Sys2Proof.Machine
end

