-- ==== Sys2Proof/Machine/Row.lean ====
section
/-! DEFINITION. Class 4: row operations of the vector engine (R241 to R270, R324): maxima and sums, moments, layer and
RMS normalisation, soft maximum, quire quotients, top-k. -/
namespace Sys2Proof.Machine

/-! ### The descriptor (R243, R324) -/

structure RowDesc where
  op : Nat
  m : Nat
  n : Nat
  fmt : Fmt
  outF : Fmt
  expF : Fmt
  msrc : Bool
  lenen : Bool
  gb : Nat
  tk : Nat
  ecat : Nat
  iAddr : Nat
  oAddr : Nat
  pair : Nat
  mx : Nat
  len : Nat
  memF : Fmt
  posBase : Nat
  gain : Nat
  bias : Nat
  i2 : Nat
  gbF : Fmt
  blkCode : Nat
  dir : Bool
  xcat : Nat
  xch : Bool
  blockmax : Bool
  scat : Nat
  deriving DecidableEq, Repr

/-- A format code, with a code that is reserved read as FP64 or QFULL where the check that follows refuses it. -/
def fmtOr (code : Nat) (f : Fmt) : Fmt := (Fmt.ofCode code).getD f

def Desc.row (d : Desc) : RowDesc :=
  { op := d.opc, m := d.f 79 64, n := d.f 103 80, fmt := fmtOr (d.f 107 104) .fp64, outF := fmtOr (d.f 111 108) .qfull,
    expF := fmtOr (d.f 115 112) .qfull, msrc := d.f 116 116 = 1, lenen := d.f 117 117 = 1, gb := d.f 119 118,
    tk := d.f 126 120, ecat := d.f 139 128, iAddr := d.f 159 140, oAddr := d.f 179 160, pair := d.f 199 180,
    mx := d.f 219 200, len := d.f 239 220, memF := fmtOr (d.f 243 240) .qfull, posBase := d.x 31 0, gain := d.x 51 32,
    bias := d.x 71 52, i2 := d.x 91 72, gbF := fmtOr (d.x 95 92) .qfull, blkCode := d.x 98 96, dir := d.x 99 99 = 1,
    xcat := d.x 111 100, xch := d.x 112 112 = 1, blockmax := d.x 113 113 = 1, scat := d.x 125 114 }

def rowSums (op : Nat) : Bool := op = 7 || op = 10
def rowSoft (op : Nat) : Bool := op = 9 || op = 10
def rowNorm (op : Nat) : Bool := op = 5 || op = 6
def rowTop (op : Nat) : Bool := op = 12 || op = 13

/-- The operand formats of R242. -/
def rowFmtOk (op : Nat) (f : Fmt) : Bool :=
  match op with
  | 1 | 2 | 9 | 10 | 12 | 13 => veFmt f
  | 11 => f = .qfull
  | _ => f = .p8 || f = .p16

/-- The quire that IFMT names (R151, R255). -/
def RowDesc.quire (x : RowDesc) : Quire := x.expF.quire

/-- Reads its input rows through the converter. -/
def RowDesc.usesMem (x : RowDesc) : Bool := !(x.op = 8 || x.op = 11)

/-- Writes OFMT. -/
def RowDesc.usesOut (x : RowDesc) : Bool := !rowSums x.op

def RowDesc.tensor (x : RowDesc) (c addr rows cols : Nat) (f : Fmt) : Tensor :=
  { addr := localAddr c addr, rows := rows, cols := cols, fmt := f, blk := (blkSize x.blkCode).getD 8, dirCols := x.dir,
    xcat := x.xcat, xch := x.xch }

def RowDesc.input (x : RowDesc) (c : Nat) : Tensor := x.tensor c x.iAddr x.m x.n x.memF

def depsOf (t : Tensor) (w : Bool) : DepRange := { cat := false, lo := t.addr, hi := t.addr + t.size, writes := w }

/-- The ranges that a launch reads (R324). -/
def RowDesc.reads (x : RowDesc) (c : Nat) : List DepRange :=
  let qb := x.quire.width / 8
  (match x.op with
    | 8 => [readDep (localAddr c x.iAddr) (32 * x.m), readDep (localAddr c x.i2) (32 * x.m)]
    | 11 => [readDep (localAddr c x.iAddr) (qb * x.m * x.n), readDep (localAddr c x.mx) (qb * x.m)]
    | _ => [depsOf (x.input c) false])
  ++ (if x.op = 13 then [readDep (localAddr c x.i2) (4 * x.m * x.n)] else [])
  ++ (if x.op = 7 || x.op = 8 || (rowSoft x.op && x.msrc) then [depsOf (x.tensor c x.mx x.m 1 x.fmt) false] else [])
  ++ (if x.lenen then [readDep (localAddr c x.len) (4 * x.m)] else [])
  ++ (if rowNorm x.op && decide (1 ≤ x.gb) then [depsOf (x.tensor c x.gain 1 x.n x.gbF) false] else [])
  ++ (if rowNorm x.op && x.gb = 2 then [depsOf (x.tensor c x.bias 1 x.n x.gbF) false] else [])

/-- The ranges that a launch writes. -/
def RowDesc.writes (x : RowDesc) (c : Nat) : List DepRange :=
  match x.op with
  | 1 | 2 | 3 => [depsOf (x.tensor c x.oAddr x.m 1 x.outF) true]
  | 4 | 8 => [depsOf (x.tensor c x.oAddr x.m 1 x.outF) true, depsOf (x.tensor c x.pair x.m 1 x.outF) true]
  | 7 => [writeDep (localAddr c x.oAddr) (32 * x.m), writeDep (localAddr c x.pair) (32 * x.m)]
  | 10 => [depsOf (x.tensor c x.oAddr x.m x.n x.expF) true, writeDep (localAddr c x.pair) (x.quire.width / 8 * x.m)]
      ++ (if x.msrc then [] else [depsOf (x.tensor c x.mx x.m 1 x.fmt) true])
  | 12 | 13 => [depsOf (x.tensor c x.oAddr x.m x.tk x.outF) true, writeDep (localAddr c x.pair) (4 * x.m * x.tk)]
  | _ => [depsOf (x.tensor c x.oAddr x.m x.n x.outF) true]

/-- Catalogue entries used. -/
def RowDesc.cats (x : RowDesc) : List Nat :=
  (if (x.usesMem && x.memF.isInt) || (x.usesOut && x.outF.isInt) then
    (List.range (if x.xch then x.m else 1)).map (fun i => x.xcat + i) else [])
    ++ (if x.usesOut && x.outF.isSP && !x.blockmax then [x.scat] else []) ++ (if rowNorm x.op then [x.ecat] else [])

/-- The refusals of a class-4 descriptor (R60, R71, R97, R151, R244, R276, R320). -/
def badRow (c : Nat) (d : Desc) (x : RowDesc) : Bool :=
  let inUse (f : Fmt → Bool) : Bool := (x.usesMem && f x.memF) || (x.usesOut && f x.outF)
  !rowFmtOk x.op x.fmt || (x.usesOut && (x.outF = .qfull || x.outF = .fp64)) || (x.usesMem && x.memF = .qfull)
    || x.m = 0 || x.n = 0
    || ((rowSoft x.op || x.op = 11) && !(x.expF = .p8 || x.expF = .p16 || x.expF = .p32))
    || (rowTop x.op && (x.tk = 0 || decide (64 < x.tk)))
    || (rowNorm x.op && (x.gb = 3 || (decide (x.gb ≠ 0) && !veFmt x.gbF)))
    || (x.op = 8 && !x.lenen)
    || (inUse Fmt.isSP && (blkSize x.blkCode).isNone)
    || (inUse Fmt.isInt && x.xch && decide (4095 < x.xcat + x.m - 1))
    || d.f 127 127 = 1 || !d.above 243 || decide (d.x 255 126 ≠ 0)
    || !(x.reads c ++ x.writes c).all (depIn c)

/-! ### Reading rows (R245) -/

/-- One element in an operand format that is neither block-scaled nor INT, with the flags of its conversion. -/
def State.elemAs (s : State) (c : Nat) (t : Tensor) (op : Fmt) (i j : Nat) : Elem × Flags :=
  let (e, f) := s.elemOf c 0 t i j
  if t.fmt = op then (e, f)
  else
    let (q, g) := encodeFmt op .rne true e.val
    ({ code := q, val := if e.ue then .nan else decodeFmt op q, ue := e.ue }, f.or g)

/-- What a launch knows of one row. -/
structure RowIn where
  i : Nat
  n : Nat
  xs : List Val
  /-- Shift, supplied maximum, or divisor code. -/
  k : Val
  kq : Nat
  /-- Quires of the row: elements of QDIV, the two sums of MVFIN. -/
  qs : List Nat
  pos : List Nat
  /-- Codes in the operand format, and source values (R102), of the elements. -/
  codes : List Nat
  src : List Val
  /-- A valid element that no uncorrectable word spoils is NaR or NaN (R265). -/
  nan : Bool
  deriving DecidableEq, Repr

/-- What one row gives. -/
structure RowOut where
  o : List Val := []
  p : Val := .fin .zero
  q0 : Nat := 0
  q1 : Nat := 0
  m : Val := .nan
  pos : List Nat := []
  /-- Codes that TOPK copies (R261). -/
  codes : List Nat := []
  fl : Flags := {}
  nar : Bool := false
  empty : Bool := false
  deriving DecidableEq, Repr

def sumNums (xs : List Num) : Num := xs.foldl Num.add .zero

/-- The real numbers of a row (none of its elements is NaN or infinite). -/
def reals (xs : List Val) : List Num := xs.map (fun v => match v with | .fin x => x | _ => .zero)

/-- Σd and Σd² of a row with shift k (R247). -/
def moments (k : Num) (xs : List Num) : Num × Num :=
  let ds := xs.map (fun x => x.sub k)
  (sumNums ds, sumNums (ds.map (fun d => d.mul d)))

/-- D / n² of R249. -/
def spread (n : Nat) (sd sd2 : Num) : Num :=
  ((sd2.mul (.ofInt n)).sub (sd.mul sd)).div (.ofInt ((n * n : Nat) : Int))

def valMax (xs : List Val) : Val := match xs with | [] => .nan | x :: t => t.foldl (fun a b => if a.lt b then b else a) x
def valMin (xs : List Val) : Val := match xs with | [] => .nan | x :: t => t.foldl (fun a b => if b.lt a then b else a) x

/-- The internal RSQRT of R252 and R253, on the AK9 table (R237; log 5), with the special values of R229. -/
def rhoOf (v : Val) : Val × Flags :=
  match v with
  | .nan => (.nan, {})
  | .inf true => (.nan, Flags.INV)
  | .inf false => (.fin .zero, {})
  | .fin x =>
    if x.isZero then (.inf false, Flags.INV)
    else if x.isNeg then (.nan, Flags.INV)
    else ((sfuEval false 7 v).value, {})

/-- The cutoff of R256. -/
def expCut (f : Fmt) : Num :=
  match f with
  | .p8 => { m := -69, e := -2 }
  | .p16 => { m := -79, e := -1 }
  | _ => { m := -335, e := -2 }

/-- E(τ) rounded into IFMT with RNE (R255, R256), on the AK9 tables (R237). -/
def expE (f : Fmt) (tau : Val) : Val × Flags :=
  match tau with
  | .nan => (.nan, {})
  | .inf true => (.fin .zero, {})
  | v =>
    if (match v with | .fin x => x.lt (expCut f) | _ => false) then (.fin .zero, {})
    else let (q, fl) := sfuResult false 1 f { fmt := f, rnd := .rne, sat := true } v; (decodeFmt f q, fl)

/-- Places an element (value, position, code) in descending order, after its equals of lower or equal position (R261,
R264). -/
def topInsert (x : Val × Nat × Nat) : List (Val × Nat × Nat) → List (Val × Nat × Nat)
  | [] => [x]
  | y :: t => if y.1.lt x.1 || (x.1.eqv y.1 && decide (x.2.1 < y.2.1)) then x :: y :: t else y :: topInsert x t

/-- The k first of R261, with empty slots (R263), whose code is `e`. -/
def topK (k e : Nat) (xs : List (Val × Nat × Nat)) : List (Val × Nat × Nat) :=
  let l := (xs.foldl (fun acc x => topInsert x acc) []).take k
  l ++ List.replicate (k - l.length) (.nan, 0xFFFFFFFF, e)

/-! ### One row (R247 to R265) -/

/-- A normalised row: `ts` are the centred values, `v` the exact value under the root. -/
def normRow (ts : List Num) (v : Val) (gain bias : List Val) : List Val × Flags :=
  let (rho, f) := rhoOf v.toW
  match rho with
  | .fin r =>
    let ys := ts.zipIdx.map (fun (t, j) =>
      let (a, f1) := (Val.fin (t.mul r)).mul (gain.getD j (.fin (.ofInt 1)))
      let (y, f2) := a.add (bias.getD j (.fin .zero))
      (y, f1.or f2))
    (ys.map (·.1), orFlags (f :: ys.map (·.2)))
  | _ => (ts.map (fun _ => .nan), f.or Flags.INV)

/-- Rows of SOFTMAX and SMPART (R255 to R260). A supplied maximum of NaR or NaN decides before the row of -inf (log 86). -/
def softRow (x : RowDesc) (r : RowIn) : RowOut :=
  let zeros := List.replicate (x.n - r.n) (Val.fin .zero)
  let nar := r.xs.any Val.isNan
  let m := if x.msrc then r.k else valMax r.xs
  let allNan (o : RowOut) : RowOut := { o with o := List.replicate r.n Val.nan ++ zeros, q1 := x.quire.nar }
  if r.n = 0 then { o := zeros, q1 := 0, m := m, empty := true }
  else if nar then allNan { m := m, fl := Flags.INV, nar := true }
  else if r.xs.contains (.inf false) || (x.msrc && m.isNan) then allNan { m := m, fl := Flags.INV }
  else if r.xs.all (fun v => v = .inf true) then
    { o := List.replicate r.n (Val.fin .zero) ++ zeros, q1 := 0, m := m, fl := Flags.INV, empty := true }
  else
    let es := r.xs.map (fun v => let (t, f) := v.add m.neg; let (e, g) := expE x.expF t.toW; (e, f.or g))
    let fl := orFlags (es.map (·.2))
    if es.any (fun e => e.1.isNan) then allNan { m := m, fl := fl }
    else
      let sum := sumNums (reals (es.map (·.1)))
      if x.op = 10 then { o := es.map (·.1) ++ zeros, q1 := (x.quire.write (x.quire.units sum)).1, m := m, fl := fl }
      else if sum.isZero then { o := es.map (fun _ => Val.fin .zero) ++ zeros, m := m, fl := fl, empty := true }
      else { o := es.map (fun e => (e.1.div (.fin sum)).1) ++ zeros, m := m, fl := fl }

/-- Rows of MEANVAR and MVFIN once the sums are known. -/
def meanVar (n : Nat) (k sd sd2 : Num) : RowOut :=
  let v := spread n sd sd2
  { o := [.fin (k.add (sd.div (.ofInt n)))], p := if v.isNeg then .nan else .fin v, fl := { inv := v.isNeg } }

/-- One row of a class-4 launch. -/
def rowOut (x : RowDesc) (eps : Val) (epsBad : Bool) (gain bias : List Val) (r : RowIn) : RowOut :=
  let nar := r.xs.any Val.isNan
  let xs := reals r.xs
  let q256 (v : Num) : Nat := (Quire.q256.write (Quire.q256.units v)).1
  match x.op with
  | 1 | 2 =>
    if r.n = 0 then { o := [.nan], fl := Flags.INV, empty := true }
    else { o := [if x.op = 1 then valMax r.xs else valMin r.xs], fl := { inv := nar }, nar := nar }
  | 3 =>
    if r.n = 0 then { o := [.fin .zero], empty := true }
    else { o := [if nar then .nan else .fin (sumNums xs)], nar := nar }
  | 4 =>
    if r.n = 0 then { o := [.nan], p := .nan, fl := Flags.INV, empty := true }
    else if nar then { o := [.nan], p := .nan, nar := true }
    else let k := xs.headD .zero; let (sd, sd2) := moments k xs; meanVar r.n k sd sd2
  | 5 | 6 =>
    let zeros := List.replicate (x.n - r.n) (Val.fin .zero)
    if r.n = 0 then { o := zeros, empty := true }
    else if nar then { o := List.replicate r.n .nan ++ zeros, nar := true }
    else
      let k := xs.headD .zero
      let (sd, sd2) := moments (if x.op = 5 then k else .zero) xs
      let base := if x.op = 5 then spread r.n sd sd2 else sd2.div (.ofInt r.n)
      let (v, f) := (Val.fin base).add eps
      let ts := if x.op = 5 then xs.map (fun a => toW ((((a.sub k).mul (.ofInt r.n)).sub sd).div (.ofInt r.n))) else xs
      let (ys, g) := normRow ts v gain bias
      { o := ys ++ zeros, fl := (f.or g).or { inv := epsBad } }
  | 7 =>
    match r.k with
    | .fin k =>
      if r.n = 0 then { empty := true }
      else if nar then { q0 := Quire.q256.nar, q1 := Quire.q256.nar, nar := true }
      else let (sd, sd2) := moments k xs; { q0 := q256 sd, q1 := q256 sd2 }
    | _ =>
      if r.n = 0 then { empty := true } else { q0 := Quire.q256.nar, q1 := Quire.q256.nar, nar := nar }
  | 8 =>
    if r.n = 0 then { o := [.nan], p := .nan, fl := Flags.INV, empty := true }
    else match r.k, Quire.q256.val (r.qs.getD 0 0), Quire.q256.val (r.qs.getD 1 0) with
      | .fin k, .fin a, .fin b => meanVar r.n k a b
      | _, _, _ => { o := [.nan], p := .nan, nar := true }
  | 9 | 10 => softRow x r
  | 11 =>
    let sv := x.quire.val r.kq
    let qn := r.qs.any (fun q => q = x.quire.nar)
    let zero := match sv with | .fin v => v.isZero | _ => false
    let ys := r.qs.map (fun q => if zero then (Val.nan, Flags.INV) else ((x.quire.val q).div sv))
    { o := ys.map (·.1), fl := orFlags (ys.map (·.2)), nar := decide (0 < r.n) && (sv.isNan || qn) }
  | _ =>
    let l := topK x.tk (nanCode x.fmt) (r.xs.zip (r.pos.zip r.codes))
    { o := l.map (·.1), pos := l.map (fun e => e.2.1), codes := l.map (fun e => e.2.2), fl := { inv := nar }, nar := nar, empty := r.n = 0 }

/-- The operations that set INV for a row that holds NaR or NaN (R265). -/
def nanInv (op : Nat) : Bool := op = 1 || op = 2 || rowSoft op || rowTop op

/-- R429: every output of a row that an uncorrectable word touches is the NaR-or-NaN value (log 38). What R265 gives for the
row's other elements, `nan` among them, stands. -/
def RowOut.spoil (o : RowOut) (x : RowDesc) (n : Nat) (nan : Bool) : RowOut :=
  let q := if x.op = 7 then Quire.q256.nar else x.quire.nar
  { nar := nan, empty := o.empty, fl := if n = 0 then o.fl else { inv := nan && nanInv x.op },
    codes := o.codes.map (fun _ => nanCode x.fmt), o := o.o.zipIdx.map (fun (v, j) => if (rowNorm x.op || rowSoft x.op) && decide (n ≤ j) then v else .nan),
    p := .nan, q0 := q, q1 := q, m := .nan, pos := o.pos.map (fun _ => 0xFFFFFFFF) }

/-! ### Stores -/

/-- A store of M × N elements of which row i has only its first n_i written (R245): the byte runs of `w` cut to what is
written. -/
def State.maskStore (s : State) (t : Tensor) (ns : List Nat) (w : Stored) : List (Nat × List Byte) :=
  let own (i j : Nat) : Bool := decide (j < ns.getD i 0)
  let put (i j : Nat) : Bool := if t.fmt.isSP then (t.block i j).any (fun p => own p.1 p.2) else own i j
  let full := runBytes w.runs
  let at_ (a : Nat) : Byte := sget (fun _ => 0) full a
  let elems := (List.range t.pr).flatMap (fun i =>
    if t.fmt.width = 4 then
      (List.range t.rowBytes).filterMap (fun k =>
        let a := t.addr + i * t.rowBytes + k
        let lo := decide (2 * k < t.pc) && put i (2 * k)
        let hi := decide (2 * k + 1 < t.pc) && put i (2 * k + 1)
        if lo && (hi || decide (t.pc ≤ 2 * k + 1)) then some (a, [at_ a])
        else if lo then some (a, [(at_ a &&& 0x0F) ||| (s.byteAt a &&& 0xF0)])
        else if hi then some (a, [(at_ a &&& 0xF0) ||| (s.byteAt a &&& 0x0F)])
        else none)
    else
      (List.range t.pc).filterMap (fun j =>
        let b := t.fmt.width / 8
        let a := t.elemAddr i j
        if put i j then some (a, (List.range b).map (fun k => at_ (a + k))) else none))
  let scales :=
    if !t.fmt.isSP then []
    else
      ((List.range t.rows).flatMap (fun i => (List.range t.cols).filterMap (fun j =>
        if put i j then some (t.scaleAddr + t.scaleIdx i j) else none))).eraseDups.map (fun a => (a, [at_ a]))
  elems ++ scales

/-- The stores of a launch: runs, flags, largest magnitude of the first output. -/
def State.rowStore (s : State) (c : Nat) (d : Desc) (x : RowDesc) (ns : List Nat) (os : List RowOut) : Stored :=
  let ctx := s.rndCtx d
  let st (addr cols : Nat) (f : Fmt) : Store :=
    { t := x.tensor c addr x.m cols f, sat := d.sat, blockmax := x.blockmax, scat := x.scat }
  let perRow (part addr : Nat) (f : Fmt) (g : RowOut → Val) : Stored :=
    s.store c (st addr 1 f) (os.map (fun o => [g o])) (fun i _ => ctx.at 0 part i)
  let rowsOf (addr cols : Nat) (f : Fmt) : Stored :=
    s.store c (st addr cols f) (os.map (·.o)) (fun i j => ctx.at 0 0 (i * x.n + j))
  let quires (addr b : Nat) (g : RowOut → Nat) : List (Nat × List Byte) :=
    [(localAddr c addr, os.flatMap (fun o => leBytes b (g o)))]
  match x.op with
  | 1 | 2 | 3 => perRow 0 x.oAddr x.outF (fun o => o.o.headD .nan)
  | 4 | 8 =>
    let a := perRow 0 x.oAddr x.outF (fun o => o.o.headD .nan)
    let b := perRow 1 x.pair x.outF (·.p)
    { runs := a.runs ++ b.runs, fl := a.fl.or b.fl, mag := a.mag }
  | 7 => { runs := quires x.oAddr 32 (·.q0) ++ quires x.pair 32 (·.q1), fl := {},
           mag := maxMag (os.map (fun o => Quire.q256.val o.q0)) }
  | 10 =>
    let a := rowsOf x.oAddr x.n x.expF
    let b : Stored := if x.msrc then { runs := [], fl := {}, mag := none } else perRow 0 x.mx x.fmt (·.m)
    { runs := a.runs ++ quires x.pair (x.quire.width / 8) (·.q1) ++ b.runs, fl := a.fl.or b.fl, mag := a.mag }
  | 11 =>
    let t := x.tensor c x.oAddr x.m x.n x.outF
    let pad := os.map (fun o => o.o ++ List.replicate (x.n - o.o.length) (Val.fin .zero))
    let w := s.storeWith c (st x.oAddr x.n x.outF) pad (fun i j => ctx.at 0 0 (i * x.n + j)) (fun i j oc =>
      let (q, f) := oc.encode ((pad.getD i []).getD j (.fin .zero))
      (q, if j < ns.getD i 0 then f else {}))
    { runs := s.maskStore t ns w, fl := if ns.all (fun n => n = 0) then {} else w.fl, mag := maxMag (os.flatMap (·.o)) }
  | 12 | 13 =>
    let a := if x.outF = x.fmt
      then s.storeWith c (st x.oAddr x.tk x.outF) (os.map (·.o)) (fun i j => ctx.at 0 0 (i * x.n + j))
        (fun i j _ => (((os[i]?).map (fun o => o.codes.getD j 0)).getD 0, {}))
      else rowsOf x.oAddr x.tk x.outF
    { a with runs := a.runs ++ [(localAddr c x.pair, os.flatMap (fun o => o.pos.flatMap (leBytes 4)))] }
  | _ => rowsOf x.oAddr x.n x.outF

/-! ### Timing (R268, R269) -/

def orderRate (f : Fmt) : Nat := match f with | .p8 => 1024 | .p16 => 512 | _ => 256

/-- Cycles(G) of a row of n valid elements. -/
def RowDesc.rowCost (x : RowDesc) (n : Nat) : Nat :=
  if n = 0 then 1
  else
    let o := ceilDiv n (orderRate x.fmt)
    match x.op with
    | 1 | 2 => o
    | 3 | 4 | 7 => ceilDiv n 256
    | 5 => 2 * ceilDiv n 256 + 38
    | 6 => 2 * ceilDiv n 256 + 34
    | 8 => 1
    | 9 => (if x.msrc then 0 else o + 6) + 2 * ceilDiv n 32 + 18
    | 10 => (if x.msrc then 0 else o + 6) + ceilDiv n 32
    | 11 => ceilDiv n (4096 / x.quire.width)
    | _ => ceilDiv n 64

/-- The tail of the last row. -/
def RowDesc.tail (x : RowDesc) : Nat :=
  match x.op with
  | 1 | 2 | 5 | 6 => 6
  | 3 | 7 => 10
  | 4 | 9 => 30
  | 8 => 26
  | 10 => 18
  | 11 => 16
  | _ => 12 + ceilDiv x.tk 16

/-- SFU slots of a row. -/
def RowDesc.sfuSlots (x : RowDesc) (n : Nat) : Nat :=
  match x.op with
  | 5 | 6 => if n = 0 then 0 else 1
  | 9 => 2 * n
  | 10 => n
  | _ => 0

/-! ### The launch -/

/-- Reports every code word in error of some ranges, each once (R430). -/
def State.touchAll (s : State) (rs : List (Nat × Nat)) (cause : Nat) : State :=
  if s.errs.isEmpty then s
  else
    let ws := (rs.flatMap (fun r =>
      let w := cwBytes r.1
      if r.2 = 0 then [] else (List.range ((r.1 % w + r.2 + w - 1) / w)).map (fun i => r.1 / w * w + w * i))).eraseDups
    ws.foldl (fun s a => let (i, o) := instOf s.part a; s.foundAt i o cause) s

/-- A row's inputs, the flags of its loads, whether an uncorrectable word touches it, and the ranges read. -/
def State.rowIn (s : State) (c : Nat) (x : RowDesc) (i n : Nat) : RowIn × Flags × Bool × List (Nat × Nat) :=
  let t := x.input c
  let u32 (a : Nat) : Nat := ofLeBytes (s.readBytes 0 a 4)
  let es := if x.usesMem then (List.range n).map (fun j => s.elemAs c t x.fmt i j) else []
  let srcs := if x.usesMem then (List.range n).map (fun j => (s.elemOf c 0 t i j).1.val) else []
  let kt := x.tensor c x.mx x.m 1 x.fmt
  let useK := x.op = 7 || x.op = 8 || (rowSoft x.op && x.msrc)
  let (ke, kf) : Elem × Flags := if useK then s.elemAs c kt x.fmt i 0 else ({ code := 0, val := .nan, ue := false }, {})
  let qb := x.quire.width / 8
  let qAddr (j : Nat) : Nat := localAddr c x.iAddr + (i * x.n + j) * qb
  let qs : List Nat := match x.op with
    | 8 => [ofLeBytes (s.readBytes 0 (localAddr c x.iAddr + 32 * i) 32), ofLeBytes (s.readBytes 0 (localAddr c x.i2 + 32 * i) 32)]
    | 11 => (List.range n).map (fun j => ofLeBytes (s.readBytes 0 (qAddr j) qb))
    | _ => []
  let rowRange : List (Nat × Nat) :=
    if n = 0 then []
    else if x.usesMem then
      (t.elemAddr i 0, t.fmt.bytes n) ::
        (if t.fmt.isSP then ((List.range n).map (fun j => (t.scaleAddr + t.scaleIdx i j, 1))).eraseDups else [])
    else if x.op = 8 then [(localAddr c x.iAddr + 32 * i, 32), (localAddr c x.i2 + 32 * i, 32)]
    else [(qAddr 0, n * qb)]
  let ranges := rowRange
    ++ (if x.op = 13 && decide (0 < n) then [(localAddr c x.i2 + 4 * (i * x.n), 4 * n)] else [])
    ++ (if useK then [(kt.elemAddr i 0, x.fmt.width / 8)] else [])
    ++ (if x.op = 11 then [(localAddr c x.mx + i * qb, qb)] else [])
    ++ (if x.lenen then [(localAddr c x.len + 4 * i, 4)] else [])
  let pos := match x.op with
    | 12 => (List.range n).map (fun j => (x.posBase + j) % 2 ^ 32)
    | 13 => (List.range n).map (fun j => u32 (localAddr c x.i2 + 4 * (i * x.n + j)))
    | _ => []
  ({ i := i, n := n, xs := es.map (fun e => e.1.val), k := ke.val, codes := es.map (fun e => e.1.code), src := srcs,
     nan := es.any (fun e => e.1.val.isNan && !e.1.ue),
     kq := if x.op = 11 then ofLeBytes (s.readBytes 0 (localAddr c x.mx + i * qb) qb) else 0, qs := qs, pos := pos },
   orFlags (kf :: es.map (·.2)), ranges.any (fun r => s.ueIn r.1 r.2), ranges)

/-- What a class-4 launch comes to: its effects, the ranges that it reads, its issue cycles(G). -/
structure RowWork where
  effs : List Eff
  ranges : List (Nat × Nat)
  cost : Nat

/-- The work of a class-4 launch, from the operands as they stand at its issue. Gain and bias are read at the columns of valid
elements (R245). GSRC = LOAD reports the source values (R102); of MVFIN and QDIV, whose first operand is QFULL and not
converted, the values of the quires (log 86). -/
def State.rowWork (s : State) (c : Nat) (d : Desc) (x : RowDesc) : RowWork :=
  let count (i : Nat) : Nat := if x.lenen then ofLeBytes (s.readBytes 0 (localAddr c x.len + 4 * i) 4) else x.n
  let rows := List.range x.m
  let ovr := rows.any (fun i => decide (x.n < count i))
  let ns := rows.map (fun i => min x.n (count i))
  let top := ns.foldl max 0
  let tg := x.tensor c x.gain 1 top x.gbF
  let tb := x.tensor c x.bias 1 top x.gbF
  let none_ : Loaded := { rows := [], fl := {}, mag := none }
  let g := if rowNorm x.op && decide (1 ≤ x.gb) then s.load c tg x.gbF else none_
  let b := if rowNorm x.op && x.gb = 2 then s.load c tb x.gbF else none_
  let gbRanges := (if rowNorm x.op && decide (1 ≤ x.gb) then [(tg.addr, tg.size)] else [])
    ++ (if rowNorm x.op && x.gb = 2 then [(tb.addr, tb.size)] else [])
  let gbUe (n : Nat) : Bool := gbRanges.any (fun r => s.ueIn r.1 (x.gbF.bytes n))
  let eps := s.catEnt c x.ecat
  let ins := (rows.zip ns).map (fun (i, n) => s.rowIn c x i n)
  let vals (l : Loaded) : List Val := (l.rows.getD 0 []).map (·.val)
  let os := ins.map (fun r =>
    let o := rowOut x eps.val eps.bad (vals g) (vals b) r.1
    if r.2.2.1 || gbUe r.1.n then o.spoil x r.1.n r.1.nan else o)
  let w := s.rowStore c d x ns os
  let fl := orFlags ([g.fl, b.fl, w.fl, { inv := ovr }] ++ ins.map (fun r => r.2.1) ++ os.map (·.fl))
  let sts := os.zipIdx.filterMap (fun (o, i) => if o.nar || o.empty then some (Eff.rowStat o.nar o.empty i) else none)
  let slots := (ns.map x.sfuSlots).foldl (· + ·) 0
  let mag := maxMag (ins.flatMap (fun r => match x.op with
    | 8 => [Quire.q256.val (r.1.qs.getD 0 0)]
    | 11 => r.1.qs.map x.quire.val
    | _ => r.1.src))
  { effs := w.effs ++ [.vecFlags fl.word] ++ sts ++ [.count (pgVec c) Reg.VEC_CNT_SFU slots]
      ++ d.report 1 mag ++ d.report 2 w.mag ++ s.variedEff d,
    ranges := ins.flatMap (fun r => r.2.2.2) ++ gbRanges, cost := (ns.map x.rowCost).foldl (· + ·) 0 }

/-- What a class-4 launch does. -/
def State.rowGo (s : State) (c : Nat) (d : Desc) (x : RowDesc) (holds : List DepRange) : State :=
  let w := s.rowWork c d x
  let s := ((s.touchAll w.ranges 4).touchCats c 5 x.cats).vary d
  (s.takeVe c w.cost).addLaunch c d holds (w.cost + x.tail) 0 0 0 w.effs

/-- The plan of a class-4 operation. -/
def rowPlan (c : Nat) (s : State) (d : Desc) : Plan :=
  let x := d.row
  { bad := badRow c d x, reads := x.reads c ++ x.cats.map (fun i => depCat i 1 false), holds := x.writes c,
    free := s.veIdle c, go := fun t => t.rowGo c d x (x.writes c) }

/-- ROWMAX (R241, R265). -/
def execRowmax (c : Nat) (s : State) : Result := .next (s.tryIssue c 4 1 (rowPlan c))

/-- ROWMIN (R241, R265). -/
def execRowmin (c : Nat) (s : State) : Result := .next (s.tryIssue c 4 2 (rowPlan c))

/-- ROWSUM (R241, R265). -/
def execRowsum (c : Nat) (s : State) : Result := .next (s.tryIssue c 4 3 (rowPlan c))

/-- MEANVAR (R247 to R250). -/
def execMeanvar (c : Nat) (s : State) : Result := .next (s.tryIssue c 4 4 (rowPlan c))

/-- LNORM (R252, R254). -/
def execLnorm (c : Nat) (s : State) : Result := .next (s.tryIssue c 4 5 (rowPlan c))

/-- RMSNORM (R253, R254). -/
def execRmsnorm (c : Nat) (s : State) : Result := .next (s.tryIssue c 4 6 (rowPlan c))

/-- MVPART (R251). -/
def execMvpart (c : Nat) (s : State) : Result := .next (s.tryIssue c 4 7 (rowPlan c))

/-- MVFIN (R249 to R251). -/
def execMvfin (c : Nat) (s : State) : Result := .next (s.tryIssue c 4 8 (rowPlan c))

/-- SOFTMAX (R255 to R257, R260). -/
def execSoftmax (c : Nat) (s : State) : Result := .next (s.tryIssue c 4 9 (rowPlan c))

/-- SMPART (R258, R260). -/
def execSmpart (c : Nat) (s : State) : Result := .next (s.tryIssue c 4 10 (rowPlan c))

/-- QDIV (R259). -/
def execQdiv (c : Nat) (s : State) : Result := .next (s.tryIssue c 4 11 (rowPlan c))

/-- TOPK (R261 to R263). -/
def execTopk (c : Nat) (s : State) : Result := .next (s.tryIssue c 4 12 (rowPlan c))

/-- TOPKMERGE (R264). -/
def execTopkmerge (c : Nat) (s : State) : Result := .next (s.tryIssue c 4 13 (rowPlan c))

/-- ROW_LAUNCH_COMPLETE (R269). -/
def execRowLaunchComplete (c : Nat) (s : State) : Result := .next (s.complete c 4)

end Sys2Proof.Machine
end

