-- ==== Sys2Proof/Machine/Dispatch.lean ====
section
/-! DEFINITION. One arm for each command: a call of its meaning. -/
namespace Sys2Proof.Machine

def exec (i : Instr) (s : State) : Host.Outcome State Fault Refusal :=
  match i with
  | .registerWrite page off val whole => Sys2Proof.Machine.execRegisterWrite page off val whole s
  | .pgCommitReq page val => Sys2Proof.Machine.execPgCommitReq page val s
  | .pgCommitCancel page val => Sys2Proof.Machine.execPgCommitCancel page val s
  | .pgCtlSrst page val => Sys2Proof.Machine.execPgCtlSrst page val s
  | .pgCntClr page val => Sys2Proof.Machine.execPgCntClr page val s
  | .pgEvtEnWrite page off val => Sys2Proof.Machine.execPgEvtEnWrite page off val s
  | .timNowLoRead => Sys2Proof.Machine.execTimNowLoRead s
  | .devProvRead => Sys2Proof.Machine.execDevProvRead s
  | .docSlackMinRead c => Sys2Proof.Machine.execDocSlackMinRead c s
  | .eventHoldExpiry => Sys2Proof.Machine.execEventHoldExpiry s
  | .eventRingDrain consumed => Sys2Proof.Machine.execEventRingDrain consumed s
  | .evtRing m => Sys2Proof.Machine.execEvtRing m s
  | .mailboxUnknownCode code m => Sys2Proof.Machine.execMailboxUnknownCode code m s
  | .attest m => Sys2Proof.Machine.execAttest m s
  | .certGet m => Sys2Proof.Machine.execCertGet m s
  | .fwStage m img => Sys2Proof.Machine.execFwStage m img s
  | .fwCommit m => Sys2Proof.Machine.execFwCommit m s
  | .fwCommitLive m => Sys2Proof.Machine.execFwCommitLive m s
  | .newImageReady => Sys2Proof.Machine.execNewImageReady s
  | .cfgStage m cfg => Sys2Proof.Machine.execCfgStage m cfg s
  | .cfgCommit m => Sys2Proof.Machine.execCfgCommit m s
  | .ownerEnrol m own => Sys2Proof.Machine.execOwnerEnrol m own s
  | .pufReenrol m => Sys2Proof.Machine.execPufReenrol m s
  | .certInstall m chain sig => Sys2Proof.Machine.execCertInstall m chain sig s
  | .unseal m tok => Sys2Proof.Machine.execUnseal m tok s
  | .unsealDone => Sys2Proof.Machine.execUnsealDone s
  | .debugUnlock m tok => Sys2Proof.Machine.execDebugUnlock m tok s
  | .sealRearm m => Sys2Proof.Machine.execSealRearm m s
  | .slotLoad m => Sys2Proof.Machine.execSlotLoad m s
  | .slotFree m => Sys2Proof.Machine.execSlotFree m s
  | .sessionScrub m => Sys2Proof.Machine.execSessionScrub m s
  | .sessionScrubFinish => Sys2Proof.Machine.execSessionScrubFinish s
  | .exhLoad m image sig => Sys2Proof.Machine.execExhLoad m image sig s
  | .hbmWaitCommandResume => Sys2Proof.Machine.execHbmWaitCommandResume s
  | .presenceNChange low => Sys2Proof.Machine.execPresenceNChange low s
  | .presenceDebounceExpiry => Sys2Proof.Machine.execPresenceDebounceExpiry s
  | .presenceWindowOpen => Sys2Proof.Machine.execPresenceWindowOpen s
  | .presenceWindowExpiry => Sys2Proof.Machine.execPresenceWindowExpiry s
  | .sealCheck closed => Sys2Proof.Machine.execSealCheck closed s
  | .healthTestFail test => Sys2Proof.Machine.execHealthTestFail test s
  | .bringUpStart => Sys2Proof.Machine.execBringUpStart s
  | .perstAssert => Sys2Proof.Machine.execPerstAssert s
  | .firmwareStart => Sys2Proof.Machine.execFirmwareStart s
  | .identityReady x => Sys2Proof.Machine.execIdentityReady x s
  | .configurationApplied => Sys2Proof.Machine.execConfigurationApplied s
  | .sramFillDone => Sys2Proof.Machine.execSramFillDone s
  | .hbmTrained x ok => Sys2Proof.Machine.execHbmTrained x ok s
  | .hbmFillDone x => Sys2Proof.Machine.execHbmFillDone x s
  | .regionRelease r failed => Sys2Proof.Machine.execRegionRelease r failed s
  | .fullServiceBegin => Sys2Proof.Machine.execFullServiceBegin s
  | .fullServiceTimeout => Sys2Proof.Machine.execFullServiceTimeout s
  | .pcieFunctionReset => Sys2Proof.Machine.execPcieFunctionReset s
  | .pwrWarnFall => Sys2Proof.Machine.execPwrWarnFall s
  | .pwrWarnRise => Sys2Proof.Machine.execPwrWarnRise s
  | .flashResume => Sys2Proof.Machine.execFlashResume s
  | .powerLoss => Sys2Proof.Machine.execPowerLoss s
  | .temperatureSample t => Sys2Proof.Machine.execTemperatureSample t s
  | .powerMeasure avg1ms avg100us => Sys2Proof.Machine.execPowerMeasure avg1ms avg100us s
  | .pmbAlert asserted => Sys2Proof.Machine.execPmbAlert asserted s
  | .throttleRelease d => Sys2Proof.Machine.execThrottleRelease d s
  | .rotundaStamp => Sys2Proof.Machine.execRotundaStamp s
  | .timeExchange t => Sys2Proof.Machine.execTimeExchange t s
  | .timSet val => Sys2Proof.Machine.execTimSet val s
  | .docGo c val => Sys2Proof.Machine.execDocGo c val s
  | .docResume c val => Sys2Proof.Machine.execDocResume c val s
  | .docAbort c val => Sys2Proof.Machine.execDocAbort c val s
  | .descriptorFetch c => Sys2Proof.Machine.execDescriptorFetch c s
  | .matmul c => Sys2Proof.Machine.execMatmul c s
  | .epilogueStart c => Sys2Proof.Machine.execEpilogueStart c s
  | .matrixLaunchComplete c => Sys2Proof.Machine.execMatrixLaunchComplete c s
  | .activityLevelStep c a => Sys2Proof.Machine.execActivityLevelStep c a s
  | .veAdd c => Sys2Proof.Machine.execVeAdd c s
  | .veSub c => Sys2Proof.Machine.execVeSub c s
  | .veMul c => Sys2Proof.Machine.execVeMul c s
  | .veFma c => Sys2Proof.Machine.execVeFma c s
  | .veDiv c => Sys2Proof.Machine.execVeDiv c s
  | .veMax c => Sys2Proof.Machine.execVeMax c s
  | .veMin c => Sys2Proof.Machine.execVeMin c s
  | .veCmplt c => Sys2Proof.Machine.execVeCmplt c s
  | .veCmpeq c => Sys2Proof.Machine.execVeCmpeq c s
  | .veSel c => Sys2Proof.Machine.execVeSel c s
  | .veAbs c => Sys2Proof.Machine.execVeAbs c s
  | .veNeg c => Sys2Proof.Machine.execVeNeg c s
  | .veTwosum c => Sys2Proof.Machine.execVeTwosum c s
  | .veTwoprod c => Sys2Proof.Machine.execVeTwoprod c s
  | .veQadd c => Sys2Proof.Machine.execVeQadd c s
  | .vectorLaunchComplete c => Sys2Proof.Machine.execVectorLaunchComplete c s
  | .sfuExp c => Sys2Proof.Machine.execSfuExp c s
  | .sfuExp2 c => Sys2Proof.Machine.execSfuExp2 c s
  | .sfuLog c => Sys2Proof.Machine.execSfuLog c s
  | .sfuLog2 c => Sys2Proof.Machine.execSfuLog2 c s
  | .sfuRecip c => Sys2Proof.Machine.execSfuRecip c s
  | .sfuSqrt c => Sys2Proof.Machine.execSfuSqrt c s
  | .sfuRsqrt c => Sys2Proof.Machine.execSfuRsqrt c s
  | .sfuSigmoid c => Sys2Proof.Machine.execSfuSigmoid c s
  | .sfuTanh c => Sys2Proof.Machine.execSfuTanh c s
  | .sfuErf c => Sys2Proof.Machine.execSfuErf c s
  | .sfuGeluErf c => Sys2Proof.Machine.execSfuGeluErf c s
  | .sfuGeluTanh c => Sys2Proof.Machine.execSfuGeluTanh c s
  | .sfuGeluSig c => Sys2Proof.Machine.execSfuGeluSig c s
  | .sfuSilu c => Sys2Proof.Machine.execSfuSilu c s
  | .sfuSoftplus c => Sys2Proof.Machine.execSfuSoftplus c s
  | .sfuSinturn c => Sys2Proof.Machine.execSfuSinturn c s
  | .sfuCosturn c => Sys2Proof.Machine.execSfuCosturn c s
  | .sfuRope c => Sys2Proof.Machine.execSfuRope c s
  | .sfuLaunchComplete c => Sys2Proof.Machine.execSfuLaunchComplete c s
  | .copy c => Sys2Proof.Machine.execCopy c s
  | .catload c => Sys2Proof.Machine.execCatload c s
  | .catsave c => Sys2Proof.Machine.execCatsave c s
  | .pagein c => Sys2Proof.Machine.execPagein c s
  | .pageout c => Sys2Proof.Machine.execPageout c s
  | .moveComplete c => Sys2Proof.Machine.execMoveComplete c s
  | .rowmax c => Sys2Proof.Machine.execRowmax c s
  | .rowmin c => Sys2Proof.Machine.execRowmin c s
  | .rowsum c => Sys2Proof.Machine.execRowsum c s
  | .meanvar c => Sys2Proof.Machine.execMeanvar c s
  | .lnorm c => Sys2Proof.Machine.execLnorm c s
  | .rmsnorm c => Sys2Proof.Machine.execRmsnorm c s
  | .mvpart c => Sys2Proof.Machine.execMvpart c s
  | .mvfin c => Sys2Proof.Machine.execMvfin c s
  | .softmax c => Sys2Proof.Machine.execSoftmax c s
  | .smpart c => Sys2Proof.Machine.execSmpart c s
  | .qdiv c => Sys2Proof.Machine.execQdiv c s
  | .topk c => Sys2Proof.Machine.execTopk c s
  | .topkmerge c => Sys2Proof.Machine.execTopkmerge c s
  | .rowLaunchComplete c => Sys2Proof.Machine.execRowLaunchComplete c s
  | .shift c => Sys2Proof.Machine.execShift c s
  | .permute c => Sys2Proof.Machine.execPermute c s
  | .reduce c => Sys2Proof.Machine.execReduce c s
  | .allreduce c => Sys2Proof.Machine.execAllreduce c s
  | .f32reduce c => Sys2Proof.Machine.execF32reduce c s
  | .f32allreduce c => Sys2Proof.Machine.execF32allreduce c s
  | .ringstep c => Sys2Proof.Machine.execRingstep c s
  | .allmax c => Sys2Proof.Machine.execAllmax c s
  | .collectiveComplete c => Sys2Proof.Machine.execCollectiveComplete c s
  | .cloakroomCombine d => Sys2Proof.Machine.execCloakroomCombine d s
  | .endpointPass c => Sys2Proof.Machine.execEndpointPass c s
  | .flight c => Sys2Proof.Machine.execFlight c s
  | .barrier c => Sys2Proof.Machine.execBarrier c s
  | .barrierStart g => Sys2Proof.Machine.execBarrierStart g s
  | .loop c => Sys2Proof.Machine.execLoop c s
  | .fence c => Sys2Proof.Machine.execFence c s
  | .intake c => Sys2Proof.Machine.execIntake c s
  | .signal c => Sys2Proof.Machine.execSignal c s
  | .halt c => Sys2Proof.Machine.execHalt c s
  | .momentum c => Sys2Proof.Machine.execMomentum c s
  | .adapt c => Sys2Proof.Machine.execAdapt c s
  | .signm c => Sys2Proof.Machine.execSignm c s
  | .restorerServiceStart r => Sys2Proof.Machine.execRestorerServiceStart r s
  | .updateComplete r => Sys2Proof.Machine.execUpdateComplete r s
  | .conAdd c => Sys2Proof.Machine.execConAdd c s
  | .conSub c => Sys2Proof.Machine.execConSub c s
  | .conMul c => Sys2Proof.Machine.execConMul c s
  | .conDiv c => Sys2Proof.Machine.execConDiv c s
  | .conFma c => Sys2Proof.Machine.execConFma c s
  | .conSqrt c => Sys2Proof.Machine.execConSqrt c s
  | .conMinnum c => Sys2Proof.Machine.execConMinnum c s
  | .conMaxnum c => Sys2Proof.Machine.execConMaxnum c s
  | .conCvt c => Sys2Proof.Machine.execConCvt c s
  | .conMatmul c => Sys2Proof.Machine.execConMatmul c s
  | .conservatorServiceStart r => Sys2Proof.Machine.execConservatorServiceStart r s
  | .conservatorComplete r => Sys2Proof.Machine.execConservatorComplete r s
  | .flightBegin g => Sys2Proof.Machine.execFlightBegin g s
  | .landingInstant g => Sys2Proof.Machine.execLandingInstant g s
  | .landing g => Sys2Proof.Machine.execLanding g s
  | .landedMessageReceive m => Sys2Proof.Machine.execLandedMessageReceive m s
  | .noticeReceive g idx pkg => Sys2Proof.Machine.execNoticeReceive g idx pkg s
  | .landingDeadline g => Sys2Proof.Machine.execLandingDeadline g s
  | .stopMessageReceive g idx pkg => Sys2Proof.Machine.execStopMessageReceive g idx pkg s
  | .contextSaveComplete c => Sys2Proof.Machine.execContextSaveComplete c s
  | .twinMessageReceive m => Sys2Proof.Machine.execTwinMessageReceive m s
  | .clusterSignatureExchange g idx sigs => Sys2Proof.Machine.execClusterSignatureExchange g idx sigs s
  | .dmaH2d ch d hostOk data => Sys2Proof.Machine.execDmaH2d ch d hostOk data s
  | .dmaD2h ch d => Sys2Proof.Machine.execDmaD2h ch d s
  | .dmaQpush ch d hostOk data => Sys2Proof.Machine.execDmaQpush ch d hostOk data s
  | .dmaCompletion ch => Sys2Proof.Machine.execDmaCompletion ch s
  | .pciDmaResume ch val => Sys2Proof.Machine.execPciDmaResume ch val s
  | .devLogTailWrite val => Sys2Proof.Machine.execDevLogTailWrite val s
  | .arcOpen val => Sys2Proof.Machine.execArcOpen val s
  | .arcScrub val => Sys2Proof.Machine.execArcScrub val s
  | .arcRekey val => Sys2Proof.Machine.execArcRekey val s
  | .arcCommandComplete => Sys2Proof.Machine.execArcCommandComplete s
  | .requantComplete session stream span => Sys2Proof.Machine.execRequantComplete session stream span s
  | .stackRetire val => Sys2Proof.Machine.execStackRetire val s
  | .spanMigrate => Sys2Proof.Machine.execSpanMigrate s
  | .retirementComplete => Sys2Proof.Machine.execRetirementComplete s
  | .patrolScrub inst addr => Sys2Proof.Machine.execPatrolScrub inst addr s
  | .bucketLeak => Sys2Proof.Machine.execBucketLeak s
  | .eccTestWrite val => Sys2Proof.Machine.execEccTestWrite val s
  | .eccTestRead val => Sys2Proof.Machine.execEccTestRead val s
  | .pprSoft x val spareLeft => Sys2Proof.Machine.execPprSoft x val spareLeft s
  | .pprHard x val spareLeft => Sys2Proof.Machine.execPprHard x val spareLeft s
  | .pprSoftDone x => Sys2Proof.Machine.execPprSoftDone x s
  | .grpLoad val => Sys2Proof.Machine.execGrpLoad val s
  | .grpClear val => Sys2Proof.Machine.execGrpClear val s
  | .pmdTrainingDone k lanesOk => Sys2Proof.Machine.execPmdTrainingDone k lanesOk s
  | .laneAlignDone k lanesOk order => Sys2Proof.Machine.execLaneAlignDone k lanesOk order s
  | .identReceive k id port => Sys2Proof.Machine.execIdentReceive k id port s
  | .keyxDone k x => Sys2Proof.Machine.execKeyxDone k x s
  | .linkRetryTimer k => Sys2Proof.Machine.execLinkRetryTimer k s
  | .laneDropCmd k val => Sys2Proof.Machine.execLaneDropCmd k val s
  | .linkRekeyCmd k val => Sys2Proof.Machine.execLinkRekeyCmd k val s
  | .linkRetrainCmd k val => Sys2Proof.Machine.execLinkRetrainCmd k val s
  | .codewordReceive k lane ok corrected badFlits => Sys2Proof.Machine.execCodewordReceive k lane ok corrected badFlits s
  | .laneLockLoss k lane => Sys2Proof.Machine.execLaneLockLoss k lane s
  | .laneDownReceive k m => Sys2Proof.Machine.execLaneDownReceive k m s
  | .lanesetReceive k m t => Sys2Proof.Machine.execLanesetReceive k m t s
  | .laneSwitch k => Sys2Proof.Machine.execLaneSwitch k s
  | .rekeyReceive k tagOk => Sys2Proof.Machine.execRekeyReceive k tagOk s
  | .rekeySwitch k => Sys2Proof.Machine.execRekeySwitch k s
  | .creditReceive k vc cls m => Sys2Proof.Machine.execCreditReceive k vc cls m s
  | .chunkReceive k ch => Sys2Proof.Machine.execChunkReceive k ch s
  | .ackReceive src vc seq => Sys2Proof.Machine.execAckReceive src vc seq s
  | .ackTimer src vc => Sys2Proof.Machine.execAckTimer src vc s
  | .retryTimeout dst vc seq => Sys2Proof.Machine.execRetryTimeout dst vc seq s
  | .breakReceive k src vc => Sys2Proof.Machine.execBreakReceive k src vc s
  | .inboundResult c epoch addr data => Sys2Proof.Machine.execInboundResult c epoch addr data s
  | .epochRetireTimeout r => Sys2Proof.Machine.execEpochRetireTimeout r s
  | .regionRepair r val => Sys2Proof.Machine.execRegionRepair r val s
  | .repairCopyDone r => Sys2Proof.Machine.execRepairCopyDone r s
  | .rescanDone r ok => Sys2Proof.Machine.execRescanDone r ok s
  | .repairRecordWrite => Sys2Proof.Machine.execRepairRecordWrite s
  | .ethFrameReceive e f => Sys2Proof.Machine.execEthFrameReceive e f s
  | .ethFrameTransmit e frame => Sys2Proof.Machine.execEthFrameTransmit e frame s
  | .hello e h => Sys2Proof.Machine.execHello e h s
  | .request e tagOk => Sys2Proof.Machine.execRequest e tagOk s
  | .xfer e tagOk => Sys2Proof.Machine.execXfer e tagOk s
  | .xack e tagOk => Sys2Proof.Machine.execXack e tagOk s
  | .close e tagOk => Sys2Proof.Machine.execClose e tagOk s
  | .xferStart val => Sys2Proof.Machine.execXferStart val s
  | .xackTimer => Sys2Proof.Machine.execXackTimer s
  | .xferResendTimeout => Sys2Proof.Machine.execXferResendTimeout s
  | .xferComplete rx => Sys2Proof.Machine.execXferComplete rx s
  | .bar2Access addr len write => Sys2Proof.Machine.execBar2Access addr len write s
  | .ethLinkStateChange e up => Sys2Proof.Machine.execEthLinkStateChange e up s
  | .curatorRestartDone => Sys2Proof.Machine.execCuratorRestartDone s
  | .entropyFaultClear => Sys2Proof.Machine.execEntropyFaultClear s
  | .tapInstruction x => Sys2Proof.Machine.execTapInstruction x s
  | .flashWriteComplete ok => Sys2Proof.Machine.execFlashWriteComplete ok s

end Sys2Proof.Machine
end

