-- ==== Sys2Proof/Machine/Asks.lean ====
section
/-! DEFINITION. Which launch each launch command asks of the descriptor at the head of its cluster's queue: class,
operation and plan. Claims about launches are stated over this table; the commands' meanings do not use it. -/
namespace Sys2Proof.Machine

/-- A launch that a command asks for: cluster, class, operation, and the plan of a descriptor of that operation. -/
structure Ask where
  c : Nat
  cls : Nat
  opc : Nat
  plan : State → Desc → Plan

/-- The launch commands: classes 0 to 5, 7 and 8, and LOOP, FENCE, INTAKE and SIGNAL of class 6. -/
def askOf (i : Instr) : Option Ask :=
  match i with
  | .matmul c => some { c := c, cls := 0, opc := 1, plan := matPlan c }
  | .veAdd c => some { c := c, cls := 1, opc := 1, plan := vePlan c 1 }
  | .veSub c => some { c := c, cls := 1, opc := 2, plan := vePlan c 2 }
  | .veMul c => some { c := c, cls := 1, opc := 3, plan := vePlan c 3 }
  | .veFma c => some { c := c, cls := 1, opc := 4, plan := vePlan c 4 }
  | .veDiv c => some { c := c, cls := 1, opc := 5, plan := vePlan c 5 }
  | .veMax c => some { c := c, cls := 1, opc := 6, plan := vePlan c 6 }
  | .veMin c => some { c := c, cls := 1, opc := 7, plan := vePlan c 7 }
  | .veCmplt c => some { c := c, cls := 1, opc := 8, plan := vePlan c 8 }
  | .veCmpeq c => some { c := c, cls := 1, opc := 9, plan := vePlan c 9 }
  | .veSel c => some { c := c, cls := 1, opc := 10, plan := vePlan c 10 }
  | .veAbs c => some { c := c, cls := 1, opc := 11, plan := vePlan c 11 }
  | .veNeg c => some { c := c, cls := 1, opc := 12, plan := vePlan c 12 }
  | .veTwosum c => some { c := c, cls := 1, opc := 13, plan := vePlan c 13 }
  | .veTwoprod c => some { c := c, cls := 1, opc := 14, plan := vePlan c 14 }
  | .veQadd c => some { c := c, cls := 1, opc := 15, plan := qaddPlan c }
  | .sfuExp c => some { c := c, cls := 2, opc := 1, plan := sfuPlan c 1 }
  | .sfuExp2 c => some { c := c, cls := 2, opc := 2, plan := sfuPlan c 2 }
  | .sfuLog c => some { c := c, cls := 2, opc := 3, plan := sfuPlan c 3 }
  | .sfuLog2 c => some { c := c, cls := 2, opc := 4, plan := sfuPlan c 4 }
  | .sfuRecip c => some { c := c, cls := 2, opc := 5, plan := sfuPlan c 5 }
  | .sfuSqrt c => some { c := c, cls := 2, opc := 6, plan := sfuPlan c 6 }
  | .sfuRsqrt c => some { c := c, cls := 2, opc := 7, plan := sfuPlan c 7 }
  | .sfuSigmoid c => some { c := c, cls := 2, opc := 8, plan := sfuPlan c 8 }
  | .sfuTanh c => some { c := c, cls := 2, opc := 9, plan := sfuPlan c 9 }
  | .sfuErf c => some { c := c, cls := 2, opc := 10, plan := sfuPlan c 10 }
  | .sfuGeluErf c => some { c := c, cls := 2, opc := 11, plan := sfuPlan c 11 }
  | .sfuGeluTanh c => some { c := c, cls := 2, opc := 12, plan := sfuPlan c 12 }
  | .sfuGeluSig c => some { c := c, cls := 2, opc := 13, plan := sfuPlan c 13 }
  | .sfuSilu c => some { c := c, cls := 2, opc := 14, plan := sfuPlan c 14 }
  | .sfuSoftplus c => some { c := c, cls := 2, opc := 15, plan := sfuPlan c 15 }
  | .sfuSinturn c => some { c := c, cls := 2, opc := 16, plan := sfuPlan c 16 }
  | .sfuCosturn c => some { c := c, cls := 2, opc := 17, plan := sfuPlan c 17 }
  | .sfuRope c => some { c := c, cls := 2, opc := 18, plan := ropePlan c }
  | .copy c => some { c := c, cls := 3, opc := 1, plan := copyPlan c }
  | .catload c => some { c := c, cls := 3, opc := 2, plan := catloadPlan c }
  | .catsave c => some { c := c, cls := 3, opc := 3, plan := catsavePlan c }
  | .pagein c => some { c := c, cls := 3, opc := 4, plan := pageinPlan c }
  | .pageout c => some { c := c, cls := 3, opc := 5, plan := pageoutPlan c }
  | .rowmax c => some { c := c, cls := 4, opc := 1, plan := rowPlan c }
  | .rowmin c => some { c := c, cls := 4, opc := 2, plan := rowPlan c }
  | .rowsum c => some { c := c, cls := 4, opc := 3, plan := rowPlan c }
  | .meanvar c => some { c := c, cls := 4, opc := 4, plan := rowPlan c }
  | .lnorm c => some { c := c, cls := 4, opc := 5, plan := rowPlan c }
  | .rmsnorm c => some { c := c, cls := 4, opc := 6, plan := rowPlan c }
  | .mvpart c => some { c := c, cls := 4, opc := 7, plan := rowPlan c }
  | .mvfin c => some { c := c, cls := 4, opc := 8, plan := rowPlan c }
  | .softmax c => some { c := c, cls := 4, opc := 9, plan := rowPlan c }
  | .smpart c => some { c := c, cls := 4, opc := 10, plan := rowPlan c }
  | .qdiv c => some { c := c, cls := 4, opc := 11, plan := rowPlan c }
  | .topk c => some { c := c, cls := 4, opc := 12, plan := rowPlan c }
  | .topkmerge c => some { c := c, cls := 4, opc := 13, plan := rowPlan c }
  | .shift c => some { c := c, cls := 5, opc := 1, plan := collPlan c 1 }
  | .permute c => some { c := c, cls := 5, opc := 2, plan := collPlan c 2 }
  | .reduce c => some { c := c, cls := 5, opc := 3, plan := collPlan c 3 }
  | .allreduce c => some { c := c, cls := 5, opc := 4, plan := collPlan c 4 }
  | .f32reduce c => some { c := c, cls := 5, opc := 5, plan := collPlan c 5 }
  | .f32allreduce c => some { c := c, cls := 5, opc := 6, plan := collPlan c 6 }
  | .ringstep c => some { c := c, cls := 5, opc := 7, plan := collPlan c 7 }
  | .allmax c => some { c := c, cls := 5, opc := 8, plan := collPlan c 8 }
  | .loop c => some { c := c, cls := 6, opc := 3, plan := loopPlan c }
  | .fence c => some { c := c, cls := 6, opc := 4, plan := fencePlan c }
  | .intake c => some { c := c, cls := 6, opc := 5, plan := intakePlan c }
  | .signal c => some { c := c, cls := 6, opc := 6, plan := signalPlan c }
  | .momentum c => some { c := c, cls := 7, opc := 1, plan := updPlan c 1 }
  | .adapt c => some { c := c, cls := 7, opc := 2, plan := updPlan c 2 }
  | .signm c => some { c := c, cls := 7, opc := 3, plan := updPlan c 3 }
  | .conAdd c => some { c := c, cls := 8, opc := 1, plan := conPlan c 1 }
  | .conSub c => some { c := c, cls := 8, opc := 2, plan := conPlan c 2 }
  | .conMul c => some { c := c, cls := 8, opc := 3, plan := conPlan c 3 }
  | .conDiv c => some { c := c, cls := 8, opc := 4, plan := conPlan c 4 }
  | .conFma c => some { c := c, cls := 8, opc := 5, plan := conPlan c 5 }
  | .conSqrt c => some { c := c, cls := 8, opc := 6, plan := conPlan c 6 }
  | .conMinnum c => some { c := c, cls := 8, opc := 7, plan := conPlan c 7 }
  | .conMaxnum c => some { c := c, cls := 8, opc := 8, plan := conPlan c 8 }
  | .conCvt c => some { c := c, cls := 8, opc := 9, plan := conPlan c 9 }
  | .conMatmul c => some { c := c, cls := 8, opc := 10, plan := conPlan c 10 }
  | _ => none

/-- Descriptor d stands at the head of the queue, names the operation asked for, and its instant has come; the cluster is in
a flight, or d is a control descriptor and no flight has begun (R326). -/
structure State.AtHead (s : State) (a : Ask) (d : Desc) : Prop where
  head : (s.clu a.c).queue.head? = some d
  cls : d.cls = a.cls
  opc : d.opc = a.opc
  issuable : s.issuable a.c = true ∨ a.cls = 6 ∧ s.preFlight a.c = true
  due : s.due a.c d = true

/-- The descriptor is in order, its unit takes it, and no entry of the dependency table is in its way. -/
structure State.CanIssue (s : State) (a : Ask) (d : Desc) : Prop where
  good : (a.plan s d).bad = false
  common : s.commonBad a.c d = false
  free : (a.plan s d).free = true
  deps : s.depFree a.c (a.plan s d) = true

end Sys2Proof.Machine
end

