-- ==== Sys2Proof/WellFormed.lean ====
section
/-! DEFINITION. Which commands are well formed: every number that names a page, an offset, a cluster, a region, a port, a
group, a stack or a package lies in the range the manual gives it (R3, R29 to R33, R48, R443, R529, R660). The machine is
total on every command; a sender of the block sends well-formed ones. -/
namespace Sys2Proof

/-- R543: a request header and payload of at most 1,024 bytes. -/
def mbxWf (m : MbxReq) : Bool :=
  decide (m.tag < 65536) && decide (m.payload.length ≤ 1000) && decide (m.haddr < 2 ^ 64) && decide (m.hlen < 2 ^ 64)

/-- R533: the widths of a descriptor's fields. -/
def dmaWf (d : DmaDesc) : Bool :=
  decide (d.haddr < 2 ^ 64) && decide (d.daddr < 2 ^ 48) && decide (d.len < 2 ^ 32) && decide (d.op < 256)
    && decide (d.q < 256) && decide (d.caddr < 2 ^ 64) && decide (d.ctag < 2 ^ 32)

def Instr.wf (i : Instr) : Bool :=
  match i with
  | .registerWrite page off val _ | .pgEvtEnWrite page off val => decide (page < 4096) && decide (off < 4096) && decide (off % 4 = 0) && decide (val < 2 ^ 32)
  | .pgCommitReq page val | .pgCommitCancel page val | .pgCtlSrst page val | .pgCntClr page val => decide (page < 4096) && decide (val < 2 ^ 32)
  | .timNowLoRead | .devProvRead | .eventHoldExpiry | .eventRingDrain _ | .newImageReady | .unsealDone
  | .sessionScrubFinish | .hbmWaitCommandResume | .presenceNChange _ | .presenceDebounceExpiry
  | .presenceWindowOpen | .presenceWindowExpiry | .sealCheck _ | .healthTestFail _ | .bringUpStart | .perstAssert
  | .firmwareStart | .identityReady _ | .configurationApplied | .sramFillDone | .fullServiceBegin
  | .fullServiceTimeout | .pcieFunctionReset | .pwrWarnFall | .pwrWarnRise | .flashResume | .powerLoss
  | .temperatureSample _ | .powerMeasure _ _ | .pmbAlert _ | .rotundaStamp | .timeExchange _
  | .landedMessageReceive _ | .twinMessageReceive _ | .arcCommandComplete | .requantComplete _ _ _ | .spanMigrate
  | .retirementComplete | .patrolScrub _ _ | .bucketLeak | .repairRecordWrite | .xackTimer | .xferResendTimeout
  | .xferComplete _ | .bar2Access _ _ _ | .curatorRestartDone | .entropyFaultClear | .tapInstruction _
  | .flashWriteComplete _ => true
  | .docSlackMinRead c | .descriptorFetch c | .matmul c | .epilogueStart c | .matrixLaunchComplete c | .veAdd c
  | .veSub c | .veMul c | .veFma c | .veDiv c | .veMax c | .veMin c | .veCmplt c | .veCmpeq c | .veSel c
  | .veAbs c | .veNeg c | .veTwosum c | .veTwoprod c | .veQadd c | .vectorLaunchComplete c | .sfuExp c
  | .sfuExp2 c | .sfuLog c | .sfuLog2 c | .sfuRecip c | .sfuSqrt c | .sfuRsqrt c | .sfuSigmoid c | .sfuTanh c
  | .sfuErf c | .sfuGeluErf c | .sfuGeluTanh c | .sfuGeluSig c | .sfuSilu c | .sfuSoftplus c | .sfuSinturn c
  | .sfuCosturn c | .sfuRope c | .sfuLaunchComplete c | .copy c | .catload c | .catsave c | .pagein c | .pageout c
  | .moveComplete c | .rowmax c | .rowmin c | .rowsum c | .meanvar c | .lnorm c | .rmsnorm c | .mvpart c
  | .mvfin c | .softmax c | .smpart c | .qdiv c | .topk c | .topkmerge c | .rowLaunchComplete c | .shift c
  | .permute c | .reduce c | .allreduce c | .f32reduce c | .f32allreduce c | .ringstep c | .allmax c
  | .collectiveComplete c | .endpointPass c | .flight c | .barrier c | .loop c | .fence c | .intake c | .signal c
  | .halt c | .momentum c | .adapt c | .signm c | .conAdd c | .conSub c | .conMul c | .conDiv c | .conFma c
  | .conSqrt c | .conMinnum c | .conMaxnum c | .conCvt c | .conMatmul c | .contextSaveComplete c
  | .inboundResult c _ _ _ => decide (c < 512)
  | .evtRing m | .attest m | .certGet m | .fwStage m _ | .fwCommit m | .fwCommitLive m | .cfgStage m _
  | .cfgCommit m | .ownerEnrol m _ | .pufReenrol m | .certInstall m _ _ | .unseal m _ | .debugUnlock m _
  | .sealRearm m | .slotLoad m | .slotFree m | .sessionScrub m | .exhLoad m _ _ => mbxWf m
  | .mailboxUnknownCode code m => decide (code < 65536) && mbxWf m
  | .hbmTrained s _ | .hbmFillDone s | .pprSoftDone s => decide (s < 12)
  | .regionRelease r _ | .restorerServiceStart r | .updateComplete r | .conservatorServiceStart r
  | .conservatorComplete r | .epochRetireTimeout r | .repairCopyDone r | .rescanDone r _ => decide (r < 32)
  | .throttleRelease d | .cloakroomCombine d => decide (d < 4)
  | .timSet val | .devLogTailWrite val | .arcOpen val | .arcScrub val | .arcRekey val | .stackRetire val
  | .eccTestWrite val | .eccTestRead val | .grpLoad val | .grpClear val | .xferStart val => decide (val < 2 ^ 32)
  | .docGo c val | .docResume c val | .docAbort c val => decide (c < 512) && decide (val < 2 ^ 32)
  | .activityLevelStep c a => decide (c < 512) && decide (a < 4)
  | .barrierStart g | .flightBegin g | .landingInstant g | .landing g | .landingDeadline g
  | .clusterSignatureExchange g _ _ => decide (g < 256)
  | .noticeReceive g _ pkg | .stopMessageReceive g _ pkg => decide (g < 256) && decide (pkg < 4096)
  | .dmaH2d ch d _ _ | .dmaD2h ch d | .dmaQpush ch d _ _ => decide (ch < 16) && dmaWf d
  | .dmaCompletion ch => decide (ch < 16)
  | .pciDmaResume ch val => decide (ch < 16) && decide (val < 2 ^ 32)
  | .pprSoft s val _ | .pprHard s val _ => decide (s < 12) && decide (val < 2 ^ 32)
  | .identReceive k id port => decide (k < 8) && decide (id < 4096) && decide (port < 8)
  | .chunkReceive k ch => decide (k < 8) && decide (ch.src < 4096) && decide (ch.dst < 4096) && decide (ch.vc < 4)
    && decide (ch.cls < 2) && decide (ch.seq < 2 ^ 32)
  | .pmdTrainingDone k _ | .laneAlignDone k _ _ | .keyxDone k _ | .linkRetryTimer k
  | .laneDownReceive k _ | .lanesetReceive k _ _ | .laneSwitch k | .rekeyReceive k _ | .rekeySwitch k => decide (k < 8)
  | .laneDropCmd k val | .linkRekeyCmd k val | .linkRetrainCmd k val => decide (k < 8) && decide (val < 2 ^ 32)
  | .codewordReceive k lane _ _ _ | .laneLockLoss k lane => decide (k < 8) && decide (lane < 16)
  | .creditReceive k vc cls _ => decide (k < 8) && decide (vc < 4) && decide (cls < 2)
  | .ackReceive src vc _ | .ackTimer src vc => decide (src < 4096) && decide (vc < 4)
  | .retryTimeout dst vc _ => decide (dst < 4096) && decide (vc < 4)
  | .breakReceive k src vc => decide (k < 8) && decide (src < 4096) && decide (vc < 4)
  | .regionRepair r val => decide (r < 32) && decide (val < 2 ^ 32)
  | .ethFrameReceive e _ | .ethFrameTransmit e _ | .hello e _ | .request e _ | .xfer e _ | .xack e _ | .close e _
  | .ethLinkStateChange e _ => decide (e < 2)

end Sys2Proof
end

