-- ==== Sys2Proof/Safety.lean ====
section
/-! DEFINITION. What claims are made of: the canonical forms of the state, which registers and pieces of state a command
may change, the occurrence of an event, the answer to a mailbox request, and the invariant that every step keeps. -/
namespace Sys2Proof.Machine

/-- Memory is in canonical form: addresses strictly rising, no entry equal to the zero of an unwritten byte (R435). -/
abbrev Memory.wf (m : List (Nat × Byte)) : Bool := swf (fun _ => 0) m

/-- What every step keeps: the part, the canonical forms of memory and of the registers in force, and a queue of
well-formed commands. -/
structure State.Inv (p : PartNo) (s : State) : Prop where
  part : s.part = p
  mem : Memory.wf s.mem = true
  regs : swf (resetWord s.part) s.regs = true
  queue : s.pending.all Instr.wf = true

/-! ### What changed -/

/-- Every register word outside `l` is in force as before. -/
def WordsKept (s t : State) (l : List Nat) : Prop := ∀ j, j ∉ l → t.word j = s.word j

/-- Every register word outside page `pg` and outside `l` is in force as before. -/
def PagesKept (s t : State) (pg : Nat) (l : List Nat) : Prop := ∀ j, j / 1024 ≠ pg → j ∉ l → t.word j = s.word j

/-- Nothing but registers in force changed. -/
def OnlyRegs (s t : State) : Prop := t = { s with regFile.regs := t.regs }

/-- Nothing but registers in force and held events changed. -/
def OnlyEvents (s t : State) : Prop := t = { s with regFile.regs := t.regs, evts.held := t.held, evts.lastData := t.lastData }

/-- Nothing but registers in force, and what left the package, changed. -/
def OnlyOut (s t : State) : Prop := t = { s with regFile.regs := t.regs, out := t.out }

/-- Every byte of memory outside [lo, hi) reads as before. -/
def BytesKept (s t : State) (lo hi : Nat) : Prop := ∀ a, a < lo ∨ hi ≤ a → t.byteAt a = s.byteAt a

/-! ### Events (R666) -/

/-- The register words that an occurrence of an event on a page may write: PG_EVT, and the counters of the die manager
that collects the page's events (R47, R656). -/
def eventWords (pg : Nat) : List Nat :=
  regIdx pg Reg.PG_EVT ::
    match managerOf pg with
    | none => []
    | some d => [regIdx (pgDie d) Reg.DIE_EVTQ, regIdx (pgDie d) Reg.DIE_CNT_EVT, regIdx (pgDie d) Reg.DIE_CNT_EVTDROP]

/-- R666: the event kind of bit `bit` occurred on a page between s and t: its bit is set, and it is raised where the bit
was 0 and both enables are 1 (and the Curator firmware is not being replaced, R656). -/
structure Occurred (s t : State) (pg bit code sev : Nat) (data : List Byte) : Prop where
  isSet : (t.getF pg Reg.PG_EVT).testBit bit = true
  raised : (s.getF pg Reg.PG_EVT).testBit bit = false → (s.getF pg Reg.PG_EVT_EN).testBit bit = true →
    s.flag pg Reg.PG_CTL_EN = true → s.cur.replacing = false →
    ∃ e ∈ t.held, e.code = code ∧ e.sev = sev ∧ e.page = pg ∧ e.data = data

/-! ### The mailbox (R543, R544) -/

/-- The code and the request of each mailbox command. -/
def mailboxOf (i : Instr) : Option (Nat × MbxReq) :=
  match i with
  | .attest m => some (0x0201, m)
  | .certGet m => some (0x0202, m)
  | .fwStage m _ => some (0x0203, m)
  | .fwCommit m => some (0x0204, m)
  | .fwCommitLive m => some (0x0204, m)
  | .cfgStage m _ => some (0x0205, m)
  | .cfgCommit m => some (0x0206, m)
  | .ownerEnrol m _ => some (0x0207, m)
  | .pufReenrol m => some (0x0208, m)
  | .certInstall m _ _ => some (0x0209, m)
  | .unseal m _ => some (0x020A, m)
  | .debugUnlock m _ => some (0x020B, m)
  | .sealRearm m => some (0x020C, m)
  | .slotLoad m => some (0x020D, m)
  | .slotFree m => some (0x020E, m)
  | .sessionScrub m => some (0x020F, m)
  | .exhLoad m _ _ => some (0x0210, m)
  | .evtRing m => some (0x0301, m)
  | .mailboxUnknownCode code m => if knownCodes.contains code then none else some (code, m)
  | _ => none

/-- The Curator serves a request with this code: READY, not BUSY, and outside recovery but for its four commands
(R544, R575). -/
structure Serves (s : State) (code : Nat) : Prop where
  takes : s.mbxIgnores = false
  allowed : s.mbxRefuses code = false

/-- The first doubleword of CUR_MBX_RSP. -/
def rspIdx : Nat := pgCur * 1024 + 0xA00 / 4

/-- R543: a response stands in CUR_MBX_RSP with the code, the tag and a status; DONE is 1 and BUSY is 0. -/
structure Answered (t : State) (code tag status : Nat) : Prop where
  head : t.word rspIdx = BitVec.ofNat 32 (code % 65536 + tag % 65536 * 65536)
  status : (t.word (rspIdx + 1)).toNat / 65536 = status % 65536
  done : t.getF pgCur Reg.CUR_MBX_STAT_DONE = 1
  idle : t.getF pgCur Reg.CUR_MBX_STAT_BUSY = 0

/-- A mailbox command has been accepted and has begun its flash write; the flash is as it was. -/
structure Begun (s t : State) (code : Nat) (m : MbxReq) (op : FlashOp) : Prop where
  began : t.cur.flashOp = some op
  job : t.cur.job = some (.flash op)
  code : t.cur.jobCode = code
  tag : t.cur.jobTag = m.tag
  busy : t.getF pgCur Reg.CUR_MBX_STAT_BUSY = 1
  flash : t.flash = s.flash

/-- What a flash write leaves in the flash (R568, R576, R597 to R599, R613, R643): the staged object without its marker, one
generation above the other slot; the marker; the owner record, in force without a configuration record; the certificate
chain; a new identity; the repair record; the monotonic counters. -/
def Written (s t : State) (op : FlashOp) : Prop :=
  match op with
  | .fwStage b img => (if b then t.flash.fwB else t.flash.fwA) =
      some { gen := slotGen (if b then s.flash.fwA else s.flash.fwB) + 1, marker := false, body := img }
  | .fwMarker b _ =>
    (if b then t.flash.fwB else t.flash.fwA) = (if b then s.flash.fwB else s.flash.fwA).map (fun y => { y with marker := true })
  | .cfgStage b cfg => (if b then t.flash.cfgB else t.flash.cfgA) =
      some { gen := slotGen (if b then s.flash.cfgA else s.flash.cfgB) + 1, marker := false, body := cfg }
  | .cfgMarker b =>
    (if b then t.flash.cfgB else t.flash.cfgA) = (if b then s.flash.cfgB else s.flash.cfgA).map (fun y => { y with marker := true })
  | .owner o => t.cur.owner = some o ∧ t.cur.cfg = none ∧
      (if s.ownSlotB then t.flash.ownA else t.flash.ownB) =
        some { gen := slotGen (if s.ownSlotB then s.flash.ownB else s.flash.ownA) + 1, marker := true, body := o }
  | .chain bs => t.flash.chain = bs ∧ t.flash.reenrolled = false
  | .reenrol => t.flash.reenrolled = true ∧ t.flash.identity = s.cur.draws + 1
  | .repair r => sget (fun _ => 0) t.flash.fails r = s.getF (pgRgn r) Reg.RGN_SLOT_FAIL_SLOTS ∧
      t.flash.spares = if s.flag (pgRgn r) Reg.RGN_SPARE_USED then
        sput s.flash.spares r (s.getF (pgRgn r) Reg.RGN_SPARE_LOCAL) else sdel s.flash.spares r
  | .ppr x row => t.flash.hardPpr = s.flash.hardPpr ++ [(x, row)]
  | .retire x => t.flash.retired = s.flash.retired ++ [x]
  | .counters => t.flash.fwCtr = max s.flash.fwCtr (s.getF pgSec Reg.SEC_SVN_FW) ∧
      t.flash.cfgCtr = max s.flash.cfgCtr (s.getF pgSec Reg.SEC_SVN_CFG)

/-! ### Numbers -/

/-- The rational that an exact number stands for. -/
def numRat (x : Num) : ℚ := (x.m : ℚ) * (2 : ℚ) ^ x.e / (x.d : ℚ)

/-- A code as a result: no second zero, no subnormal of binary32 or binary64, no second NaN. -/
def plainCode (f : Fmt) (c : Nat) : Prop :=
  match f with
  | .e4m3 | .e5m2 => c % 128 ≠ 0 ∨ c = 0
  | .fp32 => 2 ^ 23 ≤ c % 2 ^ 31 ∨ c = 0
  | .fp64 => c % 2 ^ 63 ≠ 0 ∨ c = 0
  | _ => True

/-! ### Register pages -/

/-- The offsets that a page's own rows do not govern: header, commit registers and readback (R630, R665, R668). -/
def plainOffset (off : Nat) : Prop := off ∉ [0x010, 0x018, 0x01C, 0x020, 0x024, 0xEF8]

/-! ### Launches -/

/-- R25: n events were counted in a counter, which saturates at all ones; a counter of a cluster's pages counts while
CLU_CFG.CNTEN is 1. -/
def Counted (s t : State) (pg : Nat) (f : Fld) (n : Nat) : Prop :=
  t.getF pg f = if s.counting pg then min (2 ^ f.width - 1) (s.getF pg f + n) else s.getF pg f

/-- The head descriptor d of the queue has become the launch l at the end of its cluster's table: what any launch is
(R314, R315), and the whole cycles(G) that it was due but not ready are counted (R357); of class 0, whose epilogues may
delay others and whose rise counts as well, MATMUL's own clause says more. Other clusters are as before. -/
structure Launched (s t : State) (a : Ask) (d : Desc) (l : Launch) : Prop where
  queue : (t.clu a.c).queue = (s.clu a.c).queue.tail
  table : a.cls ≠ 0 → (t.clu a.c).launches = (s.clu a.c).launches ++ [l]
  last : (t.clu a.c).launches.getLast? = some l
  slot : l.slot = d.slot
  cls : l.cls = a.cls
  opc : l.opc = a.opc
  deps : l.deps = (a.plan s d).holds
  notBefore : s.issueAt a.c ≤ l.start
  start : a.cls ≠ 0 → l.start = s.issueAt a.c
  counted : Counted s t (pgDoc a.c) Reg.DOC_CNT_ISSUE 1
  waited : a.cls ≠ 0 → Counted s t (pgDoc a.c) Reg.DOC_CNT_WAIT ((s.issueAt a.c - s.dueFrom a.c d) * s.freq (dieOf a.c) / 512)
  others : ∀ c, c ≠ a.c → t.clu c = s.clu c

/-- The effects that a launch of class 1, 2 or 4 has on its completion, and its cycles(G) (R213, R234, R245); of class 2 with
the cycles of the SFU that array epilogues have taken (R233). `s` is the state in which it has issued. -/
def vectorWork (s : State) (a : Ask) (d : Desc) : List Eff × Nat :=
  match a.cls with
  | 1 =>
    match d.vec, Quire.ofCode (d.f 102 100) with
    | some x, q =>
      if a.opc = 15 then (match q with
        | some q => (s.qaddEffs a.c d x q, max 1 (x.passes q.width - 1 + 4))
        | none => ([], 0))
      else (s.veEffs a.c a.opc d x, max 1 (veIssue a.opc x.e x.fmt.width - 1 + (veRate a.opc).2))
    | none, _ => ([], 0)
  | 2 =>
    match d.vec with
    | some x =>
      let n := sfuGrants a.opc x.e x.fmt.width
      let k := s.clu a.c
      let lost := (sfuLost (s.cyc a.c 1) k.lastIssue (k.lastIssue + s.cyc a.c n) k.sfuTaken).2
      ((if a.opc = 18 then s.ropeEffs a.c d x else s.sfuEffs a.c a.opc d x)
          ++ (if lost = 0 then [] else [.count (pgVec a.c) Reg.VEC_CNT_SFUWAIT lost]),
        max 1 (n + lost - 1 + sfuLatency a.opc))
    | none => ([], 0)
  | _ => let w := s.rowWork a.c d d.row; (w.effs, w.cost + d.row.tail)

/-- The effects that a move has on its completion (R323, R411, R429). -/
def moveWork (s : State) (a : Ask) (d : Desc) : List Eff :=
  let x := d.move
  (match a.opc with
   | 1 => (match x.sf, x.df with | some f, some g => s.copyEffs d a.c x f g | _, _ => [])
   | 2 => s.catloadEffs x
   | 3 => s.catsaveEffs a.c x
   | _ => (match arcAddr x.src, x.df with | some w, some g => s.pageinEffs a.c d x w g | _, _ => []))
    ++ s.variedEff d

/-- Memory with some byte runs written to it in order. -/
def written (m : List (Nat × Byte)) (runs : List (Nat × List Byte)) : List (Nat × Byte) :=
  runs.foldl (fun m p => ssetAll (fun _ => 0) m p.1 p.2) m

/-- Every byte of memory outside some runs reads as before. -/
def RunsKept (s t : State) (runs : List (Nat × List Byte)) : Prop :=
  ∀ a, (∀ p ∈ runs, a < p.1 ∨ p.1 + p.2.length ≤ a) → t.byteAt a = s.byteAt a

/-! ### Ports and Accession -/

/-- A port and its page changed, with what it sent, and the events of its page; nothing else did, and no other port. -/
structure PortKept (s t : State) (k : Nat) : Prop where
  state : t = { s with regFile.regs := t.regs, fabric.ports := t.ports, evts.held := t.held, evts.lastData := t.lastData, out := t.out }
  pages : PagesKept s t (pgLnk k) []
  ports : ∀ j, j ≠ k → t.port j = s.port j

/-- Port k is down: no lane, and training again where it is enabled and has lanes (R479); LINK_DOWN has occurred. Its queue is
given up; chunks retained here that it had not sent yet wait for their timeout from now on, and those of other packages
free the buffers that they fill, which other ports credit back (R460, R464, R467). -/
structure WentDown (s t : State) (k : Nat) : Prop where
  state : t.lnk k = if s.trains k then lnkTrain else lnkDown
  lanes : t.lanes k = 0
  event : (t.getF (pgLnk k) Reg.PG_EVT).testBit 3 = true
  queue : (t.port k).txq = []
  retained : t.retained = s.retained.map (fun r => if r.port = k && r.queued then { r with queued := false, last := s.now } else r)
  kept : t = { s with regFile.regs := t.regs, fabric.ports := t.ports, fabric.retained := t.retained, evts.held := t.held,
                      evts.lastData := t.lastData, out := t.out }
  pages : PagesKept s t (pgLnk k) []

/-- The output is a HOP flit of a kind on port k, to the partner that the port has found (R454, R477). -/
def HopSent (s : State) (k kind : Nat) (data : List Nat) (o : Out) : Prop :=
  ∃ lane f, o = .flit k lane f ∧ f.ty = 2 ∧ f.kind = kind ∧ f.words = data ∧ f.first = true ∧ f.last = true ∧ f.src = s.pkg ∧
    f.dst = s.getF (pgLnk k) Reg.LNK_PEER_ID

/-- A tag on port k fails (R476): LINK_AUTH, and the port goes down at the seventeenth failure within 1 ms. -/
structure TagFailed (s t : State) (k vc src : Nat) : Prop where
  counted : Counted s t (pgLnk k) Reg.LNK_CNT_AUTH 1
  event : Occurred s t (pgLnk k) 7 0x26 1 (leBytes 1 vc ++ leBytes 2 src)
  stays : ((s.port k).tagFails.filter (fun q => decide (s.now < q + ms 1))).length < 16 → PortKept s t k ∧ t.lnk k = s.lnk k
  falls : 16 ≤ ((s.port k).tagFails.filter (fun q => decide (s.now < q + ms 1))).length → WentDown s t k

/-- Port k has failed bring-up with a cause; it tries again 1 s later (R479, R580). -/
structure BringUpFailed (s t : State) (k cause : Nat) : Prop where
  state : t.lnk k = lnkFailed
  lanes : t.lanes k = 0
  at_ : (t.port k).failedAt = s.now
  event : Occurred s t (pgLnk k) 3 0x22 3 (leBytes 1 cause)
  kept : PortKept s t k

/-- The engine takes a message (R551): its session, epoch, type and tag are right, and its SEQ is new. -/
structure Accepts (s : State) (m : AccMsg) (tagOk : Bool) (x : AccSess) : Prop where
  session : s.accSession m.sid = some x
  epoch : x.epoch = m.epoch
  type : x.permits m.type = true
  tag : tagOk = true
  near : x.top < m.seq + 65
  fresh : m.seq ∉ x.window

/-- The entry of a session after a message has been accepted (R551). -/
def afterAccept (x : AccSess) (m : AccMsg) : AccSess :=
  let top := max x.top (m.seq + 1)
  { x with top := top, window := (m.seq :: x.window).filter (fun q => decide (top < q + 65)) }

end Sys2Proof.Machine
end

