-- ==== Sys2Proof/Certificates/Slice0/Obligations.lean ====
section
/-! DEFINITION. The statements of the model, for the provers: what each command does to the state, and what every step
keeps. Where a statement rests on a choice of the model, its docstring names the log entry. -/
open Sys2Proof Sys2Proof.Machine

/-! ### The queue, time, reset, and what every step keeps -/

/-- A step runs the command at the front of the queue: it is exec of that command on the state with the queue's rest. -/
def Obligations.StepRunsFrontCommand : Prop :=
  ∀ (c : Instr) (s : State), step { s with pending := c :: s.pending } = exec c s

/-- With no command waiting, a step is one REF cycle of 10 ns (the model's choice, log 1). In a package whose ports have
nothing to send, with no window that ends in that cycle and no region that must leave service, nothing but time changes.
The count advances by 160 units plus the trim in 2^-32 unit (R304), of which a root has none; it never decreases (R303):
after a step back it stands still until the time that it was ahead has passed (log 70). -/
def Obligations.IdleStepIsOneRefCycle : Prop :=
  ∀ s : State, s.pending = [] →
    (∃ t, step s = .next t) ∧
    (let trim : Int := if s.flag pgTim Reg.TIM_CFG_ROLE then 0 else signed 32 (s.getF pgTim Reg.TIM_TRIM_TRIM)
     (∀ q ∈ s.ports, q.2.txq = [] ∧ q.2.owed = []) → s.loop = [] → (∀ q ∈ s.runs, q.2.switch = none) →
     (∀ r, r < 32 → s.draining r = false) →
     ∃ (t : State) (inc : Nat), step s = .next t ∧ t = { s with time := t.time } ∧ t.now = s.now + 160 ∧
       (inc : Int) * 2 ^ 32 + t.rotFrac = 160 * 2 ^ 32 + s.rotFrac + trim ∧ t.rotFrac < 2 ^ 32 ∧
       t.rot = (s.rot + (inc - s.debt)) % 2 ^ 64 ∧ t.debt = s.debt - inc ∧ t.refPhase = s.refPhase + 1)

/-- What reset leaves: the landing deadline and late allowance of R344, encryption on (R423, R472), every cluster in state
IDLE and served by the slot of its own index (R34, R35), memory that reads zero (R435), and a Catalogue whose entries
have the value 1 (R273). -/
def Obligations.ResetState : Prop :=
  State.reset.getF pgTim Reg.TIM_LAND_CFG_DL = 2 ∧ State.reset.getF pgTim Reg.TIM_LAND_CFG_LATE_MAX = 50 ∧
  (∀ x, x < 12 → State.reset.getF (pgMem x) Reg.MEM_CRYPT_CTL_EN = 1) ∧
  (∀ k, k < 8 → State.reset.getF (pgLnk k) Reg.LNK_CFG_ENC = 1 ∧ State.reset.getF (pgLnk k) Reg.LNK_STAT_STATE = 0) ∧
  (∀ c, c < 512 → State.reset.doc c = docIdle ∧ State.reset.slotOf c = c % 16) ∧
  (∀ a, State.reset.byteAt a = 0) ∧ (∀ c i, (State.reset.catEnt c i).val = .fin (.pow2 0)) ∧
  State.reset.pending = [] ∧ State.reset.out = []

/-- The invariant holds right after reset. -/
def Obligations.InvariantAtReset : Prop :=
   State.reset.Inv State.reset.part

/-- Whatever command or idle cycle it is, a step keeps the part, the canonical forms of memory and of the registers in
force, and the well-formedness of the commands that wait. -/
def Obligations.InvariantKeptByStep : Prop :=
  ∀ (p : PartNo) (s t : State), s.Inv p → step s = .next t → t.Inv p

/-- No command touches the queue or the part number: a step takes exactly the command at the front. -/
def Obligations.StepTakesOneCommand : Prop :=
  ∀ (c : Instr) (s t : State), exec c s = .next t → t.pending = s.pending ∧ t.part = s.part

/-! ### Register pages -/

/-- A write of one whole doubleword of a page in service puts its bits into every RW or WO field there: into the staged copy of
a staged field, and into the value in force of a live one (R21, R26, R529). Every other word keeps its values, apart
from the capture-valid bits of R684. A write of a sticky field clears the bits written as 1 and leaves the others; a
field that software cannot write keeps its value (R21). A write that clears DEV_LS_FAIL.VALID lets the next capture that
waits take its place, with VALID set again (R396). -/
def Obligations.RegisterWrite : Prop :=
  (∀ (s : State) (b : Block) (i pg off val : Nat) (r : FieldRow) (j : Nat),
     s.writable pg = some (b, i) → s.outOfService b i = false → off < 4096 → plainOffset off →
     (r, j) ∈ rowsAt b off → r.acc = .rw ∨ r.acc = .wo → r.act = false →
     (pg = pgDev → s.lsPend = [] ∨ s.flag pgDev Reg.DEV_LS_FAIL_VALID = true ∧ ¬ (off = 0x850 ∧ val.testBit 17 = true)) →
     let f : Fld := { r.fld with off := off }
     ∃ t, exec (.registerWrite pg off val true) s = .next t ∧
       (if r.staged then f.get (t.stagedWord (regIdx pg f)) else t.getF pg f) = val / 2 ^ f.lo % 2 ^ f.width ∧
       t = { s with regFile := t.regFile } ∧ t.snap = s.snap ∧
       (∀ k, k ≠ regIdx pg f → t.stagedWord k = s.stagedWord k) ∧
       WordsKept s t [regIdx pg f, regIdx pg Reg.ARR_QCAP_VALID, regIdx pg Reg.VEC_QCAP_VALID]) ∧
  (∀ (s : State) (b : Block) (i pg off val : Nat) (r : FieldRow) (j : Nat),
     s.writable pg = some (b, i) → s.outOfService b i = false → off < 4096 → plainOffset off →
     (r, j) ∈ rowsAt b off → r.acc ≠ .rw → r.acc ≠ .wo → r.fld ≠ Reg.ARR_QCAP_VALID → r.fld ≠ Reg.VEC_QCAP_VALID →
     (pg = pgDev → s.lsPend = [] ∨ s.flag pgDev Reg.DEV_LS_FAIL_VALID = true ∧ ¬ (off = 0x850 ∧ val.testBit 17 = true)) →
     let f : Fld := { r.fld with off := off }
     ∃ t, exec (.registerWrite pg off val true) s = .next t ∧
       ∀ n, (t.getF pg f).testBit n =
         ((s.getF pg f).testBit n && !(decide (r.acc = .w1c) && !r.act && val.testBit (f.lo + n) && decide (n < f.width)))) ∧
  (∀ (s : State) (val g n clu : Nat) (prov log : Bool) (rest : List (Nat × Nat × Nat × Bool × Bool)),
     s.reaches pgDev = true → s.lsPend = (g, n, clu, prov, log) :: rest → val.testBit 17 = true →
     ∃ t, exec (.registerWrite pgDev 0x850 val true) s = .next t ∧ t.lsPend = rest ∧
       t.getF pgDev Reg.DEV_LS_FAIL_VALID = 1 ∧ t.getF pgDev Reg.DEV_LS_FAIL_CLU = clu % 2 ^ 9 ∧
       t.getF pgDev Reg.DEV_LS_FAIL_GRP = g % 2 ^ 8 ∧ t.getF pgDev Reg.DEV_LS_FAIL_PROV = prov.toNat ∧
       t.getF pgDev Reg.DEV_LS_FAIL_LOG = log.toNat ∧ t.getF pgDev Reg.DEV_LS_IDX_LO_IDX = n % 2 ^ 32 ∧
       t.getF pgDev Reg.DEV_LS_IDX_HI_IDX = n / 2 ^ 32 % 2 ^ 32)

/-- R662: a reserved page, and the page of an absent instance, reads zero at every offset and ignores writes; each write
is counted in PCI_CNT_BADREG, which saturates. -/
def Obligations.ReservedPageIgnoresWrites : Prop :=
  ∀ (s : State) (pg off val : Nat), (pg < 0x100 ∨ 0x109 ≤ pg) →
    (∀ b i, pageBlock pg = some (b, i) → s.part.hasInst b i = false) →
    s.readReg pg off = 0 ∧
    ∃ t, exec (.registerWrite pg off val true) s = .next t ∧
      t.getF pgPci Reg.PCI_CNT_BADREG = min (2 ^ 32 - 1) (s.getF pgPci Reg.PCI_CNT_BADREG + 1) ∧
      OnlyRegs s t ∧ WordsKept s t [regIdx pgPci Reg.PCI_CNT_BADREG]

/-- PG_COMMIT.REQ (bit 0 of the doubleword) on a page whose block is not running: the staged value of every staged field takes effect at once, where
no rule rejects a group of the page (R27, R631, R632, R635). PG_COMMIT.REQ on a page whose block is running takes a
snapshot of every staged field and waits; CANCEL (bit 1) drops the snapshot. Neither changes a value in force outside the
commit registers (R27, R631). -/
def Obligations.CommitProtocol : Prop :=
  (∀ (s : State) (b : Block) (i pg val : Nat), s.writable pg = some (b, i) → b.staged = true →
     s.outOfService b i = false → val.testBit 0 = true →
     let u := if val.testBit 1 then (s.writeReg pg 0x020 val true).cancelCommit pg else s.writeReg pg 0x020 val true
     u.blockRunning b i = false → (∀ g ∈ groupsOf b, (u.takeSnapshot pg).groupOk b i g = true) →
     ∃ t, exec (.pgCommitReq pg val) s = .next t ∧ t.getF pg Reg.PG_COMMIT_STAT_PENDING = 0 ∧
       ∀ fg ∈ stagedFields b, t.getF pg fg.1 = fg.1.get (s.stagedWord (regIdx pg fg.1))) ∧
  (∀ (s : State) (b : Block) (i pg val : Nat), s.writable pg = some (b, i) → b.staged = true →
     s.outOfService b i = false →
     (val.testBit 0 = true → (s.writeReg pg 0x020 val true).blockRunning b i = true →
       ∃ t, exec (.pgCommitReq pg val) s = .next t ∧ t.getF pg Reg.PG_COMMIT_STAT_PENDING = 1 ∧
         (∀ f : Fld, f.off < 4096 → t.snapF pg f = f.get (s.stagedWord (regIdx pg f))) ∧
         t = { s with regFile := t.regFile } ∧
         WordsKept s t [regIdx pg Reg.PG_COMMIT_GRP, regIdx pg Reg.PG_COMMIT_STAT_PENDING]) ∧
     (val.testBit 1 = true → ∃ t, exec (.pgCommitCancel pg val) s = .next t ∧ t.getF pg Reg.PG_COMMIT_STAT_PENDING = 0 ∧
         (∀ p ∈ t.snap, p.1 / 1024 ≠ pg) ∧ t = { s with regFile := t.regFile } ∧ t.staged = s.staged ∧
         WordsKept s t [regIdx pg Reg.PG_COMMIT_GRP, regIdx pg Reg.PG_COMMIT_STAT_PENDING]))

/-- The cluster soft reset (R55). In a cluster that does not run it acts at once: it clears the sequencer, the Docent
queue, the accumulator memory with its tile records, and the sticky flags, and the weight store, the activation buffer, the instruction
memory and the Catalogue keep their contents, as does every other cluster. In a running cluster it waits, with SRST
reading 1. -/
def Obligations.ClusterSoftReset : Prop :=
  ∀ (s : State) (c val : Nat), c < 512 → s.reaches (pgClu c) = true → val.testBit 1 = true →
    let u := s.writeReg (pgClu c) 0x010 val true
    (u.running c = false →
      ∃ t, exec (.pgCtlSrst (pgClu c) val) s = .next t ∧ t.clu c = {} ∧ t.doc c = docIdle ∧
        (∀ a line, a < 4 → line < 32768 → sget (fun _ => 0) t.am ((4 * c + a) * 32768 + line) = 0) ∧
        (∀ a, a < 4 → t.getF (pgArr c) (arrFlagsF a) = 0) ∧
        (∀ k, (k < 131072 * c ∨ 131072 * (c + 1) ≤ k) → sget (fun _ => 0) t.am k = sget (fun _ => 0) s.am k) ∧
        (∀ p ∈ t.tiles, p.1 < 256 * c ∨ 256 * (c + 1) ≤ p.1) ∧ (∀ p ∈ s.tiles, (p.1 < 256 * c ∨ 256 * (c + 1) ≤ p.1) → p ∈ t.tiles) ∧
        t.getF (pgVec c) vecFlagsF = 0 ∧ t.getF (pgVec c) sfuFlagsF = 0 ∧
        t.word (regIdx (pgVec c) Reg.VEC_ROW_STAT_ROW_NAR) = 0 ∧ t.getF (pgClu c) Reg.PG_CTL_SRST = 0 ∧
        t.mem = s.mem ∧ t.im = s.im ∧ t.cat = s.cat ∧ ∀ c', c' ≠ c → t.clu c' = u.clu c') ∧
    (u.running c = true →
      ∃ t, exec (.pgCtlSrst (pgClu c) val) s = .next t ∧ (t.clu c).srst = true ∧
        t.getF (pgClu c) Reg.PG_CTL_SRST = 1 ∧ t.mems = s.mems ∧ ∀ c', c' ≠ c → t.clu c' = u.clu c')

/-- A write of 1 to PG_CNT_CLR sets every counter in 0xF00 to 0xFFB of the page to 0; beside them it changes only from when the
counts that are worked out at a read accrue (log 60, log 83) (R670). The reads
that act: TIM_NOW_LO latches the high half of the count (R358), DEV_PROV[0] latches the Provenance record (R368),
DOC_SLACK_MIN returns to all ones (R357). Each writes those registers alone; on a page that is not served or out of
service a read has no effect (R575, R662, R663). -/
def Obligations.ActingReadsAndCounterClear : Prop :=
  (∀ (s : State) (b : Block) (i pg val : Nat), s.writable pg = some (b, i) → s.outOfService b i = false →
     val.testBit 0 = true →
     ∃ t, exec (.pgCntClr pg val) s = .next t ∧
       (∀ off, 0xF00 ≤ off → off ≤ 0xFFB → t.word (pg * 1024 + off / 4) = 0) ∧
       t = { s with regFile := t.regFile, sched.clusters := t.clusters } ∧ t.staged = s.staged ∧ t.snap = s.snap ∧
       (∀ c, ∃ l, t.clu c = { s.clu c with ballAt := l } ∧ (b ≠ .arr ∨ c ≠ i → l = (s.clu c).ballAt)) ∧
       ∀ j, (j < pg * 1024 + 0x3C0 ∨ pg * 1024 + 0x3FF ≤ j) → t.word j = s.word j) ∧
  ((∀ s : State, s.reaches pgTim = true → ∃ t, exec .timNowLoRead s = .next t ∧
     t.getF pgTim Reg.TIM_NOW_HI_T = s.rot / 2 ^ 32 % 2 ^ 32 ∧
     OnlyRegs s t ∧ WordsKept s t [regIdx pgTim Reg.TIM_NOW_HI_T]) ∧
   (∀ s : State, s.reaches pgDev = true → ∃ t, exec .devProvRead s = .next t ∧ OnlyRegs s t ∧
     (∀ k, k < 8 → t.getF pgDev (Reg.DEV_PROV k) = s.provenance.getD k 0 % 2 ^ 32) ∧
     WordsKept s t ((List.range 8).map (fun k => regIdx pgDev (Reg.DEV_PROV k)))) ∧
   (∀ (s : State) (c : Nat), s.reaches (pgDoc c) = true → ∃ t, exec (.docSlackMinRead c) s = .next t ∧
     t.getF (pgDoc c) Reg.DOC_SLACK_MIN_SLACK = 0xFFFFFF ∧ OnlyRegs s t ∧
     WordsKept s t [regIdx (pgDoc c) Reg.DOC_SLACK_MIN_SLACK]) ∧
   ∀ (s : State) (c : Nat), (s.reaches pgTim = false → exec .timNowLoRead s = .next s) ∧
     (s.reaches pgDev = false → exec .devProvRead s = .next s) ∧
     (s.reaches (pgDoc c) = false → exec (.docSlackMinRead c) s = .next s))

/-- A write of PG_EVT_EN or PG_CTL.EN puts the assigned bits in force, and raises, with FLAGS.DEFERRED, every event bit
that is set and that the write makes enabled, with the code of its kind and the severity of its latest occurrence
(R665, R666, R690, R696). -/
def Obligations.EventEnableWrite : Prop :=
  ∀ (s : State) (b : Block) (i pg off val : Nat), s.writable pg = some (b, i) → s.outOfService b i = false →
    (off = 0x010 ∨ off = 0x01C) →
    ∃ t, exec (.pgEvtEnWrite pg off val) s = .next t ∧ OnlyEvents s t ∧
      (off = 0x010 → t.getF pg Reg.PG_CTL_EN = val % 2 ∧ t.getF pg Reg.PG_EVT_EN = s.getF pg Reg.PG_EVT_EN) ∧
      (off = 0x01C → t.getF pg Reg.PG_EVT_EN = val &&& evtMask b i ∧ t.getF pg Reg.PG_CTL_EN = s.getF pg Reg.PG_CTL_EN) ∧
      t.getF pg Reg.PG_EVT = s.getF pg Reg.PG_EVT ∧
      ∀ n, n < 32 → (s.getF pg Reg.PG_EVT).testBit n = true → (s.enables pg).testBit n = false →
        (t.enables pg).testBit n = true → s.cur.replacing = false →
        ∃ e ∈ t.held, e.page = pg ∧ e.code = (eventOf b n).1 ∧ e.deferred = true ∧
          e.sev = (match sget (fun _ => []) s.lastData (pg * 32 + n) with | [] => (eventOf b n).2 | x :: _ => x.toNat)

/-! ### Events and the mailbox -/

/-- Once 8 µs have passed since its TIME, the held event of the least TIME leaves the hold (R697) and its record is
written to the event ring where the ring has room and no record waits (R691, R692). The host's consumption of the
event ring: the count read is kept, and waiting records are written, oldest first, while the ring has room (R691,
R692). -/
def Obligations.EventHoldAndRing : Prop :=
  (∀ s : State, s.held ≠ [] → (∀ e ∈ s.held, e.time + us 8 ≤ s.rot) → s.cur.replacing = false →
     ∃ e ∈ s.held, (∀ f ∈ s.held, e.time ≤ f.time) ∧
       ∃ t, exec .eventHoldExpiry s = .next t ∧ t.held = s.held.erase e ∧
         (∀ r, s.ring = some r → s.waiting = [] → 0 < s.ringSpace →
           t.evtSeq = (s.evtSeq + 1) % 2 ^ 32 ∧ t.dropped = 0 ∧
           (s.out ++ [Out.hostWrite (r.base + 64 * (s.evtSeq % 2 ^ r.log2n)) (eventRecord e s.evtSeq s.dropped r.log2n)]).IsPrefix t.out)) ∧
  (∀ (s : State) (consumed : Nat),
     ∃ t, exec (.eventRingDrain consumed) s = .next t ∧ t.evtConsumed = consumed % 2 ^ 32 ∧ t.held = s.held ∧
       t.waiting.IsSuffix s.waiting ∧
       (∀ e es, s.waiting = e :: es → s.waiting.length ≤ 4096 →
         0 < State.ringSpace { s with evts.evtConsumed := consumed % 2 ^ 32 } →
         t.waiting.length ≤ es.length ∧ (t.waiting = [] ∨ t.ringSpace = 0)))

/-- A GO written while READY is 0 or BUSY is 1 is ignored and sets REFUSED: of every mailbox command, only registers of
the CUR page change (R544). In recovery the ROM serves ATTEST, CERT_GET, FW_STAGE and FW_COMMIT alone: every other
mailbox command is answered with STATUS 0x0004 and has no other effect (R575). Who may not: a command that needs
presence is refused with 0x0003 outside a presence window, and the refusal is counted (R596); a second command that
writes flash is refused with 0x0004 (R597); a bad signature fails with 0x0102. None of them changes anything but
registers, and what leaves the package: neither a refused command nor one that fails closes a presence window. -/
def Obligations.MailboxRefusals : Prop :=
  (∀ (i : Instr) (code : Nat) (m : MbxReq) (s : State), mailboxOf i = some (code, m) → mbxWf m = true → s.mbxIgnores = true →
     ∃ t, exec i s = .next t ∧ t.getF pgCur Reg.CUR_MBX_STAT_REFUSED = 1 ∧
       t.getF pgCur Reg.CUR_MBX_STAT_BUSY = s.getF pgCur Reg.CUR_MBX_STAT_BUSY ∧ OnlyRegs s t ∧ PagesKept s t pgCur []) ∧
  (∀ (i : Instr) (code : Nat) (m : MbxReq) (s : State), mailboxOf i = some (code, m) → mbxWf m = true →
     s.mbxIgnores = false → s.flag pgSec Reg.SEC_STAT_RECOVERY = true → code ∉ [0x0201, 0x0202, 0x0203, 0x0204] →
     ∃ t, exec i s = .next t ∧ Answered t code m.tag 4 ∧ OnlyOut s t ∧ PagesKept s t pgCur [msixPba 16]) ∧
  (∀ (s : State) (m : MbxReq), mbxWf m = true →
     (∀ (i : Instr) (code : Nat), mailboxOf i = some (code, m) → Serves s code →
       (code ∈ [0x0204, 0x0207, 0x0208, 0x020A, 0x020B, 0x020C]
         ∨ code = 0x0206 ∧ ∃ b x, s.cur.cfgStagedB = some b ∧ (if b then s.flash.cfgB else s.flash.cfgA) = some x ∧
             cfgSensitive s.cur.cfg x.body = true) →
       s.presence = false →
       ∃ t, exec i s = .next t ∧ Answered t code m.tag 3 ∧
         t.getF pgSec Reg.SEC_CNT_AUTHREF = min (2 ^ 32 - 1) (s.getF pgSec Reg.SEC_CNT_AUTHREF + 1) ∧ OnlyOut s t ∧
         PagesKept s t pgCur [msixPba 16, regIdx pgSec Reg.SEC_CNT_AUTHREF]) ∧
     (∀ (i : Instr) (code : Nat), mailboxOf i = some (code, m) → Serves s code → s.flashBusy = true →
       (code ∈ [0x0203, 0x0205, 0x0209] ∨ code ∈ [0x0204, 0x0206, 0x0207, 0x0208] ∧ s.presence = true) →
       ∃ t, exec i s = .next t ∧ Answered t code m.tag 4 ∧ OnlyOut s t ∧ PagesKept s t pgCur [msixPba 16]) ∧
     (∀ (i : Instr) (code : Nat), mailboxOf i = some (code, m) → Serves s code → s.flashBusy = false →
       ((∃ img, i = .fwStage m img ∧ sigBoth img.sig = false) ∨
        (∃ cfg, i = .cfgStage m cfg ∧ s.ownerSigned cfg.sig = false) ∨
        (∃ chain sig, i = .certInstall m chain sig ∧ sigBoth sig = false) ∨
        (∃ own o, i = .ownerEnrol m own ∧ s.presence = true ∧ s.sealed = false ∧ s.cur.owner = some o ∧
          s.ownerSigned own.sig = false)) →
       ∃ t, exec i s = .next t ∧ Answered t code m.tag 0x0102 ∧ OnlyOut s t ∧ PagesKept s t pgCur [msixPba 16]))

/-- The mailbox commands that only answer: EVT_RING names the event ring (R691), a code that no rule lists gets STATUS
0x0001 (R543), ATTEST writes the report and its signatures and CERT_GET the certificate chain to the host buffer,
complete before the response (R543, R578); a buffer that is too short gets nothing, and STATUS 0x0005. -/
def Obligations.MailboxReports : Prop :=
  (∀ (s : State) (m : MbxReq), mbxWf m = true → Serves s 0x0301 → evtRingOk m.payload = true →
    ∃ t, exec (.evtRing m) s = .next t ∧ Answered t 0x0301 m.tag 0 ∧
      t.ring = some { base := ofLeBytes (m.payload.take 8), log2n := ofLeBytes ((m.payload.drop 8).take 1),
                      cons := ofLeBytes ((m.payload.drop 16).take 8) } ∧
      t.mems = s.mems ∧ t.sched = s.sched ∧ t.brd = s.brd) ∧
  (∀ (s : State) (code : Nat) (m : MbxReq), mbxWf m = true → Serves s code → code ∉ knownCodes →
    ∃ t, exec (.mailboxUnknownCode code m) s = .next t ∧ Answered t code m.tag 1 ∧ OnlyOut s t ∧
      PagesKept s t pgCur [msixPba 16]) ∧
  (∀ (s : State) (m : MbxReq), mbxWf m = true → Serves s 0x0201 → s.identityServes = true → m.payload.length = 48 →
    let rep := s.report m.payload
    let bulk := rep ++ s.signReport rep
    ∃ t, exec (.attest m) s = .next t ∧ OnlyOut s t ∧ PagesKept s t pgCur [msixPba 16] ∧
      (bulk.length ≤ m.hlen → Answered t 0x0201 m.tag 0 ∧ (s.out ++ [Out.hostWrite m.haddr bulk]).IsPrefix t.out) ∧
      (m.hlen < bulk.length → Answered t 0x0201 m.tag 5 ∧ (t.out = s.out ∨ t.out = s.out ++ [.msix 16]))) ∧
  (∀ (s : State) (m : MbxReq), mbxWf m = true → Serves s 0x0202 → s.identityServes = true →
    ∃ t, exec (.certGet m) s = .next t ∧ OnlyOut s t ∧ PagesKept s t pgCur [msixPba 16] ∧
      (s.flash.chain.length ≤ m.hlen → Answered t 0x0202 m.tag 0 ∧
        (s.out ++ [Out.hostWrite m.haddr s.flash.chain]).IsPrefix t.out) ∧
      (m.hlen < s.flash.chain.length → Answered t 0x0202 m.tag 5 ∧ (t.out = s.out ∨ t.out = s.out ++ [.msix 16])))

/-! ### The security commands -/

/-- The commands that write flash (R596 to R599, R655): each, with its authority and in its states, begins its write,
keeps BUSY and leaves the flash as it is until the write ends. FW_COMMIT, PUF_REENROL, OWNER_ENROL and a
CFG_COMMIT that needs presence close the window they use (R590); a live FW_COMMIT clears READY (R544); OWNER_ENROL first zeroises (R598, R589). -/
def Obligations.FlashCommandsBeginTheirWrite : Prop :=
  ∀ (s : State) (m : MbxReq), mbxWf m = true → s.flashBusy = false → s.cur.flashHeld = false →
    (∀ img, Serves s 0x0203 → sigBoth img.sig = true →
      ∃ t, exec (.fwStage m img) s = .next t ∧ Begun s t 0x0203 m (.fwStage s.fwWriteB img) ∧ t.mems = s.mems) ∧
    (∀ b img, Serves s 0x0204 → s.presence = true → s.stagedFw = some (b, img) → sigBoth img.sig = true →
      s.flash.fwCtr ≤ img.svn →
      let live := match m.payload.head? with | some x => x.getLsbD 0 | none => false
      (live = false → ∃ t, exec (.fwCommit m) s = .next t ∧ Begun s t 0x0204 m (.fwMarker b false) ∧
        t.presence = false ∧ t.mems = s.mems) ∧
      (live = true → ∃ t, exec (.fwCommitLive m) s = .next t ∧ Begun s t 0x0204 m (.fwMarker b true) ∧
        t.presence = false ∧ t.getF pgCur Reg.CUR_MBX_STAT_READY = 0 ∧ t.mems = s.mems)) ∧
    (∀ cfg, Serves s 0x0205 → s.ownerSigned cfg.sig = true → cfg.idhash = s.flash.idhash →
      ∃ t, exec (.cfgStage m cfg) s = .next t ∧ Begun s t 0x0205 m (.cfgStage (!s.cfgSlotB) cfg) ∧ t.mems = s.mems) ∧
    (∀ b x, Serves s 0x0206 → s.cur.cfgStagedB = some b → (if b then s.flash.cfgB else s.flash.cfgA) = some x →
      (cfgSensitive s.cur.cfg x.body = true → s.presence = true) → s.flash.cfgCtr ≤ x.body.svn →
      ∃ t, exec (.cfgCommit m) s = .next t ∧ Begun s t 0x0206 m (.cfgMarker b) ∧ t.mems = s.mems ∧
        t.presence = (s.presence && !cfgSensitive s.cur.cfg x.body)) ∧
    (∀ own : OwnerRecord, Serves s 0x0207 → s.presence = true → s.sealed = false → s.cur.entropyBad = false →
      (∀ o, s.cur.owner = some o → s.ownerSigned own.sig = true ∧ o.svn < own.svn) →
      ∃ t, exec (.ownerEnrol m own) s = .next t ∧ Begun s t 0x0207 m (.owner own) ∧ t.presence = false ∧
        t.mem = [] ∧ t.im = [] ∧ t.cat = [] ∧ t.am = [] ∧ t.tiles = [] ∧ t.accSess = [] ∧ (∀ p ∈ t.keys, p.1 = 0) ∧ ∀ c, c < 512 → t.doc c = docStopped) ∧
    (Serves s 0x0208 → s.presence = true → s.sealed = false → s.cur.entropyBad = false →
      ∃ t, exec (.pufReenrol m) s = .next t ∧ Begun s t 0x0208 m .reenrol ∧ t.presence = false ∧ t.mems = s.mems) ∧
    (∀ chain sig, Serves s 0x0209 → sigBoth sig = true →
      ∃ t, exec (.certInstall m chain sig) s = .next t ∧ Begun s t 0x0209 m (.chain chain) ∧ t.mems = s.mems)

/-- The end of a flash write (R597): the flash holds what the command wrote and the command is answered with 0, or, where
the write failed, the flash is as before and the status is 0x0103. A live firmware commit goes on to the new image
where the hand-over formats agree, and answers 0x0106 where they do not (R655, R658). A live replacement ends (R655 to
R657): the new image runs, shows its SVN and its slot, answers FW_COMMIT once READY returns, reports CURATOR_REPLACED,
and still holds every event held meanwhile. -/
def Obligations.FlashWriteEndsAndHandOver : Prop :=
  (∀ (s : State) (op : FlashOp), s.cur.flashOp = some op → s.cur.flashSent = true → s.cur.job = some (.flash op) →
     (∃ t, exec (.flashWriteComplete false) s = .next t ∧ Answered t s.cur.jobCode s.cur.jobTag 0x0103 ∧
       t.flash = s.flash ∧ t.cur.flashOp = none ∧ t.cur.job = none) ∧
     ((∀ b, op ≠ .fwMarker b true) →
       ∃ t, exec (.flashWriteComplete true) s = .next t ∧ Answered t s.cur.jobCode s.cur.jobTag 0 ∧ Written s t op ∧
         t.cur.flashOp = none ∧ t.cur.job = none ∧ t.mems = s.mems ∧ t.sched = s.sched) ∧
     (∀ b x fw, op = .fwMarker b true → (if b then s.flash.fwB else s.flash.fwA) = some x → s.cur.fw = some fw →
       ∃ t, exec (.flashWriteComplete true) s = .next t ∧ Written s t op ∧ t.cur.flashOp = none ∧
         (fw.handover = x.body.handover → t.cur.replacing = true ∧ t.cur.newFw = some x.body ∧ t.cur.job = some .live) ∧
         (fw.handover ≠ x.body.handover → t.cur.replacing = s.cur.replacing ∧
           Answered t s.cur.jobCode s.cur.jobTag 0x0106))) ∧
  (∀ (s : State) (fw : FwImage), s.cur.newFw = some fw → s.cur.replacing = true →
     ∃ t, exec .newImageReady s = .next t ∧ t.cur.replacing = false ∧ t.cur.fw = some fw ∧
       Answered t 0x0204 s.cur.jobTag 0 ∧ t.getF pgCur Reg.CUR_MBX_STAT_READY = 1 ∧
       t.getF pgSec Reg.SEC_SVN_FW = fw.svn % 2 ^ 16 ∧ t.getF pgSec Reg.SEC_STAT_BOOTSLOT = (!s.cur.bootB).toNat ∧
       (t.getF pgCur Reg.PG_EVT).testBit 0 = true ∧
       (∀ e ∈ s.held, ∃ f ∈ t.held, f.code = e.code ∧ f.page = e.page ∧ f.time = e.time ∧ f.data = e.data) ∧
       (∀ d, d < 4 → t.getF (pgDie d) Reg.DIE_EVTQ = 0) ∧ t.mems = s.mems ∧ t.sched = s.sched)

/-- UNSEAL with its authority stops every cluster and erases every Accession entry and key slots 1 to 255; its end fills
memory, but for the Curator's own, under a new slot 0 key, opens the package and reports UNSEALED (R589). Before HBM is
filled it waits, its window closed (R590, R602). DEBUG_UNLOCK opens the debug port
(R599), and SEAL_REARM clears a broken seal after 10 closed checks (R595). The debug port (R606): IDCODE and BYPASS
are always offered, SAMPLE/PRELOAD and EXTEST while PERST# is asserted, and a debug instruction of a locked port does
what BYPASS does (log 29). Nothing but the port's output changes. Of a debug instruction of an unlocked port the
manual says nothing, and it is refused by name. -/
def Obligations.UnsealAndDebug : Prop :=
  ((∀ (s : State) (m : MbxReq) (tok : Token), mbxWf m = true → Serves s 0x020A → s.presence = true →
     s.tokenOk "UNSEAL" tok = true → s.sealed = true → s.cur.entropyBad = false → s.hbmFilled = true →
     ∃ t, exec (.unseal m tok) s = .next t ∧ t.cur.job = some .unseal ∧ t.accSess = [] ∧ (∀ p ∈ t.keys, p.1 = 0) ∧
       (∀ c, c < 512 → t.doc c = docStopped) ∧ t.presence = false ∧ t.sealed = true ∧
       t.getF pgCur Reg.CUR_MBX_STAT_BUSY = 1 ∧ t.mems = s.mems) ∧
   (∀ (s : State) (m : MbxReq) (tok : Token), mbxWf m = true → Serves s 0x020A → s.presence = true →
     s.tokenOk "UNSEAL" tok = true → s.sealed = true → s.cur.entropyBad = false → s.hbmFilled = false →
     ∃ t, exec (.unseal m tok) s = .next t ∧ t.cur.job = some (.waitHbm (.unseal m tok)) ∧ t.presence = false ∧
       t.sealed = true ∧ t.getF pgCur Reg.CUR_MBX_STAT_BUSY = 1 ∧ t.accSess = s.accSess ∧ t.keys = s.keys ∧
       t.mems = s.mems ∧ t.sched = s.sched) ∧
   (∀ s : State, s.cur.job = some .unseal →
     ∃ t, exec .unsealDone s = .next t ∧ t.sealed = false ∧ Occurred s t pgSec 3 0x33 0 [] ∧
       Answered t 0x020A s.cur.jobTag 0 ∧ t.mem = [] ∧ t.im = [] ∧ t.cat = [] ∧ t.am = [] ∧ t.tiles = [] ∧
       (∀ p ∈ t.errs, p.1 / 2 ^ 48 / 4096 = 7) ∧ (∀ p ∈ s.errs, p.1 / 2 ^ 48 / 4096 = 7 → p ∈ t.errs) ∧
       sget (fun _ => 0) t.keys 0 = s.cur.draws + 1 ∧ t.cur.job = none) ∧
   (∀ (s : State) (m : MbxReq) (tok : Token), mbxWf m = true → Serves s 0x020B → s.presence = true →
     s.tokenOk "DEBUG" tok = true → s.sealed = false → s.debugAllow = true →
     ∃ t, exec (.debugUnlock m tok) s = .next t ∧ t.getF pgSec Reg.SEC_STAT_DEBUG = 1 ∧ Occurred s t pgSec 4 0x34 1 [] ∧
       Answered t 0x020B m.tag 0 ∧ t.presence = false ∧ t.mems = s.mems ∧ t.sched = s.sched ∧ t.keys = s.keys) ∧
   (∀ (s : State) (m : MbxReq), mbxWf m = true → Serves s 0x020C → s.presence = true → s.getF pgSec Reg.SEC_STAT_SEAL = 2 →
     10 ≤ s.cur.closedRun →
     ∃ t, exec (.sealRearm m) s = .next t ∧ t.getF pgSec Reg.SEC_STAT_SEAL = 1 ∧ Answered t 0x020C m.tag 0 ∧
       t.presence = false ∧ t.mems = s.mems ∧ t.sched = s.sched ∧ t.keys = s.keys)) ∧
  (∀ s : State,
     exec (.tapInstruction .idcode) s = .next (s.emit (.tdo Config.idcode)) ∧
     exec (.tapInstruction .bypass) s = .next (s.emit (.tdo 0)) ∧
     (s.perst = true → exec (.tapInstruction .sample) s = .next (s.emit (.pinTest 0)) ∧
       exec (.tapInstruction .extest) s = .next (s.emit (.pinTest 1))) ∧
     (s.perst = false → exec (.tapInstruction .sample) s = .next (s.emit (.tdo 0)) ∧
       exec (.tapInstruction .extest) s = .next (s.emit (.tdo 0))) ∧
     (∀ code, s.getF pgSec Reg.SEC_STAT_DEBUG = 0 → exec (.tapInstruction (.debug code)) s = .next (s.emit (.tdo 0))) ∧
     (∀ code, s.getF pgSec Reg.SEC_STAT_DEBUG = 1 →
       exec (.tapInstruction (.debug code)) s = .refused (.debugInstruction code)))

/-- Key slots (R584): SLOT_LOAD gives an empty slot the key derived from the epoch secret of an Accession entry; SLOT_FREE
erases a slot that no session names. Neither touches another slot. A command that waited for the fill of HBM (R602) is
served once every stack in service is filled: UNSEAL stops the clusters and erases the keys, SLOT_LOAD answers,
SESSION_SCRUB begins; until then it goes on waiting. -/
def Obligations.KeySlotsAndWaitingCommands : Prop :=
  ((∀ (s : State) (m : MbxReq) (e : AccSess), mbxWf m = true → Serves s 0x020D → s.hbmFilled = true →
     let k := ofLeBytes (m.payload.take 1)
     k ≠ 0 → 9 ≤ m.payload.length → s.accSess.find? (fun x => x.sid = ofLeBytes ((m.payload.drop 1).take 4)) = some e →
     e.epoch = ofLeBytes ((m.payload.drop 5).take 4) → s.hasKey k = false →
     ∃ t, exec (.slotLoad m) s = .next t ∧ Answered t 0x020D m.tag 0 ∧ t.hasKey k = true ∧
       sget (fun _ => 0) t.keys k = slotKey e.secret k ∧
       (∀ j, j ≠ k → sget (fun _ => 0) t.keys j = sget (fun _ => 0) s.keys j) ∧ t.mems = s.mems ∧ t.inq = s.inq) ∧
   (∀ (s : State) (m : MbxReq), mbxWf m = true → Serves s 0x020E →
     let k := ofLeBytes (m.payload.take 1)
     k ≠ 0 → m.payload ≠ [] → s.slotInUse k = false →
     ∃ t, exec (.slotFree m) s = .next t ∧ Answered t 0x020E m.tag 0 ∧ t.hasKey k = false ∧
       (∀ j, j ≠ k → sget (fun _ => 0) t.keys j = sget (fun _ => 0) s.keys j) ∧ t.mems = s.mems ∧ t.inq = s.inq)) ∧
  (∀ (s : State) (m : MbxReq), mbxWf m = true → s.hbmFilled = false →
     (Serves s 0x020D → ∃ t, exec (.slotLoad m) s = .next t ∧ t.cur.job = some (.waitHbm (.slotLoad m)) ∧
       t.getF pgCur Reg.CUR_MBX_STAT_BUSY = 1 ∧ t.keys = s.keys ∧ t.mems = s.mems ∧ t.sched = s.sched) ∧
     (Serves s 0x020F → scrubSess m ≠ 0xFFFF →
       ∃ t, exec (.sessionScrub m) s = .next t ∧ t.cur.job = some (.waitHbm (.sessionScrub m)) ∧
         t.getF pgCur Reg.CUR_MBX_STAT_BUSY = 1 ∧ t.accSess = s.accSess ∧ t.keys = s.keys ∧ t.mems = s.mems ∧ t.sched = s.sched) ∧
     exec .hbmWaitCommandResume s = .next s) ∧
  (∀ s : State, s.hbmFilled = true →
     (∀ m tok, s.cur.job = some (.waitHbm (.unseal m tok)) →
       ∃ t, exec .hbmWaitCommandResume s = .next t ∧ t.cur.job = some .unseal ∧ t.accSess = [] ∧
         (∀ p ∈ t.keys, p.1 = 0) ∧ (∀ c, c < 512 → t.doc c = docStopped) ∧ t.mems = s.mems) ∧
     (∀ m e, s.cur.job = some (.waitHbm (.slotLoad m)) →
       let k := ofLeBytes (m.payload.take 1)
       k ≠ 0 → 9 ≤ m.payload.length → s.accSess.find? (fun x => x.sid = ofLeBytes ((m.payload.drop 1).take 4)) = some e →
       e.epoch = ofLeBytes ((m.payload.drop 5).take 4) → s.hasKey k = false →
       ∃ t, exec .hbmWaitCommandResume s = .next t ∧ Answered t 0x020D m.tag 0 ∧ t.hasKey k = true ∧ t.cur.job = none ∧
         sget (fun _ => 0) t.keys k = slotKey e.secret k) ∧
     (∀ m, s.cur.job = some (.waitHbm (.sessionScrub m)) → 71 ≤ m.payload.length → s.scrubBlocked (scrubMask m) = false →
       ∃ t n, exec .hbmWaitCommandResume s = .next t ∧ t.cur.job = some (.scrub n (scrubMask m)) ∧
         ∀ e ∈ t.accSess, e.sid ≠ scrubSid m))

/-- SESSION_SCRUB (R586): the Accession entry and the key slot go at once, and the SCRUB of the named session starts; once
it has completed, the activation buffers, the accumulator memories and the sticky flags of the named clusters are
zeroed with their tile records, the scrub is counted and the command answered. Clusters outside the mask keep their
memories. Where the Archive runs another command, the SCRUB starts after it (log 20). While a named cluster is in
BARRIER, FLIGHT, WINDOW or SAVED the command is refused with 4 and changes nothing. -/
def Obligations.SessionScrub : Prop :=
  (∀ (s : State) (m : MbxReq), mbxWf m = true → Serves s 0x020F → 71 ≤ m.payload.length →
    s.scrubBlocked (scrubMask m) = false → (scrubSess m ≠ 0xFFFF → s.hbmFilled = true) →
    ∃ t, exec (.sessionScrub m) s = .next t ∧ (∀ e ∈ t.accSess, e.sid ≠ scrubSid m) ∧
      (scrubSlot m ≠ 0 → t.hasKey (scrubSlot m) = false) ∧ t.cur.job = some (.scrub (if s.arcCmd = none then 0xFFFF else scrubSess m) (scrubMask m)) ∧
      (scrubSess m ≠ 0xFFFF → s.arcCmd = none → t.arcCmd.isSome = true ∨ t.getF pgDev Reg.DEV_ARC_STAT_FAIL = 1) ∧
      t.getF pgCur Reg.CUR_MBX_STAT_BUSY = 1) ∧
  (∀ (s : State) (m : MbxReq), mbxWf m = true → Serves s 0x020F → 71 ≤ m.payload.length →
    s.scrubBlocked (scrubMask m) = true → (scrubSess m ≠ 0xFFFF → s.hbmFilled = true) →
    ∃ t, exec (.sessionScrub m) s = .next t ∧ Answered t 0x020F m.tag 4 ∧ OnlyOut s t ∧ PagesKept s t pgCur [msixPba 16]) ∧
  (∀ (s : State) (n : Nat) (mask : BitVec 512), s.cur.job = some (.scrub n mask) →
    (s.arcCmd.isSome = true → exec .sessionScrubFinish s = .next s) ∧
    (s.arcCmd = none → n ≠ 0xFFFF →
      ∃ t, exec .sessionScrubFinish s = .next t ∧ t.cur.job = some (.scrub 0xFFFF mask) ∧
        (t.arcCmd.isSome = true ∨ t.getF pgDev Reg.DEV_ARC_STAT_FAIL = 1))) ∧
  (∀ (s : State) (mask : BitVec 512), s.cur.job = some (.scrub 0xFFFF mask) → s.arcCmd = none →
    ∃ t, exec .sessionScrubFinish s = .next t ∧ Answered t 0x020F s.cur.jobTag 0 ∧ t.cur.job = none ∧
      t.getF pgSec Reg.SEC_CNT_SCRUB = min (2 ^ 32 - 1) (s.getF pgSec Reg.SEC_CNT_SCRUB + 1) ∧
      (∀ c o, c < 512 → o < 0x100000 →
        t.byteAt (localAddr c 0x80000 + o) = if mask.getLsbD c then 0 else s.byteAt (localAddr c 0x80000 + o)) ∧
      (∀ c k, c < 512 → k < 131072 →
        sget (fun _ => 0) t.am (131072 * c + k) = if mask.getLsbD c then 0 else sget (fun _ => 0) s.am (131072 * c + k)) ∧
      (∀ p, p ∈ t.tiles ↔ p ∈ s.tiles ∧ mask.getLsbD (p.1 / 256) = false) ∧
      (∀ c, c < 512 → mask.getLsbD c = true → t.getF (pgVec c) vecFlagsF = 0 ∧ t.getF (pgVec c) sfuFlagsF = 0 ∧
        ∀ a, a < 4 → t.getF (pgArr c) (arrFlagsF a) = 0) ∧
      t.im = s.im ∧ t.cat = s.cat)

/-- EXH_LOAD (R600 to R602): an accepted image stands in the instruction memories of its clusters from slot 0, each of
those clusters is IDLE, and the command answers 0; no byte of HBM, weight store or activation buffer changes. A
refused image changes no memory, raises EXHIBIT_REJECT and answers its status. -/
def Obligations.ExhibitLoad : Prop :=
  ∀ (s : State) (m : MbxReq) (image : List Byte) (sig : SigCheck), mbxWf m = true → Serves s 0x0210 →
    let cmask := ofLeBytes ((image.drop 8).take 64)
    (s.exhWhy image sig = (0, 0, 0) →
      (∀ c, c < 512 → cmask.testBit c = true → s.doc c ∈ [docIdle, docStopped, docTrapped, docDone]) →
      ∃ t, exec (.exhLoad m image sig) s = .next t ∧ Answered t 0x0210 m.tag 0 ∧ t.mem = s.mem ∧ t.cat = s.cat ∧
        ∀ c n o, (c, n, o) ∈ exhEntries image cmask → t.doc c = docIdle ∧
          ∀ k, k < exhSlots (image.drop o) n → t.imSlot c k = BitVec.ofNat 256 (ofLeBytes ((image.drop (o + 32 * k)).take 32))) ∧
    (∀ st kind num, s.exhWhy image sig = (st, kind, num) → st ≠ 0 →
      ∃ t, exec (.exhLoad m image sig) s = .next t ∧ Answered t 0x0210 m.tag st ∧ t.mems = s.mems ∧
        Occurred s t pgDev 13 0x1D 2 (leBytes 2 st ++ leBytes 1 kind ++ leBytes 2 num))

/-- Physical presence (R590): a level of the pin counts after 20 ms, a debounced press of 2 s opens one window of 60 s,
and the window closes after it. A check that finds the seal loop open while the seal is intact breaks the seal: every
Accession entry and key slots 1 to 255 are erased, SEAL reads 2, the presence window closes, SEAL_BROKEN occurs and
the count rises; launches, memories and the slot 0 key stay (R592, R593). A check of a seal that is already broken, and a
closed one, change only the run of closed checks; with SEAL_EN = 0 none is made. A failed health test of the entropy source stops key generation and raises ENTROPY_FAIL; once the fault
clears, keys are generated again (R565). Until then OWNER_ENROL and PUF_REENROL answer 0x0105 and begin no write, and
UNSEAL answers 0x0105 and stays sealed. -/
def Obligations.PhysicalSecurity : Prop :=
  (∀ s : State,
     (∀ low, low ≠ s.cur.pinLow → ∃ t, exec (.presenceNChange low) s = .next t ∧ t.cur.pinLow = low ∧ t.cur.pinAt = s.now ∧
       t = { s with brd.cur := t.cur }) ∧
     (s.cur.pinLow ≠ s.cur.debLow → s.cur.pinAt + ms 20 ≤ s.now →
       ∃ t, exec .presenceDebounceExpiry s = .next t ∧ t.cur.debLow = s.cur.pinLow ∧ t.cur.debAt = s.now ∧
         t.getF pgSec Reg.SEC_STAT_PRESSED = s.cur.pinLow.toNat ∧ (s.cur.pinLow = false → t.cur.opened = false) ∧
         t = { s with regFile.regs := t.regs, brd.cur := t.cur } ∧ WordsKept s t [regIdx pgSec Reg.SEC_STAT_PRESSED]) ∧
     (s.cur.debLow = true → s.cur.opened = false → s.cur.debAt + ms 2000 ≤ s.now →
       ∃ t, exec .presenceWindowOpen s = .next t ∧ t.presence = true ∧ t.cur.windowEnd = s.now + ms 60000 ∧
         t.cur.opened = true ∧ Occurred s t pgSec 1 0x31 0 [] ∧ t.mems = s.mems ∧ t.sched = s.sched) ∧
     (s.presence = true → s.cur.windowEnd ≤ s.now →
       ∃ t, exec .presenceWindowExpiry s = .next t ∧ t.presence = false ∧
         t = { s with regFile.regs := t.regs, brd.cur := t.cur } ∧ WordsKept s t [regIdx pgSec Reg.SEC_STAT_PRESENCE])) ∧
  (∀ s : State, s.sealEn = true → s.cur.sealAt ≤ s.now →
     (s.getF pgSec Reg.SEC_STAT_SEAL = 1 →
       ∃ t, exec (.sealCheck false) s = .next t ∧ t.accSess = [] ∧ t.keys = s.keys.filter (fun p => p.1 = 0) ∧
         t.getF pgSec Reg.SEC_STAT_SEAL = 2 ∧ t.presence = false ∧ (t.getF pgSec Reg.PG_EVT).testBit 0 = true ∧
         t.getF pgSec Reg.SEC_CNT_TAMPER = min (2 ^ 32 - 1) (s.getF pgSec Reg.SEC_CNT_TAMPER + 1) ∧
         t.mems = s.mems ∧ t.sched = s.sched ∧ t.cur.closedRun = 0) ∧
     (s.getF pgSec Reg.SEC_STAT_SEAL ≠ 1 →
       ∃ t, exec (.sealCheck false) s = .next t ∧ t.cur.closedRun = 0 ∧ t = { s with brd.cur := t.cur }) ∧
     ∃ t, exec (.sealCheck true) s = .next t ∧ t.cur.closedRun = s.cur.closedRun + 1 ∧ t = { s with brd.cur := t.cur }) ∧
  (∀ (s : State) (closed : Bool), s.sealEn = false → exec (.sealCheck closed) s = .next s) ∧
  ((∀ (s : State) (test : Nat), ∃ t, exec (.healthTestFail test) s = .next t ∧ t.cur.entropyBad = true ∧
     Occurred s t pgSec 5 0x35 2 (leBytes 1 test) ∧ t.mems = s.mems ∧ t.sched = s.sched ∧ t.keys = s.keys) ∧
   (∀ s : State, ∃ t, exec .entropyFaultClear s = .next t ∧ t.cur.entropyBad = false ∧ t = { s with brd.cur := t.cur }) ∧
   (∀ (s : State) (m : MbxReq), mbxWf m = true → Serves s 0x0208 → s.presence = true → s.sealed = false →
     s.flashBusy = false → s.cur.entropyBad = true →
     ∃ t, exec (.pufReenrol m) s = .next t ∧ Answered t 0x0208 m.tag 0x0105 ∧ t.cur.flashOp = none ∧ t.flash = s.flash ∧ t.mems = s.mems) ∧
   (∀ (s : State) (m : MbxReq) (own : OwnerRecord), mbxWf m = true → Serves s 0x0207 → s.presence = true → s.sealed = false →
     s.flashBusy = false → s.cur.entropyBad = true →
     (∀ o, s.cur.owner = some o → s.ownerSigned own.sig = true ∧ o.svn < own.svn) →
     ∃ t, exec (.ownerEnrol m own) s = .next t ∧ Answered t 0x0207 m.tag 0x0105 ∧ t.cur.flashOp = none ∧ t.flash = s.flash ∧
       t.mems = s.mems) ∧
   (∀ (s : State) (m : MbxReq) (tok : Token), mbxWf m = true → Serves s 0x020A → s.presence = true →
     s.tokenOk "UNSEAL" tok = true → s.sealed = true → s.cur.entropyBad = true →
     ∃ t, exec (.unseal m tok) s = .next t ∧ Answered t 0x020A m.tag 0x0105 ∧ t.sealed = true ∧ t.keys = s.keys ∧
       t.accSess = s.accSess ∧ t.mems = s.mems))

/-! ### Bring-up, resets, power and time -/

/-- PERST#, a power loss and the start of a bring-up lose all volatile state: every register but the PWR_STAT word reads
its reset value, and memory, clusters, groups, queues, key slots and Accession sessions are empty. The flash keeps
every record but one staged slot that was being written, and of another write that was under way its last program or
none (log 26); elapsed time, the queue and what has left the package stay (R55, R608, R609, R629). BRING_UP_START needs
PERST# asserted and no thermal trip; it takes T0, and every region is then in service (log 27). A hot reset, Function Level Reset or
link-down event stops every DMA channel, clears the PCI page to its reset values (but for the link status, which the
host decides, and the sealed window, which the configuration record gives, R537), masks every MSI-X vector, returns BAR2 to its reset size and cancels the event ring; clusters,
memories, the Archive, input queues, Efurn and Ethernet are not affected (R527, R693). -/
def Obligations.ColdAndFunctionReset : Prop :=
  (∀ (s : State) (i : Instr) (perst powered : Bool),
     (i = .perstAssert ∧ perst = true ∧ powered = true) ∨ (i = .powerLoss ∧ perst = true ∧ powered = false) ∨
       (i = .bringUpStart ∧ s.perst = true ∧ s.tripped = false ∧ perst = false ∧ powered = true) →
     ∃ t, exec i s = .next t ∧ t.perst = perst ∧ t.powered = powered ∧ (i = .bringUpStart → t.t0 = s.now) ∧
       WordsKept { State.reset with part := s.part } t
         (regIdx pgPwr Reg.PWR_STAT_WARN :: if i = .bringUpStart then [regIdx pgDev Reg.DEV_RGN_AVAIL_MASK] else []) ∧
       (i = .bringUpStart → ∀ r, r < 32 → t.avail r = true) ∧
       t.staged = [] ∧ t.snap = [] ∧ t.mems = { leakAt := s.now } ∧ t.sched = {} ∧ t.inq = {} ∧ t.fabric = {} ∧ t.arch = {} ∧ t.evts = {} ∧
       t.keys = [] ∧ t.part = s.part ∧ t.pending = s.pending ∧ t.out = s.out ∧ t.now = s.now ∧ t.rot = 0 ∧
       (s.cur.flashOp = none → t.flash = s.flash) ∧
       (∀ b img, s.cur.flashOp = some (.fwStage b img) →
         (if b then t.flash.fwB else t.flash.fwA) = none ∧ (if b then t.flash.fwA else t.flash.fwB) = (if b then s.flash.fwA else s.flash.fwB)) ∧
       (∀ b cfg, s.cur.flashOp = some (.cfgStage b cfg) →
         (if b then t.flash.cfgB else t.flash.cfgA) = none ∧ (if b then t.flash.cfgA else t.flash.cfgB) = (if b then s.flash.cfgA else s.flash.cfgB)) ∧
       (∀ op : FlashOp, s.cur.flashOp = some op → op.isStage = false → t.flash = s.flash ∨ t.flash = (s.flashDone op).flash)) ∧
  (∀ s : State, (s.perst = false ∨ s.tripped = true) → exec .bringUpStart s = .next s) ∧
  (∀ s : State, ∃ t, exec .pcieFunctionReset s = .next t ∧ t.dma = [] ∧ t.ring = none ∧ t.ringCancelled = true ∧
     t.bar2Log2 = 30 ∧
     (∀ off, off < 4096 → off / 4 ∉ [Reg.PCI_STAT_WIDTH.off / 4, Reg.PCI_SEALWIN_FIRST.off / 4, Reg.PCI_SEALWIN_PAGES.off / 4] →
       t.word (pgPci * 1024 + off / 4) = resetWord s.part (pgPci * 1024 + off / 4)) ∧
     t.word (regIdx pgPci Reg.PCI_SEALWIN_FIRST) = s.word (regIdx pgPci Reg.PCI_SEALWIN_FIRST) ∧
     t.word (regIdx pgPci Reg.PCI_SEALWIN_PAGES) = s.word (regIdx pgPci Reg.PCI_SEALWIN_PAGES) ∧
     (∀ p ∈ t.staged ++ t.snap, p.1 / 1024 ≠ pgPci) ∧
     (∀ v, v < 2048 → (t.word (msixCtrl v)).getLsbD 0 = true) ∧
     (∀ j, j / 1024 ≠ pgPci → (∀ v, v < 2048 → j ≠ msixCtrl v) → t.word j = s.word j) ∧
     t.mems = s.mems ∧ t.sched = s.sched ∧ t.inq = s.inq ∧ t.fabric = s.fabric ∧ t.arch = s.arch ∧ t.brd = s.brd ∧
     t.time = s.time)

/-- FIRMWARE_START (R572, R574, R575): the preferred slot runs where it verifies and is no rollback, else the other slot
with BOOT_FALLBACK, else the ROM enters recovery, where it serves the mailbox. IDENTITY_READY (R566, R572, R573,
R592): with the PUF and the identity record in order, the owner in the flash takes force, slot 0 has a new key,
BOOT_NONCE is drawn, a seal loop found closed reads intact and an open one broken, and IDREADY is set; where the
identity does not open, the Curator enters recovery with IDREADY as it was. In the recovery that the ROM entered, an
identity that opens serves ATTEST and CERT_GET and draws BOOT_NONCE, and changes nothing else (R575). While the entropy
source fails, bring-up halts (R565). -/
def Obligations.FirmwareAndIdentity : Prop :=
  (∀ s : State, s.perst = false → s.phase = 0 →
     (∀ b x rest, s.fwSlots = (b, x) :: rest → s.fwWhy x = none →
       ∃ t, exec .firmwareStart s = .next t ∧ t.cur.fw = some x.body ∧ t.phase = 1 ∧
         t.getF pgCur Reg.CUR_MBX_STAT_READY = 1 ∧ t.getF pgSec Reg.SEC_STAT_BOOTSLOT = b.toNat ∧
         t.getF pgSec Reg.SEC_SVN_FW = x.body.svn % 2 ^ 16 ∧ t.mems = s.mems ∧ t.flash = s.flash) ∧
     (∀ b x b' y rest why, s.fwSlots = (b, x) :: (b', y) :: rest → s.fwWhy x = some why → s.fwWhy y = none →
       ∃ t, exec .firmwareStart s = .next t ∧ t.cur.fw = some y.body ∧ t.phase = 1 ∧
         t.getF pgSec Reg.SEC_STAT_FALLBACK = 1 ∧ t.getF pgSec Reg.SEC_STAT_BOOTSLOT = b'.toNat ∧
         (t.getF pgSec Reg.PG_EVT).testBit 2 = true ∧ t.mems = s.mems ∧ t.flash = s.flash) ∧
     ((∀ p ∈ s.fwSlots, (s.fwWhy p.2).isSome) →
       ∃ t, exec .firmwareStart s = .next t ∧ t.phase = 5 ∧ t.getF pgSec Reg.SEC_STAT_RECOVERY = 1 ∧
         t.getF pgCur Reg.CUR_MBX_STAT_READY = 1 ∧ t.mems = s.mems ∧ t.flash = s.flash)) ∧
  (∀ (s : State) (x : IdentityIn), s.phase = 1 →
     (x.pufOk = true → x.recordOk = true → s.cur.entropyBad = false →
       ∃ t, exec (.identityReady x) s = .next t ∧ t.phase = 2 ∧ t.getF pgSec Reg.SEC_STAT_IDREADY = 1 ∧
         t.cur.idOpen = true ∧ sget (fun _ => 0) t.keys 0 = s.cur.draws + 1 ∧ t.cur.nonce = leBytes 48 (Config.entropy (s.cur.draws + 1)) ∧
         t.cur.owner = (if s.ownSlotB then s.flash.ownB else s.flash.ownA).bind (fun y => if y.marker then some y.body else none) ∧
         (t.cur.owner = none → t.cur.cfg = none) ∧ (∀ y, t.cur.cfg = some y → t.cfgAccepts y = true) ∧
         t.getF pgSec Reg.SEC_STAT_SEAL = (if t.sealEn then (if x.sealClosed then 1 else 2) else s.getF pgSec Reg.SEC_STAT_SEAL) ∧
         t.mems = s.mems ∧ t.flash = s.flash) ∧
     (x.pufOk = true → x.recordOk = true → s.cur.entropyBad = true → exec (.identityReady x) s = .next s) ∧
     ((x.pufOk && x.recordOk) = false →
       ∃ t, exec (.identityReady x) s = .next t ∧ t.phase = 5 ∧ t.getF pgSec Reg.SEC_STAT_RECOVERY = 1 ∧
         t.getF pgSec Reg.SEC_STAT_IDREADY = s.getF pgSec Reg.SEC_STAT_IDREADY ∧ t.mems = s.mems ∧ t.flash = s.flash)) ∧
  (∀ (s : State) (x : IdentityIn), s.phase = 5 →
     (x.pufOk = true → x.recordOk = true → s.cur.idOpen = false →
       ∃ t, exec (.identityReady x) s = .next t ∧ t.cur.idOpen = true ∧ t.identityServes = true ∧
         t.cur.nonce = leBytes 48 (Config.entropy s.cur.draws) ∧ t = { s with brd.cur := t.cur }) ∧
     ((x.pufOk && x.recordOk) = false ∨ s.cur.idOpen = true → exec (.identityReady x) s = .next s))

/-- CONFIGURATION_APPLIED (R479, R576, R587): the record in force decides whether the package is sealed, and every enabled
port in service begins to train. SRAM_FILL_DONE leaves every SRAM word zero and sound, and HBM as it was (R435);
a stack that fails training is retired (R613); after a fill every byte of the stack reads zero under slot 0, other stacks keep theirs, and
MEM_STAT.FILLED is set (R435). -/
def Obligations.StagesOfBringUp : Prop :=
  ∀ s : State,
    (s.phase = 2 → s.cur.cfgApplied = false →
      ∃ t, exec .configurationApplied s = .next t ∧ t.cur.cfgApplied = true ∧
        t.getF pgSec Reg.SEC_STAT_SEALED = ((s.cur.cfg.map (·.isSealed)).getD false).toNat ∧
        t.getF pgPci Reg.PCI_SEALWIN_PAGES = (s.cur.cfg.map (·.winPages)).getD 0 % 2 ^ 24 ∧
        (∀ k, k < 8 → s.part.hasInst .lnk k = true → s.flag (pgLnk k) Reg.LNK_CFG_EN = true →
          widthLanes (s.getF (pgLnk k) Reg.LNK_CFG_WIDTH) ≠ 0 → t.getF (pgLnk k) Reg.LNK_STAT_STATE = 1) ∧
        t.mems = s.mems) ∧
    (s.perst = false → s.sramFilled = false →
      ∃ t, exec .sramFillDone s = .next t ∧ t.sramFilled = true ∧
        t = { s with plat.sramFilled := true, mems.mem := t.mem, mems.im := [], mems.cat := [], mems.am := [], mems.tiles := [],
                     mems.errs := t.errs } ∧
        (∀ a, t.byteAt a = if cluBase ≤ a then 0 else s.byteAt a) ∧
        (∀ p, p ∈ t.errs ↔ p ∈ s.errs ∧ 9 ≤ p.1 / 2 ^ 48 / 4096)) ∧
    (s.sramFilled = true → exec .sramFillDone s = .next s) ∧
    (∀ x ok, x < 12 → s.perst = false → s.phase ≠ 0 → s.phase ≠ 5 → s.stackGone x = false →
      s.getF (pgMem x) Reg.MEM_STAT_TRAINED = 0 →
      ∃ t, exec (.hbmTrained x ok) s = .next t ∧ OnlyRegs s t ∧ WordsKept s t [regIdx (pgMem x) Reg.MEM_STAT_TRAINED] ∧
        t.getF (pgMem x) Reg.MEM_STAT_TRAINED = ok.toNat ∧ t.getF (pgMem x) Reg.MEM_STAT_RETIRED = (!ok).toNat) ∧
    (∀ x, x < 12 → s.stackGone x = false → s.getF (pgMem x) Reg.MEM_STAT_TRAINED = 1 →
      s.getF (pgMem x) Reg.MEM_STAT_FILLED = 0 → s.getF pgSec Reg.SEC_STAT_IDREADY = 1 →
      ∃ t, exec (.hbmFillDone x) s = .next t ∧ t.getF (pgMem x) Reg.MEM_STAT_FILLED = 1 ∧
        (∀ a, a < stackSize → t.byteAt (x * stackSize + a) = 0) ∧
        BytesKept s t (x * stackSize) ((x + 1) * stackSize) ∧ WordsKept s t [regIdx (pgMem x) Reg.MEM_STAT_FILLED])

/-- A region is released only after its SRAM is filled; its bit in PWR_RGN_REL is set, its spare swap and its failed slots
are those of the repair record and the scan, and two failed slots take it out of service instead (R35, R38, R39,
R611). FOYER_READY occurs when the last available region is released. Full service begins at the first instant at
which every stack is filled or retired and every enabled port has settled, and at T0 + 3 s at the latest: the limits
of Foyer service end, PHASE reads FULL and FULL_SERVICE occurs (R613). -/
def Obligations.ReleaseAndFullService : Prop :=
  (∀ (s : State) (r failed : Nat), r < 32 → failed < 2 ^ 17 → (s.phase = 2 ∨ s.phase = 3) → s.sramFilled = true →
     s.avail r = true → (s.getF pgPwr Reg.PWR_RGN_REL_MASK).testBit r = false →
     let m := sget (fun _ => 0) s.flash.fails r ||| failed
     (m < 2 ^ 17 → regionOut m = false →
       ∃ t, exec (.regionRelease r failed) s = .next t ∧ (t.getF pgPwr Reg.PWR_RGN_REL_MASK).testBit r = true ∧
         t.getF (pgRgn r) Reg.RGN_SLOT_FAIL_SLOTS = m ∧ t.avail r = true ∧ t.mems = s.mems ∧
         (∀ x, s.flash.spares.find? (fun p => p.1 = r) = some (r, x) → x < 16 →
           t.getF (pgRgn r) Reg.RGN_SPARE_USED = 1 ∧ t.getF (pgRgn r) Reg.RGN_SPARE_LOCAL = x ∧ t.slotOf (16 * r + x) = 16) ∧
         (s.phase = 2 → s.cur.cfgApplied = true →
           (∀ q, q < 32 → q ≠ r → s.avail q = true → (s.getF pgPwr Reg.PWR_RGN_REL_MASK).testBit q = true) →
           t.phase = 3 ∧ (t.getF pgPwr Reg.PG_EVT).testBit 0 = true)) ∧
     (m < 2 ^ 17 → regionOut m = true →
       ∃ t, exec (.regionRelease r failed) s = .next t ∧ t.avail r = false ∧
         (t.getF pgPwr Reg.PWR_RGN_REL_MASK).testBit r = false ∧ t.getF (pgRgn r) Reg.RGN_SLOT_FAIL_SLOTS = m ∧
         ∀ q, q ≠ r → t.avail q = s.avail q)) ∧
  (∀ s : State, s.phase = 3 →
     (s.fullReady = true → ∃ t, exec .fullServiceBegin s = .next t ∧ t.phase = 4 ∧ t.full = true ∧
       (t.getF pgPwr Reg.PG_EVT).testBit 1 = true ∧ t.mems = s.mems ∧ t.pending = s.pending) ∧
     (s.fullReady = false → exec .fullServiceBegin s = .next s) ∧
     (s.t0 + ms 3000 ≤ s.now → ∃ t, exec .fullServiceTimeout s = .next t ∧ t.phase = 4 ∧ t.full = true ∧
       (t.getF pgPwr Reg.PG_EVT).testBit 1 = true ∧ t.mems = s.mems ∧ t.pending = s.pending))

/-- When PWR_WARN_N falls, flash operations are held, every loaded group with a member cluster here enters the stop state
with its running clusters stopped, and POWER_WARN occurs; no memory changes (R626). When it rises the warning ends,
and flash operations resume 10 ms later (R628). The Curator restarts after an uncorrectable error in its own memory
(R429, R544): the error is reported, the request it served and its mailbox contents are lost, and READY returns;
memories, clusters, keys and the flash stay (log 28). Without such an error nothing restarts. -/
def Obligations.WarningAndCuratorRestart : Prop :=
  (∀ s : State,
     (s.warnLow = false →
       ∃ t, exec .pwrWarnFall s = .next t ∧ t.warnLow = true ∧ t.cur.flashHeld = true ∧ t.getF pgPwr Reg.PWR_STAT_WARN = 1 ∧
         t.getF pgPwr Reg.PWR_CNT_WARN = min (2 ^ 32 - 1) (s.getF pgPwr Reg.PWR_CNT_WARN + 1) ∧
         (∀ g ∈ s.localGroups, (t.run g).stopped = true) ∧
         (∀ c, c < 512 → s.running c = true → s.grpOf c ∈ s.localGroups → t.doc c = docStopped) ∧
         (t.getF pgPwr Reg.PG_EVT).testBit 2 = true ∧ t.mems = s.mems ∧ t.flash = s.flash) ∧
     (s.warnLow = true →
       ∃ t, exec .pwrWarnRise s = .next t ∧ t.warnLow = false ∧ t.getF pgPwr Reg.PWR_STAT_WARN = 0 ∧
         t.cur.flashResumeAt = s.now + ms 10 ∧ t.cur.flashHeld = s.cur.flashHeld ∧
         WordsKept s t [regIdx pgPwr Reg.PWR_STAT_WARN] ∧ t.sched = s.sched ∧ t.mems = s.mems) ∧
     (s.warnLow = false → s.cur.flashHeld = true → s.cur.flashResumeAt ≤ s.now →
       ∃ t, exec .flashResume s = .next t ∧ t.cur.flashHeld = false ∧ t = { s with brd.cur := t.cur })) ∧
  (∀ s : State, (∃ p ∈ s.errs, p.2 = 2 ∧ p.1 / 2 ^ 48 / 4096 = 7) →
     ∃ t, exec .curatorRestartDone s = .next t ∧ t.getF pgCur Reg.CUR_MBX_STAT_READY = 1 ∧
       t.getF pgCur Reg.CUR_MBX_STAT_BUSY = 0 ∧ t.cur.job = none ∧ (t.getF pgEcc Reg.PG_EVT).testBit 0 = true ∧
       (∀ p ∈ t.errs, p.1 / 2 ^ 48 / 4096 ≠ 7) ∧ (∀ p ∈ s.errs, p.1 / 2 ^ 48 / 4096 ≠ 7 → p ∈ t.errs) ∧
       t.mem = s.mem ∧ t.sched = s.sched ∧ t.keys = s.keys ∧ t.flash = s.flash) ∧
  (∀ s : State, (∀ p ∈ s.errs, ¬ (p.2 = 2 ∧ p.1 / 2 ^ 48 / 4096 = 7)) → exec .curatorRestartDone s = .next s)

/-- An emergency throttle halves the clock of a die at once: the code at onset is kept, the die runs at half its
frequency, THROTTLE occurs and the die's bit in PWR_THR.ACTIVE is set, where PMB_ALERT_N is asserted, where the 100 µs
power exceeds the limit, and where a sensor of the die or of a stack above it reaches its limit (R618, R620, R622). A throttle already in
force is not halved again. PWR_MEAS and the temperature registers show what was measured. A throttle without a cause
for 10 ms is released where no cluster of the die is in a flight, and not before: the die runs at the code in force again and
THROTTLE_END occurs (R621). At a trip limit the package stops: THERMTRIP_N is asserted and all volatile state is lost
(R622, R623). -/
def Obligations.Throttles : Prop :=
  (∀ s : State, s.perst = false → s.tripped = false →
     let struck (t : State) (d : Nat) : Prop := (t.throttle d).active = true ∧
       (s.throttle d).active = false ∧ (s.throttle d).causes = 0 → (t.throttle d).onset = s.clkCode d ∧
         t.freq d = freqOf (s.clkCode d) / 2 ∧ (t.getF (pgDie d) Reg.PG_EVT).testBit 0 = true ∧
         (t.getF pgPwr Reg.PWR_THR_ACTIVE).testBit d = true
     (∃ t, exec (.pmbAlert true) s = .next t ∧ t.mems = s.mems ∧ ∀ d, d < 4 → struck t d ∧
       ((s.throttle d).causes.testBit 2 = false → (t.throttle d).active = true)) ∧
     (∃ t, exec (.pmbAlert false) s = .next t ∧ t.mems = s.mems ∧ ∀ d, d < 4 → (t.throttle d).causes.testBit 2 = false ∧
       (t.throttle d).active = (s.throttle d).active ∧
       ((s.throttle d).causes.testBit 2 = true → (t.throttle d).clearAt = s.now)) ∧
     (∀ avg1ms avg100us, avg100us ≤ s.getF pgPwr Reg.PWR_CAP_LIMIT →
       ∃ t, exec (.powerMeasure avg1ms avg100us) s = .next t ∧ t.getF pgPwr Reg.PWR_MEAS_W = min 4095 avg1ms ∧
         t.mems = s.mems ∧ ∀ d, d < 4 → (t.throttle d).causes.testBit 1 = false ∧
           (t.throttle d).active = (s.throttle d).active) ∧
     (∀ avg1ms avg100us, s.getF pgPwr Reg.PWR_CAP_LIMIT < avg100us →
       ∃ t, exec (.powerMeasure avg1ms avg100us) s = .next t ∧ t.getF pgPwr Reg.PWR_MEAS_W = min 4095 avg1ms ∧
         t.mems = s.mems ∧ ∀ d, d < 4 → struck t d ∧ ((s.throttle d).causes.testBit 1 = false → (t.throttle d).active = true)) ∧
     (∀ x : Temps, (∀ d, d < 4 → x.g.getD d 0 < 115 ∧ (d < s.part.xdies → x.x.getD d 0 < 115)) →
       (∀ k, k < 12 → s.part.hasStack k = true → x.m.getD k 0 < 105) →
       ∃ t, exec (.temperatureSample x) s = .next t ∧
         t.getF pgPwr Reg.PWR_TEMP_G_T = packTemps ((List.range 4).map (fun d => x.g.getD d 0)) ∧ t.mems = s.mems ∧
         ∀ d, d < 4 →
           ((105 ≤ x.g.getD d 0 ∨ ∃ j, j < 3 ∧ s.part.hasStack (3 * d + j) = true ∧ 95 ≤ x.m.getD (3 * d + j) 0) →
             struck t d ∧ ((s.throttle d).causes.testBit 0 = false → (t.throttle d).active = true)) ∧
           (x.g.getD d 0 < 98 → (∀ j, j < 3 → s.part.hasStack (3 * d + j) = true → x.m.getD (3 * d + j) 0 < 90) →
             (t.throttle d).causes.testBit 0 = false ∧ (t.throttle d).active = (s.throttle d).active))) ∧
  ((∀ (s : State) (d : Nat), d < 4 → s.releasable d = true → s.dieFlying d = false →
     ∃ t, exec (.throttleRelease d) s = .next t ∧ (t.throttle d).active = false ∧ t.freq d = freqOf (s.clkCode d) ∧
       (t.getF pgPwr Reg.PWR_THR_ACTIVE).testBit d = false ∧ (t.getF (pgDie d) Reg.PG_EVT).testBit 1 = true ∧
       (∀ e, e ≠ d → t.throttle e = s.throttle e) ∧ t.mems = s.mems) ∧
   (∀ (s : State) (d : Nat), s.releasable d = false ∨ s.dieFlying d = true → exec (.throttleRelease d) s = .next s) ∧
   (∀ (s : State) (x : Temps) (d : Nat), s.perst = false → s.tripped = false → d < 4 →
     (115 ≤ x.g.getD d 0 ∨ d < s.part.xdies ∧ 115 ≤ x.x.getD d 0 ∨
       ∃ j, j < 3 ∧ s.part.hasStack (3 * d + j) = true ∧ 105 ≤ x.m.getD (3 * d + j) 0) →
     ∃ t, exec (.temperatureSample x) s = .next t ∧ t.tripped = true ∧ t.out = s.out ++ [.thermtrip] ∧ t.mem = [] ∧
       t.clusters = [] ∧ t.keys = [] ∧ (s.cur.flashOp = none → t.flash = s.flash)))

/-- Rotunda time: after 64 cycles(REF) the followers take the master count (R305); TIM_SET_CTL.GO sets the count at once
and clears LOCK (R310). Neither changes anything but time and the registers of the TIM page. A time exchange with the
parent, while its port is UP (R306, R308, R309): the offset of the four stamps is θ = ((t2 − t1) − (t4 − t3)) / 2, shown in
1/16 unit; up to 1,024 units it only trims the clock, within the limit of R304; beyond, with no cluster in a flight, the
count steps by θ at once (half a unit is free, log 30; a step back stands still instead, R303, log 70), else the step
waits for the landing windows. The 64th exchange in a row within 16 units sets LOCK, and an exchange outside ends the
row; the fourth in a row beyond 32 units clears it, counts and raises the loss. A root, and a port that is not UP, take
no exchange; one with a discarded flit has only sent its TIME flit. -/
def Obligations.RotundaTime : Prop :=
  ((∀ s : State, 64 ≤ s.refPhase → ∃ t, exec .rotundaStamp s = .next t ∧ t.stamp = s.rot ∧ t.refPhase = 0 ∧
     t.rot = s.rot ∧ t.now = s.now ∧ t = { s with time := t.time }) ∧
   (∀ (s : State) (val : Nat), (s.writeReg pgTim 0x128 val true).reaches pgTim = true →
     (val.testBit 0 = true → ∃ t, exec (.timSet val) s = .next t ∧
       t.rot = s.getF pgTim Reg.TIM_SET_LO_T + s.getF pgTim Reg.TIM_SET_HI_T * 2 ^ 32 ∧ t.stamp = t.rot ∧ t.now = s.now ∧
       t.stepDue = 0 ∧ t.debt = 0 ∧ t.getF pgTim Reg.TIM_STAT_LOCK = 0 ∧ PagesKept s t pgTim [] ∧
       t = { s with regFile := t.regFile, time := t.time }) ∧
     (val.testBit 0 = false → ∃ t, exec (.timSet val) s = .next t ∧ t.time = s.time ∧ PagesKept s t pgTim []))) ∧
  (∀ (s : State) (x : Stamps),
     let k := s.getF pgTim Reg.TIM_CFG_PARENT
     let n : Int := ((x.t2 : Int) - x.t1) - ((x.t4 : Int) - x.t3)
     ((s.flag pgTim Reg.TIM_CFG_ROLE = true ∨ s.portUp k = false) → exec (.timeExchange x) s = .next s) ∧
     (s.flag pgTim Reg.TIM_CFG_ROLE = false → s.portUp k = true →
       ∃ t, exec (.timeExchange x) s = .next t ∧ (∃ o rest, t.out = s.out ++ o :: rest ∧ HopSent s k 8 [x.t1] o) ∧ t.now = s.now ∧ t.mems = s.mems ∧ t.sched = s.sched ∧
         (x.bad = true → t.time = s.time ∧ t.getF pgTim Reg.TIM_OFFSET_THETA = s.getF pgTim Reg.TIM_OFFSET_THETA) ∧
         (x.bad = false → t.getF pgTim Reg.TIM_OFFSET_THETA = unsigned 32 (8 * n) ∧
           t.getF pgTim Reg.TIM_CNT_XFER = min (2 ^ 32 - 1) (s.getF pgTim Reg.TIM_CNT_XFER + 1) ∧
           (n.natAbs ≤ 32 → t.lockRun = s.lockRun + 1 ∧ (63 ≤ s.lockRun → t.getF pgTim Reg.TIM_STAT_LOCK = 1)) ∧
           (32 < n.natAbs → t.lockRun = 0) ∧
           (64 < n.natAbs → t.unlockRun = s.unlockRun + 1 ∧
             (3 ≤ s.unlockRun → s.getF pgTim Reg.TIM_STAT_LOCK = 1 → t.getF pgTim Reg.TIM_STAT_LOCK = 0 ∧
               t.getF pgTim Reg.TIM_CNT_UNLOCK = min (2 ^ 32 - 1) (s.getF pgTim Reg.TIM_CNT_UNLOCK + 1) ∧
               Occurred s t pgTim 0 0x20 1 (leBytes 4 (unsigned 32 (8 * n)) ++ leBytes 1 k))) ∧
           (n.natAbs ≤ 2048 → t.rot = s.rot ∧ t.stepDue = 0 ∧
             (signed 32 (t.getF pgTim Reg.TIM_TRIM_TRIM)).natAbs ≤ trimMax) ∧
           (2048 < n.natAbs → ∃ θ : Int, (2 * θ - n).natAbs ≤ 1 ∧
             (s.anyFlight = true → t.rot = s.rot ∧ t.stepDue = θ) ∧
             (s.anyFlight = false → t.rot = (s.rot + (θ - s.debt).toNat) % 2 ^ 64 ∧ t.debt = ((s.debt : Int) - θ).toNat ∧
               t.stepDue = 0 ∧
               t.getF pgTim Reg.TIM_CNT_STEP = min (2 ^ 32 - 1) (s.getF pgTim Reg.TIM_CNT_STEP + 1))))))

/-! ### Descriptors and launches -/

/-- A descriptor that its operation's rules or those of every class refuse (R60, R320): nothing launches, the queue and
every memory stay, DESC_INVALID occurs with the slot, class and operation, and the cluster stops. A descriptor in
order waits while its unit is busy or an entry of the dependency table is in its way: only the waiting count rises, by
the whole cycles(G) in which it has been due (R315, R357, R667). A launch command whose descriptor is not at the head of the queue, or whose instant has not come,
changes nothing (log 1). -/
def Obligations.LaunchRefusedOrWaiting : Prop :=
  (∀ (i : Instr) (a : Ask) (s : State) (d : Desc), askOf i = some a → a.c < 512 → s.AtHead a d →
     ((a.plan s d).bad = true ∨ s.commonBad a.c d = true) →
     ∃ t, exec i s = .next t ∧ t.doc a.c = docStopped ∧ t.sched = s.sched ∧ t.mems = s.mems ∧
       Occurred s t (pgDoc a.c) 0 0x01 3 (leBytes 2 d.slot ++ leBytes 1 d.cls ++ leBytes 1 d.opc)) ∧
  (∀ (i : Instr) (a : Ask) (s : State), askOf i = some a → a.c < 512 →
     (∀ d, s.AtHead a d → (a.plan s d).bad = false → s.commonBad a.c d = false →
       ((a.plan s d).free = false ∨ s.depFree a.c (a.plan s d) = false) →
       ∃ t w, exec i s = .next t ∧ t = { s with regFile.regs := t.regs, sched.clusters := t.clusters } ∧
         t.clu a.c = { s.clu a.c with waitAt := w } ∧ (∀ c, c ≠ a.c → t.clu c = s.clu c) ∧
         Counted s t (pgDoc a.c) Reg.DOC_CNT_WAIT ((s.now - s.dueFrom a.c d) * s.freq (dieOf a.c) / 512) ∧
         WordsKept s t [regIdx (pgDoc a.c) Reg.DOC_CNT_WAIT]) ∧
     ((∀ d, ¬ s.AtHead a d) → exec i s = .next s))

/-- Classes 1, 2 and 4: the launch enters the table with the effects that its operation computes of the operands as they
stand now, and completes after the cycles of its class, of class 2 with those that array epilogues took of the SFU; no memory, no Catalogue entry and no accumulator changes until
then (R213, R233, R234, R245, R314, R315). -/
def Obligations.VectorLaunchIssues : Prop :=
  ∀ (i : Instr) (a : Ask) (s : State) (d : Desc), askOf i = some a → a.cls = 1 ∨ a.cls = 2 ∨ a.cls = 4 → a.c < 512 →
    s.AtHead a d → s.CanIssue a d →
    ∃ t l, exec i s = .next t ∧ Launched s t a d l ∧ l.effs = (vectorWork (s.issue a.c d) a d).1 ∧
      l.due = l.start + s.cyc a.c (vectorWork (s.issue a.c d) a d).2 ∧ s.issueAt a.c ≤ (t.clu a.c).veFree ∧
      t.mem = s.mem ∧ t.cat = s.cat ∧ t.am = s.am ∧ t.im = s.im ∧ t.tiles = s.tiles

/-- Class 3: a move enters the table with the bytes or entries that it will write; nothing is written until it completes.
A PAGEOUT writes the Archive at once (log 31), unless it meets an Archive fault: then ARC_FAULT, with its report of no value, is all that it does
(R281, R412, R585). Class 0: a matrix launch enters the table in its steps, which start once its arrays have risen to level 8
(R199, R314; log 83), with the epilogues of its arrays still to come; bytes of memory and Catalogue entries stay, as
do the accumulator entries and tile records of every array that it does not name. -/
def Obligations.MoveAndMatrixLaunchIssue : Prop :=
  (∀ (i : Instr) (a : Ask) (s : State) (d : Desc), askOf i = some a → a.cls = 3 → a.c < 512 → s.AtHead a d → s.CanIssue a d →
     ∃ t l, exec i s = .next t ∧ Launched s t a d l ∧ l.due = l.start + s.cyc a.c 1 ∧ t.cat = s.cat ∧ t.am = s.am ∧
       t.im = s.im ∧ t.tiles = s.tiles ∧
       (a.opc ≠ 5 → t.mem = s.mem ∧ l.effs = moveWork (s.issue a.c d) a d) ∧
       (∀ w, a.opc = 5 → arcAddr d.move.dst = some w → s.arcFault w d.move.rows d.move.cols = true →
         t.mem = s.mem ∧ l.effs = arcFaultEffs a.c w ++ d.report 1 none ++ d.report 2 none ++ s.variedEff d) ∧
       (∀ w f, a.opc = 5 → arcAddr d.move.dst = some w → d.move.sf = some f → s.arcFault w d.move.rows d.move.cols = false →
         let work := (s.issue a.c d).pageoutWork a.c d d.move w f
         t.mem = work.1.s.mem ∧ t.alloc = work.1.s.alloc ∧ l.effs = work.2 ++ s.variedEff d)) ∧
  (∀ (c : Nat) (s : State) (d : Desc), c < 512 →
     let a : Ask := { c := c, cls := 0, opc := 1, plan := matPlan c }
     s.AtHead a d → s.CanIssue a d →
     ∃ t l x, exec (.matmul c) s = .next t ∧ Launched s t a d l ∧ d.mat = some x ∧
       l.start = s.issueAt c + s.cyc c ((s.issue c d).rampCycles c d x) ∧ l.phase = 0 ∧ l.amask = x.amask ∧
       l.desc = d ∧ l.start ≤ l.due ∧ l.epis.map (·.arr) = (if x.fin then arraysOf x.amask else []) ∧
       (∀ e ∈ l.epis, e.begun = false ∧ l.start ≤ e.at_) ∧
       (∀ m ∈ (s.clu c).launches, m.cls ≠ 2 → m ∈ (t.clu c).launches) ∧
       ((x.fin = false ∨ x.eact = 0) → (t.clu c).launches = (s.clu c).launches ++ [l]) ∧ t.mem = s.mem ∧ t.cat = s.cat ∧ t.im = s.im ∧
       (∀ b, b < 4 → x.amask.testBit b = true → t.getF (pgArr c) (arrLevel b) = 8) ∧
       (∀ b k, b < 4 → x.amask.testBit b = false → k < 32768 →
         sget (fun _ => 0) t.am ((4 * c + b) * 32768 + k) = sget (fun _ => 0) s.am ((4 * c + b) * 32768 + k)) ∧
       (∀ b, b < 4 → x.amask.testBit b = true → ∃ r, (tileKey c b x.rid, r) ∈ t.tiles ∧ r.m = x.m ∧ r.n = x.n ∧
         r.trow = x.trow ∧ r.rows = x.tileRows ∧ r.shape = x.units ∧ r.f32 = x.f32))

/-- Class 5: a collective launch enters its cluster's table with the next sequence number of its group; its own memory
takes nothing before it completes. Where a member that it needs has left the landing group, the group stops with
COLL_MISMATCH instead (R496, R499, R503). What runs of a collective after its launch (R499, R505, R508, R512, R516,
R517). A launch that has received all that it needs, and of which no chunk waits for the retention buffer, stores the
pieces in order, keeps every other byte, ORs the flags and leaves the table. A Cloakroom serves its groups in rotation by
ascending index (R515) and adds the first item of the group that can be added to its running sum, and the endpoint cluster of
the root the first of all; a sum that is not yet complete waits with the item taken in (log
42), with the elements that lie in an uncorrectable word as NaR (R513), and a result that is complete at its root
reaches the launches of the member clusters. The passes of the endpoint cluster delay its other vector launches. -/
def Obligations.CollectivesRun : Prop :=
  (∀ (i : Instr) (a : Ask) (s : State) (d : Desc), askOf i = some a → a.cls = 5 → a.c < 512 → s.AtHead a d → s.CanIssue a d →
     ∃ t, exec i s = .next t ∧ t.mem = s.mem ∧ t.cat = s.cat ∧ t.am = s.am ∧ t.im = s.im ∧ t.tiles = s.tiles ∧
       (t.clu a.c).queue = (s.clu a.c).queue.tail ∧ (t.clu a.c).launches = (s.clu a.c).launches ∧
       sget (fun _ => 0) (t.clu a.c).collSeq d.grp = sget (fun _ => 0) (s.clu a.c).collSeq d.grp + 1 ∧
       ((∃ x ∈ (t.clu a.c).colls, x.grp = d.grp ∧ x.opc = a.opc ∧ x.slot = d.slot ∧
           x.cseq = (s.cseqNext a.c d.grp (s.grpOf a.c)).1 ∧ x.deps = (a.plan s d).holds) ∨
         (t.getF pgDev Reg.PG_EVT).testBit 3 = true)) ∧
  ((∀ (s : State) (c : Nat) (x : Coll), c < 512 →
     (s.clu c).colls.find? (fun x => decide (x.need ≤ x.received) && !s.collWaits c x) = some x →
     let runs := (s.collApply x).1 ++ x.last.map (fun p => (x.src + p.1, p.2))
     ∃ t, exec (.collectiveComplete c) s = .next t ∧ (t.clu c).colls = (s.clu c).colls.erase x ∧ RunsKept s t runs ∧
       (s.errs = [] → t.mem = written s.mem runs) ∧ (x.inv = true → (t.getF (pgVec c) vecFlagsF).testBit 3 = true) ∧
       (t.clu c).launches = (s.clu c).launches ∧ t.cat = s.cat ∧ t.am = s.am ∧ ∀ c', c' ≠ c → t.clu c' = s.clu c') ∧
   (∀ (s : State) (d : Nat) (x : CombIn) (y : Comb) (g : Group), s.cloPick d = some (x, y, g) →
     x ∈ sget (fun _ => []) s.combIn d ∧ s.combReady d x = some (x, y, g) ∧
     ∀ x' ∈ sget (fun _ => []) s.combIn d, (s.combReady d x').isSome = true →
       let turn := sget (fun _ => 0) s.cloTurn d
       (x'.grp < turn → turn ≤ x.grp ∨ x.grp ≤ x'.grp) ∧ (turn ≤ x'.grp → turn ≤ x.grp ∧ x.grp ≤ x'.grp)) ∧
   (∀ (s : State) (d : Nat) (x : CombIn) (y : Comb) (g : Group), d < 4 → s.cloPick d = some (x, y, g) →
     let rest := (sget (fun _ => []) s.combIn d).erase x
     let z0 := (y.add x).1.endSegment (s.segLen g) g.ranks
     let bad := (s.cloakWords d z0).map (·.1)
     let z := if bad = [] then z0 else { z0 with acc := z0.acc.map (cloakBytes z0.opc z0.width z0.fmt bad) }
     ∃ t, exec (.cloakroomCombine d) s = .next t ∧ t.mems = s.mems ∧ sget (fun _ => 0) t.cloTurn d = x.grp + 1 ∧ Counted s t (pgClo d) Reg.CLO_CNT_ADD (ceilDiv (8 * x.bytes.length) 2048) ∧
       (0 < (y.add x).2 → (t.getF (pgClo d) Reg.PG_EVT).testBit 3 = true ∧ t.getF (pgClo d) Reg.CLO_QCAP_VALID = 1) ∧
       (z.done g ((s.midx g).getD 0) = false → sget (fun _ => []) t.combIn d = rest ∧
         sget (fun _ => []) t.combs d = (sget (fun _ => []) s.combs d).erase y ++ [z] ∧ t.clusters = s.clusters ∧
         t.out = s.out) ∧
       (z.done g ((s.midx g).getD 0) = true → y.chain = false → s.midx g = some y.root →
         sget (fun _ => []) t.combIn d = rest ∧ sget (fun _ => []) t.combs d = (sget (fun _ => []) s.combs d).erase y ∧
         ∀ c l, c ∈ g.clustersOf y.root → s.collOf c y.grp y.cseq = some l → ∃ l', t.collOf c y.grp y.cseq = some l' ∧
           l'.got = l.got ++ [(y.root, y.off, (if y.ordered then z.total else z.acc).getD [], z.flags)])) ∧
   (∀ (s : State) (c : Nat) (x : CombIn) (y : Comb) (g : Group) (l : Coll) (rest : List CombIn), c < 512 →
     s.endIn = x :: rest → s.group x.grp = some g → s.collOf c x.grp x.cseq = some l →
     combFor s.endComb ((s.midx g).elim 0 g.rbase) (s.segLen g) x = some y → y.chain = false → y.ready x = true → y.cluster = c →
     s.midx g = some y.root →
     let z := (y.add x).1.endSegment (s.segLen g) g.ranks
     ∃ t, exec (.endpointPass c) s = .next t ∧ t.mems = s.mems ∧
       Counted s t (pgVec c) Reg.VEC_CNT_ENDPT (ceilDiv (8 * x.bytes.length) 8192) ∧
       (z.done g ((s.midx g).getD 0) = false → t.endIn = rest ∧ t.endComb = s.endComb.erase y ++ [z] ∧ t.out = s.out ∧
         t.combIn = s.combIn ∧ ∀ c', c' ≠ c → t.clu c' = s.clu c') ∧
       (t.clu c).launches = (s.clu c).launches.map (fun m =>
         if m.cls = 1 ∨ m.cls = 2 ∨ m.cls = 4 then { m with due := m.due + s.cyc c (ceilDiv (8 * x.bytes.length) 8192) } else m) ∧
       (z.done g ((s.midx g).getD 0) = true → t.endIn = rest ∧ t.endComb = s.endComb.erase y ∧
         ∀ c' l, c' ∈ g.clustersOf y.root → s.collOf c' y.grp y.cseq = some l →
           ∃ l', t.collOf c' y.grp y.cseq = some l' ∧
             l'.got = l.got ++ [(y.root, y.off, (if y.ordered then z.total else z.acc).getD [], z.flags)])))

/-- Classes 7 and 8 queue at the engine of their region and hold their operands in the table (R299, R333). The engine
takes the first in order of issue once no cluster whose weight store it uses is in class-0 steps and, of class 7, once
no earlier launch of the region has still to write an operand (R212, R299), with effects of the operands as they stand
then; until then it waits; at its completion the effects take place and the entry is released. -/
def Obligations.EngineLaunchesAndService : Prop :=
  (∀ (i : Instr) (a : Ask) (s : State) (d : Desc), askOf i = some a → a.cls = 7 ∨ a.cls = 8 → a.c < 512 → s.AtHead a d →
    s.CanIssue a d →
    ∃ t l x, exec i s = .next t ∧ Launched s t a d l ∧ l.effs = [] ∧ x.cluster = a.c ∧ x.desc = d ∧ x.issued = l.start ∧
      x.seq = l.seq ∧ t.mems = s.mems ∧
      (a.cls = 7 → (t.rgn (regionOf a.c)).restorer = (s.rgn (regionOf a.c)).restorer ++ [x] ∧
        (t.rgn (regionOf a.c)).conservator = (s.rgn (regionOf a.c)).conservator) ∧
      (a.cls = 8 → (t.rgn (regionOf a.c)).conservator = (s.rgn (regionOf a.c)).conservator ++ [x] ∧
        (t.rgn (regionOf a.c)).restorer = (s.rgn (regionOf a.c)).restorer)) ∧
  (∀ (s : State) (r : Nat) (x : Service) (u : UpdDesc), firstService (s.rgn r).restorer = some x → (s.rgn r).restorerRun = none →
    x.desc.upd = some u → s.mayServe x = true →
    ∃ t y, exec (.restorerServiceStart r) s = .next t ∧ (t.rgn r).restorerRun = some y ∧ y.effs = (s.updEffs r u x).1 ∧
      y.due = s.now + s.cyc (16 * r) (s.updEffs r u x).2 ∧ (t.rgn r).restorer = (s.rgn r).restorer.erase x ∧
      t.mem = s.mem ∧ t.clusters = s.clusters) ∧
  (∀ (s : State) (r : Nat) (x : Service), s.mayServe x = false →
    (firstService (s.rgn r).restorer = some x → exec (.restorerServiceStart r) s = .next s) ∧
    (firstService (s.rgn r).conservator = some x → exec (.conservatorServiceStart r) s = .next s)) ∧
  (∀ (s : State) (r : Nat) (x : Service), firstService (s.rgn r).conservator = some x → (s.rgn r).conservatorRun = none →
    s.mayServe x = true →
    ∃ t y, exec (.conservatorServiceStart r) s = .next t ∧ (t.rgn r).conservatorRun = some y ∧
      y.effs = s.conEffs x.desc.con x ∧
      y.due = s.now + s.cyc (16 * r) ((x.desc.con.cycles x.desc.opc).1 + (x.desc.con.cycles x.desc.opc).2) ∧ (t.rgn r).conservator = (s.rgn r).conservator.erase x ∧
      t.mem = s.mem ∧ t.clusters = s.clusters) ∧
  (∀ (s : State) (r : Nat) (x : Service), (s.rgn r).restorerRun = some x → x.due ≤ s.now →
    ∃ t, exec (.updateComplete r) s = .next t ∧ (t.rgn r).restorerRun = none ∧ RunsKept s t (memRuns x.effs) ∧
      (s.errs = [] → t.mem = written s.mem (memRuns x.effs)) ∧
      (∀ l ∈ (t.clu x.cluster).launches, ¬ (l.cls = x.desc.cls ∧ l.seq = x.seq)) ∧
      ∀ c, c ≠ x.cluster → t.clu c = s.clu c) ∧
  (∀ (s : State) (r : Nat) (x : Service), (s.rgn r).conservatorRun = some x → x.due ≤ s.now →
    ∃ t, exec (.conservatorComplete r) s = .next t ∧ (t.rgn r).conservatorRun = none ∧ RunsKept s t (memRuns x.effs) ∧
      (s.errs = [] → t.mem = written s.mem (memRuns x.effs)) ∧
      (∀ l ∈ (t.clu x.cluster).launches, ¬ (l.cls = x.desc.cls ∧ l.seq = x.seq)) ∧
      ∀ c, c ≠ x.cluster → t.clu c = s.clu c)

/-- The completion of a launch: every byte outside the runs that it writes stays, its entry is released, and other
clusters stay as they are; a class-1 launch that stores one run, sets its flags and counts its passes does just that
(R104, R189, R213, R234, R700). A matrix launch ends in steps: EPILOGUE_START writes the outputs of one array, whose steps
have ended, and leaves the rest of its effects; a tile that holds an uncorrectable word has become NaR and so are its
outputs (R186); the completion brings those effects about, releases the entry, and traps the cluster where a QOVF or
LONGSUM of it is enabled to trap (R131, R157, R183, R187, R189). The level of an idle array falls by one step, but
not below what the next scheduled launch needs (R197, R200). -/
def Obligations.LaunchesComplete : Prop :=
  ((∀ (i : Instr) (c cls : Nat) (s : State) (l : Launch), c < 512 →
     (i, cls) ∈ [(Instr.vectorLaunchComplete c, 1), (Instr.sfuLaunchComplete c, 2), (Instr.moveComplete c, 3),
                 (Instr.rowLaunchComplete c, 4)] →
     s.doneLaunch c cls = some l →
     ∃ t, exec i s = .next t ∧ RunsKept s t (memRuns l.effs) ∧ l ∉ (t.clu c).launches ∧
       (∀ m ∈ (s.clu c).launches, m ≠ l → m ∈ (t.clu c).launches) ∧ (t.clu c).queue = (s.clu c).queue ∧
       (∀ c', c' ≠ c → t.clu c' = s.clu c') ∧ (t.am = s.am ∨ ∃ k v, Eff.am k v ∈ l.effs)) ∧
   (∀ (c : Nat) (s : State) (l : Launch) (addr w n : Nat) (bs : List Byte), c < 512 → s.doneLaunch c 1 = some l →
     l.effs = [.mem addr bs, .vecFlags w, .count (pgVec c) Reg.VEC_CNT_PASS n] → s.errs = [] →
     ∃ t, exec (.vectorLaunchComplete c) s = .next t ∧ (∀ k (h : k < bs.length), t.byteAt (addr + k) = bs[k]) ∧
       BytesKept s t addr (addr + bs.length) ∧ t.getF (pgVec c) vecFlagsF = (s.getF (pgVec c) vecFlagsF ||| w) % 2 ^ vecFlagsF.width ∧
       Counted s t (pgVec c) Reg.VEC_CNT_PASS n ∧
       WordsKept s t [regIdx (pgVec c) vecFlagsF, regIdx (pgVec c) Reg.VEC_CNT_PASS])) ∧
  ((∀ (c : Nat) (s : State) (l : Launch), c < 512 →
     (s.clu c).launches.find? (fun l => (l.nextEpi s.now).isSome) = some l →
     ∃ t e, l.nextEpi s.now = some e ∧ exec (.epilogueStart c) s = .next t ∧
       let effs := (s.epiNow c l e).2
       RunsKept s t (memRuns effs) ∧ (s.errs = [] → effs = e.effs ∧ t.mem = written s.mem (memRuns e.effs) ∧ t.am = s.am) ∧
       (t.clu c).launches = (s.clu c).launches.map (fun m => if m = l then l.beginEpi e effs else m) ∧
       (∀ x, l.desc.mat = some x → s.tileUe c e.arr x ≠ [] → ∀ i j, i < x.m → j < x.n →
         sget (fun _ => 0) t.am (x.key c e.arr i j) = BitVec.ofNat 512 x.narCode) ∧
       t.cat = s.cat ∧ t.tiles = s.tiles ∧ t.doc c = s.doc c ∧ ∀ c', c' ≠ c → t.clu c' = s.clu c') ∧
   (∀ (c : Nat) (s : State) (l : Launch), c < 512 →
     (s.clu c).launches.find? (fun l => l.cls = 0 && decide (l.due ≤ s.now) && (l.phase = 1 || l.epis.isEmpty)) = some l →
     ∃ t, exec (.matrixLaunchComplete c) s = .next t ∧ l ∉ (t.clu c).launches ∧ RunsKept s t (memRuns l.effs) ∧
       (∀ c', c' ≠ c → t.clu c' = s.clu c') ∧
       (s.matCauses c l ≠ [] → (t.doc c = docTrapped ∨ t.doc c = docDone) ∧ (t.getF (pgDoc c) Reg.PG_EVT).testBit 1 = true ∧
         ∀ b ∈ s.matCauses c l, (t.getF (pgDoc c) Reg.DOC_TRAP_CAUSE).testBit b = true)) ∧
   (∀ (c a : Nat) (s : State), c < 512 → a < 4 →
     let need := match s.nextLaunch c a with | some (n, _) => 8 - n / 4 | none => 0
     let at_ := (s.clu c).levelAt.getD a 0 + s.cyc c (if s.getF (pgArr c) (arrLevel a) = 8 then 32 else 4)
     ((s.getF (pgArr c) (arrLevel a) ≤ need ∨ s.now < at_) → exec (.activityLevelStep c a) s = .next s) ∧
     (need < s.getF (pgArr c) (arrLevel a) → at_ ≤ s.now →
     ∃ t, exec (.activityLevelStep c a) s = .next t ∧
       (s.getF (pgArr c) (arrLevel a) = 1 → Counted s t (pgArr c) (Reg.ARR_CNT_BALLAST a) (s.ballPending c a)) ∧
       t.getF (pgArr c) (arrLevel a) = s.getF (pgArr c) (arrLevel a) - 1 ∧ t.mems = s.mems ∧
       (t.clu c).launches = (s.clu c).launches ∧
       WordsKept s t [regIdx (pgArr c) (arrLevel a), regIdx (pgArr c) (Reg.ARR_CNT_BALLAST a)])))

/-! ### The sequencer -/

/-- LOOP, FENCE, SIGNAL and INTAKE (R326 to R328, R552): a LOOP of N starts its idle counter and jumps N − 1 times in all,
fetching again from TARGET; a FENCE leaves the queue once nothing is in progress; a SIGNAL notes its code; an INTAKE
writes the length of the visible record and at most MAXLEN of its bytes, or the length 0, and takes the record; the length
0 with INV where its session's keys are gone, which in a replay stops the group (R395). Before the first flight they issue
as they reach the head, and an INTAKE sees no record (R326; log 32). -/
def Obligations.LoopFenceSignalIntake : Prop :=
  ∀ (i : Instr) (a : Ask) (s : State) (d : Desc), askOf i = some a → a.cls = 6 → a.c < 512 → s.AtHead a d → s.CanIssue a d →
    let k := s.clu a.c
    ∃ t, exec i s = .next t ∧ Counted s t (pgDoc a.c) Reg.DOC_CNT_ISSUE 1 ∧
      Counted s t (pgDoc a.c) Reg.DOC_CNT_WAIT ((s.issueAt a.c - s.dueFrom a.c d) * s.freq (dieOf a.c) / 512) ∧ (t.clu a.c).launches = k.launches ∧
      t.cat = s.cat ∧ t.im = s.im ∧ t.am = s.am ∧
      (a.opc = 3 → k.loops.length = 4 → t.mems = s.mems ∧
        let target := d.f 76 64
        let ctr := d.f 78 77
        let n := d.f 110 79
        (∀ j, j ≠ ctr → (t.clu a.c).loops.getD j none = k.loops.getD j none) ∧
        (k.loops.getD ctr none = none → n = 1 → (t.clu a.c).queue = k.queue.tail ∧ (t.clu a.c).loops.getD ctr none = none) ∧
        (k.loops.getD ctr none = none → 2 ≤ n → (t.clu a.c).queue = [] ∧ (t.clu a.c).fetchPc = target ∧
          (t.clu a.c).loops.getD ctr none = some (n - 2)) ∧
        (k.loops.getD ctr none = some 0 → (t.clu a.c).queue = k.queue.tail ∧ (t.clu a.c).loops.getD ctr none = none) ∧
        (∀ v, k.loops.getD ctr none = some (v + 1) → (t.clu a.c).queue = [] ∧ (t.clu a.c).fetchPc = target ∧
          (t.clu a.c).loops.getD ctr none = some v)) ∧
      (a.opc = 4 → k.launches = [] ∧ k.colls = [] ∧ (t.clu a.c).queue = k.queue.tail ∧ t.mems = s.mems) ∧
      (a.opc = 6 → (t.clu a.c).queue = k.queue.tail ∧ (t.clu a.c).signals = k.signals ++ [d.f 79 64] ∧ t.mems = s.mems) ∧
      (a.opc = 5 → (t.clu a.c).queue = k.queue.tail ∧
        let q := d.f 67 64
        let lo := localAddr a.c (d.f 87 68)
        let mx := d.f 111 88
        let seen := if s.doc a.c = docFlight then s.visible q (s.grpOf a.c) else none
        BytesKept s t lo (lo + 8 + mx) ∧
        (seen = none → (t.iq q).recs = (s.iq q).recs ∧
          (s.errs = [] → t.mem = written s.mem [(lo, leBytes 8 0)])) ∧
        (∀ r, seen = some r → s.intakeData r = none → (t.iq q).recs = (s.iq q).recs.tail ∧
          (s.errs = [] → t.mem = written s.mem [(lo, leBytes 8 0)]) ∧ (t.getF (pgVec a.c) vecFlagsF).testBit 3 = true ∧
          (s.getF pgDev Reg.DEV_DET_CTL_DIVERGE = 3 → t.doc a.c = docStopped ∧ (t.run (s.grpOf a.c)).stopped = true ∧
            (t.getF pgDev Reg.PG_EVT).testBit 10 = true)) ∧
        (∀ r bs, seen = some r → s.intakeData r = some bs → (t.iq q).recs = (s.iq q).recs.tail ∧
          (s.errs = [] → t.mem = written s.mem [(lo, leBytes 8 bs.length ++ bs.take mx)]) ∧
          (mx < bs.length → (t.getF (pgVec a.c) vecFlagsF).testBit 3 = true)))

/-- BARRIER, FLIGHT and HALT (R326, R329, R335): a BARRIER followed by a FLIGHT, its instant to come, starts the group's
run with its step counter and clock code at landing index 0; one whose instant has passed stops the cluster with
BARRIER_MISSED; one followed by anything else has that refused. A FLIGHT opens the next flight, or is refused where
its length is below 64; one that no BARRIER precedes opens flight 1 at the present instant at the clock code in force, and
in a stopped group stops the cluster instead (R347; the model's choice, log 32). A HALT ends the cluster after the flight in progress. -/
def Obligations.BarrierFlightHalt : Prop :=
  ∀ (s : State) (c : Nat) (d : Desc), c < 512 → (s.clu c).queue.head? = some d → d.cls = 6 →
    let k := s.clu c
    (∀ n rest, k.queue = d :: n :: rest → d.opc = 2 → s.doc c = docBarrier → k.barrier = none → s.badBarrier d = false →
      let T := d.f 127 64
      (n.cls = 6 → n.opc = 1 → s.missed d.grp T = false →
        ∃ t, exec (.barrier c) s = .next t ∧ (t.clu c).barrier = some (T, d.f 191 128, d.f 195 192, d.grp) ∧
          (t.clu c).queue = n :: rest ∧ (t.run d.grp).idx = 0 ∧ (t.run d.grp).step = d.f 191 128 ∧
          (t.run d.grp).code = d.f 195 192 ∧ (t.run d.grp).tStart = T ∧ t.doc c = docBarrier ∧ t.mems = s.mems) ∧
      (n.cls = 6 → n.opc = 1 → s.missed d.grp T = true →
        ∃ t, exec (.barrier c) s = .next t ∧ t.doc c = docStopped ∧ t.mems = s.mems ∧ t.runs = s.runs ∧
          Occurred s t (pgDoc c) 2 0x03 3 (leBytes 1 d.grp ++ leBytes 8 T)) ∧
      (¬ (n.cls = 6 ∧ n.opc = 1) →
        ∃ t, exec (.barrier c) s = .next t ∧ t.doc c = docStopped ∧ t.mems = s.mems ∧ t.sched = s.sched ∧
          Occurred s t (pgDoc c) 0 0x01 3 (leBytes 2 n.slot ++ leBytes 1 n.cls ++ leBytes 1 n.opc))) ∧
    (d.opc = 1 → k.next = none → k.halting = false → (s.doc c = docFlight ∨ (s.doc c = docBarrier ∧ k.barrier.isSome)) →
      (badFlight d = false →
        ∃ t, exec (.flight c) s = .next t ∧ (t.clu c).next = some (d.f 87 64, d.w.getLsbD 88, d.grp) ∧
          (t.clu c).queue = k.queue.tail ∧ (t.clu c).barrier = k.barrier ∧ t.doc c = s.doc c ∧ t.mems = s.mems ∧
          t.runs = s.runs ∧ ∀ c', c' ≠ c → t.clu c' = s.clu c') ∧
      (d.f 87 64 < 64 →
        ∃ t, exec (.flight c) s = .next t ∧ t.doc c = docStopped ∧ t.mems = s.mems ∧ t.sched = s.sched ∧
          Occurred s t (pgDoc c) 0 0x01 3 (leBytes 2 d.slot ++ leBytes 1 d.cls ++ leBytes 1 d.opc))) ∧
    (d.opc = 1 → k.next = none → k.halting = false → s.doc c = docBarrier → k.barrier = none → badFlight d = false →
      ((s.run d.grp).stopped = true →
        ∃ t, exec (.flight c) s = .next t ∧ t.doc c = docStopped ∧ (t.clu c).queue = k.queue.tail ∧ t.runs = s.runs ∧
          t.mems = s.mems) ∧
      ((s.run d.grp).stopped = false →
        ∃ t, exec (.flight c) s = .next t ∧ (t.clu c).next = some (d.f 87 64, d.w.getLsbD 88, d.grp) ∧
          (t.clu c).queue = k.queue.tail ∧ t.doc c = docBarrier ∧ t.mems = s.mems ∧
          (t.clu c).barrier = some (s.rot, (s.run d.grp).step, s.clkCode (dieOf c), d.grp) ∧
          (t.run d.grp).idx = 0 ∧ (t.run d.grp).tStart = s.rot ∧ (t.run d.grp).code = s.clkCode (dieOf c))) ∧
    (d.opc = 7 → k.next = none → k.halting = false → d.f 255 64 = 0 → d.slot < 8191 →
      (s.doc c = docFlight →
        ∃ t, exec (.halt c) s = .next t ∧ (t.clu c).halting = true ∧ (t.clu c).queue = k.queue.tail ∧ t.doc c = docFlight ∧
          t.mems = s.mems) ∧
      (s.doc c = docBarrier →
        ∃ t, exec (.halt c) s = .next t ∧ t.doc c = docDone ∧ t.mems = s.mems ∧
          Occurred s t (pgDoc c) 5 0x06 0 (leBytes 1 (s.grpOf c) ++ leBytes 8 (s.run (s.grpOf c)).idx)))

/-- GO, RESUME and ABORT (R352, R356, R357): GO in IDLE fetches from DOC_START with an empty queue and idle loop counters;
a saved cluster resumes at the written instant with its saved context: sequencer, accumulator entries with their tile
records, sticky flags; a save area with an uncorrectable word reports the save as invalid instead (R429); ABORT stops at
once, in every state. A cluster in another state is not changed by GO, and a write without the action's bit does nothing
more than a write. DESCRIPTOR_FETCH (R312, R313, R429): while the queue has room, the descriptor in the next slot
enters it with its extension, and fetching goes on behind it; an uncorrectable word of the instruction memory traps
the cluster instead; a head descriptor that no operation lists is refused. -/
def Obligations.FetchAndSequencerCommands : Prop :=
  (∀ (s : State) (c val : Nat), c < 512 →
     let u := s.writeReg (pgDoc c) docCtlOff val true
     (val.testBit 0 = true → u.doc c = docIdle → u.reaches (pgDoc c) = true → u.released c = true →
       ∃ t, exec (.docGo c val) s = .next t ∧ t.doc c = docBarrier ∧
         (t.clu c).fetchPc = u.getF (pgDoc c) Reg.DOC_START_START ∧ (t.clu c).queue = [] ∧
         (∀ j, (t.clu c).loops.getD j none = none) ∧ (t.clu c).next = none ∧ t.mems = s.mems ∧
         ∀ c', c' ≠ c → t.clu c' = u.clu c') ∧
     ((u.doc c ≠ docIdle ∨ val.testBit 0 = false) → exec (.docGo c val) s = .next u) ∧
     (val.testBit 2 = false → exec (.docAbort c val) s = .next u) ∧ (val.testBit 1 = false → exec (.docResume c val) s = .next u) ∧
     (val.testBit 2 = true → u.reaches (pgDoc c) = true →
       ∃ t, exec (.docAbort c val) s = .next t ∧ t.doc c = docStopped ∧ t.mems = s.mems ∧
         (t.clu c).launches = (u.clu c).launches ∧ ∀ c', c' ≠ c → t.clu c' = u.clu c') ∧
     (∀ x, (u.clu c).saved = some x → val.testBit 1 = true → u.doc c = docSaved → u.reaches (pgDoc c) = true →
       let T := u.getF (pgDoc c) Reg.DOC_RESUME_LO_T + u.getF (pgDoc c) Reg.DOC_RESUME_HI_T * 2 ^ 32
       (u.missed x.grp T = false → u.ueIn (u.ctxAddr c) (ctxBytes x.tiles) = false →
         ∃ t, exec (.docResume c val) s = .next t ∧ t.doc c = docBarrier ∧ (t.clu c).saved = none ∧
           (t.clu c).fetchPc = x.pc ∧ (t.clu c).queue = x.queue ∧ (t.clu c).loops = x.loops ∧ (t.clu c).next = x.next ∧
           (t.run x.grp).idx = x.idx ∧ (t.run x.grp).step = x.step ∧ (t.run x.grp).tStart = T ∧
           (t.run x.grp).stopped = (u.run x.grp).stopped ∧
           (t.clu c).barrier = (if x.next.isSome then some (T, x.step, (u.run x.grp).code, x.grp) else none) ∧
           (swf (fun _ => 0) x.am = true → (∀ p ∈ x.am, 131072 * c ≤ p.1 ∧ p.1 < 131072 * (c + 1)) → ∀ k,
             sget (fun _ => 0) t.am k = if 131072 * c ≤ k ∧ k < 131072 * (c + 1) then sget (fun _ => 0) x.am k else sget (fun _ => 0) u.am k) ∧
           ((x.tiles.map (·.1)).Nodup → (∀ p ∈ x.tiles, 256 * c ≤ p.1 ∧ p.1 < 256 * (c + 1)) → ∀ p,
             p ∈ t.tiles ↔ p ∈ x.tiles ∨ p ∈ u.tiles ∧ (p.1 < 256 * c ∨ 256 * (c + 1) ≤ p.1)) ∧
           (∀ a, a < 4 → x.arrFlags.length = 4 → t.getF (pgArr c) (arrFlagsF a) = x.arrFlags.getD a 0 % 2 ^ (arrFlagsF a).width) ∧
           t.getF (pgVec c) vecFlagsF = x.vecFlags % 2 ^ vecFlagsF.width ∧ t.getF (pgVec c) sfuFlagsF = x.sfuFlags % 2 ^ sfuFlagsF.width ∧
           t.word (regIdx (pgVec c) Reg.VEC_ROW_STAT_ROW_NAR) = x.rowStat ∧ t.mem = s.mem ∧ t.cat = s.cat ∧ t.im = s.im) ∧
       (u.missed x.grp T = false → u.ueIn (u.ctxAddr c) (ctxBytes x.tiles) = true →
         ∃ t, exec (.docResume c val) s = .next t ∧ t.doc c = docSaved ∧ (t.clu c).saved = some x ∧
           Occurred s t (pgDoc c) 3 0x04 2 (leBytes 1 x.grp ++ leBytes 8 x.idx ++ leBytes 1 0)) ∧
       (u.missed x.grp T = true →
         ∃ t, exec (.docResume c val) s = .next t ∧ t.doc c = docSaved ∧ (t.clu c).saved = some x ∧
           Occurred s t (pgDoc c) 2 0x03 3 (leBytes 1 x.grp ++ leBytes 8 T)))) ∧
  (∀ (s : State) (c : Nat), c < 512 → s.running c = true →
     let k := s.clu c
     ((∀ d, k.queue.head? = some d → listedOpc d.cls d.opc = true) → k.queue.length < 32 → k.fetchPc < 8192 →
       let d := s.descAt c k.fetchPc
       d.slot = k.fetchPc ∧ d.w = s.imSlot c k.fetchPc ∧
       (d.w.getLsbD 14 = true → k.fetchPc < 8191 → d.ext = s.imSlot c (k.fetchPc + 1)) ∧
       (s.errs = [] → ∃ t, exec (.descriptorFetch c) s = .next t ∧ (t.clu c).queue = k.queue ++ [d] ∧
         (t.clu c).fetchPc = k.fetchPc + (if d.w.getLsbD 14 && decide (k.fetchPc < 8191) then 2 else 1) ∧
         t = { s with sched.clusters := t.clusters } ∧ ∀ c', c' ≠ c → t.clu c' = s.clu c') ∧
       (s.imErr c k.fetchPc = 2 → s.imErr c (k.fetchPc + 1) ≤ 2 → ∃ t, exec (.descriptorFetch c) s = .next t ∧ (t.clu c).queue = k.queue ∧
         (t.doc c = docTrapped ∨ t.doc c = docDone) ∧ (t.getF (pgDoc c) Reg.DOC_TRAP_CAUSE).testBit 2 = true ∧
         (t.getF (pgDoc c) Reg.PG_EVT).testBit 1 = true ∧ (t.getF (pgClu c) Reg.PG_EVT).testBit 0 = true ∧
         (t.getF (pgRgn (regionOf c)) Reg.RGN_SLOT_FAIL_SLOTS).testBit (s.slotOf c) = true ∧
         t.mems.mem = s.mems.mem ∧ t.im = s.im)) ∧
     (∀ d, k.queue.head? = some d → (s.issuable c = true ∨ s.preFlight c = true) → listedOpc d.cls d.opc = false →
       ∃ t, exec (.descriptorFetch c) s = .next t ∧ t.doc c = docStopped ∧ t.sched = s.sched ∧ t.mems = s.mems ∧
         Occurred s t (pgDoc c) 0 0x01 3 (leBytes 2 d.slot ++ leBytes 1 d.cls ++ leBytes 1 d.opc)))

/-- How flights begin (R326, R336, R337, R379, R386, R395, R643): once the count has reached T_START, every cluster of the barrier
whose region copies no slot enters its flight at once, scheduled from T_START and landing after the length of the first
of them in cycles at the agreed code, or stops where the first records of the log that a replay reads stop the group;
after a landing, every cluster in the window whose FLIGHT belongs to the group, and whose region copies no slot, enters
the next flight at S or at the end of the window, whichever is later, in LOCKSTEP mode with LSWAIT after the comparison.
Clusters that do not begin keep their state. -/
def Obligations.FlightsBegin : Prop :=
  ∀ (s : State) (g : Nat),
    (∀ c0 cs T st cl h len stp gf, s.barred g = c0 :: cs → (s.clu c0).barrier = some (T, st, cl, h) →
      (s.clu c0).next = some (len, stp, gf) →
      ∃ t, exec (.barrierStart g) s = .next t ∧ T ≤ s.rot ∧
        ((s.run gf).s ≠ T ∨ (s.run gf).lam ≠ T + unitsAt (s.run gf).code len → t.throtCount = 0) ∧
        (∀ c, c < 512 → c ∉ s.barred g → s.replaying = false → t.clu c = s.clu c ∧ t.doc c = s.doc c) ∧
        ∀ c ∈ s.barred g,
          (t.doc c = docFlight ∧ (t.clu c).fS = T ∧ (t.clu c).fLam = T + unitsAt (s.run gf).code len ∧
            (t.clu c).next = none ∧ (t.clu c).barrier = none ∧ (t.clu c).queue = (s.clu c).queue ∧
            (∀ n st' h', (s.clu c).next = some (n, st', h') → (t.clu c).fLen = n ∧ (t.clu c).fStep = st' ∧ t.grpOf c = h' % 2 ^ 8)) ∨
          (s.replaying = true ∧ s.getF pgDev Reg.DEV_DET_CTL_LOGGRP = gf ∧ (t.run gf).stopped = true ∧ t.doc c = docStopped)) ∧
    (s.barred g = [] → exec (.barrierStart g) s = .next s) ∧
    ((s.run g).stopped = false → (s.run g).s ≤ s.rot → (s.run g).winEnd ≤ s.rot → s.awaitsTwin g = false →
      ∃ t, exec (.flightBegin g) s = .next t ∧ t.mems = s.mems ∧
        (∀ c n st, c < 512 → s.doc c = docWindow → s.copying c = false → (s.clu c).saved = none → (s.clu c).landed = false →
          (s.clu c).next = some (n, st, g) →
          t.doc c = docFlight ∧ (t.clu c).fS = (s.run g).s ∧ (t.clu c).fLam = (s.run g).lam ∧ (t.clu c).fLen = n ∧
          (t.clu c).next = none) ∧
        (∀ c, c < 512 → s.doc c ≠ docWindow ∨ s.copying c = true ∨ (s.clu c).landed = true →
          t.clu c = s.clu c ∧ t.doc c = s.doc c)) ∧
    ((s.run g).stopped = true ∨ s.rot < (s.run g).s ∨ s.rot < (s.run g).winEnd ∨ s.awaitsTwin g = true →
      exec (.flightBegin g) s = .next s)

/-! ### Numbers -/

/-- Every code of every element format survives its value: rounding the finite value that a code stands for gives the code
back, with no flag, in every rounding mode and with and without saturation (R63, R77, R80, R83, R84, R91 to R93). No
bit of a posit's regime, exponent or fraction, nor of an IEEE code, is dropped or misread. -/
def Obligations.NumberCodesRoundTrip : Prop :=
  ∀ (f : Fmt) (rnd : Rnd) (sat : Bool) (c : Nat) (x : Machine.Num), f ≠ .qfull → c < 2 ^ f.width → plainCode f c →
    decodeFmt f c = .fin x → encodeFmt f rnd sat (.fin x) = (c, {})

/-- The rounding modes on a magnitude code q ≥ 0. RNE takes the nearest integer, the even one of two equally near (R91);
RTO takes q where it is an integer and else the odd one of the two integers around it (R92); SR adds the draw to the
first 24 bits of the tail and takes the carry (R93). A result is marked inexact where the tail is not zero. -/
def Obligations.RoundingModes : Prop :=
  ∀ c : Machine.Num, 0 < c.d → 0 ≤ numRat c →
    (∀ m : Rnd, (roundCode m c).2 = decide (((⌊numRat c⌋ : ℤ) : ℚ) ≠ numRat c)) ∧
    (∀ m : Rnd, ((⌊numRat c⌋ : ℤ) : ℚ) = numRat c → (((roundCode m c).1 : ℤ) : ℚ) = numRat c) ∧
    |(((roundCode .rne c).1 : ℤ) : ℚ) - numRat c| ≤ 1 / 2 ∧
    (|(((roundCode .rne c).1 : ℤ) : ℚ) - numRat c| = 1 / 2 → (roundCode .rne c).1 % 2 = 0) ∧
    (((⌊numRat c⌋ : ℤ) : ℚ) ≠ numRat c →
      (roundCode .rto c).1 % 2 = 1 ∧ |(((roundCode .rto c).1 : ℤ) : ℚ) - numRat c| < 1) ∧
    (∀ r, ((roundCode (.sr r) c).1 : ℤ) =
      ⌊numRat c⌋ + (if 2 ^ 24 ≤ ⌊(numRat c - (⌊numRat c⌋ : ℤ)) * 2 ^ 24⌋ + (r % 2 ^ 24 : Nat) then 1 else 0))

/-- What the vector engine computes of finite operands before its one rounding is the exact rational result (R208, R209):
sums, differences, products, fused products, quotients, the greater and the lesser, the comparisons, the selection,
the absolute value and the negative; a nonzero dividend over zero is an infinity with INV (R210). -/
def Obligations.VectorElementResults : Prop :=
  ∀ a b c : Machine.Num, 0 < a.d → 0 < b.d → 0 < c.d →
    let is (op : Nat) (q : ℚ) : Prop := ∃ y, veElem op (.fin a) (.fin b) (.fin c) = (.fin y, {}) ∧ 0 < y.d ∧ numRat y = q
    is 1 (numRat a + numRat b) ∧ is 2 (numRat a - numRat b) ∧ is 3 (numRat a * numRat b) ∧
    is 4 (numRat a * numRat b + numRat c) ∧ (numRat b ≠ 0 → is 5 (numRat a / numRat b)) ∧
    is 6 (max (numRat a) (numRat b)) ∧ is 7 (min (numRat a) (numRat b)) ∧
    is 8 (if numRat a < numRat b then 1 else 0) ∧ is 9 (if numRat a = numRat b then 1 else 0) ∧
    is 10 (if numRat c = 0 then numRat b else numRat a) ∧ is 11 |numRat a| ∧ is 12 (- numRat a) ∧
    (numRat b = 0 → numRat a ≠ 0 → veElem 5 (.fin a) (.fin b) (.fin c) = (.inf (decide (numRat a < 0)), Flags.INV))

/-- An entry of the accumulator memory is exact (R117, R160): the steps of a launch over finite operands add every
product, in units of the quire's last bit, whatever the lanes of a step, with no flag, where the absolute values stay
in range; and the sum of two quire codes is the exact sum, or NaR with QOVF where it leaves the range (R118, R148). -/
def Obligations.ExactAccumulation : Prop :=
  (∀ (q : Quire) (ls : Nat) (start : Int) (ps : List (Machine.Num × Machine.Num)), 0 < ls →
    let terms := ps.map (fun p => q.units (p.1.mul p.2))
    start.natAbs + (terms.map Int.natAbs).sum < 2 ^ (q.width - 1) →
    exactEntry q ls ps.length { v := some start, fl := {}, ovr := none } (ps.map (fun p => (Val.fin p.1, Val.fin p.2))) none
      = { v := some (start + terms.sum), fl := {}, ovr := none }) ∧
  (∀ (q : Quire) (x y : Int), x.natAbs < 2 ^ (q.width - 1) → y.natAbs < 2 ^ (q.width - 1) →
    q.read (q.write x).1 = some x ∧
    ((x + y).natAbs < 2 ^ (q.width - 1) → q.add (q.write x).1 (q.write y).1 = ((q.write (x + y)).1, false)) ∧
    (2 ^ (q.width - 1) ≤ (x + y).natAbs → q.add (q.write x).1 (q.write y).1 = (q.nar, true)))

/-! ### Landings -/

/-- A landing (R326, R336, R338 to R342): a cluster whose flight is closed, with nothing in flight, lands on its own, once the
scheduled instant has come and the messages of the last landing are here, and not before; its slack is kept, 0 and
counted where it is late (R340). When all awaited clusters have landed and no switch of the Archive holds the package
(R416), the landing index rises by one, STEP counts, the package's own landed message stands beside those received, and every awaited
cluster shows the index and goes on: a halting one is DONE, one with a next flight waits in the window, any other
reads BARRIER. (The last clause is said of a landing that neither pre-empts nor stops the group, with divergence control off, no reset
of a cluster waiting, no region that must leave service, and no error mark in a memory.) -/
def Obligations.LandingWindow : Prop :=
  ∀ (s : State) (g : Nat),
    (s.canLand g = false →
      ∃ t, exec (.landing g) s = .next t ∧ (s.landing g = [] → t = s) ∧ t.runs = s.runs ∧ t.mems = s.mems ∧ t.out = s.out ∧
        (∀ c, c < 512 → c ∉ s.landing g → t.clu c = s.clu c ∧ t.doc c = s.doc c) ∧
        ∀ c ∈ s.landing g, c < 512 → t.doc c = docWindow ∧ t.clu c = { s.clu c with landed := true } ∧
          t.getF (pgDoc c) Reg.DOC_SLACK_MIN_SLACK =
            min (if s.lateAt g c (s.run g).lam then 0
                 else ((s.run g).lam - s.rotAt (s.clu c).lastDone) * s.freq (dieOf c) / 512)
              (s.getF (pgDoc c) Reg.DOC_SLACK_MIN_SLACK) ∧
          (s.lateAt g c (s.run g).lam = true → Counted s t (pgDoc c) Reg.DOC_CNT_LATE 1) ∧
          (s.lateAt g c (s.run g).lam = false → t.getF (pgDoc c) Reg.DOC_CNT_LATE = s.getF (pgDoc c) Reg.DOC_CNT_LATE)) ∧
    (s.canLand g = true → s.getF pgDev Reg.DEV_DET_CTL_DIVERGE = 0 → s.preempts g (s.run g).lam = false →
      (∀ m ∈ (s.run g).msgs, m.preempt = false) → (∀ r, r < 32 → s.draining r = false) → s.errs = [] →
      (∀ c ∈ s.landSet g, c < 512 ∧ (s.clu c).srst = false ∧ (s.clu c).saved = none) →
      let n := (s.run g).idx + 1
      ∃ t, exec (.landing g) s = .next t ∧ (t.run g).idx = n ∧ (t.run g).stopped = false ∧
        (∃ c ∈ s.landSet g, (t.run g).step = ((s.run g).step + (s.clu c).fStep.toNat) % 2 ^ 64) ∧
        (∃ m ∈ (t.run g).msgs, m.idx = n ∧ m.pkg = s.pkg ∧ m.preempt = false ∧
          (m.final = true ↔ ∀ c ∈ s.landSet g, (s.clu c).halting = true)) ∧
        ∀ c ∈ s.landSet g, t.getF (pgDoc c) Reg.DOC_LAND_LO_IDX = n % 2 ^ 32 ∧
          t.doc c = (if (s.clu c).halting then docDone else if (s.clu c).next.isSome then docWindow else docBarrier) ∧
          (t.clu c).signals = [] ∧ ((s.clu c).signals ≠ [] → (t.getF (pgDoc c) Reg.PG_EVT).testBit 4 = true) ∧
          ((s.clu c).halting = true → (t.getF (pgDoc c) Reg.PG_EVT).testBit 5 = true))

/-- What other members and deadlines do to a landing group (R339, R345 to R348, R388, R698): a first landed message of a member
is kept, a second one is not; a notice of a member, or of the twin, is kept and never renewed; a package that is not landed at its
instant sends one notice; a member without a message at its deadline is dead, and a stop message arrives: either stops every running cluster
of the group, reports it, and leaves every memory as it is. In the stop state only the landing whose mismatch brought it is still judged. -/
def Obligations.LandingMessages : Prop :=
  (∀ (s : State) (m : LandedMsg), m.pkg ∈ s.others m.grp → s.hasMsg m.grp m.idx m.pkg = false →
    ∃ t, exec (.landedMessageReceive m) s = .next t ∧ (t.run m.grp).msgs = (s.run m.grp).msgs ++ [m] ∧ t.mems = s.mems ∧
      (t.run m.grp).finals = (s.run m.grp).finals ++ (if m.final then [(m.pkg, m.idx)] else [])) ∧
  (∀ (s : State) (m : LandedMsg), m.pkg ∉ s.others m.grp ∨ s.hasMsg m.grp m.idx m.pkg = true →
    exec (.landedMessageReceive m) s = .next s) ∧
  (∀ (s : State) (g idx pkg : Nat), (pkg ∈ s.others g ∨ s.lockstep = true ∧ pkg = s.twinPkg) →
    (∀ x ∈ (s.run g).notices, ¬ (x.1 = idx ∧ x.2.1 = pkg)) →
    ∃ t, exec (.noticeReceive g idx pkg) s = .next t ∧ (t.run g).notices = (s.run g).notices ++ [(idx, pkg, s.rot)] ∧
      t = { s with sched.runs := t.runs }) ∧
  (∀ (s : State) (g idx pkg : Nat), (∃ x ∈ (s.run g).notices, x.1 = idx ∧ x.2.1 = pkg) ∨
      (pkg ∉ s.others g ∧ ¬ (s.lockstep = true ∧ pkg = s.twinPkg)) →
    exec (.noticeReceive g idx pkg) s = .next s) ∧
  (∀ (s : State) (g : Nat), (s.run g).stopped = false → s.landSet g ≠ [] → (s.run g).lam ≠ 0 → (s.run g).lam ≤ s.rot →
    ((∃ c ∈ s.landSet g, s.landable g c = false ∧ s.doc c ≠ docTrapped) ∨ s.switchReady g = false) →
    ∃ t, exec (.landingInstant g) s = .next t ∧ (t.run g).noticed = some ((s.run g).idx + 1) ∧ t.mems = s.mems ∧
      t.clusters = s.clusters ∧ ((s.run g).noticed = some ((s.run g).idx + 1) → t = s)) ∧
  (∀ (s : State) (g : Nat), ((s.run g).stopped = true ∨ s.landSet g = [] ∨ (s.run g).lam = 0 ∨ s.rot < (s.run g).lam ∨
      ((∀ c ∈ s.landSet g, s.landable g c = true ∨ s.doc c = docTrapped) ∧ s.switchReady g = true)) →
    exec (.landingInstant g) s = .next s) ∧
  (∀ (s : State) (g x : Nat), let n := (s.run g).idx + 1
    ((s.run g).stopped = false ∨ (s.run g).lsAt = some n) → (∀ f ∈ (s.run g).finals, f.1 = s.pkg → n ≤ f.2) → (s.run g).lam ≠ 0 →
    x ∈ s.awaited g n → s.hasMsg g n x = false → s.judgeAt g n (s.run g).lam x ≤ s.rot →
    ∃ t, exec (.landingDeadline g) s = .next t ∧ (t.run g).stopped = true ∧ (t.getF pgDev Reg.PG_EVT).testBit 0 = true ∧
      (∀ c ∈ s.stoppable g, t.doc c = docStopped) ∧ (∀ c, c < 512 → c ∉ s.stoppable g → t.doc c = s.doc c) ∧ t.mems = s.mems) ∧
  (∀ (s : State) (g : Nat), (s.run g).stopped = true → (s.run g).lsAt = none → exec (.landingDeadline g) s = .next s) ∧
  (∀ (s : State) (g idx pkg : Nat), (s.run g).stopped = false → (pkg ∈ s.others g ∨ s.lockstep = true ∧ pkg = s.twinPkg) →
    ∃ t, exec (.stopMessageReceive g idx pkg) s = .next t ∧ (t.run g).stopped = true ∧
      (∀ c ∈ s.stoppable g, t.doc c = docStopped) ∧ (∀ c, c < 512 → c ∉ s.stoppable g → t.doc c = s.doc c) ∧ t.mems = s.mems ∧
      Occurred s t pgDev 1 0x11 3 (leBytes 1 g ++ leBytes 8 idx ++ leBytes 2 pkg)) ∧
  (∀ (s : State) (g idx pkg : Nat), (s.run g).stopped = true ∨ (pkg ∉ s.others g ∧ ¬ (s.lockstep = true ∧ pkg = s.twinPkg)) →
    exec (.stopMessageReceive g idx pkg) s = .next s)

/-- A context save and the twin (R353, R355, R383 to R387): a saved cluster that has landed writes its save area alone, 4 KiB
and 128 bytes for each accumulator line of its saved tiles, and reads SAVED, with PREEMPTED, its save marked invalid where a word of a
valid tile is uncorrectable; the twin's message is kept in LOCKSTEP mode, and unless checking has been given up, one whose signature or B fields
differ from the package's own stops the group with LS_MISMATCH or LS_PROV, and one that agrees counts as compared; the cluster signatures that follow end the
mismatch, and the lowest cluster that differs is captured, at once or behind a capture that is held (R396). -/
def Obligations.SavesAndTwin : Prop :=
  (∀ (s : State) (c : Nat) (x : Ctx), c < 512 → (s.clu c).saved = some x → s.doc c = docWindow →
    ∃ t, exec (.contextSaveComplete c) s = .next t ∧ (t.clu c).saved = some x ∧ t.am = s.am ∧
      (s.tilesUe c = [] → t.doc c = docSaved ∧ (t.clu c).saveInvalid = false ∧
        BytesKept s t (s.ctxAddr c) (s.ctxAddr c + ctxBytes x.tiles) ∧
        Occurred s t (pgDoc c) 3 0x04 0 (leBytes 1 x.grp ++ leBytes 8 x.idx ++ leBytes 1 1) ∧
        ∀ c', c' ≠ c → t.clu c' = s.clu c') ∧
      (s.tilesUe c ≠ [] → t.doc c = docSaved ∧ (t.clu c).saveInvalid = true ∧ (t.getF (pgDoc c) Reg.PG_EVT).testBit 3 = true)) ∧
  (∀ (s : State) (c : Nat), (s.clu c).saved = none ∨ s.doc c ≠ docWindow → exec (.contextSaveComplete c) s = .next s) ∧
  (∀ (s : State) (m : TwinMsg), s.lockstep = true → (∀ x ∈ (s.run m.grp).twin, x.idx ≠ m.idx) →
    ∃ t, exec (.twinMessageReceive m) s = .next t ∧ m ∈ (t.run m.grp).twin ∧ t.mems = s.mems ∧
      (s.flag pgDev Reg.DEV_DET_STAT_UNCHECKED = true → t = { s with sched.runs := t.runs }) ∧
      (∀ own, (s.run m.grp).sigs.find? (fun p => p.1 = m.idx) = some own → s.flag pgDev Reg.DEV_DET_STAT_UNCHECKED = false →
        (s.run m.grp).checked < m.idx →
        (t.run m.grp).checked = m.idx ∧
        (own.2 ≠ m.sig → (∀ b, m.bfields = some b → b = s.bFields) →
          (t.run m.grp).stopped = true ∧ (t.run m.grp).mismatch = true ∧ (t.getF pgDev Reg.PG_EVT).testBit 4 = true ∧
          ∀ c ∈ s.stoppable m.grp, t.doc c = docStopped) ∧
        (∀ b, m.bfields = some b → b ≠ s.bFields →
          (t.run m.grp).stopped = true ∧ (t.getF pgDev Reg.PG_EVT).testBit 5 = true ∧ ∀ c ∈ s.stoppable m.grp, t.doc c = docStopped) ∧
        (own.2 = m.sig → (∀ b, m.bfields = some b → b = s.bFields) →
          (t.run m.grp).stopped = (s.run m.grp).stopped ∧ t.clusters = s.clusters ∧
            Counted s t pgDev Reg.DEV_CNT_LSCMP 1))) ∧
  (∀ (s : State) (m : TwinMsg), s.lockstep = false → exec (.twinMessageReceive m) s = .next s) ∧
  (∀ (s : State) (g idx : Nat) (own sigs : List (Nat × BitVec 64)) (c : Nat), c < 512 → (s.run g).mismatch = true →
    (s.run g).checked = idx → (s.run g).cluSigs.find? (fun p => p.1 = idx) = some (idx, own) →
    let sig (l : List (Nat × BitVec 64)) (c : Nat) := (l.find? (fun p => p.1 = c)).map (·.2)
    sig own c ≠ sig sigs c → (∀ c', c' < c → sig own c' = sig sigs c') →
    ∃ t, exec (.clusterSignatureExchange g idx sigs) s = .next t ∧ (t.run g).mismatch = false ∧ t.mems = s.mems ∧
      t.clusters = s.clusters ∧ PagesKept s t pgDev [] ∧
      (s.flag pgDev Reg.DEV_LS_FAIL_VALID = false → t.lsPend = s.lsPend ∧ t.flag pgDev Reg.DEV_LS_FAIL_VALID = true ∧
        t.getF pgDev Reg.DEV_LS_FAIL_CLU = c ∧ t.getF pgDev Reg.DEV_LS_FAIL_GRP = g % 2 ^ 8 ∧
        t.getF pgDev Reg.DEV_LS_IDX_LO_IDX = idx % 2 ^ 32) ∧
      (s.flag pgDev Reg.DEV_LS_FAIL_VALID = true → t.lsPend = s.lsPend ++ [(g, idx, c, false, false)] ∧ t.regs = s.regs))

/-! ### Host transfers -/

/-- Host DMA (R532 to R539): a ready channel starts its descriptor. An H2D without fault writes its bytes at DADDR and
nothing else; a D2H without fault sends the bytes read there and changes no memory; a refused one moves nothing; a
QPUSH puts its record at the end of the queue, or ends with QFULL. The completion of a descriptor (R535, R536, R541):
its record goes to CADDR, the head index advances, the channel is free; a status other than OK and QFULL halts the
channel with DMA_ERR until a RESUME. -/
def Obligations.DmaTransfersAndCompletion : Prop :=
  (∀ (s : State) (c : Nat) (d : DmaDesc) (hostOk : Bool) (data : List Byte), s.dmaReady c = true → data.length = d.len →
     let run (t : State) (st : Nat) (held : Bool) : Prop :=
       ({ desc := d, status := st, held := held } : DmaRun) ∈ (t.dma.filter (fun p => p.1 = c)).map (·.2) ∧
       t.getF pgPci (Reg.PCI_DMA_STAT_BUSY c) = 1
     (d.op = 0 → s.dmaStatus d hostOk = 0 →
       ∃ t, exec (.dmaH2d c d hostOk data) s = .next t ∧ run t 0 false ∧ BytesKept s t d.daddr (d.daddr + d.len) ∧
         (s.errs = [] → t.mem = written s.mem [(d.daddr, data)]) ∧ t.out = s.out ∧ t.im = s.im ∧ t.cat = s.cat) ∧
     (d.op = 0 → s.dmaStatus d hostOk = 6 →
       ∃ t, exec (.dmaH2d c d hostOk data) s = .next t ∧ run t 6 false ∧ t.mems = s.mems ∧ t.out = s.out) ∧
     (d.op = 1 → s.dmaStatus d true = 0 →
       ∃ t, exec (.dmaD2h c d) s = .next t ∧ run t 0 false ∧ t.mem = s.mem ∧
         t.out = s.out ++ [.hostWrite d.haddr (s.readBytes 0 d.daddr d.len)]) ∧
     (d.op = 1 → 2 ≤ s.dmaStatus d true →
       ∃ t, exec (.dmaD2h c d) s = .next t ∧ run t (s.dmaStatus d true) false ∧ t.mems = s.mems ∧ t.out = s.out) ∧
     (d.op = 1 → dmaDescBad d = false → s.dmaRange d.daddr d.len = 0 → s.getF pgSec Reg.SEC_STAT_SEALED = 1 →
       s.inSealWindow d.daddr d.len = false → s.dmaStatus d true = 4) ∧
     (d.op = 2 → s.dmaStatus d hostOk = 0 → s.getF pgDev Reg.DEV_DET_CTL_DIVERGE ≤ 1 →
       (s.iqFits d.q d.len = true →
         ∃ t, exec (.dmaQpush c d hostOk data) s = .next t ∧ run t 0 false ∧
           (t.iq d.q).recs = (s.iq d.q).recs ++ [{ payload := data, reached := s.rot, land := 0, acc := none }] ∧
           ∀ q, q ≠ d.q → t.iq q = s.iq q) ∧
       (s.iqFits d.q d.len = false →
         ∃ t, exec (.dmaQpush c d hostOk data) s = .next t ∧ run t 5 false ∧ t.mems = s.mems ∧ t.inq = s.inq ∧
           t.getF pgPci Reg.PCI_CNT_QFULL = min (2 ^ 32 - 1) (s.getF pgPci Reg.PCI_CNT_QFULL + 1)))) ∧
  ((∀ (s : State) (c : Nat) (x : DmaRun), c < 16 → s.dma.find? (fun p => p.1 = c) = some (c, x) → x.held = false →
     let n := s.dmaRing c
     let head := s.getF pgPci (Reg.PCI_DMA_HEAD_IDX c)
     let rec_ := leBytes 8 x.desc.ctag ++ leBytes 4 (if x.status = 0 then x.desc.len else 0) ++ leBytes 1 x.status
       ++ leBytes 1 c ++ leBytes 2 (head % n)
     ∃ t, exec (.dmaCompletion c) s = .next t ∧ (∀ p ∈ t.dma, p.1 ≠ c) ∧ t.mems = s.mems ∧
       (t.out = s.out ++ [.hostWrite x.desc.caddr rec_] ∨ t.out = s.out ++ [.hostWrite x.desc.caddr rec_, .msix c]) ∧
       t.getF pgPci (Reg.PCI_DMA_HEAD_IDX c) = (head + 1) % (2 * n) % 2 ^ (Reg.PCI_DMA_HEAD_IDX c).width ∧
       t.getF pgPci (Reg.PCI_DMA_STAT_BUSY c) = 0 ∧
       (x.status ∈ [0, 5] → t.getF pgPci (Reg.PCI_DMA_STAT_HALTED c) = s.getF pgPci (Reg.PCI_DMA_STAT_HALTED c) ∧ t.held = s.held) ∧
       (x.status ∉ [0, 5] → t.getF pgPci (Reg.PCI_DMA_STAT_HALTED c) = 1 ∧
         Occurred s t pgPci 0 0x2F 3 (leBytes 1 c ++ leBytes 2 (head % n) ++ leBytes 1 x.status))) ∧
   (∀ (s : State) (c val : Nat), c < 16 → val.testBit 1 = true → (s.writeReg pgPci (0x210 + 32 * c) val true).reaches pgPci = true →
     ∃ t, exec (.pciDmaResume c val) s = .next t ∧ t.getF pgPci (Reg.PCI_DMA_STAT_HALTED c) = 0 ∧ t.dma = s.dma ∧
       t = { s with regFile := t.regFile }))

/-- BAR2 and the log tail (R393, R429, R530, R531): an access within the window and filled HBM reads or writes through
slot 0; any other access, and every access of a sealed package, is refused and counted, a refused read answered as
unsupported. A write of DEV_LOG_TAIL lets the records held out of the full ring enter it in order, while they fit. -/
def Obligations.Bar2AndLogTail : Prop :=
  (∀ (s : State) (addr len : Nat) (bs : List Byte), bs.length = len → 0 < len → addr % 4096 + len ≤ 4096 →
    addr + len ≤ 2 ^ s.bar2Log2 → s.full = true → s.getF pgSec Reg.SEC_STAT_SEALED = 0 →
    (∃ xs, hbmStacks addr len = some xs ∧ ∀ x ∈ xs, s.stackGone x = false ∧ s.getF (pgMem x) Reg.MEM_STAT_FILLED = 1) →
    (∃ t, exec (.bar2Access addr len (some bs)) s = .next t ∧ BytesKept s t addr (addr + len) ∧ t.out = s.out ∧
      (s.errs = [] → t.mem = written s.mem [(addr, bs)])) ∧
    (∃ t, exec (.bar2Access addr len none) s = .next t ∧ t.mem = s.mem ∧
      t.out = s.out ++ [.hostRead (s.readBytes 0 addr len)])) ∧
  (∀ (s : State) (addr len : Nat) (bs : List Byte), s.getF pgSec Reg.SEC_STAT_SEALED = 1 ∨ 12 * stackSize < addr + len →
    (∃ t, exec (.bar2Access addr len (some bs)) s = .next t ∧ OnlyRegs s t ∧
      t.getF pgPci Reg.PCI_CNT_UR = min (2 ^ 32 - 1) (s.getF pgPci Reg.PCI_CNT_UR + 1)) ∧
    (∃ t, exec (.bar2Access addr len none) s = .next t ∧ OnlyOut s t ∧ t.out = s.out ++ [.unsupported] ∧
      t.getF pgPci Reg.PCI_CNT_UR = min (2 ^ 32 - 1) (s.getF pgPci Reg.PCI_CNT_UR + 1))) ∧
  (∀ (s : State) (val : Nat), s.reaches pgDev = true →
    let u : State := { s.setF pgDev Reg.DEV_LOG_TAIL_OFF val with inq.logFull := false }
    ∃ t, exec (.devLogTailWrite val) s = .next t ∧ t.logHeld.IsSuffix s.logHeld ∧
      (s.logHeld = [] → t = u) ∧
      (∀ h rest, s.logHeld = h :: rest → u.logUsed + (logRecord 0 0 h.kind h.q h.src h.payload).length ≤ u.logSize →
        t.logHeld.IsSuffix rest ∧ (rest = [] → t.logSeq = (s.logSeq + 1) % 2 ^ 32)) ∧
      (∀ h rest, s.logHeld = h :: rest → u.logSize < u.logUsed + (logRecord 0 0 h.kind h.q h.src h.payload).length → t = u))

/-! ### Reliability, repair, the Archive, groups -/

/-- Error correction in service (R424, R432 to R438): the patrol removes a correctable mark, reports an uncorrectable word and
leaves any other; every leak period takes 1 from each bucket; the checker test mode reports a refusal without an
effect (a command that names no code word is refused too: the model's choice, log 44), stores a word with what the decoder makes of
it, reads the verdict of a word, or does both in this order; a row repair fails for want of a spare row, waits for its flash write,
or corrects the correctable words of its row and ends; one more request while it runs does nothing (log 45). -/
def Obligations.ErrorCorrection : Prop :=
  (∀ (s : State) (inst addr off : Nat), instOff s.part inst addr = some off → inst / 4096 ≠ 9 → s.sramFilled = true →
    s.getF pgEcc Reg.ECC_SCRUB_SRAM_MINUTES ≠ 0 →
    let mark := sget (fun _ => 0) s.errs (cwName inst off)
    (mark ≠ 1 → mark ≠ 2 → exec (.patrolScrub inst addr) s = .next s) ∧
    (mark = 1 → ∃ t, exec (.patrolScrub inst addr) s = .next t ∧ sget (fun _ => 0) t.errs (cwName inst off) = 0 ∧
      (∀ j, j ≠ cwName inst off → sget (fun _ => 0) t.errs j = sget (fun _ => 0) s.errs j) ∧ t.mem = s.mem ∧ t.im = s.im ∧
      t.cat = s.cat ∧ t.am = s.am ∧ Counted s t pgEcc Reg.ECC_CNT_CE_SRAM 1) ∧
    (mark = 2 → ∃ t, exec (.patrolScrub inst addr) s = .next t ∧ t.errs = s.errs ∧ t.mem = s.mem ∧
      (t.getF (instPage inst) Reg.PG_EVT).testBit 0 = true ∧ Counted s t pgEcc Reg.ECC_CNT_UE_SRAM 1)) ∧
  (∀ (s : State) (x off : Nat), x < 12 → instOff s.part (9 * 4096 + x) off = some (off % stackSize) →
    s.flag (pgMem x) Reg.MEM_STAT_FILLED = true → s.flag (pgMem x) Reg.MEM_STAT_RETIRED = false →
    s.flag (pgMem x) Reg.MEM_SCRUB_HOURS = true → off % stackSize = sget (fun _ => 0) s.scrubPos (9 * 4096 + x) →
    let mark := sget (fun _ => 0) s.errs (cwName (9 * 4096 + x) (off % stackSize))
    ∃ t, exec (.patrolScrub (9 * 4096 + x) off) s = .next t ∧ t.mem = s.mem ∧
      sget (fun _ => 0) t.scrubPos (9 * 4096 + x) = (off % stackSize + 32) % stackSize ∧
      sget (fun _ => 0) t.errs (cwName (9 * 4096 + x) (off % stackSize)) = (if mark = 1 then 0 else mark) ∧
      (mark = 2 → (t.getF (pgMem x) Reg.PG_EVT).testBit 0 = true)) ∧
  (∀ s : State, swf (fun _ => 0) s.buckets = true →
    (s.now < s.leakAt + ms (s.getF pgEcc Reg.ECC_LB_CFG_LEAK_MS) → exec .bucketLeak s = .next s) ∧
    (s.leakAt + ms (s.getF pgEcc Reg.ECC_LB_CFG_LEAK_MS) ≤ s.now →
      ∃ t, exec .bucketLeak s = .next t ∧ t = { s with mems.buckets := t.buckets, mems.leakAt := t.leakAt } ∧
        t.leakAt = s.leakAt + ms (s.getF pgEcc Reg.ECC_LB_CFG_LEAK_MS) ∧
        ∀ i, sget (fun _ => 0) t.buckets i = sget (fun _ => 0) s.buckets i - 1)) ∧
  (∀ (s : State) (i : Instr) (val inst : Nat), i ∈ [Instr.eccTestWrite val, Instr.eccTestRead val] →
    let u := s.writeReg pgEcc 0x1B4 val true
    u.reaches pgEcc = true →
    (val.testBit 0 = false → val.testBit 1 = false → exec i s = .next u) ∧
    (val.testBit 0 = true ∨ val.testBit 1 = true →
      (u.testTarget = (inst, none) → ∃ t, exec i s = .next t ∧ t.mems = s.mems ∧ t.getF pgEcc Reg.ECC_TEST_STAT_REFUSED = 1) ∧
      (∀ off, u.testTarget = (inst, some off) →
        (u.testRefused inst off = true →
          ∃ t, exec i s = .next t ∧ t.mems = s.mems ∧ t.getF pgEcc Reg.ECC_TEST_STAT_REFUSED = 1) ∧
        (u.testRefused inst off = false → u.instServed inst = true →
          let data := ((List.range (cwBits inst / 32)).map (fun i => u.getF pgEcc (Reg.ECC_TEST_DATA i) * 2 ^ (32 * i))).foldl (· + ·) 0
          let chk := u.getF pgEcc Reg.ECC_TEST_CHK % (if cwBits inst = 256 then 2 ^ 32 else 2 ^ 16)
          let verdict := (eccDecode inst data chk).1
          ∃ t, exec i s = .next t ∧ t.getF pgEcc Reg.ECC_TEST_STAT_DONE = 1 ∧
            (val.testBit 0 = false → t.mems = s.mems ∧
              t.getF pgEcc Reg.ECC_TEST_STAT_VERDICT = sget (fun _ => 0) s.errs (cwName inst off) % 3) ∧
            (val.testBit 0 = true →
              sget (fun _ => 0) t.errs (cwName inst off) = (if verdict = 0 then 3 else verdict) ∧
              (∀ j, j ≠ cwName inst off → sget (fun _ => 0) t.errs j = sget (fun _ => 0) s.errs j) ∧
              (val.testBit 1 = true → t.getF pgEcc Reg.ECC_TEST_STAT_VERDICT = verdict ∧
                t.getF pgEcc Reg.ECC_TEST_CHK = chk)))))) ∧
  (∀ (s : State) (x val : Nat), x < 12 → s.part.hasStack x = true → val.testBit 0 = true → swf (fun _ => 0) s.errs = true →
    let u := s.writeReg (pgMem x) 0x110 val true
    u.reaches (pgMem x) = true →
    let word := (u.word (regIdx (pgMem x) Reg.MEM_PPR_ROW_PC)).toNat
    let mark (k : Nat) : Nat := sget (fun _ => 0) s.errs k
    (u.flag (pgMem x) Reg.MEM_PPR_STAT_BUSY = true → ∀ b, exec (.pprSoft x val b) s = .next u ∧ exec (.pprHard x val b) s = .next u) ∧
    (u.flag (pgMem x) Reg.MEM_PPR_STAT_BUSY = false →
      (∃ t, exec (.pprSoft x val false) s = .next t ∧ exec (.pprHard x val false) s = .next t ∧
        t.getF (pgMem x) Reg.MEM_PPR_STAT_FAIL = 1 ∧ t = { s with regFile := t.regFile }) ∧
      (∀ i ∈ [Instr.pprSoft x val true, Instr.pprHard x val true], u.flag (pgMem x) Reg.MEM_PPR_ROW_HARD = false → ∃ t, exec i s = .next t ∧
        t.getF (pgMem x) Reg.MEM_PPR_STAT_BUSY = 1 ∧ t.mem = s.mem ∧
        ∀ k, sget (fun _ => 0) t.errs k =
          (if k / 2 ^ 48 = 9 * 4096 + x ∧ Config.hbmRow x (k % 2 ^ 48 * 32) % 2 ^ 30 = word % 2 ^ 30 ∧ mark k = 1 then 0 else mark k)) ∧
      (∀ i ∈ [Instr.pprSoft x val true, Instr.pprHard x val true], u.flag (pgMem x) Reg.MEM_PPR_ROW_HARD = true → ∃ t, exec i s = .next t ∧
        t.repairWrites = s.repairWrites ++ [.ppr x word] ∧ t.mems = s.mems))) ∧
  (∀ (s : State) (x : Nat), x < 12 → s.getF (pgMem x) Reg.MEM_PPR_STAT_BUSY = 1 →
    ∃ t, exec (.pprSoftDone x) s = .next t ∧ t.getF (pgMem x) Reg.MEM_PPR_STAT_BUSY = 0 ∧
      t.getF (pgMem x) Reg.MEM_PPR_STAT_DONE = 1 ∧ OnlyRegs s t ∧ WordsKept s t [regIdx (pgMem x) Reg.MEM_PPR_STAT_BUSY])

/-- Placement epochs (R637, R639, R640): a result of the epoch in force, or of the one that retires, is written where it
is addressed and nowhere else, and the latter is counted down; a result of any other epoch writes nothing and raises
STALE_RESULT; while a copy runs every result waits. A retiring epoch ends after its time. The live repair of a region
(R641 to R644): a request that may not be made only sets FAIL and its reason; with clusters running it waits for a
landing, else the epoch advances and the copy begins; after the copy the new slot serves the local index and the
clusters' memories are as before; after the rescan the repair is done, counted, reported, and its record waits for the
flash, which the Curator writes when no other flash operation runs. -/
def Obligations.EpochsAndRegionRepair : Prop :=
  ((∀ (s : State) (c epoch addr : Nat) (data : List Byte), c < 512 → cluRange s.part addr data.length = some c →
     let pg := pgRgn (regionOf c)
     (s.copying c = true → ∃ t, exec (.inboundResult c epoch addr data) s = .next t ∧ t.mems = s.mems ∧
       (t.rgn (regionOf c)).inbound = (s.rgn (regionOf c)).inbound ++ [(c, epoch, addr, data)]) ∧
     (s.copying c = false → epoch = s.getF pg Reg.PG_EPOCH_EPOCH →
       ∃ t, exec (.inboundResult c epoch addr data) s = .next t ∧ BytesKept s t addr (addr + data.length) ∧
         (s.errs = [] → t.mem = written s.mem [(addr, data)] ∧ t.regs = s.regs)) ∧
     (s.copying c = false → epoch ≠ s.getF pg Reg.PG_EPOCH_EPOCH → s.getF pg Reg.PG_EPOCH_RVALID = 1 →
       epoch = s.getF pg Reg.PG_EPOCH_RETIRING →
       ∃ t, exec (.inboundResult c epoch addr data) s = .next t ∧ BytesKept s t addr (addr + data.length) ∧
         (s.errs = [] → t.mem = written s.mem [(addr, data)]) ∧
         t.getF pg Reg.RGN_EPOCH_OUT_COUNT = s.getF pg Reg.RGN_EPOCH_OUT_COUNT - 1 ∧
         (t.getF pg Reg.PG_EPOCH_RVALID = 0 ↔ s.getF pg Reg.RGN_EPOCH_OUT_COUNT ≤ 1)) ∧
     (s.copying c = false → epoch ≠ s.getF pg Reg.PG_EPOCH_EPOCH →
       (s.getF pg Reg.PG_EPOCH_RVALID = 0 ∨ epoch ≠ s.getF pg Reg.PG_EPOCH_RETIRING) →
       ∃ t, exec (.inboundResult c epoch addr data) s = .next t ∧ t.mems = s.mems ∧ Counted s t pg Reg.RGN_CNT_STALE 1 ∧
         (t.getF pg Reg.PG_EVT).testBit 0 = true ∧ OnlyEvents s t)) ∧
   (∀ (s : State) (r : Nat), r < 32 → s.getF (pgRgn r) Reg.PG_EPOCH_RVALID = 1 →
     (s.rgn r).epochAt + us (s.getF (pgRgn r) Reg.RGN_EPOCH_TMO_US) ≤ s.now →
     ∃ t, exec (.epochRetireTimeout r) s = .next t ∧ t.getF (pgRgn r) Reg.PG_EPOCH_RVALID = 0 ∧
       t.getF (pgRgn r) Reg.RGN_EPOCH_OUT_COUNT = 0 ∧ OnlyRegs s t)) ∧
  ((∀ (s : State) (r val : Nat), r < 32 → val.testBit 31 = true →
     let u := s.writeReg (pgRgn r) 0x104 val true
     let i := u.getF (pgRgn r) Reg.RGN_REPAIR_CTL_LOCAL
     let g := u.getF (pgRgn r) Reg.RGN_REPAIR_CTL_GRP
     u.reaches (pgRgn r) = true →
     (u.repairWhy r i g ≠ 0 → ∃ t, exec (.regionRepair r val) s = .next t ∧ t.getF (pgRgn r) Reg.RGN_REPAIR_STAT_FAIL = 1 ∧
       t.getF (pgRgn r) Reg.RGN_REPAIR_STAT_WHY = u.repairWhy r i g ∧ t = { s with regFile := t.regFile } ∧
       t.getF (pgRgn r) Reg.RGN_REPAIR_STAT_STATE = u.getF (pgRgn r) Reg.RGN_REPAIR_STAT_STATE) ∧
     (u.repairWhy r i g = 0 → u.regionRunning r = true → ∃ t, exec (.regionRepair r val) s = .next t ∧
       t.getF (pgRgn r) Reg.RGN_REPAIR_STAT_STATE = 1 ∧ (t.rgn r).repairLocal = i ∧ (t.rgn r).repairGrp = g ∧
       t.getF (pgRgn r) Reg.PG_EPOCH_EPOCH = u.getF (pgRgn r) Reg.PG_EPOCH_EPOCH ∧ t.mems = s.mems) ∧
     (u.repairWhy r i g = 0 → u.regionRunning r = false → ∃ t, exec (.regionRepair r val) s = .next t ∧
       t.getF (pgRgn r) Reg.RGN_REPAIR_STAT_STATE = 2 ∧ (t.rgn r).repairLocal = i ∧
       (t.rgn r).repairEnd = s.now + s.cyc (16 * r) 3000 ∧ t.mems = s.mems ∧
       t.getF (pgRgn r) Reg.PG_EPOCH_EPOCH = (u.getF (pgRgn r) Reg.PG_EPOCH_EPOCH + 1) % 2 ^ Reg.PG_EPOCH_EPOCH.width ∧
       t.getF (pgRgn r) Reg.PG_EPOCH_RETIRING = u.getF (pgRgn r) Reg.PG_EPOCH_EPOCH)) ∧
   (∀ (s : State) (r : Nat), r < 32 → s.getF (pgRgn r) Reg.RGN_REPAIR_STAT_STATE = 2 → (s.rgn r).repairEnd ≤ s.now →
     (s.rgn r).repairLocal < 16 → (s.rgn r).inbound = [] →
     ∃ t, exec (.repairCopyDone r) s = .next t ∧ t.getF (pgRgn r) Reg.RGN_REPAIR_STAT_STATE = 3 ∧
       t.slotOf (16 * r + (s.rgn r).repairLocal) =
         (if s.getF (pgRgn r) Reg.RGN_SPARE_USED = 0 then 16 else (s.rgn r).repairLocal) ∧
       t.mem = s.mem ∧ t.im = s.im ∧ t.cat = s.cat ∧ t.am = s.am ∧ t.tiles = s.tiles) ∧
   (∀ (s : State) (r : Nat) (ok : Bool), r < 32 → s.getF (pgRgn r) Reg.RGN_REPAIR_STAT_STATE = 3 →
     ∃ t, exec (.rescanDone r ok) s = .next t ∧ t.getF (pgRgn r) Reg.RGN_REPAIR_STAT_STATE = 0 ∧
       t.getF (pgRgn r) Reg.RGN_REPAIR_STAT_DONE = 1 ∧ t.repairWrites = s.repairWrites ++ [.repair r] ∧
       (t.getF (pgRgn r) Reg.PG_EVT).testBit 1 = true ∧ Counted s t (pgRgn r) Reg.RGN_CNT_REPAIR 1 ∧ t.mems = s.mems ∧
       (ok = true → t.getF (pgRgn r) Reg.RGN_SLOT_FAIL_SLOTS = s.getF (pgRgn r) Reg.RGN_SLOT_FAIL_SLOTS) ∧
       (ok = false → (s.rgn r).vacated < 17 → (t.getF (pgRgn r) Reg.RGN_SLOT_FAIL_SLOTS).testBit (s.rgn r).vacated = true)) ∧
   (∀ (s : State) (op : FlashOp) (rest : List FlashOp), s.repairWrites = op :: rest → s.flashBusy = false → s.cur.flashHeld = false →
     ∃ t, exec .repairRecordWrite s = .next t ∧ t.repairWrites = rest ∧ t.cur.flashOp = some op ∧ t.flash = s.flash ∧
       t = { s with arch.repairWrites := t.repairWrites, brd.cur := t.cur }))

/-- Session commands of the Archive (R419, R420): one that may not be made sets FAIL and its reason and does nothing else;
one that may is BUSY, with the session marked, until it completes: OPEN leaves an empty ACTIVE session, SCRUB frees
every page of the session and leaves it FREE, REKEY leaves it ACTIVE under the new key slot. A requantisation that
ends is marked done (R416). The retirement of a stack (R647 to R651): a request that may not be made sets FAIL and its
reason; else the stack grants no page while the pages of its spans move off it, never more of them on it than before;
once none is left the stack is RETIRED, reported, and its bytes are gone, while every other stack keeps its own. -/
def Obligations.ArchiveSessionsAndRetirement : Prop :=
  ((∀ (s : State) (i : Instr) (val : Nat), i ∈ [Instr.arcOpen val, Instr.arcScrub val, Instr.arcRekey val] → val.testBit 31 = true →
     s.errs = [] →
     let u := s.writeReg pgDev 0x170 val true
     let op := u.getF pgDev Reg.DEV_ARC_CMD_OP
     let n := u.getF pgDev Reg.DEV_ARC_CMD_SESS
     let k := u.getF pgDev Reg.DEV_ARC_CMD_NEWSLOT
     u.reaches pgDev = true →
     (u.arcWhy op n k ≠ 0 → ∃ t, exec i s = .next t ∧ t.getF pgDev Reg.DEV_ARC_STAT_FAIL = 1 ∧
       t.getF pgDev Reg.DEV_ARC_STAT_WHY = u.arcWhy op n k ∧ t = { s with regFile := t.regFile }) ∧
     (u.arcWhy op n k = 0 → ∃ t, exec i s = .next t ∧ t.getF pgDev Reg.DEV_ARC_STAT_BUSY = 1 ∧
       t.arcCmd = some { op := op, sess := n, newSlot := k } ∧ t.alloc = s.alloc ∧
       t.sess n = { u.sess n with state := if op = 2 then sessScrubbing else if op = 3 then sessRekeying else (u.sess n).state } ∧
       BytesKept s t (u.sessBase + 64 * n) (u.sessBase + 64 * n + 64))) ∧
   (∀ (s : State) (cmd : ArcCmd), s.arcCmd = some cmd → s.errs = [] → s.getF pgDev Reg.DEV_ARC_CFG_EN = 1 → cmd.newSlot < 256 →
     let r := s.sess cmd.sess
     ∃ t, exec .arcCommandComplete s = .next t ∧ t.arcCmd = none ∧ t.getF pgDev Reg.DEV_ARC_STAT_BUSY = 0 ∧
       t.getF pgDev Reg.DEV_ARC_STAT_DONE = 1 ∧ t.getF pgDev Reg.DEV_ARC_STAT_WHY = 0 ∧
       (cmd.op = 1 → t.sess cmd.sess = { r with state := sessActive, len := 0, scnext := 16 } ∧ t.alloc = s.alloc) ∧
       (cmd.op = 2 → (t.sess cmd.sess).state = sessFree ∧ (∀ p ∈ s.sessPages cmd.sess r, p ∉ t.alloc) ∧
         (∀ p ∈ t.alloc, p ∈ s.alloc) ∧ ∀ q ∈ t.requant, q.sess ≠ cmd.sess) ∧
       (cmd.op = 3 → t.sess cmd.sess = { r with state := sessActive, kslot := cmd.newSlot } ∧ t.alloc = s.alloc)) ∧
   (∀ (s : State) (n k p : Nat) (q : Requant),
     s.requant.find? (fun q => q.sess = n && q.stream = k && q.span = p && !q.done) = some q →
     ∃ t, exec (.requantComplete n k p) s = .next t ∧ { q with done := true } ∈ t.requant ∧ q ∉ t.requant ∧
       t.requant.length = s.requant.length ∧ t.alloc = s.alloc ∧ t.im = s.im ∧ t.cat = s.cat)) ∧
  ((∀ (s : State) (val : Nat), val.testBit 31 = true →
     let u := s.writeReg pgDev 0x1C0 val true
     let x := u.getF pgDev Reg.DEV_RET_CMD_STACK
     u.reaches pgDev = true →
     (u.retWhy x ≠ 0 → ∃ t, exec (.stackRetire val) s = .next t ∧ t.getF pgDev Reg.DEV_RET_STAT_FAIL = 1 ∧
       t.getF pgDev Reg.DEV_RET_STAT_WHY = u.retWhy x ∧ t = { s with regFile := t.regFile }) ∧
     (u.retWhy x = 0 → ∃ t, exec (.stackRetire val) s = .next t ∧ t.retire = some { stack := x, moved := 0 } ∧
       t.getF pgDev Reg.DEV_RET_STAT_BUSY = 1 ∧ t.grants x = false ∧ t.mems = s.mems)) ∧
   (∀ (s : State) (ret : Retire) (n : Nat) (ps : List Nat), s.retire = some ret → s.nextMigrate ret.stack = some (n, ps) →
     ∃ t, exec .spanMigrate s = .next t ∧ t.retire.map (·.stack) = some ret.stack ∧
       t.getF pgDev Reg.DEV_RET_LEFT_PAGES = (t.allocOn ret.stack).length % 2 ^ Reg.DEV_RET_LEFT_PAGES.width ∧
       (t.allocOn ret.stack).length ≤ (s.allocOn ret.stack).length ∧ t.im = s.im ∧ t.cat = s.cat ∧ t.am = s.am) ∧
   (∀ (s : State) (ret : Retire), s.retire = some ret → s.nextMigrate ret.stack = none → exec .spanMigrate s = .next s) ∧
   (∀ (s : State) (ret : Retire), s.retire = some ret → s.allocOn ret.stack ≠ [] → exec .retirementComplete s = .next s) ∧
   (∀ (s : State) (ret : Retire), ret.stack < 12 → s.retire = some ret → s.allocOn ret.stack = [] →
     ∃ t, exec .retirementComplete s = .next t ∧ t.retire = none ∧ t.getF (pgMem ret.stack) Reg.MEM_STAT_RETIRED = 1 ∧
       t.getF pgDev Reg.DEV_RET_STAT_BUSY = 0 ∧ t.getF pgDev Reg.DEV_RET_STAT_DONE = 1 ∧
       (∀ a, ret.stack * stackSize ≤ a → a < (ret.stack + 1) * stackSize → t.byteAt a = 0) ∧
       BytesKept s t (ret.stack * stackSize) ((ret.stack + 1) * stackSize) ∧
       t.repairWrites = s.repairWrites ++ [.retire ret.stack] ∧
       Occurred s t (pgMem ret.stack) 2 0x2C 0 (leBytes 1 ret.stack ++ leBytes 4 ret.moved)))

/-- The group table (R489, R492, R518): a LOAD of a sound image puts its members, weight and slots into the entry, with a
reservation that its Cloakroom has room for; a CLEAR empties the entry; other entries stay. A group that a cluster
holds is BUSY, and a refused image changes no entry. -/
def Obligations.GroupTable : Prop :=
  ∀ (s : State) (val : Nat), val.testBit 31 = true → s.errs = [] →
    let u := s.writeReg pgDev 0x180 val true
    let g := u.getF pgDev Reg.DEV_GRP_CMD_GRP
    let a := u.getF pgDev Reg.DEV_GRP_IMG_LO_ADDR + u.getF pgDev Reg.DEV_GRP_IMG_HI_ADDR * 2 ^ 32
    let x := u.groupImage a
    u.reaches pgDev = true →
    (u.getF pgDev Reg.DEV_GRP_CMD_OP = 1 → u.groupHeld g = false → a % 64 = 0 → u.plain a 64 = true →
      u.plain a (64 + 72 * x.nmem) = true →
      (x.bad = false → (∀ m ∈ x.members, m.pkg = u.pkg → ∀ c ∈ m.clusters, u.avail (regionOf c) = true) →
        ∃ t e, exec (.grpLoad val) s = .next t ∧ t.group g = some e ∧ e.members = x.members ∧ e.wmin = x.wmin ∧
          e.rslots = x.rslots ∧ (∀ d, e.clo = some d → x.rslots ≤ u.cloFree d g ∧ 0 < x.rslots) ∧
          (∀ h, h ≠ g → t.group h = s.group h) ∧ t.getF pgDev Reg.DEV_GRP_STAT_DONE = 1 ∧ t.mems = s.mems) ∧
      (x.bad = true → ∃ t, exec (.grpLoad val) s = .next t ∧ t.groups = s.groups ∧ t.mems = s.mems ∧
        t.getF pgDev Reg.DEV_GRP_STAT_FAIL = 1 ∧ t.getF pgDev Reg.DEV_GRP_STAT_WHY = 2)) ∧
    (u.getF pgDev Reg.DEV_GRP_CMD_OP = 2 → u.groupHeld g = false →
      ∃ t, exec (.grpClear val) s = .next t ∧ t.group g = none ∧ (∀ h, h ≠ g → t.group h = s.group h) ∧
        t.getF pgDev Reg.DEV_GRP_STAT_DONE = 1 ∧ t.mems = s.mems) ∧
    (u.getF pgDev Reg.DEV_GRP_CMD_OP ∈ [1, 2] → u.groupHeld g = true →
      ∃ t, exec (.grpClear val) s = .next t ∧ t.groups = s.groups ∧ t.getF pgDev Reg.DEV_GRP_STAT_FAIL = 1 ∧
        t.getF pgDev Reg.DEV_GRP_STAT_WHY = 1 ∧ t = { s with regFile := t.regFile })

/-! ### Efurn -/

/-- A port's way up (R445, R472, R473, R479, R480, R580): TRAIN to ALIGN to IDCHECK to KEYX to UP on the lanes that passed, straight
or reversed, or FAILED or MISWIRE, and another try 1 s later. A KEYX without entropy fails as well. -/
def Obligations.LinkBringUp : Prop :=
  ∀ (s : State) (k : Nat), k < 8 →
    (∀ lanesOk, s.lnk k = lnkTrain →
      let good := lanesOk &&& s.cfgLanes k
      ∃ t, exec (.pmdTrainingDone k lanesOk) s = .next t ∧
        (good = 0 → BringUpFailed s t k 0) ∧
        (good ≠ 0 → t.lnk k = lnkAlign ∧ (t.port k).good = good ∧ PortKept s t k)) ∧
    (∀ lanesOk order, s.lnk k = lnkAlign →
      let good := lanesOk &&& (s.port k).good
      ∃ t, exec (.laneAlignDone k lanesOk order) s = .next t ∧
        (good = 0 ∨ 2 ≤ order → BringUpFailed s t k 0) ∧
        (good ≠ 0 → order < 2 → t.lnk k = lnkIdcheck ∧ (t.port k).good = good ∧ ((t.port k).rev = true ↔ order = 1) ∧ PortKept s t k ∧
          ∃ o, t.out = s.out ++ [o] ∧ HopSent s k 0xD [s.pkg, k, s.getF (pgLnk k) Reg.LNK_CFG_ROLE] o)) ∧
    (∀ id port, s.lnk k = lnkIdcheck → id < 4096 → port < 8 →
      ∃ t, exec (.identReceive k id port) s = .next t ∧ PortKept s t k ∧ t.getF (pgLnk k) Reg.LNK_PEER_ID = id ∧
        t.getF (pgLnk k) Reg.LNK_PEER_PORT = port ∧ t.getF (pgLnk k) Reg.LNK_PEER_VALID = 1 ∧
        (id = s.partner k → t.lnk k = lnkKeyx) ∧
        (id ≠ s.partner k → t.lnk k = lnkMiswire ∧ (t.port k).failedAt = s.now ∧
          ((s.port k).miswire ≠ some id →
            Occurred s t (pgLnk k) 4 0x23 3 (leBytes 2 s.pkg ++ leBytes 2 id ++ leBytes 1 port)))) ∧
    (∀ i, s.lnk k = lnkKeyx →
      ∃ t, exec (.keyxDone k i) s = .next t ∧
        (s.keyxOk i = false ∨ s.cur.entropyBad = true → BringUpFailed s t k 2) ∧
        (s.keyxOk i = true → s.cur.entropyBad = false → PortKept s t k ∧ t.lnk k = lnkUp ∧ t.lanes k = (s.port k).good % 2 ^ 16 ∧
          t.getF (pgLnk k) Reg.LNK_STAT_NACT = popcount16 (s.port k).good ∧
          t.getF (pgLnk k) Reg.LNK_STAT_ENC = (s.flag (pgLnk k) Reg.LNK_CFG_ENC || i.peerEnc).toNat ∧
          (t.port k).keyGen = (s.port k).keyGen + 1 ∧ (t.port k).txCtr = 0 ∧ (t.port k).rxCtr = 0 ∧
          Occurred s t (pgLnk k) 2 0x21 0
            (leBytes 4 (t.readReg (pgLnk k) 0x804).toNat ++ leBytes 1 (popcount16 (s.port k).good)))) ∧
    (s.lnk k = lnkFailed ∨ s.lnk k = lnkMiswire → (s.port k).failedAt + ms 1000 ≤ s.now →
      ∃ t, exec (.linkRetryTimer k) s = .next t ∧ t.lnk k = (if s.trains k then lnkTrain else lnkDown) ∧ OnlyRegs s t ∧
        PagesKept s t (pgLnk k) [])

/-- Lanes of a port (R445, R451, R452, R476, R481 to R484): codewords are counted by lane from ALIGN on. On a port that is UP, a lane that
loses lock, or whose codewords fail four times in a row, is no
longer sent on and is dropped at an instant that both ends know; with AUTODROP a lane that fails too often in the health window is dropped as well;
at that instant the port has its new lanes. What the partner names, it names by its own numbering, in reversed order where
the bundle is. A HOP flit whose tag fails has no effect but the count. A port that loses its last lane goes down. -/
def Obligations.LaneFaultsAndSwitches : Prop :=
  ∀ (s : State) (k : Nat), k < 8 →
    (∀ lane, lane < 16 → s.lnk k = lnkUp → (s.lanes k).testBit lane = true → (s.port k).txOff.testBit lane = false →
      (s.nextLanes k).testBit lane = true →
      let new := without (s.nextLanes k) (2 ^ lane)
      ∃ t, exec (.laneLockLoss k lane) s = .next t ∧
        (t.getF (pgLnk k) Reg.LNK_LANE_FAULT_LANES).testBit lane = true ∧
        Occurred s t (pgLnk k) 5 0x24 1 (leBytes 1 lane ++ leBytes 1 0) ∧
        (new ≠ 0 → PortKept s t k ∧ t.lnk k = lnkUp ∧ t.lanes k = s.lanes k ∧ (t.port k).txOff = (s.port k).txOff ||| 2 ^ lane ∧
          (t.port k).lswitch = some (new, s.switchAt k) ∧ t.getF (pgLnk k) Reg.LNK_STAT_PENDING = 1 ∧
          ∃ o1 o2, t.out = s.out ++ [o1, o2] ∧ HopSent s k 0xA [2 ^ lane / 2 ^ s.laneBase k] o1 ∧
            HopSent s k 0xB [new / 2 ^ s.laneBase k, s.switchAt k] o2) ∧
        (new = 0 → WentDown s t k)) ∧
    (∀ lane corrected bad, lane < 16 → (s.rxLanes k).testBit lane = true →
      (corrected ≤ 15 → ∃ t, exec (.codewordReceive k lane true corrected bad) s = .next t ∧ PortKept s t k ∧
        sget (fun _ => 0) (t.port k).consec lane = 0 ∧
        sget (fun _ => 0) (t.port k).corr lane = sget (fun _ => 0) (s.port k).corr lane + corrected ∧
        Counted s t (pgLnk k) Reg.LNK_CNT_BAD bad) ∧
      (∀ ok, ok = false ∨ 15 < corrected → ∃ t, exec (.codewordReceive k lane ok corrected bad) s = .next t ∧
        Counted s t (pgLnk k) Reg.LNK_CNT_CW_UNC 1 ∧
        sget (fun _ => 0) (t.port k).uc lane = sget (fun _ => 0) (s.port k).uc lane + 1 ∧
        (PortKept s t k ∧ t.lnk k = s.lnk k ∨
          WentDown s t k ∧ s.lnk k = lnkUp ∧ without (s.nextLanes k) (2 ^ lane) = 0) ∧
        (s.lnk k = lnkUp → 3 ≤ sget (fun _ => 0) (s.port k).consec lane → (s.port k).txOff.testBit lane = false →
          Occurred s t (pgLnk k) 5 0x24 1 (leBytes 1 lane ++ leBytes 1 1) ∧
          (t.getF (pgLnk k) Reg.LNK_LANE_FAULT_LANES).testBit lane = true) ∧
        (s.lnk k = lnkUp → sget (fun _ => 0) (s.port k).consec lane < 3 → s.flag (pgLnk k) Reg.LNK_CFG_AUTODROP = true →
          s.getF (pgLnk k) Reg.LNK_HEALTH_THRESH ≤ (((s.port k).winUc.filter (fun x =>
            decide (s.now < x.2 + ms (s.getF (pgLnk k) Reg.LNK_HEALTH_WIN_MS)))).filter (fun x => x.1 = lane)).length →
          (s.nextLanes k).testBit lane = true → without (s.nextLanes k) (2 ^ lane) ≠ 0 →
          (t.port k).lswitch = some (without (s.nextLanes k) (2 ^ lane), s.switchAt k)))) ∧
    (∀ lanes tagOk, s.lnk k = lnkUp → ∃ t, exec (.laneDownReceive k ⟨lanes, tagOk⟩) s = .next t ∧
      (s.flag (pgLnk k) Reg.LNK_STAT_ENC = false ∨ tagOk = true → PortKept s t k ∧
        (t.port k).txOff = (s.port k).txOff ||| s.lanesHere k lanes ∧ t.lanes k = s.lanes k) ∧
      (s.flag (pgLnk k) Reg.LNK_STAT_ENC = true → tagOk = false → TagFailed s t k 2 (s.getF (pgLnk k) Reg.LNK_PEER_ID))) ∧
    (∀ lanes at_ tagOk, s.lnk k = lnkUp → ∃ t, exec (.lanesetReceive k ⟨lanes, tagOk⟩ at_) s = .next t ∧
      (s.flag (pgLnk k) Reg.LNK_STAT_ENC = false ∨ tagOk = true → PortKept s t k ∧
        (t.port k).lswitch = some (s.lanesHere k lanes, at_) ∧
        t.getF (pgLnk k) Reg.LNK_STAT_PENDING = 1 ∧ t.lanes k = s.lanes k) ∧
      (s.flag (pgLnk k) Reg.LNK_STAT_ENC = true → tagOk = false → TagFailed s t k 2 (s.getF (pgLnk k) Reg.LNK_PEER_ID))) ∧
    (∀ i, (s.port k).rev = true → i < widthLanes (s.getF (pgLnk k) Reg.LNK_CFG_WIDTH) →
      s.lanesHere k (2 ^ i) =
        2 ^ (widthLanes (s.getF (pgLnk k) Reg.LNK_CFG_WIDTH) - 1 - i) * 2 ^ s.laneBase k &&& s.lanes k) ∧
    (∀ new at_, (s.port k).lswitch = some (new, at_) →
      (s.rot < at_ ∨ s.lnk k ≠ lnkUp → exec (.laneSwitch k) s = .next s) ∧
      (at_ ≤ s.rot → s.lnk k = lnkUp →
        ∃ t, exec (.laneSwitch k) s = .next t ∧ (t.port k).lswitch = none ∧
          t.getF (pgLnk k) Reg.LNK_STAT_PENDING = 0 ∧
          Occurred s t (pgLnk k) 6 0x25 1 (leBytes 2 (s.lanes k) ++ leBytes 2 new) ∧
          (new ≠ 0 → PortKept s t k ∧ t.lnk k = lnkUp ∧ t.lanes k = new % 2 ^ 16 ∧
            t.getF (pgLnk k) Reg.LNK_STAT_NACT = popcount16 new ∧ (t.port k).slot = 0 ∧ (t.port k).restart = s.now + alignTime) ∧
          (new = 0 → WentDown s t k)))

/-- LNK_LANECMD on a port that is UP, after its LANE field has been written (R673): DROP drops a lane (R482), REKEY starts
a key agreement (R475), its HOP flit authenticated under the keys in force (R473), TRAIN takes the port down with cause 4 (R479). New keys come in force at the instant of the
exchange with both counters at 0 (R475), a REKEY with a bad tag is a tag failure (R476), and credits come back, in a CREDIT HOP flit that is
authenticated or in the credit fields of an IDLE flit (R464, R477). -/
def Obligations.LinkCommandsAndKeys : Prop :=
  (∀ (s : State) (k val : Nat),
    let u := s.writeReg (pgLnk k) 0x110 val true
    let new := without (u.nextLanes k) (2 ^ u.getF (pgLnk k) Reg.LNK_LANECMD_LANE)
    k < 8 → u.lnk k = lnkUp → u.reaches (pgLnk k) = true →
    (val.testBit 4 = true → val.testBit 6 = false → (u.nextLanes k).testBit (u.getF (pgLnk k) Reg.LNK_LANECMD_LANE) = true →
      ∃ t, exec (.laneDropCmd k val) s = .next t ∧
        (new ≠ 0 → PortKept u t k ∧ (t.port k).lswitch = some (new, u.switchAt k) ∧ t.getF (pgLnk k) Reg.LNK_STAT_PENDING = 1 ∧
          t.lanes k = u.lanes k ∧ ∃ o ∈ t.out, HopSent u k 0xB [new / 2 ^ u.laneBase k, u.switchAt k] o) ∧
        (new = 0 → WentDown u t k)) ∧
    (val.testBit 5 = true → val.testBit 4 = false → val.testBit 6 = false →
      ∃ t, exec (.linkRekeyCmd k val) s = .next t ∧ PortKept u t k ∧ (t.port k).rekeying = true ∧ t.lnk k = lnkUp ∧
        ((u.port k).rekeying = true → t = u) ∧
        ((u.port k).rekeying = false → (t.port k).txCtr = (u.port k).txCtr + 1 ∧ ∃ lane n v l,
          t.out = u.out ++ [.flit k lane { u.hopFlit k 0xC [] with cred := n, cvc := v, ccls := l }])) ∧
    (val.testBit 6 = true → val.testBit 5 = false → val.testBit 4 = false →
      ∃ t, exec (.linkRetrainCmd k val) s = .next t ∧ WentDown u t k ∧ t.out = u.out)) ∧
  (∀ (s : State) (k : Nat) (tagOk : Bool), k < 8 → s.lnk k = lnkUp →
    ∃ t, exec (.rekeyReceive k tagOk) s = .next t ∧
      (s.flag (pgLnk k) Reg.LNK_STAT_ENC = false ∨ tagOk = true → PortKept s t k ∧
        (t.port k).rekeyAt = some (s.rot + us 4) ∧ (t.port k).rekeying = true ∧
        ((s.port k).rekeying = false → ∃ o ∈ t.out, HopSent s k 0xC [] o)) ∧
      (s.flag (pgLnk k) Reg.LNK_STAT_ENC = true → tagOk = false → TagFailed s t k 2 (s.getF (pgLnk k) Reg.LNK_PEER_ID))) ∧
  (∀ (s : State) (k at_ : Nat), k < 8 → (s.port k).rekeyAt = some at_ → at_ ≤ s.rot →
    ∃ t, exec (.rekeySwitch k) s = .next t ∧ PortKept s t k ∧ (t.port k).keyGen = (s.port k).keyGen + 1 ∧
      (t.port k).txCtr = 0 ∧ (t.port k).rxCtr = 0 ∧ (t.port k).rekeyAt = none ∧ (t.port k).rekeying = false ∧
      t.regs = s.regs ∧ t.out = s.out) ∧
  (∀ (s : State) (k vc cls n : Nat) (hop tagOk : Bool), k < 8 → s.lnk k = lnkUp →
    ∃ t, exec (.creditReceive k vc cls ⟨n, hop, tagOk⟩) s = .next t ∧
      (hop = false ∨ s.flag (pgLnk k) Reg.LNK_STAT_ENC = false ∨ tagOk = true → PortKept s t k ∧
        ∀ j, sget (fun _ => 0) (t.port k).used j =
          sget (fun _ => 0) (s.port k).used j - if j = 2 * vc + cls then n else 0) ∧
      (hop = true → s.flag (pgLnk k) Reg.LNK_STAT_ENC = true → tagOk = false →
        TagFailed s t k 2 (s.getF (pgLnk k) Reg.LNK_PEER_ID)))

/-- A chunk that arrives at a port that is UP (R452, R456, R461, R464, R466, R468, R470, R474, R476): flits of a reserved header, a bad tag,
a bad CRC and a chunk already delivered are counted and deliver nothing; the next chunk of its stream is delivered, and the sixteenth
delivery is acknowledged at once; one that comes before its turn is held; a chunk for another package joins the queue of its port, unchanged, and
fills its receive buffer until it has left. What its credit fields return is credited. A HOP flit of KIND TIME is
answered with the stamps of its arrival and of the answer (R306, R311). -/
def Obligations.ChunkReceived : Prop :=
  ∀ (s : State) (k : Nat) (ch : Chunk), k < 8 → s.lnk k = lnkUp → ch.seq < 2 ^ 32 →
    let words := chunkFlits ch.data.length
    let short : Prop := ch.ty ≠ 1 ∨ ch.data = [] ∨ 4096 < ch.data.length
    let whole : Prop := ¬ short ∧ ch.badFlits = 0
    let tagged : Prop := s.flag (pgLnk k) Reg.LNK_STAT_ENC = false ∨ ch.tagOk = true
    ∃ t, exec (.chunkReceive k ch) s = .next t ∧ (ch.vc = 2 ∨ ch.dst ≠ s.pkg → t.mems = s.mems ∧ t.sched = s.sched) ∧
      (ch.ty = 2 →
        (tagged → PortKept s t k ∧
          (ch.kind = 8 → ∃ o ∈ t.out, HopSent s k 0x8 [ch.t1, s.timeOf (pgLnk k), s.timeOf (pgLnk k)] o)) ∧
        (¬ tagged → TagFailed s t k 2 (s.getF (pgLnk k) Reg.LNK_PEER_ID))) ∧
      (ch.ty ≠ 2 → ¬ whole → PortKept s t k ∧
        (short → Counted s t (pgLnk k) Reg.LNK_CNT_BAD words ∧ t.getF (pgLnk k) Reg.LNK_CNT_FLIT_RX = s.getF (pgLnk k) Reg.LNK_CNT_FLIT_RX) ∧
        (¬ short → Counted s t (pgLnk k) Reg.LNK_CNT_BAD (min ch.badFlits words) ∧
          Counted s t (pgLnk k) Reg.LNK_CNT_FLIT_RX (words - min ch.badFlits words))) ∧
      (whole → ch.vc = 2 ∨ ch.dst ≠ s.pkg → Counted s t (pgLnk k) Reg.LNK_CNT_FLIT_RX words) ∧
      (whole → ¬ tagged → TagFailed s t k ch.vc ch.src) ∧
      (∀ vc cls n, ch.credits = [(vc, cls, n)] → ch.ty ≠ 2 → (¬ whole ∨ ch.vc = 2 ∨ ch.dst ≠ s.pkg) →
        ∀ j, sget (fun _ => 0) (t.port k).used j = sget (fun _ => 0) (s.port k).used j - if j = 2 * vc + cls then n else 0) ∧
      (whole → tagged → ch.dst = s.pkg →
        (ch.crc ≠ (crc32c ch.data).toNat → Counted s t (pgLnk k) Reg.LNK_CNT_CRC 1 ∧ PortKept s t k ∧
          Occurred s t (pgLnk k) 8 0x27 1 (leBytes 2 ch.src ++ leBytes 1 ch.vc ++ leBytes 4 ch.seq)) ∧
        (ch.crc = (crc32c ch.data).toNat → ch.vc = 2 ∧ ch.kind = 4 → PortKept s t k) ∧
        (ch.crc = (crc32c ch.data).toNat → ¬(ch.vc = 2 ∧ ch.kind = 4) →
          (∀ r, s.rxStream ch.src ch.vc = some r → 2 ^ 31 ≤ (ch.seq + 2 ^ 32 - r.next) % 2 ^ 32 →
            Counted s t (pgLnk k) Reg.LNK_CNT_DUP 1 ∧ t.rx = s.rx ∧ t.mems = s.mems ∧ t.sched = s.sched) ∧
          (∀ r, s.rxStream ch.src ch.vc = some r → r.next = ch.seq → r.held = [] → ch.vc = 2 →
            (r.unacked < 15 → t.rxStream ch.src ch.vc = some
              { r with next := (ch.seq + 1) % 2 ^ 32, unacked := r.unacked + 1,
                       since := if r.unacked = 0 then s.now else r.since }) ∧
            (15 ≤ r.unacked → t.rxStream ch.src ch.vc = some { r with next := (ch.seq + 1) % 2 ^ 32, unacked := 0 } ∧
              ∀ j re, s.routePort ch.src = some (j, re) →
                ∃ x ∈ (t.port j).txq, x.kind = 4 ∧ x.vc = 2 ∧ x.seq = ch.seq ∧ x.dst = ch.src ∧ x.data = leBytes 1 ch.vc)) ∧
          (∀ r, s.rxStream ch.src ch.vc = some r → r.next < 2 ^ 32 → 0 < (ch.seq + 2 ^ 32 - r.next) % 2 ^ 32 →
            (ch.seq + 2 ^ 32 - r.next) % 2 ^ 32 < 64 → (∀ h ∈ r.held, h.1 ≠ ch.seq ∧ h.1 ≠ r.next) →
            PortKept s { t with fabric.rx := s.rx } k ∧
            t.rxStream ch.src ch.vc = some { r with held := r.held ++ [(ch.seq, ch.kind, ch.data)] }) ∧
          (s.rxStream ch.src ch.vc = none → ch.fresh = false → PortKept s t k) ∧
          (s.rxStream ch.src ch.vc = none → ch.fresh = true → ch.vc = 2 →
            t.rxStream ch.src ch.vc = some
              { src := ch.src, vc := ch.vc, next := (ch.seq + 1) % 2 ^ 32, held := [], unacked := 1, since := s.now }))) ∧
      (whole → tagged → ch.dst ≠ s.pkg →
        (s.getF (pgLnk k) Reg.LNK_CFG_ROLE = 2 ∧ 6 ≤ k → Counted s t (pgLnk k) Reg.LNK_CNT_BAD words ∧ PortKept s t k) ∧
        (¬(s.getF (pgLnk k) Reg.LNK_CFG_ROLE = 2 ∧ 6 ≤ k) →
          ∀ j re, s.forwardPort k ch.dst = some (j, re) → Counted s t (pgLnk j) Reg.LNK_CNT_FWD 1 ∧ t.rx = s.rx ∧
            t.retained = s.retained ∧
            (t.port j).txq = (s.port j).txq ++ [
              { cls := s.classOn j (if k < 6 ∧ k / 2 = j / 2 then ch.cls else 0), src := ch.src, dst := ch.dst, vc := ch.vc,
                seq := ch.seq, kind := ch.kind, fresh := ch.fresh, data := ch.data, back := some (k, 2 * ch.vc + ch.cls) }]))

/-- Streams (R466, R467, R469, R471): an ACK releases the retained chunks up to its SEQ, and a chunk that waits for a slot is retained and
queued; deliveries that no ACK has covered are
acknowledged; a retained chunk goes out again after its timeout, and after its fourth sending it is lost: its stream
sends nothing more, and a BREAK goes to the destination. A BREAK forgets the stream here. In a cycle in which one slot of a port begins, the flit of
the chunk whose turn it is leaves on the lane of that slot, holding a credit (R453, R454, R456, R463, R464). -/
def Obligations.StreamsAndRetries : Prop :=
  ∀ s : State,
    (∀ src vc seq, let covered (r : Retained) : Prop := r.dst = src ∧ r.vc = vc ∧ (seq + 2 ^ 32 - r.seq) % 2 ^ 32 < 2 ^ 31
      ∃ t, exec (.ackReceive src vc seq) s = .next t ∧ t.mems = s.mems ∧
      (∀ r ∈ s.retained, ¬ covered r → r ∈ t.retained) ∧
      (s.stalled = [] → t = { s with fabric.retained := t.retained } ∧ ∀ r, r ∈ t.retained ↔ r ∈ s.retained ∧ ¬ covered r) ∧
      (∀ q rest k re, s.stalled = q :: rest → s.routePort q.1 = some (k, re) → (s.txStream q.1 q.2.1).broken = false →
        ({ s with fabric.retained := s.retained.filter (fun r => !(r.dst = src && r.vc = vc &&
          decide ((seq + 2 ^ 32 - r.seq) % 2 ^ 32 < 2 ^ 31))) } : State).retentionFull (k / 2) q.2.1 = false →
        ∃ r ∈ t.retained, r.port = k ∧ r.dst = q.1 ∧ r.vc = q.2.1 ∧ r.kind = q.2.2.1 ∧ r.data = q.2.2.2 ∧ r.queued = true)) ∧
    (∀ src vc r, s.rxStream src vc = some r →
      (r.unacked = 0 → exec (.ackTimer src vc) s = .next s) ∧
      (r.unacked ≠ 0 → ∃ t, exec (.ackTimer src vc) s = .next t ∧ t.rxStream src vc = some { r with unacked := 0 } ∧ t.mems = s.mems ∧
        t.retained = s.retained ∧
        ∀ k re, s.routePort src = some (k, re) → (t.port k).txq = (s.port k).txq ++ [
          { cls := s.classOn k 0, src := s.pkg, dst := src, vc := 2, seq := (r.next + 2 ^ 32 - 1) % 2 ^ 32, kind := 4,
            fresh := false, data := leBytes 1 vc }])) ∧
    (∀ dst vc seq r, s.retained.find? (fun r => r.dst = dst && r.vc = vc && r.seq = seq) = some r →
      (r.queued = true ∨ s.now < r.last + s.retryAfter r → exec (.retryTimeout dst vc seq) s = .next s) ∧
      (r.queued = false → r.last + s.retryAfter r ≤ s.now →
        ∃ t, exec (.retryTimeout dst vc seq) s = .next t ∧ t.mems = s.mems ∧ t.rx = s.rx ∧
        (r.sent < 4 →
          let k := ((s.routePort dst).getD (r.port, false)).1
          t.sched = s.sched ∧
          Counted s t (pgLnk k) Reg.LNK_CNT_RETRY 1 ∧
          { r with port := k, sent := r.sent + 1, last := s.now, queued := true } ∈ t.retained ∧
          (t.port k).txq = (s.port k).txq ++ [{ cls := s.classOn k 0, src := s.pkg, dst := dst, vc := vc, seq := seq,
                                                kind := r.kind, fresh := r.fresh, data := r.data }]) ∧
        (4 ≤ r.sent → (t.txStream dst vc).broken = true ∧
          (∀ x ∈ t.retained, x.dst = dst → x.vc = vc → (x.seq + 2 ^ 32 - seq) % 2 ^ 32 < 2 ^ 31 → x.kind = 5) ∧
          Occurred s t (pgLnk r.port) 9 0x28 2 (leBytes 2 dst ++ leBytes 1 vc ++ leBytes 4 seq) ∧
          (∀ k re, (s.txStream dst vc).broken = false → s.stalled = [] → s.routePort dst = some (k, re) →
            s.retentionFull (k / 2) 2 = false →
            ∃ x ∈ (t.port k).txq, x.kind = 5 ∧ x.dst = dst ∧ x.vc = 2 ∧ x.data = leBytes 1 vc)))) ∧
    (∀ k src vc, k < 8 → ∃ t, exec (.breakReceive k src vc) s = .next t ∧ t.rxStream src vc = none ∧
      Occurred s t (pgLnk k) 10 0x29 2 (leBytes 2 src ++ leBytes 1 vc) ∧ PagesKept s t (pgLnk k) [] ∧
      (∀ r ∈ s.rx, ¬(r.src = src ∧ r.vc = vc) → r ∈ t.rx) ∧ t.mems = s.mems ∧ t.sched = s.sched ∧ t.out = s.out) ∧
    (∀ k x turn left, k < 8 → s.pending = [] → s.loop = [] → (∀ q ∈ s.runs, q.2.switch = none) →
      (∀ r, r < 32 → s.draining r = false) → (∀ q ∈ s.ports, q.1 ≠ k → q.2.txq = [] ∧ q.2.owed = []) → s.portUp k = true →
      (s.port k).choose (s.weight k) = some (x, turn, left) → x.back = none →
      (s.port k).slotsBy (s.txLanes k).length (s.now + 160) = (s.port k).slot + 1 →
      (s.port k).txCtr + 1 < 2 ^ 40 → (s.port k).rxCtr < 2 ^ 40 →
      let y : TxChunk :=
        if x.fidx = 0 then
          { x with wire := x.stream k (s.port k).keyGen (s.port k).txCtr (s.flag (pgLnk k) Reg.LNK_STAT_ENC) }
        else x
      ∃ t n v l, step s = .next t ∧ t.out = s.out ++ [.flit k (s.nextSlot k).2 { y.flit y.fidx with cred := n, cvc := v, ccls := l }] ∧
        Counted s t (pgLnk k) Reg.LNK_CNT_FLIT_TX 1 ∧
        sget (fun _ => 0) (t.port k).used (2 * x.vc + x.cls) = sget (fun _ => 0) (s.port k).used (2 * x.vc + x.cls) + 1)

/-! ### Ethernet, Accession, transfers -/

/-- Ethernet frames (R545 to R549): the port is up where the link is and CFG.EN is 1; a frame with a bad FCS is counted; one of
more than 9,216 bytes with its FCS is not carried; a frame for the host stands in the buffer of the next receive descriptor, or is counted as dropped; a datagram for the
Accession port waits in the engine where it is a whole message. The frame that the host's next transmit descriptor
names leaves. Each host frame sends its vector, or sets its pending bit where that is masked (R541; that each frame sends it is the
model's choice, log 55). -/
def Obligations.EthernetFrames : Prop :=
  ∀ (s : State) (e : Nat), e < 2 →
    (∀ up, ∃ t, exec (.ethLinkStateChange e up) s = .next t ∧
      t.getF (pgEth e) Reg.ETH_STAT_UP = (up && s.flag (pgEth e) Reg.ETH_CFG_EN).toNat ∧ OnlyRegs s t ∧
      WordsKept s t [regIdx (pgEth e) Reg.ETH_STAT_UP]) ∧
    (s.flag (pgEth e) Reg.ETH_CFG_EN = true →
      (∀ f, f.fcsOk = false → ∃ t, exec (.ethFrameReceive e f) s = .next t ∧ Counted s t (pgEth e) Reg.ETH_CNT_FCS 1 ∧
        OnlyRegs s t ∧ WordsKept s t [regIdx (pgEth e) Reg.ETH_CNT_FCS]) ∧
      (∀ f, f.fcsOk = true → 9212 < f.bytes.length → exec (.ethFrameReceive e f) s = .next s) ∧
      (∀ f, f.fcsOk = true → f.bytes.length ≤ 9212 →
        (∀ u, f.udp = some u → ¬(u.dstPort = s.getF (pgEth e) Reg.ETH_CFG_UDPPORT ∧ u.dstIp = s.ethIp e)) →
        ∃ t, exec (.ethFrameReceive e f) s = .next t ∧
          (∀ d, s.hostDesc e 0 = some d → f.bytes.length ≤ f.hlen →
            (∃ irq, t.out = s.out ++ [.hostWrite f.hbuf f.bytes, .hostWrite (d + 10) (leBytes 2 f.bytes.length ++ leBytes 1 1)] ++ irq ∧
              irq = (if (s.word (msixCtrl 18)).getLsbD 0 then [] else [.msix 18])) ∧
            t.getF (pgEth e) (Reg.ETH_HR_HEAD_IDX 0) =
              (s.getF (pgEth e) (Reg.ETH_HR_HEAD_IDX 0) + 1) % (2 * s.hostRing e 0) % 2 ^ 16 ∧
            OnlyOut s t ∧ WordsKept s t [regIdx (pgEth e) (Reg.ETH_HR_HEAD_IDX 0), msixPba 18]) ∧
          (s.hostDesc e 0 = none ∨ f.hlen < f.bytes.length → Counted s t (pgEth e) Reg.ETH_CNT_RXDROP 1 ∧ OnlyRegs s t ∧
            WordsKept s t [regIdx (pgEth e) Reg.ETH_CNT_RXDROP])) ∧
      (∀ f u, f.fcsOk = true → f.bytes.length ≤ 9212 → f.udp = some u → u.dstPort = s.getF (pgEth e) Reg.ETH_CFG_UDPPORT → u.dstIp = s.ethIp e →
        ∃ t, exec (.ethFrameReceive e f) s = .next t ∧
          (∀ m, parseAcc e u.srcIp u.srcPort u.payload = some m → t = { s with inq.accIn := s.accIn ++ [m] }) ∧
          (parseAcc e u.srcIp u.srcPort u.payload = none → Counted s t (pgEth e) Reg.ETH_CNT_ACCBAD 1 ∧ OnlyRegs s t ∧
            WordsKept s t [regIdx (pgEth e) Reg.ETH_CNT_ACCBAD])) ∧
      ∀ frame d, s.hostDesc e 1 = some d →
        ∃ t, exec (.ethFrameTransmit e frame) s = .next t ∧
          (∃ irq, t.out = s.out ++ (if frame.length ≤ 9212 then [.frame e frame] else []) ++ [.hostWrite (d + 12) (leBytes 1 1)] ++ irq ∧
            irq = (if (s.word (msixCtrl 19)).getLsbD 0 then [] else [.msix 19])) ∧
          t.getF (pgEth e) (Reg.ETH_HR_HEAD_IDX 1) =
            (s.getF (pgEth e) (Reg.ETH_HR_HEAD_IDX 1) + 1) % (2 * s.hostRing e 1) % 2 ^ 16 ∧
          OnlyOut s t ∧ WordsKept s t [regIdx (pgEth e) (Reg.ETH_HR_HEAD_IDX 1), msixPba 19])

/-- Accession sessions (R551, R552, R581 to R583). A HELLO that the Curator admits fills a session entry with fresh keys
and is answered; another is counted. A REQUEST reaches the session's input queue; before full service it is refused
(R612). A CLOSE removes the entry. A message that fails its checks is counted and has no other effect. -/
def Obligations.AccessionSessions : Prop :=
  ∀ (s : State) (e : Nat), e < 2 →
    (∀ m h, s.accFirst e 1 = some m →
      let role := ofLeBytes ((m.text.drop 2).take 1)
      ∃ t, exec (.hello e h) s = .next t ∧ t.mems = s.mems ∧ t.sched = s.sched ∧
        (s.helloOk m role h = false → t.accSess = s.accSess ∧ Counted s t pgSec Reg.SEC_CNT_HELLOBAD 1 ∧ t.out = s.out) ∧
        (s.helloOk m role h = true → Counted s t (pgEth e) Reg.ETH_CNT_ACC 1 ∧ Counted s t pgSec Reg.SEC_CNT_HELLO 1 ∧
          ∃ x bytes, x ∈ t.accSess ∧ x.secret = s.cur.draws + 1 ∧ x.peer = decide (role = 1) ∧ x.ip = m.ip ∧
            x.port = m.port ∧ x.top = 0 ∧ x.window = [] ∧
            (m.sid = 0 → x.sid ≠ 0 ∧ ∀ y ∈ s.accSess, y.sid ≠ x.sid) ∧ (s.accSession m.sid = none → x.epoch = 1) ∧
            (∀ y, m.sid ≠ 0 → s.accSession m.sid = some y → x.sid = m.sid ∧ x.epoch = y.epoch + 1) ∧
            (∀ y ∈ s.accSess, y.sid ≠ x.sid → y ∈ t.accSess) ∧ t.out = s.out ++ [.accession e m.ip m.port bytes])) ∧
    (∀ m tagOk, s.accFirst e 2 = some m →
      ∃ t, exec (.request e tagOk) s = .next t ∧ t.accIn = s.accIn.erase m ∧
        (s.full = false → t.iqs = s.iqs ∧ t.mems = s.mems ∧ t.accSess = s.accSess ∧ Counted s t (pgEth e) Reg.ETH_CNT_QFULL 1) ∧
        (∀ x, s.full = true → Accepts s m tagOk x → Counted s t (pgEth e) Reg.ETH_CNT_ACC 1 ∧
          t.accSession m.sid = some (afterAccept x m) ∧
          (s.getF pgDev Reg.DEV_DET_CTL_DIVERGE < 2 →
            (s.iqFits x.queue m.bytes.length = true → (t.iq x.queue).recs = (s.iq x.queue).recs ++
              [{ payload := m.bytes, reached := s.rot, land := 0, acc := some (m.sid, m.epoch, m.seq) }]) ∧
            (s.iqFits x.queue m.bytes.length = false → t.iqs = s.iqs ∧ Counted s t (pgEth e) Reg.ETH_CNT_QFULL 1))) ∧
        (s.full = true → tagOk = false → t.iqs = s.iqs ∧ t.mems = s.mems ∧ t.accSess = s.accSess ∧ Counted s t (pgEth e) Reg.ETH_CNT_ACCBAD 1)) ∧
    (∀ m tagOk, s.accFirst e 6 = some m →
      ∃ t, exec (.close e tagOk) s = .next t ∧ t.accIn = s.accIn.erase m ∧ t.mems = s.mems ∧ t.iqs = s.iqs ∧
        (∀ x, Accepts s m tagOk x → (∀ y, y ∈ t.accSess ↔ y ∈ s.accSess ∧ y.sid ≠ m.sid) ∧
          Counted s t (pgEth e) Reg.ETH_CNT_ACC 1) ∧
        (tagOk = false → t.accSess = s.accSess ∧ Counted s t (pgEth e) Reg.ETH_CNT_ACCBAD 1) ∧
        (∀ x, s.accSession m.sid = some x → x.epoch = m.epoch → x.permits m.type = true → tagOk = true → m.seq ∈ x.window →
          t.accSess = s.accSess ∧ Counted s t (pgEth e) Reg.ETH_CNT_ACCREPLAY 1))

/-- A session-cache transfer leaves (R554, R555, R557 to R559). XFER_START gives it the next number and the stream of its
session, or fails with its reason; over Accession at most 512 messages of 8,192 bytes are unacknowledged, an XACK that
advances lets more go, 200 us without one sends again, and eight times in vain fails; its end reports XFER_DONE. A
session-cache transfer arrives over Accession (R556, R558, R559): its first message begins it in the armed session, or
fails it with reason 3; stream bytes that continue it are taken and others are not; an XACK names the bytes taken; its
end gives the session its length and reports XFER_DONE. -/
def Obligations.TransferOutAndIn : Prop :=
  ((∀ (s : State) (val : Nat), val.testBit 31 = true →
     let u := s.writeReg pgDev 0x1A0 val true
     let n := u.getF pgDev Reg.DEV_XFER_CTL_SESS
     let path := u.getF pgDev Reg.DEV_XFER_CTL_PATH
     let dest := u.getF pgDev Reg.DEV_XFER_DEST_ID
     u.reaches pgDev = true →
     ∃ t, exec (.xferStart val) s = .next t ∧ t.mems = u.mems ∧
       (∀ why, why = (if u.xferOut.isSome then 1 else if (u.sess n).state ≠ sessActive then 2 else if u.xferUE n then 7 else
           if path = 0 ∨ (path < 3 ∧ (u.accSession dest).any (·.peer) = true) then 0 else 8) →
         (why ≠ 0 → t.xferOut = u.xferOut ∧ t.getF pgDev Reg.DEV_XFER_STAT_FAIL = 1 ∧
           t.getF pgDev Reg.DEV_XFER_STAT_WHY = why ∧ t.out = u.out ∧
           Occurred u t pgDev 15 0x1F 2 (leBytes 2 (u.getF pgDev Reg.DEV_XFER_STAT_XNUM) ++
             leBytes 1 (u.getF pgDev Reg.DEV_XFER_STAT_RX) ++ leBytes 1 why)) ∧
         (why = 0 → t.getF pgDev Reg.DEV_XFER_STAT_BUSY = 1 ∧
           t.getF pgDev Reg.DEV_XFER_STAT_XNUM = (u.getF pgDev Reg.DEV_XFER_STAT_XNUM + 1) % 2 ^ 16 ∧
           t.xferOut = some
             { path := path, dest := dest, xnum := (u.getF pgDev Reg.DEV_XFER_STAT_XNUM + 1) % 2 ^ 16,
               stream := u.xferStream n, acked := 0, resends := 0, progressAt := u.now,
               sent := if path = 0 then (u.xferStream n).length else min (u.xferStream n).length (512 * 8192) }))) ∧
   (∀ (s : State) (e : Nat) (m : AccMsg) (a : AccSess) (x : XferOut) (tagOk : Bool), e < 2 → s.accFirst e 5 = some m →
     Accepts s m tagOk a → s.xferOut = some x → x.path = 1 + e → x.dest = a.sid →
     let off := ofLeBytes ((m.plain (afterAccept a m)).take 8)
     ∃ t y, exec (.xack e tagOk) s = .next t ∧ t.xferOut = some y ∧ t.mems = s.mems ∧
       (x.acked < off → off ≤ x.sent → y.acked = off ∧ y.resends = 0 ∧ y.progressAt = s.now ∧ x.sent ≤ y.sent) ∧
       (off ≤ x.acked ∨ x.sent < off → y = x)) ∧
   (∀ (s : State) (x : XferOut) (a : AccSess), s.xferOut = some x → x.path ≠ 0 → x.acked < x.sent →
     x.progressAt + us 200 ≤ s.now → s.accSession x.dest = some a →
     ∃ t, exec .xferResendTimeout s = .next t ∧ t.mems = s.mems ∧
       (x.resends < 8 → x.sent ≤ x.stream.length →
         ∃ y, t.xferOut = some y ∧ y.acked = x.acked ∧ y.resends = x.resends + 1 ∧ y.progressAt = s.now ∧ x.acked < y.sent) ∧
       (8 ≤ x.resends → t.xferOut = none ∧ t.getF pgDev Reg.DEV_XFER_STAT_BUSY = 0 ∧
         t.getF pgDev Reg.DEV_XFER_STAT_FAIL = 1 ∧ t.getF pgDev Reg.DEV_XFER_STAT_WHY = 6 ∧
         Occurred s t pgDev 15 0x1F 2 (leBytes 2 x.xnum ++ leBytes 1 (s.getF pgDev Reg.DEV_XFER_STAT_RX) ++ leBytes 1 6))) ∧
   (∀ (s : State) (x : XferOut), s.xferOut = some x →
     (if x.path = 0 then (∀ r ∈ s.retained, ¬(r.dst = x.dest % 4096 ∧ r.vc = 3)) ∧
        (∀ q ∈ s.stalled, ¬(q.1 = x.dest % 4096 ∧ q.2.1 = 3)) ∧ (x.dest % 4096 = s.pkg → ∀ q ∈ s.loop, q.1 ≠ 3)
      else x.stream.length ≤ x.acked) →
     ∃ t, exec (.xferComplete false) s = .next t ∧ t.xferOut = none ∧ t.getF pgDev Reg.DEV_XFER_STAT_BUSY = 0 ∧
       t.getF pgDev Reg.DEV_XFER_STAT_DONE = 1 ∧ t.mems = s.mems ∧
       Occurred s t pgDev 14 0x1E 0 (leBytes 2 x.xnum ++ leBytes 1 (s.getF pgDev Reg.DEV_XFER_STAT_RX) ++
         leBytes 4 (x.stream.length / 1024)))) ∧
  ((∀ (s : State) (e : Nat) (m : AccMsg) (a : AccSess) (tagOk : Bool), e < 2 → s.accFirst e 4 = some m → Accepts s m tagOk a →
     let p := m.plain (afterAccept a m)
     ∃ t, exec (.xfer e tagOk) s = .next t ∧ Counted s t (pgEth e) Reg.ETH_CNT_ACC 1 ∧
       (s.xferIn = none → ofLeBytes (p.take 8) = 0 →
         (s.xferArmed = none → t.xferIn = none ∧ t.getF pgDev Reg.DEV_XFER_STAT_FAIL = 1 ∧
           t.getF pgDev Reg.DEV_XFER_STAT_WHY = 3 ∧ t.getF pgDev Reg.DEV_XFER_STAT_RX = 0) ∧
         (∀ n, s.xferArmed = some n → (p.drop 8).length < 64 → t.getF pgDev Reg.DEV_XFER_STAT_RX = 1 ∧
           ∃ y, t.xferIn = some y ∧ y.sess = n ∧ y.path = 1 + e ∧ y.src = a.sid ∧ y.buf = p.drop 8 ∧
             y.got = (p.drop 8).length)) ∧
       (∀ x, s.xferIn = some x → x.path = 1 + e → x.src = a.sid →
         (x.got = ofLeBytes (p.take 8) → t.getF pgDev Reg.DEV_XFER_DONEB_KIB = (x.got + (p.drop 8).length) / 1024 % 2 ^ 32 ∧
           ∀ y, t.xferIn = some y → y.got = x.got + (p.drop 8).length ∧ y.sess = x.sess) ∧
         (x.got ≠ ofLeBytes (p.take 8) → x.unacked < 15 → t.xferIn = some { x with unacked := x.unacked + 1 }))) ∧
   (∀ (s : State) (x : XferIn) (a : AccSess), s.xferIn = some x → 0 < x.unacked → s.accSession x.src = some a →
     ∃ t bytes, exec .xackTimer s = .next t ∧ t.xferIn = some { x with unacked := 0 } ∧
       t.out = s.out ++ [.accession (x.path - 1) a.ip a.port bytes] ∧ t.mems = s.mems ∧ t.regs = s.regs) ∧
   (∀ (s : State) (x : XferIn) (n : Nat), s.xferIn = some x → x.len = some n → x.buf = [] →
     ∃ t, exec (.xferComplete true) s = .next t ∧ t.xferIn = none ∧
       t.mem = (s.setSess x.sess { s.sess x.sess with len := n }).mem ∧ t.getF pgDev Reg.DEV_XFER_STAT_DONE = 1 ∧
       t.getF pgDev Reg.DEV_XFER_STAT_RX = 0 ∧ (t.getF pgDev Reg.PG_EVT).testBit 14 = true))
end

