-- ==== Sys2Proof/Laws/Sparse.lean ====
section
/-! SUPPORT. Laws of the finite maps: what a read gives after a write, a deletion or a clearing, in any map; and that
every operation keeps the canonical form. -/
namespace Sys2Proof.Machine

section
variable {α : Type} (d : Nat → α)

@[simp] theorem sget_nil (k : Nat) : sget d [] k = d k := rfl

theorem sget_sdel (m : List (Nat × α)) (k j : Nat) : sget d (sdel m k) j = if j = k then d j else sget d m j := by
  induction m with
  | nil => simp [sdel]
  | cons p t ih =>
    obtain ⟨i, a⟩ := p
    by_cases hk : k = i
    · subst hk
      rw [sdel, if_pos rfl, ih]
      by_cases hj : j = k <;> simp [sget, hj]
    · rw [sdel, if_neg hk]
      by_cases hj : j = i
      · subst hj; rw [sget, if_pos rfl, if_neg (Ne.symm hk), sget, if_pos rfl]
      · rw [sget, if_neg hj, ih, sget, if_neg hj]

theorem sget_sput (m : List (Nat × α)) (k j : Nat) (v : α) :
    sget d (sput m k v) j = if j = k then v else sget d m j := by
  induction m with
  | nil => simp [sput, sget]
  | cons p t ih =>
    obtain ⟨i, a⟩ := p
    by_cases hk : k = i
    · subst hk
      rw [sput, if_pos rfl]
      by_cases hj : j = k <;> simp [sget, hj]
    · by_cases hl : k < i
      · rw [sput, if_neg hk, if_pos hl]
        by_cases hj : j = k <;> simp [sget, hj]
      · rw [sput, if_neg hk, if_neg hl]
        by_cases hj : j = i
        · subst hj; rw [sget, if_pos rfl, if_neg (Ne.symm hk), sget, if_pos rfl]
        · rw [sget, if_neg hj, ih, sget, if_neg hj]

theorem sget_sclear (m : List (Nat × α)) (lo hi k : Nat) :
    sget d (sclear m lo hi) k = if lo ≤ k ∧ k < hi then d k else sget d m k := by
  induction m with
  | nil => simp [sclear]
  | cons p t ih =>
    obtain ⟨i, a⟩ := p
    have ih' : sget d (List.filter (fun p : Nat × α => decide (p.1 < lo) || decide (hi ≤ p.1)) t) k
        = if lo ≤ k ∧ k < hi then d k else sget d t k := ih
    rw [sclear, List.filter_cons]
    by_cases hin : (decide (i < lo) || decide (hi ≤ i)) = true
    · rw [if_pos hin, sget]
      by_cases hk : k = i
      · subst hk
        have hn : ¬(lo ≤ k ∧ k < hi) := by simp at hin; omega
        rw [if_pos rfl, if_neg hn, sget, if_pos rfl]
      · rw [if_neg hk, ih', sget, if_neg hk]
    · rw [if_neg hin, ih', sget]
      by_cases hk : k = i
      · subst hk
        have hy : lo ≤ k ∧ k < hi := by simp at hin; omega
        rw [if_pos hy, if_pos hy]
      · rw [if_neg hk]

end

section
variable {α : Type} [DecidableEq α] (d : Nat → α)

/-- A read after a write. -/
theorem sget_sset (m : List (Nat × α)) (k j : Nat) (v : α) :
    sget d (sset d m k v) j = if j = k then v else sget d m j := by
  unfold sset
  split
  · rename_i h
    rw [sget_sdel]
    split
    · rename_i hj; subst hj; exact h.symm
    · rfl
  · exact sget_sput d m k j v

@[simp] theorem sget_sset_same (m : List (Nat × α)) (k : Nat) (v : α) : sget d (sset d m k v) k = v := by
  rw [sget_sset, if_pos rfl]

theorem sget_sset_ne (m : List (Nat × α)) {k j : Nat} (v : α) (h : j ≠ k) :
    sget d (sset d m k v) j = sget d m j := by rw [sget_sset, if_neg h]

/-- A read after a write of consecutive keys. -/
theorem sget_ssetAll (vs : List α) (m : List (Nat × α)) (k j : Nat) :
    sget d (ssetAll d m k vs) j = if k ≤ j then (vs[j - k]?).getD (sget d m j) else sget d m j := by
  induction vs generalizing m k with
  | nil => simp [ssetAll]
  | cons v vs ih =>
    rw [ssetAll, ih]
    by_cases h : k + 1 ≤ j
    · have h2 : k ≤ j := by omega
      have h3 : j ≠ k := by omega
      obtain ⟨n, hn⟩ : ∃ n, j - k = n + 1 := ⟨j - k - 1, by omega⟩
      have h4 : j - (k + 1) = n := by omega
      rw [if_pos h, if_pos h2, sget_sset_ne d m v h3, hn, h4, List.getElem?_cons_succ]
    · rw [if_neg h]
      by_cases hk : j = k
      · subst hk; simp
      · have h2 : ¬ k ≤ j := by omega
        rw [if_neg h2, sget_sset_ne d m v hk]

/-- A read outside the keys written. -/
theorem sget_ssetAll_out (vs : List α) (m : List (Nat × α)) {k j : Nat} (h : j < k ∨ k + vs.length ≤ j) :
    sget d (ssetAll d m k vs) j = sget d m j := by
  rw [sget_ssetAll]
  split
  · have : vs[j - k]? = none := List.getElem?_eq_none (by omega)
    rw [this]; rfl
  · rfl

/-- A read of a key written. -/
theorem sget_ssetAll_in (vs : List α) (m : List (Nat × α)) (k i : Nat) (h : i < vs.length) :
    sget d (ssetAll d m k vs) (k + i) = vs[i] := by
  rw [sget_ssetAll, if_pos (by omega)]
  have : k + i - k = i := by omega
  rw [this, List.getElem?_eq_getElem h]; rfl

/-! ### The canonical form -/

theorem skeysAbove_mono {α : Type} {m : List (Nat × α)} {j k : Nat} (h : skeysAbove k m = true) (hjk : j ≤ k) :
    skeysAbove j m = true := by
  induction m with
  | nil => rfl
  | cons p t ih =>
    simp only [skeysAbove, Bool.and_eq_true, decide_eq_true_eq] at h ⊢
    exact ⟨by omega, ih h.2⟩

theorem skeysAbove_sdel {α : Type} {m : List (Nat × α)} {b : Nat} (h : skeysAbove b m = true) (k : Nat) :
    skeysAbove b (sdel m k) = true := by
  induction m with
  | nil => rfl
  | cons p t ih =>
    simp only [skeysAbove, Bool.and_eq_true, decide_eq_true_eq] at h
    unfold sdel
    split
    · exact ih h.2
    · simp only [skeysAbove, Bool.and_eq_true, decide_eq_true_eq]; exact ⟨h.1, ih h.2⟩

theorem skeysAbove_sput {α : Type} {m : List (Nat × α)} {b k : Nat} (h : skeysAbove b m = true) (hk : b < k) (v : α) :
    skeysAbove b (sput m k v) = true := by
  induction m with
  | nil => simp [sput, skeysAbove, hk]
  | cons p t ih =>
    simp only [skeysAbove, Bool.and_eq_true, decide_eq_true_eq] at h
    unfold sput
    split
    · simp [skeysAbove, h.2, hk]
    · split
      · simp [skeysAbove, h.1, h.2, hk]
      · simp [skeysAbove, h.1, ih h.2]

theorem skeysAbove_filter {α : Type} {m : List (Nat × α)} {b : Nat} (h : skeysAbove b m = true) (f : Nat × α → Bool) :
    skeysAbove b (m.filter f) = true := by
  induction m with
  | nil => rfl
  | cons p t ih =>
    simp only [skeysAbove, Bool.and_eq_true, decide_eq_true_eq] at h
    rw [List.filter_cons]
    split
    · simp only [skeysAbove, Bool.and_eq_true, decide_eq_true_eq]; exact ⟨h.1, ih h.2⟩
    · exact ih h.2

theorem swf_sdel {m : List (Nat × α)} (h : swf d m = true) (k : Nat) : swf d (sdel m k) = true := by
  induction m with
  | nil => rfl
  | cons p t ih =>
    simp only [swf, Bool.and_eq_true] at h
    unfold sdel
    split
    · exact ih h.2
    · simp only [swf, Bool.and_eq_true]
      exact ⟨⟨h.1.1, skeysAbove_sdel h.1.2 k⟩, ih h.2⟩

theorem swf_sput {m : List (Nat × α)} (h : swf d m = true) (k : Nat) {v : α} (hv : v ≠ d k) :
    swf d (sput m k v) = true := by
  induction m with
  | nil => simp [sput, swf, skeysAbove, hv]
  | cons p t ih =>
    obtain ⟨j, a⟩ := p
    simp only [swf, Bool.and_eq_true, decide_eq_true_eq] at h
    unfold sput
    by_cases hk : k = j
    · subst hk; simp [swf, hv, h.1.2, h.2]
    · by_cases hl : k < j
      · have hab : skeysAbove k t = true := skeysAbove_mono h.1.2 (by omega)
        simp [swf, skeysAbove, hk, hl, hv, h.1.1, h.1.2, h.2, hab]
      · have hj : j < k := by omega
        rw [if_neg hk, if_neg hl]
        simp only [swf, Bool.and_eq_true, decide_eq_true_eq]
        exact ⟨⟨h.1.1, skeysAbove_sput h.1.2 hj v⟩, ih h.2⟩

/-- A write keeps the canonical form. -/
theorem swf_sset {m : List (Nat × α)} (h : swf d m = true) (k : Nat) (v : α) : swf d (sset d m k v) = true := by
  unfold sset
  split
  · exact swf_sdel d h k
  · exact swf_sput d h k (by assumption)

theorem swf_filter {m : List (Nat × α)} (h : swf d m = true) (f : Nat × α → Bool) : swf d (m.filter f) = true := by
  induction m with
  | nil => rfl
  | cons p t ih =>
    simp only [swf, Bool.and_eq_true] at h
    rw [List.filter_cons]
    split
    · simp only [swf, Bool.and_eq_true]; exact ⟨⟨h.1.1, skeysAbove_filter h.1.2 f⟩, ih h.2⟩
    · exact ih h.2

theorem swf_sclear {m : List (Nat × α)} (h : swf d m = true) (lo hi : Nat) : swf d (sclear m lo hi) = true :=
  swf_filter d h _

theorem swf_supd {m : List (Nat × α)} (h : swf d m = true) (k : Nat) (f : α → α) : swf d (supd d m k f) = true :=
  swf_sset d h k _

theorem swf_ssetAll {m : List (Nat × α)} (h : swf d m = true) (k : Nat) (vs : List α) :
    swf d (ssetAll d m k vs) = true := by
  induction vs generalizing m k with
  | nil => exact h
  | cons v vs ih => exact ih (swf_sset d h k v) (k + 1)

end

end Sys2Proof.Machine
end

