-- ==== Sys2Proof/Laws/State.lean ====
section
/-! SUPPORT. What each update of the state leaves alone: one lemma for each group of state and each field beside the one
written, true by computation, so that no later proof unfolds a record update. Laws/Frames.lean says the same of the
operations that branch. -/
namespace Sys2Proof.Machine

/-! ### setWord changes regs alone -/

section
variable (s : State) (i : Nat) (w : Word)
@[simp] theorem State.setWord_part : (s.setWord i w).part = s.part := rfl
@[simp] theorem State.setWord_pending : (s.setWord i w).pending = s.pending := rfl
@[simp] theorem State.setWord_staged : (s.setWord i w).regFile.staged = s.regFile.staged := rfl
@[simp] theorem State.setWord_snap : (s.setWord i w).regFile.snap = s.regFile.snap := rfl
@[simp] theorem State.setWord_cntFrom : (s.setWord i w).regFile.cntFrom = s.regFile.cntFrom := rfl
@[simp] theorem State.setWord_mems : (s.setWord i w).mems = s.mems := rfl
@[simp] theorem State.setWord_time : (s.setWord i w).time = s.time := rfl
@[simp] theorem State.setWord_sched : (s.setWord i w).sched = s.sched := rfl
@[simp] theorem State.setWord_inq : (s.setWord i w).inq = s.inq := rfl
@[simp] theorem State.setWord_fabric : (s.setWord i w).fabric = s.fabric := rfl
@[simp] theorem State.setWord_arch : (s.setWord i w).arch = s.arch := rfl
@[simp] theorem State.setWord_brd : (s.setWord i w).brd = s.brd := rfl
@[simp] theorem State.setWord_evts : (s.setWord i w).evts = s.evts := rfl
@[simp] theorem State.setWord_plat : (s.setWord i w).plat = s.plat := rfl
@[simp] theorem State.setWord_draw : (s.setWord i w).draw = s.draw := rfl
@[simp] theorem State.setWord_out : (s.setWord i w).out = s.out := rfl
end

/-! ### setF changes regs alone -/

section
variable (s : State) (pg : Nat) (f : Fld) (v : Nat)
@[simp] theorem State.setF_part : (s.setF pg f v).part = s.part := rfl
@[simp] theorem State.setF_pending : (s.setF pg f v).pending = s.pending := rfl
@[simp] theorem State.setF_staged : (s.setF pg f v).regFile.staged = s.regFile.staged := rfl
@[simp] theorem State.setF_snap : (s.setF pg f v).regFile.snap = s.regFile.snap := rfl
@[simp] theorem State.setF_cntFrom : (s.setF pg f v).regFile.cntFrom = s.regFile.cntFrom := rfl
@[simp] theorem State.setF_mems : (s.setF pg f v).mems = s.mems := rfl
@[simp] theorem State.setF_time : (s.setF pg f v).time = s.time := rfl
@[simp] theorem State.setF_sched : (s.setF pg f v).sched = s.sched := rfl
@[simp] theorem State.setF_inq : (s.setF pg f v).inq = s.inq := rfl
@[simp] theorem State.setF_fabric : (s.setF pg f v).fabric = s.fabric := rfl
@[simp] theorem State.setF_arch : (s.setF pg f v).arch = s.arch := rfl
@[simp] theorem State.setF_brd : (s.setF pg f v).brd = s.brd := rfl
@[simp] theorem State.setF_evts : (s.setF pg f v).evts = s.evts := rfl
@[simp] theorem State.setF_plat : (s.setF pg f v).plat = s.plat := rfl
@[simp] theorem State.setF_draw : (s.setF pg f v).draw = s.draw := rfl
@[simp] theorem State.setF_out : (s.setF pg f v).out = s.out := rfl
end

/-! ### orF changes regs alone -/

section
variable (s : State) (pg : Nat) (f : Fld) (v : Nat)
@[simp] theorem State.orF_part : (s.orF pg f v).part = s.part := rfl
@[simp] theorem State.orF_pending : (s.orF pg f v).pending = s.pending := rfl
@[simp] theorem State.orF_staged : (s.orF pg f v).regFile.staged = s.regFile.staged := rfl
@[simp] theorem State.orF_snap : (s.orF pg f v).regFile.snap = s.regFile.snap := rfl
@[simp] theorem State.orF_cntFrom : (s.orF pg f v).regFile.cntFrom = s.regFile.cntFrom := rfl
@[simp] theorem State.orF_mems : (s.orF pg f v).mems = s.mems := rfl
@[simp] theorem State.orF_time : (s.orF pg f v).time = s.time := rfl
@[simp] theorem State.orF_sched : (s.orF pg f v).sched = s.sched := rfl
@[simp] theorem State.orF_inq : (s.orF pg f v).inq = s.inq := rfl
@[simp] theorem State.orF_fabric : (s.orF pg f v).fabric = s.fabric := rfl
@[simp] theorem State.orF_arch : (s.orF pg f v).arch = s.arch := rfl
@[simp] theorem State.orF_brd : (s.orF pg f v).brd = s.brd := rfl
@[simp] theorem State.orF_evts : (s.orF pg f v).evts = s.evts := rfl
@[simp] theorem State.orF_plat : (s.orF pg f v).plat = s.plat := rfl
@[simp] theorem State.orF_draw : (s.orF pg f v).draw = s.draw := rfl
@[simp] theorem State.orF_out : (s.orF pg f v).out = s.out := rfl
end

/-! ### setDoc changes regs alone -/

section
variable (s : State) (c v : Nat)
@[simp] theorem State.setDoc_part : (s.setDoc c v).part = s.part := rfl
@[simp] theorem State.setDoc_pending : (s.setDoc c v).pending = s.pending := rfl
@[simp] theorem State.setDoc_staged : (s.setDoc c v).regFile.staged = s.regFile.staged := rfl
@[simp] theorem State.setDoc_snap : (s.setDoc c v).regFile.snap = s.regFile.snap := rfl
@[simp] theorem State.setDoc_cntFrom : (s.setDoc c v).regFile.cntFrom = s.regFile.cntFrom := rfl
@[simp] theorem State.setDoc_mems : (s.setDoc c v).mems = s.mems := rfl
@[simp] theorem State.setDoc_time : (s.setDoc c v).time = s.time := rfl
@[simp] theorem State.setDoc_sched : (s.setDoc c v).sched = s.sched := rfl
@[simp] theorem State.setDoc_inq : (s.setDoc c v).inq = s.inq := rfl
@[simp] theorem State.setDoc_fabric : (s.setDoc c v).fabric = s.fabric := rfl
@[simp] theorem State.setDoc_arch : (s.setDoc c v).arch = s.arch := rfl
@[simp] theorem State.setDoc_brd : (s.setDoc c v).brd = s.brd := rfl
@[simp] theorem State.setDoc_evts : (s.setDoc c v).evts = s.evts := rfl
@[simp] theorem State.setDoc_plat : (s.setDoc c v).plat = s.plat := rfl
@[simp] theorem State.setDoc_draw : (s.setDoc c v).draw = s.draw := rfl
@[simp] theorem State.setDoc_out : (s.setDoc c v).out = s.out := rfl
end

/-! ### setClkCode changes regs alone -/

section
variable (s : State) (d code : Nat)
@[simp] theorem State.setClkCode_part : (s.setClkCode d code).part = s.part := rfl
@[simp] theorem State.setClkCode_pending : (s.setClkCode d code).pending = s.pending := rfl
@[simp] theorem State.setClkCode_staged : (s.setClkCode d code).regFile.staged = s.regFile.staged := rfl
@[simp] theorem State.setClkCode_snap : (s.setClkCode d code).regFile.snap = s.regFile.snap := rfl
@[simp] theorem State.setClkCode_cntFrom : (s.setClkCode d code).regFile.cntFrom = s.regFile.cntFrom := rfl
@[simp] theorem State.setClkCode_mems : (s.setClkCode d code).mems = s.mems := rfl
@[simp] theorem State.setClkCode_time : (s.setClkCode d code).time = s.time := rfl
@[simp] theorem State.setClkCode_sched : (s.setClkCode d code).sched = s.sched := rfl
@[simp] theorem State.setClkCode_inq : (s.setClkCode d code).inq = s.inq := rfl
@[simp] theorem State.setClkCode_fabric : (s.setClkCode d code).fabric = s.fabric := rfl
@[simp] theorem State.setClkCode_arch : (s.setClkCode d code).arch = s.arch := rfl
@[simp] theorem State.setClkCode_brd : (s.setClkCode d code).brd = s.brd := rfl
@[simp] theorem State.setClkCode_evts : (s.setClkCode d code).evts = s.evts := rfl
@[simp] theorem State.setClkCode_plat : (s.setClkCode d code).plat = s.plat := rfl
@[simp] theorem State.setClkCode_draw : (s.setClkCode d code).draw = s.draw := rfl
@[simp] theorem State.setClkCode_out : (s.setClkCode d code).out = s.out := rfl
end

/-! ### setStaged changes staged alone -/

section
variable (s : State) (i : Nat) (w : Word)
@[simp] theorem State.setStaged_part : (s.setStaged i w).part = s.part := rfl
@[simp] theorem State.setStaged_pending : (s.setStaged i w).pending = s.pending := rfl
@[simp] theorem State.setStaged_regs : (s.setStaged i w).regFile.regs = s.regFile.regs := rfl
@[simp] theorem State.setStaged_snap : (s.setStaged i w).regFile.snap = s.regFile.snap := rfl
@[simp] theorem State.setStaged_cntFrom : (s.setStaged i w).regFile.cntFrom = s.regFile.cntFrom := rfl
@[simp] theorem State.setStaged_mems : (s.setStaged i w).mems = s.mems := rfl
@[simp] theorem State.setStaged_time : (s.setStaged i w).time = s.time := rfl
@[simp] theorem State.setStaged_sched : (s.setStaged i w).sched = s.sched := rfl
@[simp] theorem State.setStaged_inq : (s.setStaged i w).inq = s.inq := rfl
@[simp] theorem State.setStaged_fabric : (s.setStaged i w).fabric = s.fabric := rfl
@[simp] theorem State.setStaged_arch : (s.setStaged i w).arch = s.arch := rfl
@[simp] theorem State.setStaged_brd : (s.setStaged i w).brd = s.brd := rfl
@[simp] theorem State.setStaged_evts : (s.setStaged i w).evts = s.evts := rfl
@[simp] theorem State.setStaged_plat : (s.setStaged i w).plat = s.plat := rfl
@[simp] theorem State.setStaged_draw : (s.setStaged i w).draw = s.draw := rfl
@[simp] theorem State.setStaged_out : (s.setStaged i w).out = s.out := rfl
end

/-! ### setAll changes regs, staged, snap alone -/

section
variable (s : State) (pg : Nat) (f : Fld) (v : Nat)
@[simp] theorem State.setAll_part : (s.setAll pg f v).part = s.part := rfl
@[simp] theorem State.setAll_pending : (s.setAll pg f v).pending = s.pending := rfl
@[simp] theorem State.setAll_cntFrom : (s.setAll pg f v).regFile.cntFrom = s.regFile.cntFrom := rfl
@[simp] theorem State.setAll_mems : (s.setAll pg f v).mems = s.mems := rfl
@[simp] theorem State.setAll_time : (s.setAll pg f v).time = s.time := rfl
@[simp] theorem State.setAll_sched : (s.setAll pg f v).sched = s.sched := rfl
@[simp] theorem State.setAll_inq : (s.setAll pg f v).inq = s.inq := rfl
@[simp] theorem State.setAll_fabric : (s.setAll pg f v).fabric = s.fabric := rfl
@[simp] theorem State.setAll_arch : (s.setAll pg f v).arch = s.arch := rfl
@[simp] theorem State.setAll_brd : (s.setAll pg f v).brd = s.brd := rfl
@[simp] theorem State.setAll_evts : (s.setAll pg f v).evts = s.evts := rfl
@[simp] theorem State.setAll_plat : (s.setAll pg f v).plat = s.plat := rfl
@[simp] theorem State.setAll_draw : (s.setAll pg f v).draw = s.draw := rfl
@[simp] theorem State.setAll_out : (s.setAll pg f v).out = s.out := rfl
end

/-! ### setThrottle changes throttles alone -/

section
variable (s : State) (d : Nat) (t : Throttle)
@[simp] theorem State.setThrottle_part : (s.setThrottle d t).part = s.part := rfl
@[simp] theorem State.setThrottle_pending : (s.setThrottle d t).pending = s.pending := rfl
@[simp] theorem State.setThrottle_regFile : (s.setThrottle d t).regFile = s.regFile := rfl
@[simp] theorem State.setThrottle_mems : (s.setThrottle d t).mems = s.mems := rfl
@[simp] theorem State.setThrottle_time : (s.setThrottle d t).time = s.time := rfl
@[simp] theorem State.setThrottle_sched : (s.setThrottle d t).sched = s.sched := rfl
@[simp] theorem State.setThrottle_inq : (s.setThrottle d t).inq = s.inq := rfl
@[simp] theorem State.setThrottle_fabric : (s.setThrottle d t).fabric = s.fabric := rfl
@[simp] theorem State.setThrottle_arch : (s.setThrottle d t).arch = s.arch := rfl
@[simp] theorem State.setThrottle_brd : (s.setThrottle d t).brd = s.brd := rfl
@[simp] theorem State.setThrottle_evts : (s.setThrottle d t).evts = s.evts := rfl
@[simp] theorem State.setThrottle_dma : (s.setThrottle d t).plat.dma = s.plat.dma := rfl
@[simp] theorem State.setThrottle_throtCount : (s.setThrottle d t).plat.throtCount = s.plat.throtCount := rfl
@[simp] theorem State.setThrottle_clkDue : (s.setThrottle d t).plat.clkDue = s.plat.clkDue := rfl
@[simp] theorem State.setThrottle_bar2Log2 : (s.setThrottle d t).plat.bar2Log2 = s.plat.bar2Log2 := rfl
@[simp] theorem State.setThrottle_warnLow : (s.setThrottle d t).plat.warnLow = s.plat.warnLow := rfl
@[simp] theorem State.setThrottle_tripped : (s.setThrottle d t).plat.tripped = s.plat.tripped := rfl
@[simp] theorem State.setThrottle_powered : (s.setThrottle d t).plat.powered = s.plat.powered := rfl
@[simp] theorem State.setThrottle_t0 : (s.setThrottle d t).plat.t0 = s.plat.t0 := rfl
@[simp] theorem State.setThrottle_sramFilled : (s.setThrottle d t).plat.sramFilled = s.plat.sramFilled := rfl
@[simp] theorem State.setThrottle_full : (s.setThrottle d t).plat.full = s.plat.full := rfl
@[simp] theorem State.setThrottle_perst : (s.setThrottle d t).plat.perst = s.plat.perst := rfl
@[simp] theorem State.setThrottle_draw : (s.setThrottle d t).draw = s.draw := rfl
@[simp] theorem State.setThrottle_out : (s.setThrottle d t).out = s.out := rfl
end

/-! ### emit changes out alone -/

section
variable (s : State) (o : Out)
@[simp] theorem State.emit_part : (s.emit o).part = s.part := rfl
@[simp] theorem State.emit_pending : (s.emit o).pending = s.pending := rfl
@[simp] theorem State.emit_regFile : (s.emit o).regFile = s.regFile := rfl
@[simp] theorem State.emit_mems : (s.emit o).mems = s.mems := rfl
@[simp] theorem State.emit_time : (s.emit o).time = s.time := rfl
@[simp] theorem State.emit_sched : (s.emit o).sched = s.sched := rfl
@[simp] theorem State.emit_inq : (s.emit o).inq = s.inq := rfl
@[simp] theorem State.emit_fabric : (s.emit o).fabric = s.fabric := rfl
@[simp] theorem State.emit_arch : (s.emit o).arch = s.arch := rfl
@[simp] theorem State.emit_brd : (s.emit o).brd = s.brd := rfl
@[simp] theorem State.emit_evts : (s.emit o).evts = s.evts := rfl
@[simp] theorem State.emit_plat : (s.emit o).plat = s.plat := rfl
@[simp] theorem State.emit_draw : (s.emit o).draw = s.draw := rfl
end

/-! ### pokeByte changes mem alone -/

section
variable (s : State) (a : Nat) (b : Byte)
@[simp] theorem State.pokeByte_part : (s.pokeByte a b).part = s.part := rfl
@[simp] theorem State.pokeByte_pending : (s.pokeByte a b).pending = s.pending := rfl
@[simp] theorem State.pokeByte_regFile : (s.pokeByte a b).regFile = s.regFile := rfl
@[simp] theorem State.pokeByte_im : (s.pokeByte a b).mems.im = s.mems.im := rfl
@[simp] theorem State.pokeByte_cat : (s.pokeByte a b).mems.cat = s.mems.cat := rfl
@[simp] theorem State.pokeByte_am : (s.pokeByte a b).mems.am = s.mems.am := rfl
@[simp] theorem State.pokeByte_tiles : (s.pokeByte a b).mems.tiles = s.mems.tiles := rfl
@[simp] theorem State.pokeByte_errs : (s.pokeByte a b).mems.errs = s.mems.errs := rfl
@[simp] theorem State.pokeByte_rawChk : (s.pokeByte a b).mems.rawChk = s.mems.rawChk := rfl
@[simp] theorem State.pokeByte_buckets : (s.pokeByte a b).mems.buckets = s.mems.buckets := rfl
@[simp] theorem State.pokeByte_leakAt : (s.pokeByte a b).mems.leakAt = s.mems.leakAt := rfl
@[simp] theorem State.pokeByte_scrubPos : (s.pokeByte a b).mems.scrubPos = s.mems.scrubPos := rfl
@[simp] theorem State.pokeByte_unitKey : (s.pokeByte a b).mems.unitKey = s.mems.unitKey := rfl
@[simp] theorem State.pokeByte_time : (s.pokeByte a b).time = s.time := rfl
@[simp] theorem State.pokeByte_sched : (s.pokeByte a b).sched = s.sched := rfl
@[simp] theorem State.pokeByte_inq : (s.pokeByte a b).inq = s.inq := rfl
@[simp] theorem State.pokeByte_fabric : (s.pokeByte a b).fabric = s.fabric := rfl
@[simp] theorem State.pokeByte_arch : (s.pokeByte a b).arch = s.arch := rfl
@[simp] theorem State.pokeByte_brd : (s.pokeByte a b).brd = s.brd := rfl
@[simp] theorem State.pokeByte_evts : (s.pokeByte a b).evts = s.evts := rfl
@[simp] theorem State.pokeByte_plat : (s.pokeByte a b).plat = s.plat := rfl
@[simp] theorem State.pokeByte_draw : (s.pokeByte a b).draw = s.draw := rfl
@[simp] theorem State.pokeByte_out : (s.pokeByte a b).out = s.out := rfl
end

/-! ### pokeBytes changes mem alone -/

section
variable (s : State) (a : Nat) (bs : List Byte)
@[simp] theorem State.pokeBytes_part : (s.pokeBytes a bs).part = s.part := rfl
@[simp] theorem State.pokeBytes_pending : (s.pokeBytes a bs).pending = s.pending := rfl
@[simp] theorem State.pokeBytes_regFile : (s.pokeBytes a bs).regFile = s.regFile := rfl
@[simp] theorem State.pokeBytes_im : (s.pokeBytes a bs).mems.im = s.mems.im := rfl
@[simp] theorem State.pokeBytes_cat : (s.pokeBytes a bs).mems.cat = s.mems.cat := rfl
@[simp] theorem State.pokeBytes_am : (s.pokeBytes a bs).mems.am = s.mems.am := rfl
@[simp] theorem State.pokeBytes_tiles : (s.pokeBytes a bs).mems.tiles = s.mems.tiles := rfl
@[simp] theorem State.pokeBytes_errs : (s.pokeBytes a bs).mems.errs = s.mems.errs := rfl
@[simp] theorem State.pokeBytes_rawChk : (s.pokeBytes a bs).mems.rawChk = s.mems.rawChk := rfl
@[simp] theorem State.pokeBytes_buckets : (s.pokeBytes a bs).mems.buckets = s.mems.buckets := rfl
@[simp] theorem State.pokeBytes_leakAt : (s.pokeBytes a bs).mems.leakAt = s.mems.leakAt := rfl
@[simp] theorem State.pokeBytes_scrubPos : (s.pokeBytes a bs).mems.scrubPos = s.mems.scrubPos := rfl
@[simp] theorem State.pokeBytes_unitKey : (s.pokeBytes a bs).mems.unitKey = s.mems.unitKey := rfl
@[simp] theorem State.pokeBytes_time : (s.pokeBytes a bs).time = s.time := rfl
@[simp] theorem State.pokeBytes_sched : (s.pokeBytes a bs).sched = s.sched := rfl
@[simp] theorem State.pokeBytes_inq : (s.pokeBytes a bs).inq = s.inq := rfl
@[simp] theorem State.pokeBytes_fabric : (s.pokeBytes a bs).fabric = s.fabric := rfl
@[simp] theorem State.pokeBytes_arch : (s.pokeBytes a bs).arch = s.arch := rfl
@[simp] theorem State.pokeBytes_brd : (s.pokeBytes a bs).brd = s.brd := rfl
@[simp] theorem State.pokeBytes_evts : (s.pokeBytes a bs).evts = s.evts := rfl
@[simp] theorem State.pokeBytes_plat : (s.pokeBytes a bs).plat = s.plat := rfl
@[simp] theorem State.pokeBytes_draw : (s.pokeBytes a bs).draw = s.draw := rfl
@[simp] theorem State.pokeBytes_out : (s.pokeBytes a bs).out = s.out := rfl
end

/-! ### updCur changes cur alone -/

section
variable (s : State) (u : Curator → Curator)
@[simp] theorem State.updCur_part : (s.updCur u).part = s.part := rfl
@[simp] theorem State.updCur_pending : (s.updCur u).pending = s.pending := rfl
@[simp] theorem State.updCur_regFile : (s.updCur u).regFile = s.regFile := rfl
@[simp] theorem State.updCur_mems : (s.updCur u).mems = s.mems := rfl
@[simp] theorem State.updCur_time : (s.updCur u).time = s.time := rfl
@[simp] theorem State.updCur_sched : (s.updCur u).sched = s.sched := rfl
@[simp] theorem State.updCur_inq : (s.updCur u).inq = s.inq := rfl
@[simp] theorem State.updCur_fabric : (s.updCur u).fabric = s.fabric := rfl
@[simp] theorem State.updCur_arch : (s.updCur u).arch = s.arch := rfl
@[simp] theorem State.updCur_flash : (s.updCur u).brd.flash = s.brd.flash := rfl
@[simp] theorem State.updCur_keys : (s.updCur u).brd.keys = s.brd.keys := rfl
@[simp] theorem State.updCur_evts : (s.updCur u).evts = s.evts := rfl
@[simp] theorem State.updCur_plat : (s.updCur u).plat = s.plat := rfl
@[simp] theorem State.updCur_draw : (s.updCur u).draw = s.draw := rfl
@[simp] theorem State.updCur_out : (s.updCur u).out = s.out := rfl
end

/-! ### setClu changes clusters alone -/

section
variable (s : State) (c : Nat) (k : Cluster)
@[simp] theorem State.setClu_part : (s.setClu c k).part = s.part := rfl
@[simp] theorem State.setClu_pending : (s.setClu c k).pending = s.pending := rfl
@[simp] theorem State.setClu_regFile : (s.setClu c k).regFile = s.regFile := rfl
@[simp] theorem State.setClu_mems : (s.setClu c k).mems = s.mems := rfl
@[simp] theorem State.setClu_time : (s.setClu c k).time = s.time := rfl
@[simp] theorem State.setClu_regions : (s.setClu c k).sched.regions = s.sched.regions := rfl
@[simp] theorem State.setClu_gathHist : (s.setClu c k).sched.gathHist = s.sched.gathHist := rfl
@[simp] theorem State.setClu_reported : (s.setClu c k).sched.reported = s.sched.reported := rfl
@[simp] theorem State.setClu_groups : (s.setClu c k).sched.groups = s.sched.groups := rfl
@[simp] theorem State.setClu_runs : (s.setClu c k).sched.runs = s.sched.runs := rfl
@[simp] theorem State.setClu_inq : (s.setClu c k).inq = s.inq := rfl
@[simp] theorem State.setClu_fabric : (s.setClu c k).fabric = s.fabric := rfl
@[simp] theorem State.setClu_arch : (s.setClu c k).arch = s.arch := rfl
@[simp] theorem State.setClu_brd : (s.setClu c k).brd = s.brd := rfl
@[simp] theorem State.setClu_evts : (s.setClu c k).evts = s.evts := rfl
@[simp] theorem State.setClu_plat : (s.setClu c k).plat = s.plat := rfl
@[simp] theorem State.setClu_draw : (s.setClu c k).draw = s.draw := rfl
@[simp] theorem State.setClu_out : (s.setClu c k).out = s.out := rfl
end

/-! ### setRgn changes regions alone -/

section
variable (s : State) (r : Nat) (k : Region)
@[simp] theorem State.setRgn_part : (s.setRgn r k).part = s.part := rfl
@[simp] theorem State.setRgn_pending : (s.setRgn r k).pending = s.pending := rfl
@[simp] theorem State.setRgn_regFile : (s.setRgn r k).regFile = s.regFile := rfl
@[simp] theorem State.setRgn_mems : (s.setRgn r k).mems = s.mems := rfl
@[simp] theorem State.setRgn_time : (s.setRgn r k).time = s.time := rfl
@[simp] theorem State.setRgn_clusters : (s.setRgn r k).sched.clusters = s.sched.clusters := rfl
@[simp] theorem State.setRgn_gathHist : (s.setRgn r k).sched.gathHist = s.sched.gathHist := rfl
@[simp] theorem State.setRgn_reported : (s.setRgn r k).sched.reported = s.sched.reported := rfl
@[simp] theorem State.setRgn_groups : (s.setRgn r k).sched.groups = s.sched.groups := rfl
@[simp] theorem State.setRgn_runs : (s.setRgn r k).sched.runs = s.sched.runs := rfl
@[simp] theorem State.setRgn_inq : (s.setRgn r k).inq = s.inq := rfl
@[simp] theorem State.setRgn_fabric : (s.setRgn r k).fabric = s.fabric := rfl
@[simp] theorem State.setRgn_arch : (s.setRgn r k).arch = s.arch := rfl
@[simp] theorem State.setRgn_brd : (s.setRgn r k).brd = s.brd := rfl
@[simp] theorem State.setRgn_evts : (s.setRgn r k).evts = s.evts := rfl
@[simp] theorem State.setRgn_plat : (s.setRgn r k).plat = s.plat := rfl
@[simp] theorem State.setRgn_draw : (s.setRgn r k).draw = s.draw := rfl
@[simp] theorem State.setRgn_out : (s.setRgn r k).out = s.out := rfl
end

/-! ### setRun changes runs alone -/

section
variable (s : State) (g : Nat) (r : GroupRun)
@[simp] theorem State.setRun_part : (s.setRun g r).part = s.part := rfl
@[simp] theorem State.setRun_pending : (s.setRun g r).pending = s.pending := rfl
@[simp] theorem State.setRun_regFile : (s.setRun g r).regFile = s.regFile := rfl
@[simp] theorem State.setRun_mems : (s.setRun g r).mems = s.mems := rfl
@[simp] theorem State.setRun_time : (s.setRun g r).time = s.time := rfl
@[simp] theorem State.setRun_clusters : (s.setRun g r).sched.clusters = s.sched.clusters := rfl
@[simp] theorem State.setRun_regions : (s.setRun g r).sched.regions = s.sched.regions := rfl
@[simp] theorem State.setRun_gathHist : (s.setRun g r).sched.gathHist = s.sched.gathHist := rfl
@[simp] theorem State.setRun_reported : (s.setRun g r).sched.reported = s.sched.reported := rfl
@[simp] theorem State.setRun_groups : (s.setRun g r).sched.groups = s.sched.groups := rfl
@[simp] theorem State.setRun_inq : (s.setRun g r).inq = s.inq := rfl
@[simp] theorem State.setRun_fabric : (s.setRun g r).fabric = s.fabric := rfl
@[simp] theorem State.setRun_arch : (s.setRun g r).arch = s.arch := rfl
@[simp] theorem State.setRun_brd : (s.setRun g r).brd = s.brd := rfl
@[simp] theorem State.setRun_evts : (s.setRun g r).evts = s.evts := rfl
@[simp] theorem State.setRun_plat : (s.setRun g r).plat = s.plat := rfl
@[simp] theorem State.setRun_draw : (s.setRun g r).draw = s.draw := rfl
@[simp] theorem State.setRun_out : (s.setRun g r).out = s.out := rfl
end

/-! ### setPort changes ports alone -/

section
variable (s : State) (k : Nat) (p : Port)
@[simp] theorem State.setPort_part : (s.setPort k p).part = s.part := rfl
@[simp] theorem State.setPort_pending : (s.setPort k p).pending = s.pending := rfl
@[simp] theorem State.setPort_regFile : (s.setPort k p).regFile = s.regFile := rfl
@[simp] theorem State.setPort_mems : (s.setPort k p).mems = s.mems := rfl
@[simp] theorem State.setPort_time : (s.setPort k p).time = s.time := rfl
@[simp] theorem State.setPort_sched : (s.setPort k p).sched = s.sched := rfl
@[simp] theorem State.setPort_inq : (s.setPort k p).inq = s.inq := rfl
@[simp] theorem State.setPort_tx : (s.setPort k p).fabric.tx = s.fabric.tx := rfl
@[simp] theorem State.setPort_rx : (s.setPort k p).fabric.rx = s.fabric.rx := rfl
@[simp] theorem State.setPort_retained : (s.setPort k p).fabric.retained = s.fabric.retained := rfl
@[simp] theorem State.setPort_early : (s.setPort k p).fabric.early = s.fabric.early := rfl
@[simp] theorem State.setPort_combIn : (s.setPort k p).fabric.combIn = s.fabric.combIn := rfl
@[simp] theorem State.setPort_combs : (s.setPort k p).fabric.combs = s.fabric.combs := rfl
@[simp] theorem State.setPort_cloTurn : (s.setPort k p).fabric.cloTurn = s.fabric.cloTurn := rfl
@[simp] theorem State.setPort_endIn : (s.setPort k p).fabric.endIn = s.fabric.endIn := rfl
@[simp] theorem State.setPort_endComb : (s.setPort k p).fabric.endComb = s.fabric.endComb := rfl
@[simp] theorem State.setPort_stalled : (s.setPort k p).fabric.stalled = s.fabric.stalled := rfl
@[simp] theorem State.setPort_loop : (s.setPort k p).fabric.loop = s.fabric.loop := rfl
@[simp] theorem State.setPort_arch : (s.setPort k p).arch = s.arch := rfl
@[simp] theorem State.setPort_brd : (s.setPort k p).brd = s.brd := rfl
@[simp] theorem State.setPort_evts : (s.setPort k p).evts = s.evts := rfl
@[simp] theorem State.setPort_plat : (s.setPort k p).plat = s.plat := rfl
@[simp] theorem State.setPort_draw : (s.setPort k p).draw = s.draw := rfl
@[simp] theorem State.setPort_out : (s.setPort k p).out = s.out := rfl
end

/-! ### setIq changes iqs alone -/

section
variable (s : State) (q : Nat) (x : Iq)
@[simp] theorem State.setIq_part : (s.setIq q x).part = s.part := rfl
@[simp] theorem State.setIq_pending : (s.setIq q x).pending = s.pending := rfl
@[simp] theorem State.setIq_regFile : (s.setIq q x).regFile = s.regFile := rfl
@[simp] theorem State.setIq_mems : (s.setIq q x).mems = s.mems := rfl
@[simp] theorem State.setIq_time : (s.setIq q x).time = s.time := rfl
@[simp] theorem State.setIq_sched : (s.setIq q x).sched = s.sched := rfl
@[simp] theorem State.setIq_logHeld : (s.setIq q x).inq.logHeld = s.inq.logHeld := rfl
@[simp] theorem State.setIq_logSeq : (s.setIq q x).inq.logSeq = s.inq.logSeq := rfl
@[simp] theorem State.setIq_logRead : (s.setIq q x).inq.logRead = s.inq.logRead := rfl
@[simp] theorem State.setIq_logFull : (s.setIq q x).inq.logFull = s.inq.logFull := rfl
@[simp] theorem State.setIq_replayEnd : (s.setIq q x).inq.replayEnd = s.inq.replayEnd := rfl
@[simp] theorem State.setIq_accSess : (s.setIq q x).inq.accSess = s.inq.accSess := rfl
@[simp] theorem State.setIq_accIn : (s.setIq q x).inq.accIn = s.inq.accIn := rfl
@[simp] theorem State.setIq_lsPend : (s.setIq q x).inq.lsPend = s.inq.lsPend := rfl
@[simp] theorem State.setIq_fabric : (s.setIq q x).fabric = s.fabric := rfl
@[simp] theorem State.setIq_arch : (s.setIq q x).arch = s.arch := rfl
@[simp] theorem State.setIq_brd : (s.setIq q x).brd = s.brd := rfl
@[simp] theorem State.setIq_evts : (s.setIq q x).evts = s.evts := rfl
@[simp] theorem State.setIq_plat : (s.setIq q x).plat = s.plat := rfl
@[simp] theorem State.setIq_draw : (s.setIq q x).draw = s.draw := rfl
@[simp] theorem State.setIq_out : (s.setIq q x).out = s.out := rfl
end

/-! ### setTx changes tx alone -/

section
variable (s : State) (t : TxStream)
@[simp] theorem State.setTx_part : (s.setTx t).part = s.part := rfl
@[simp] theorem State.setTx_pending : (s.setTx t).pending = s.pending := rfl
@[simp] theorem State.setTx_regFile : (s.setTx t).regFile = s.regFile := rfl
@[simp] theorem State.setTx_mems : (s.setTx t).mems = s.mems := rfl
@[simp] theorem State.setTx_time : (s.setTx t).time = s.time := rfl
@[simp] theorem State.setTx_sched : (s.setTx t).sched = s.sched := rfl
@[simp] theorem State.setTx_inq : (s.setTx t).inq = s.inq := rfl
@[simp] theorem State.setTx_ports : (s.setTx t).fabric.ports = s.fabric.ports := rfl
@[simp] theorem State.setTx_rx : (s.setTx t).fabric.rx = s.fabric.rx := rfl
@[simp] theorem State.setTx_retained : (s.setTx t).fabric.retained = s.fabric.retained := rfl
@[simp] theorem State.setTx_early : (s.setTx t).fabric.early = s.fabric.early := rfl
@[simp] theorem State.setTx_combIn : (s.setTx t).fabric.combIn = s.fabric.combIn := rfl
@[simp] theorem State.setTx_combs : (s.setTx t).fabric.combs = s.fabric.combs := rfl
@[simp] theorem State.setTx_cloTurn : (s.setTx t).fabric.cloTurn = s.fabric.cloTurn := rfl
@[simp] theorem State.setTx_endIn : (s.setTx t).fabric.endIn = s.fabric.endIn := rfl
@[simp] theorem State.setTx_endComb : (s.setTx t).fabric.endComb = s.fabric.endComb := rfl
@[simp] theorem State.setTx_stalled : (s.setTx t).fabric.stalled = s.fabric.stalled := rfl
@[simp] theorem State.setTx_loop : (s.setTx t).fabric.loop = s.fabric.loop := rfl
@[simp] theorem State.setTx_arch : (s.setTx t).arch = s.arch := rfl
@[simp] theorem State.setTx_brd : (s.setTx t).brd = s.brd := rfl
@[simp] theorem State.setTx_evts : (s.setTx t).evts = s.evts := rfl
@[simp] theorem State.setTx_plat : (s.setTx t).plat = s.plat := rfl
@[simp] theorem State.setTx_draw : (s.setTx t).draw = s.draw := rfl
@[simp] theorem State.setTx_out : (s.setTx t).out = s.out := rfl
end

end Sys2Proof.Machine
end

