-- ==== Sys2Proof/Laws/Regs.lean ====
section
/-! SUPPORT. Laws of the registers: a field read after a field write (the same field, another field of the word, another
word), for every page and every field of a 32-bit word; counters; and that what is no register update leaves every
register alone. -/
namespace Sys2Proof.Machine

/-- A number in three parts: above bit `l + w`, the `w` bits from `l`, below. -/
theorem split3 (n l w : Nat) : n = n / 2 ^ (l + w) * 2 ^ (l + w) + (n / 2 ^ l % 2 ^ w) * 2 ^ l + n % 2 ^ l := by
  have h1 := Nat.div_add_mod n (2 ^ l)
  have h2 := Nat.div_add_mod (n / 2 ^ l) (2 ^ w)
  rw [Nat.div_div_eq_div_mul, ← pow_add] at h2
  have h3 : n / 2 ^ (l + w) * 2 ^ (l + w) = 2 ^ l * (2 ^ w * (n / 2 ^ (l + w))) := by rw [pow_add]; ring
  have h4 : n / 2 ^ l % 2 ^ w * 2 ^ l = 2 ^ l * (n / 2 ^ l % 2 ^ w) := by ring
  rw [h3, h4, ← mul_add, h2, h1]

theorem put3 {n l w v : Nat} (hn : n < 2 ^ 32) (hw : l + w ≤ 32) (hv : v < 2 ^ w) :
    n - n / 2 ^ l % 2 ^ w * 2 ^ l + v * 2 ^ l = n / 2 ^ (l + w) * 2 ^ (l + w) + v * 2 ^ l + n % 2 ^ l ∧
    n - n / 2 ^ l % 2 ^ w * 2 ^ l + v * 2 ^ l < 2 ^ 32 := by
  have h := split3 n l w
  have e : n - n / 2 ^ l % 2 ^ w * 2 ^ l + v * 2 ^ l = n / 2 ^ (l + w) * 2 ^ (l + w) + v * 2 ^ l + n % 2 ^ l := by omega
  refine ⟨e, ?_⟩
  rw [e]
  have hA : n / 2 ^ (l + w) < 2 ^ (32 - (l + w)) := by
    rw [Nat.div_lt_iff_lt_mul (by positivity), ← pow_add]
    have : 32 - (l + w) + (l + w) = 32 := by omega
    rw [this]; exact hn
  have hB : n % 2 ^ l < 2 ^ l := Nat.mod_lt _ (by positivity)
  have h5 : v * 2 ^ l + n % 2 ^ l < 2 ^ (l + w) := by
    have : (v + 1) * 2 ^ l ≤ 2 ^ w * 2 ^ l := Nat.mul_le_mul_right _ hv
    rw [← pow_add, Nat.add_comm w l] at this
    have : (v + 1) * 2 ^ l = v * 2 ^ l + 2 ^ l := by ring
    omega
  have h6 : (n / 2 ^ (l + w) + 1) * 2 ^ (l + w) ≤ 2 ^ (32 - (l + w)) * 2 ^ (l + w) := Nat.mul_le_mul_right _ hA
  rw [← pow_add] at h6
  have h7 : 32 - (l + w) + (l + w) = 32 := by omega
  rw [h7] at h6
  have h8 : (n / 2 ^ (l + w) + 1) * 2 ^ (l + w) = n / 2 ^ (l + w) * 2 ^ (l + w) + 2 ^ (l + w) := by ring
  omega

theorem testBit3 {a l w v b : Nat} (hv : v < 2 ^ w) (hb : b < 2 ^ l) (i : Nat) :
    (a * 2 ^ (l + w) + v * 2 ^ l + b).testBit i =
      if i < l then b.testBit i else if i < l + w then v.testBit (i - l) else a.testBit (i - (l + w)) := by
  have e : a * 2 ^ (l + w) + v * 2 ^ l + b = 2 ^ l * (2 ^ w * a + v) + b := by rw [pow_add]; ring
  rw [e, Nat.testBit_two_pow_mul_add _ hb]
  split
  · rfl
  · rw [Nat.testBit_two_pow_mul_add _ hv]
    by_cases h : i < l + w
    · rw [if_pos (by omega), if_pos h]
    · rw [if_neg (by omega), if_neg h]; congr 1; omega

/-- Bit by bit, a field write changes the field alone. -/
theorem Fld.put_bit {f : Fld} (h1 : f.lo ≤ f.hi) (h2 : f.hi < 32) (w : Word) (v i : Nat) :
    (f.put w v).toNat.testBit i = if f.lo ≤ i ∧ i ≤ f.hi then v.testBit (i - f.lo) else w.toNat.testBit i := by
  have hw : f.lo + f.width = f.hi + 1 := by unfold Fld.width; omega
  have hv : v % 2 ^ f.width < 2 ^ f.width := Nat.mod_lt _ (by positivity)
  have hg : f.get w = w.toNat / 2 ^ f.lo % 2 ^ f.width := by unfold Fld.get; rw [Nat.shiftRight_eq_div_pow]
  obtain ⟨e, hlt⟩ := put3 (n := w.toNat) (l := f.lo) w.isLt (by omega) hv
  unfold Fld.put
  rw [BitVec.toNat_ofNat, hg, Nat.mod_eq_of_lt hlt, e, testBit3 hv (Nat.mod_lt _ (by positivity))]
  by_cases ha : i < f.lo
  · rw [if_pos ha, if_neg (by omega), Nat.testBit_mod_two_pow]; simp [ha]
  · rw [if_neg ha]
    by_cases hb : i < f.lo + f.width
    · rw [if_pos hb, if_pos (by omega), Nat.testBit_mod_two_pow]
      have : i - f.lo < f.width := by omega
      simp [this]
    · rw [if_neg hb, if_neg (by omega), Nat.testBit_div_two_pow]
      congr 1; omega

theorem Fld.get_bit (f : Fld) (w : Word) (i : Nat) :
    (f.get w).testBit i = (decide (i < f.width) && w.toNat.testBit (i + f.lo)) := by
  unfold Fld.get
  rw [Nat.testBit_mod_two_pow, Nat.testBit_shiftRight]
  rw [Nat.add_comm]

/-- The field just written. -/
theorem Fld.get_put {f : Fld} (h1 : f.lo ≤ f.hi) (h2 : f.hi < 32) (w : Word) (v : Nat) :
    f.get (f.put w v) = v % 2 ^ f.width := by
  apply Nat.eq_of_testBit_eq
  intro i
  rw [Fld.get_bit, Fld.put_bit h1 h2, Nat.testBit_mod_two_pow]
  by_cases h : i < f.width
  · have : f.lo ≤ i + f.lo ∧ i + f.lo ≤ f.hi := by unfold Fld.width at h; omega
    simp [h, this]
  · simp [h]

/-- Another field of the word. -/
theorem Fld.get_put_disjoint {f g : Fld} (h1 : f.lo ≤ f.hi) (h2 : f.hi < 32) (h : f.hi < g.lo ∨ g.hi < f.lo)
    (w : Word) (v : Nat) : g.get (f.put w v) = g.get w := by
  apply Nat.eq_of_testBit_eq
  intro i
  rw [Fld.get_bit, Fld.get_bit, Fld.put_bit h1 h2]
  by_cases hi : i < g.width
  · have : ¬(f.lo ≤ i + g.lo ∧ i + g.lo ≤ f.hi) := by unfold Fld.width at hi; omega
    simp [this]
  · simp [hi]

theorem Fld.get_lt (f : Fld) (w : Word) : f.get w < 2 ^ f.width := Nat.mod_lt _ (by positivity)

/-! ### Words and fields of a state -/

theorem State.word_setWord (s : State) (i j : Nat) (w : Word) :
    (s.setWord i w).word j = if j = i then w else s.word j := sget_sset _ _ _ _ _

@[simp] theorem State.word_setWord_same (s : State) (i : Nat) (w : Word) : (s.setWord i w).word i = w := by
  rw [State.word_setWord, if_pos rfl]

theorem State.word_setWord_ne (s : State) {i j : Nat} (w : Word) (h : j ≠ i) : (s.setWord i w).word j = s.word j := by
  rw [State.word_setWord, if_neg h]

theorem State.word_setF (s : State) (pg : Nat) (f : Fld) (v j : Nat) :
    (s.setF pg f v).word j = if j = regIdx pg f then f.put (s.word j) v else s.word j := by
  unfold State.setF
  rw [State.word_setWord]
  split
  · rename_i h; rw [h]
  · rfl

theorem State.word_setF_ne (s : State) {pg : Nat} {f : Fld} (v : Nat) {j : Nat} (h : j ≠ regIdx pg f) :
    (s.setF pg f v).word j = s.word j := by rw [State.word_setF, if_neg h]

/-- The field just written. -/
theorem State.getF_setF_same (s : State) (pg : Nat) {f : Fld} (v : Nat) (h1 : f.lo ≤ f.hi := by decide)
    (h2 : f.hi < 32 := by decide) : (s.setF pg f v).getF pg f = v % 2 ^ f.width := by
  unfold State.getF
  rw [State.word_setF, if_pos rfl, Fld.get_put h1 h2]

/-- A field of another word. -/
theorem State.getF_setF_ne (s : State) {pg pg' : Nat} {f g : Fld} (v : Nat) (h : regIdx pg' g ≠ regIdx pg f) :
    (s.setF pg f v).getF pg' g = s.getF pg' g := by
  unfold State.getF
  rw [State.word_setF_ne s v h]

/-- Another field of the same word, or a field of another page. -/
theorem State.getF_setF_field (s : State) (pg pg' : Nat) {f g : Fld} (v : Nat)
    (h : f.hi < g.lo ∨ g.hi < f.lo := by decide) (h1 : f.lo ≤ f.hi := by decide) (h2 : f.hi < 32 := by decide) :
    (s.setF pg f v).getF pg' g = s.getF pg' g := by
  unfold State.getF
  rw [State.word_setF]
  split
  · exact Fld.get_put_disjoint h1 h2 h _ _
  · rfl

/-- Words of two pages differ. -/
theorem regIdx_ne_page {pg pg' : Nat} (f g : Fld) (h : pg' ≠ pg) (hf : f.off < 4096 := by decide)
    (hg : g.off < 4096 := by decide) : regIdx pg' g ≠ regIdx pg f := by
  unfold regIdx; omega

/-- Words at two offsets differ, whatever their pages. -/
theorem regIdx_ne_off (pg pg' : Nat) (f g : Fld) (h : f.off / 4 ≠ g.off / 4 := by decide) (hf : f.off < 4096 := by decide)
    (hg : g.off < 4096 := by decide) : regIdx pg' g ≠ regIdx pg f := by
  unfold regIdx; omega

theorem State.getF_setF_page (s : State) {pg pg' : Nat} {f g : Fld} (v : Nat) (h : pg' ≠ pg)
    (hf : f.off < 4096 := by decide) (hg : g.off < 4096 := by decide) : (s.setF pg f v).getF pg' g = s.getF pg' g :=
  State.getF_setF_ne s v (regIdx_ne_page f g h hf hg)

theorem State.getF_setF_off (s : State) (pg pg' : Nat) {f g : Fld} (v : Nat) (h : f.off / 4 ≠ g.off / 4 := by decide)
    (hf : f.off < 4096 := by decide) (hg : g.off < 4096 := by decide) : (s.setF pg f v).getF pg' g = s.getF pg' g :=
  State.getF_setF_ne s v (regIdx_ne_off pg pg' f g h hf hg)

theorem State.getF_lt (s : State) (pg : Nat) (f : Fld) : s.getF pg f < 2 ^ f.width := Fld.get_lt f _

theorem State.flag_eq (s : State) (pg : Nat) (f : Fld) : s.flag pg f = decide (s.getF pg f ≠ 0) := rfl

/-! ### Counters (R25) -/

/-- Everything a count does. -/
theorem State.count_eq (s : State) (pg : Nat) (f : Fld) (n : Nat) :
    s.count pg f n = s ∨ s.count pg f n = s.setF pg f (min (2 ^ f.width - 1) (s.getF pg f + n)) := by
  unfold State.count
  split
  · exact .inr rfl
  · exact .inl rfl

theorem State.getF_count_same (s : State) {pg : Nat} {f : Fld} (n : Nat) (hc : s.counting pg = true)
    (h1 : f.lo ≤ f.hi := by decide) (h2 : f.hi < 32 := by decide) :
    (s.count pg f n).getF pg f = min (2 ^ f.width - 1) (s.getF pg f + n) := by
  unfold State.count
  rw [if_pos hc, State.getF_setF_same s pg _ h1 h2, Nat.mod_eq_of_lt]
  have : 0 < 2 ^ f.width := by positivity
  omega

theorem State.word_count_ne (s : State) {pg : Nat} {f : Fld} (n : Nat) {j : Nat} (h : j ≠ regIdx pg f) :
    (s.count pg f n).word j = s.word j := by
  rcases s.count_eq pg f n with e | e <;> rw [e]
  exact s.word_setF_ne _ h

theorem State.getF_count_ne (s : State) {pg pg' : Nat} {f g : Fld} (n : Nat) (h : regIdx pg' g ≠ regIdx pg f) :
    (s.count pg f n).getF pg' g = s.getF pg' g := by
  unfold State.getF
  rw [State.word_count_ne s n h]

/-- Registers depend on `regs` and `part` alone. -/
theorem State.word_congr {s t : State} (h : t.regs = s.regs) (hp : t.part = s.part) (j : Nat) : t.word j = s.word j := by
  unfold State.word; rw [h, hp]

theorem State.getF_congr {s t : State} (h : t.regs = s.regs) (hp : t.part = s.part) (pg : Nat) (f : Fld) :
    t.getF pg f = s.getF pg f := by unfold State.getF; rw [State.word_congr h hp]

/-! ### Updates that touch no register -/

@[simp] theorem State.word_setThrottle (s : State) (d : Nat) (t : Throttle) (j : Nat) : (s.setThrottle d t).word j = s.word j := rfl
@[simp] theorem State.getF_setThrottle (s : State) (d : Nat) (t : Throttle) (pg : Nat) (f : Fld) : (s.setThrottle d t).getF pg f = s.getF pg f := rfl

@[simp] theorem State.word_emit (s : State) (o : Out) (j : Nat) : (s.emit o).word j = s.word j := rfl
@[simp] theorem State.getF_emit (s : State) (o : Out) (pg : Nat) (f : Fld) : (s.emit o).getF pg f = s.getF pg f := rfl

@[simp] theorem State.word_pokeByte (s : State) (a : Nat) (b : Byte) (j : Nat) : (s.pokeByte a b).word j = s.word j := rfl
@[simp] theorem State.getF_pokeByte (s : State) (a : Nat) (b : Byte) (pg : Nat) (f : Fld) : (s.pokeByte a b).getF pg f = s.getF pg f := rfl

@[simp] theorem State.word_pokeBytes (s : State) (a : Nat) (bs : List Byte) (j : Nat) : (s.pokeBytes a bs).word j = s.word j := rfl
@[simp] theorem State.getF_pokeBytes (s : State) (a : Nat) (bs : List Byte) (pg : Nat) (f : Fld) : (s.pokeBytes a bs).getF pg f = s.getF pg f := rfl

@[simp] theorem State.word_updCur (s : State) (u : Curator → Curator) (j : Nat) : (s.updCur u).word j = s.word j := rfl
@[simp] theorem State.getF_updCur (s : State) (u : Curator → Curator) (pg : Nat) (f : Fld) : (s.updCur u).getF pg f = s.getF pg f := rfl

@[simp] theorem State.word_setClu (s : State) (c : Nat) (k : Cluster) (j : Nat) : (s.setClu c k).word j = s.word j := rfl
@[simp] theorem State.getF_setClu (s : State) (c : Nat) (k : Cluster) (pg : Nat) (f : Fld) : (s.setClu c k).getF pg f = s.getF pg f := rfl

@[simp] theorem State.word_setRgn (s : State) (r : Nat) (k : Region) (j : Nat) : (s.setRgn r k).word j = s.word j := rfl
@[simp] theorem State.getF_setRgn (s : State) (r : Nat) (k : Region) (pg : Nat) (f : Fld) : (s.setRgn r k).getF pg f = s.getF pg f := rfl

@[simp] theorem State.word_setRun (s : State) (g : Nat) (r : GroupRun) (j : Nat) : (s.setRun g r).word j = s.word j := rfl
@[simp] theorem State.getF_setRun (s : State) (g : Nat) (r : GroupRun) (pg : Nat) (f : Fld) : (s.setRun g r).getF pg f = s.getF pg f := rfl

@[simp] theorem State.word_setPort (s : State) (k : Nat) (p : Port) (j : Nat) : (s.setPort k p).word j = s.word j := rfl
@[simp] theorem State.getF_setPort (s : State) (k : Nat) (p : Port) (pg : Nat) (f : Fld) : (s.setPort k p).getF pg f = s.getF pg f := rfl

@[simp] theorem State.word_setIq (s : State) (q : Nat) (x : Iq) (j : Nat) : (s.setIq q x).word j = s.word j := rfl
@[simp] theorem State.getF_setIq (s : State) (q : Nat) (x : Iq) (pg : Nat) (f : Fld) : (s.setIq q x).getF pg f = s.getF pg f := rfl

@[simp] theorem State.word_setTx (s : State) (t : TxStream) (j : Nat) : (s.setTx t).word j = s.word j := rfl
@[simp] theorem State.getF_setTx (s : State) (t : TxStream) (pg : Nat) (f : Fld) : (s.setTx t).getF pg f = s.getF pg f := rfl

@[simp] theorem State.word_setStaged (s : State) (i : Nat) (w : Word) (j : Nat) : (s.setStaged i w).word j = s.word j := rfl
@[simp] theorem State.getF_setStaged (s : State) (i : Nat) (w : Word) (pg : Nat) (f : Fld) : (s.setStaged i w).getF pg f = s.getF pg f := rfl

end Sys2Proof.Machine
end

