-- ==== Sys2Proof/Laws/Frames.lean ====
section
/-! SUPPORT. Frames of the operations that branch. A `sans` state has some fields blanked; an operation whose result and
argument agree there changes those fields alone. From each frame follows one lemma for each field left alone. -/
namespace Sys2Proof.Machine

/-- A fold of steps that each keep a projection keeps it. -/
theorem foldl_keeps {α β γ : Type} (p : α → γ) (f : α → β → α) (h : ∀ a b, p (f a b) = p a) (l : List β) (a : α) :
    p (l.foldl f a) = p a := by
  induction l generalizing a with
  | nil => rfl
  | cons b l ih => rw [List.foldl_cons, ih, h]

/-- A fold of steps that each keep a predicate keeps it. -/
theorem foldl_inv {α β : Type} (P : α → Prop) (f : α → β → α) (h : ∀ a b, P a → P (f a b)) (l : List β) (a : α) (ha : P a) :
    P (l.foldl f a) := by
  induction l generalizing a with
  | nil => exact ha
  | cons b l ih => rw [List.foldl_cons]; exact ih _ (h a b ha)

/-- The state with regs blanked. -/
def State.sansRegs (s : State) : State := { s with regFile.regs := [] }

/-- The state with regs, out blanked. -/
def State.sansOut (s : State) : State := { s with regFile.regs := [], out := [] }

/-- The state with regs, held blanked. -/
def State.sansHeld (s : State) : State := { s with regFile.regs := [], evts.held := [] }

/-- The state with regs, held, lastData blanked. -/
def State.sansEvents (s : State) : State := { s with regFile.regs := [], evts.held := [], evts.lastData := [] }

/-- The state with regs, held, lastData, buckets blanked. -/
def State.sansErrors (s : State) : State := { s with regFile.regs := [], evts.held := [], evts.lastData := [], mems.buckets := [] }

/-- The state with unitKey blanked. -/
def State.sansTags (s : State) : State := { s with mems.unitKey := [] }

/-- The state with mem, unitKey, errs blanked. -/
def State.sansZero (s : State) : State := { s with mems.mem := [], mems.unitKey := [], mems.errs := [] }

/-- The state with regs, held, lastData, buckets, mem, unitKey, errs blanked. -/
def State.sansMem (s : State) : State := { s with regFile.regs := [], evts.held := [], evts.lastData := [], mems.buckets := [], mems.mem := [], mems.unitKey := [], mems.errs := [] }

/-- The state with regs, ports, out blanked. -/
def State.sansLinks (s : State) : State := { s with regFile.regs := [], fabric.ports := [], out := [] }

/-- The state with regs, ports, out, tx, retained, stalled, loop blanked. -/
def State.sansChunks (s : State) : State := { s with regFile.regs := [], fabric.ports := [], out := [], fabric.tx := [], fabric.retained := [], fabric.stalled := [], fabric.loop := [] }

section
variable {x y : State}

theorem State.held_of_regs (h : x.sansRegs = y.sansRegs) : x.sansHeld = y.sansHeld := (congrArg State.sansHeld h :)
theorem State.events_of_regs (h : x.sansRegs = y.sansRegs) : x.sansEvents = y.sansEvents := (congrArg State.sansEvents h :)
theorem State.out_of_regs (h : x.sansRegs = y.sansRegs) : x.sansOut = y.sansOut := (congrArg State.sansOut h :)
theorem State.errors_of_regs (h : x.sansRegs = y.sansRegs) : x.sansErrors = y.sansErrors := (congrArg State.sansErrors h :)
theorem State.links_of_regs (h : x.sansRegs = y.sansRegs) : x.sansLinks = y.sansLinks := (congrArg State.sansLinks h :)
theorem State.chunks_of_regs (h : x.sansRegs = y.sansRegs) : x.sansChunks = y.sansChunks := (congrArg State.sansChunks h :)
theorem State.events_of_held (h : x.sansHeld = y.sansHeld) : x.sansEvents = y.sansEvents := (congrArg State.sansEvents h :)
theorem State.errors_of_events (h : x.sansEvents = y.sansEvents) : x.sansErrors = y.sansErrors := (congrArg State.sansErrors h :)
theorem State.mem_of_events (h : x.sansEvents = y.sansEvents) : x.sansMem = y.sansMem := (congrArg State.sansMem h :)
theorem State.mem_of_errors (h : x.sansErrors = y.sansErrors) : x.sansMem = y.sansMem := (congrArg State.sansMem h :)
theorem State.zero_of_tags (h : x.sansTags = y.sansTags) : x.sansZero = y.sansZero := (congrArg State.sansZero h :)
theorem State.mem_of_tags (h : x.sansTags = y.sansTags) : x.sansMem = y.sansMem := (congrArg State.sansMem h :)
theorem State.chunks_of_links (h : x.sansLinks = y.sansLinks) : x.sansChunks = y.sansChunks := (congrArg State.sansChunks h :)
theorem State.links_of_out (h : x.sansOut = y.sansOut) : x.sansLinks = y.sansLinks := (congrArg State.sansLinks h :)

end

section
variable (s : State)

theorem State.setF_sans (pg : Nat) (f : Fld) (v : Nat) : (s.setF pg f v).sansRegs = s.sansRegs := Eq.trans rfl rfl
theorem State.orF_sans (pg : Nat) (f : Fld) (v : Nat) : (s.orF pg f v).sansRegs = s.sansRegs := Eq.trans rfl rfl

theorem State.count_sans (pg : Nat) (f : Fld) (n : Nat) : (s.count pg f n).sansRegs = s.sansRegs := by
  rcases s.count_eq pg f n with e | e <;> rw [e]
  rfl

theorem State.msix_sans (v : Nat) : (s.msix v).sansOut = s.sansOut := by
  unfold State.msix; split <;> rfl

theorem State.holdEvent_sans (e : Event) : (s.holdEvent e).sansHeld = s.sansHeld := by
  unfold State.holdEvent
  split
  · rfl
  · rename_i d _
    split
    · simp only []
      split
      · rfl
      · exact State.held_of_regs (s.count_sans _ _ _)
    · show (s.count (pgDie d) Reg.DIE_CNT_EVT 1).sansHeld = s.sansHeld
      exact State.held_of_regs (s.count_sans _ _ _)

theorem State.raiseBy_sans (pg bit code sev : Nat) (data : List Byte) (after : Option (Nat × Nat)) :
    (s.raiseBy pg bit code sev data after).sansEvents = s.sansEvents := by
  unfold State.raiseBy
  split
  · exact (State.events_of_held (State.holdEvent_sans _ _)).trans (Eq.trans rfl rfl)
  · exact Eq.trans rfl rfl

theorem State.raise_sans (pg bit code sev : Nat) (data : List Byte) :
    (s.raise pg bit code sev data).sansEvents = s.sansEvents := s.raiseBy_sans pg bit code sev data none

theorem State.failSlot_sans (r slot : Nat) : (s.failSlot r slot).sansRegs = s.sansRegs := s.orF_sans _ _ _

theorem State.foundUE_sans (inst off cause : Nat) : (s.foundUE inst off cause).sansEvents = s.sansEvents := by
  have h1 : ∀ t : State, t.sansRegs = s.sansRegs →
      (if inst / 4096 < 5 then t.count (instPage inst) Reg.CLU_CNT_UE 1 else t).sansRegs = s.sansRegs := by
    intro t ht
    split
    · rw [State.count_sans, ht]
    · exact ht
  have h2 : ∀ t : State, t.sansRegs = s.sansRegs →
      (if faultsSlot inst cause then t.failSlot (regionOf (inst % 4096)) (t.slotOf (inst % 4096)) else t).sansRegs = s.sansRegs := by
    intro t ht
    split
    · rw [State.failSlot_sans, ht]
    · exact ht
  have h3 : ∀ t : State, t.sansRegs = s.sansRegs →
      (if inst / 4096 = 9 then t.count (instPage inst) Reg.MEM_CNT_UE 1 else
        (let u := if inst / 4096 < 5 then t.count (instPage inst) Reg.CLU_CNT_UE 1 else t
         let v := if faultsSlot inst cause then u.failSlot (regionOf (inst % 4096)) (u.slotOf (inst % 4096)) else u
         v.count pgEcc Reg.ECC_CNT_UE_SRAM 1)).sansRegs = s.sansRegs := by
    intro t ht
    split
    · rw [State.count_sans, ht]
    · exact (State.count_sans _ _ _ _).trans (h2 _ (h1 t ht))
  unfold State.foundUE
  refine (State.raise_sans _ _ _ _ _ _).trans (State.events_of_regs (h3 _ ?_))
  split <;> simp only [State.setF_sans, State.orF_sans]

theorem State.foundCE_sans (inst : Nat) : (s.foundCE inst).sansErrors = s.sansErrors := by
  have h1 : ∀ t : State, t.sansRegs = s.sansRegs →
      (if inst / 4096 = 9 then t else t.count pgEcc Reg.ECC_CNT_CE_SRAM 1).sansRegs = s.sansRegs := by
    intro t ht
    split
    · exact ht
    · rw [State.count_sans, ht]
  have h2 := h1 (match inst / 4096 with
    | 0 => s.count (instPage inst) Reg.CLU_CNT_CE_WS 1
    | 1 => s.count (instPage inst) Reg.CLU_CNT_CE_AB 1
    | 2 => s.count (instPage inst) Reg.CLU_CNT_CE_AM 1
    | 3 => s.count (instPage inst) Reg.CLU_CNT_CE_IM 1
    | 4 => s.count (instPage inst) Reg.CLU_CNT_CE_CAT 1
    | 9 => s.count (instPage inst) Reg.MEM_CNT_CE 1
    | _ => s) (by split <;> first | exact s.count_sans _ _ _ | rfl)
  unfold State.foundCE
  extract_lets pg t1 t2 n
  have h3 : t2.sansErrors = s.sansErrors := State.errors_of_regs h2
  split
  · refine (State.errors_of_events (State.raise_sans _ _ _ _ _ _)).trans ?_
    exact (State.errors_of_regs (State.count_sans _ _ _ _)).trans h3
  · exact h3

theorem State.foundAt_sans (inst off cause : Nat) : (s.foundAt inst off cause).sansErrors = s.sansErrors := by
  unfold State.foundAt
  split
  · exact s.foundCE_sans inst
  · exact State.errors_of_events (s.foundUE_sans inst off cause)
  · rfl

theorem State.touch_sans (a n cause : Nat) : (s.touch a n cause).sansErrors = s.sansErrors := by
  unfold State.touch
  split
  · rfl
  · exact foldl_keeps State.sansErrors _ (fun t i => t.foundAt_sans _ _ _) _ _

theorem State.tagPages_sans (slot a n : Nat) : (s.tagPages slot a n).sansTags = s.sansTags := by
  unfold State.tagPages; split <;> rfl

theorem State.zeroRange_sans (slot a n : Nat) : (s.zeroRange slot a n).sansZero = s.sansZero := by
  unfold State.zeroRange
  show (s.tagPages slot a n).sansZero = s.sansZero
  exact State.zero_of_tags (s.tagPages_sans slot a n)

theorem State.writeWord_sans (a : Nat) (bs : List Byte) (i : Nat) : (s.writeWord a bs i).sansMem = s.sansMem := by
  unfold State.writeWord
  extract_lets w cw p io merged
  split
  · exact State.mem_of_events (s.foundUE_sans _ _ _)
  · have h : (if (decide (s.errAt cw = 1) && merged) = true then s.foundCE io.1 else s).sansMem = s.sansMem := by
      split
      · exact State.mem_of_errors (s.foundCE_sans _)
      · rfl
    exact Eq.trans rfl h

theorem State.writeBytes_sans (slot a : Nat) (bs : List Byte) : (s.writeBytes slot a bs).sansMem = s.sansMem := by
  have h0 : (if bs.isEmpty then s else s.tagPages slot a bs.length).sansMem = s.sansMem := by
    split
    · rfl
    · exact State.mem_of_tags (s.tagPages_sans slot a bs.length)
  unfold State.writeBytes
  extract_lets s1
  split
  · exact Eq.trans rfl h0
  · exact (foldl_keeps State.sansMem _ (fun t i => t.writeWord_sans a bs i) _ _).trans h0

theorem State.updPort_sans (k : Nat) (f : Port → Port) : (s.updPort k f).sansLinks = s.sansLinks := rfl

theorem State.wakePort_sans (k : Nat) : (s.wakePort k).sansLinks = s.sansLinks := by
  unfold State.wakePort; simp only []; split <;> rfl

theorem State.putFlit_sans (k : Nat) (f : Flit) : (s.putFlit k f).sansLinks = s.sansLinks := by
  unfold State.putFlit; simp only []; split <;> rfl

theorem State.sendHop_sans (k kind : Nat) (data : List Nat) : (s.sendHop k kind data).sansLinks = s.sansLinks := by
  unfold State.sendHop
  extract_lets f t
  rw [State.putFlit_sans, State.updPort_sans, State.wakePort_sans]
  exact State.links_of_regs (s.count_sans _ _ _)

theorem State.startRekey_sans (k : Nat) : (s.startRekey k).sansLinks = s.sansLinks := by
  unfold State.startRekey
  split
  · rfl
  · rw [State.sendHop_sans]; rfl

theorem State.counterRekey_sans (k : Nat) : (s.counterRekey k).sansLinks = s.sansLinks := by
  unfold State.counterRekey
  split
  · exact s.startRekey_sans k
  · rfl

theorem State.sendOn_sans (k cls src dst vc seq kind : Nat) (fresh : Bool) (data : List Byte) (back : Option (Nat × Nat)) :
    (s.sendOn k cls src dst vc seq kind fresh data back).sansLinks = s.sansLinks := by
  unfold State.sendOn
  rw [State.updPort_sans, State.wakePort_sans]

theorem State.sendAck_sans (src vc seq : Nat) : (s.sendAck src vc seq).sansLinks = s.sansLinks := by
  unfold State.sendAck
  split
  · rfl
  · simp only []
    rw [State.sendOn_sans]
    split
    · exact State.links_of_regs (s.count_sans _ _ _)
    · rfl

theorem State.pushChunk_sans (dst vc kind : Nat) (data : List Byte) :
    (s.pushChunk dst vc kind data).sansChunks = s.sansChunks := by
  unfold State.pushChunk
  split
  · rfl
  · rename_i k re _
    split
    · rfl
    · extract_lets t u u2 r u3
      have h : u.sansChunks = s.sansChunks := by
        show (if re then s.count (pgLnk k) Reg.LNK_CNT_REROUTE 1 else s).sansChunks = s.sansChunks
        split
        · exact State.chunks_of_regs (s.count_sans _ _ _)
        · rfl
      exact (State.chunks_of_links (State.sendOn_sans _ _ _ _ _ _ _ _ _ _ _)).trans (Eq.trans rfl h)

theorem State.sendChunk_sans (dst vc kind : Nat) (data : List Byte) :
    (s.sendChunk dst vc kind data).sansChunks = s.sansChunks := by
  unfold State.sendChunk
  split
  · rfl
  · exact s.pushChunk_sans dst vc kind data

theorem State.respond_sans (code tag status : Nat) (payload : List Byte) (haddr hlen : Nat) :
    (s.respond code tag status payload haddr hlen).sansOut = s.sansOut := by
  unfold State.respond
  simp only []
  rw [State.msix_sans]
  rfl

end

/-! ### What count leaves alone -/

section
variable (s : State) (pg : Nat) (f : Fld) (n : Nat)
@[simp] theorem State.count_part : (s.count pg f n).part = s.part := (congrArg (fun t : State => t.part) (s.count_sans pg f n) :)
@[simp] theorem State.count_pending : (s.count pg f n).pending = s.pending := (congrArg (fun t : State => t.pending) (s.count_sans pg f n) :)
@[simp] theorem State.count_staged : (s.count pg f n).regFile.staged = s.regFile.staged := (congrArg (fun t : State => t.regFile.staged) (s.count_sans pg f n) :)
@[simp] theorem State.count_snap : (s.count pg f n).regFile.snap = s.regFile.snap := (congrArg (fun t : State => t.regFile.snap) (s.count_sans pg f n) :)
@[simp] theorem State.count_cntFrom : (s.count pg f n).regFile.cntFrom = s.regFile.cntFrom := (congrArg (fun t : State => t.regFile.cntFrom) (s.count_sans pg f n) :)
@[simp] theorem State.count_mems : (s.count pg f n).mems = s.mems := (congrArg (fun t : State => t.mems) (s.count_sans pg f n) :)
@[simp] theorem State.count_time : (s.count pg f n).time = s.time := (congrArg (fun t : State => t.time) (s.count_sans pg f n) :)
@[simp] theorem State.count_sched : (s.count pg f n).sched = s.sched := (congrArg (fun t : State => t.sched) (s.count_sans pg f n) :)
@[simp] theorem State.count_inq : (s.count pg f n).inq = s.inq := (congrArg (fun t : State => t.inq) (s.count_sans pg f n) :)
@[simp] theorem State.count_fabric : (s.count pg f n).fabric = s.fabric := (congrArg (fun t : State => t.fabric) (s.count_sans pg f n) :)
@[simp] theorem State.count_arch : (s.count pg f n).arch = s.arch := (congrArg (fun t : State => t.arch) (s.count_sans pg f n) :)
@[simp] theorem State.count_brd : (s.count pg f n).brd = s.brd := (congrArg (fun t : State => t.brd) (s.count_sans pg f n) :)
@[simp] theorem State.count_evts : (s.count pg f n).evts = s.evts := (congrArg (fun t : State => t.evts) (s.count_sans pg f n) :)
@[simp] theorem State.count_plat : (s.count pg f n).plat = s.plat := (congrArg (fun t : State => t.plat) (s.count_sans pg f n) :)
@[simp] theorem State.count_draw : (s.count pg f n).draw = s.draw := (congrArg (fun t : State => t.draw) (s.count_sans pg f n) :)
@[simp] theorem State.count_out : (s.count pg f n).out = s.out := (congrArg (fun t : State => t.out) (s.count_sans pg f n) :)
end

/-! ### What msix leaves alone -/

section
variable (s : State) (v : Nat)
@[simp] theorem State.msix_part : (s.msix v).part = s.part := (congrArg (fun t : State => t.part) (s.msix_sans v) :)
@[simp] theorem State.msix_pending : (s.msix v).pending = s.pending := (congrArg (fun t : State => t.pending) (s.msix_sans v) :)
@[simp] theorem State.msix_staged : (s.msix v).regFile.staged = s.regFile.staged := (congrArg (fun t : State => t.regFile.staged) (s.msix_sans v) :)
@[simp] theorem State.msix_snap : (s.msix v).regFile.snap = s.regFile.snap := (congrArg (fun t : State => t.regFile.snap) (s.msix_sans v) :)
@[simp] theorem State.msix_cntFrom : (s.msix v).regFile.cntFrom = s.regFile.cntFrom := (congrArg (fun t : State => t.regFile.cntFrom) (s.msix_sans v) :)
@[simp] theorem State.msix_mems : (s.msix v).mems = s.mems := (congrArg (fun t : State => t.mems) (s.msix_sans v) :)
@[simp] theorem State.msix_time : (s.msix v).time = s.time := (congrArg (fun t : State => t.time) (s.msix_sans v) :)
@[simp] theorem State.msix_sched : (s.msix v).sched = s.sched := (congrArg (fun t : State => t.sched) (s.msix_sans v) :)
@[simp] theorem State.msix_inq : (s.msix v).inq = s.inq := (congrArg (fun t : State => t.inq) (s.msix_sans v) :)
@[simp] theorem State.msix_fabric : (s.msix v).fabric = s.fabric := (congrArg (fun t : State => t.fabric) (s.msix_sans v) :)
@[simp] theorem State.msix_arch : (s.msix v).arch = s.arch := (congrArg (fun t : State => t.arch) (s.msix_sans v) :)
@[simp] theorem State.msix_brd : (s.msix v).brd = s.brd := (congrArg (fun t : State => t.brd) (s.msix_sans v) :)
@[simp] theorem State.msix_evts : (s.msix v).evts = s.evts := (congrArg (fun t : State => t.evts) (s.msix_sans v) :)
@[simp] theorem State.msix_plat : (s.msix v).plat = s.plat := (congrArg (fun t : State => t.plat) (s.msix_sans v) :)
@[simp] theorem State.msix_draw : (s.msix v).draw = s.draw := (congrArg (fun t : State => t.draw) (s.msix_sans v) :)
end

/-! ### What holdEvent leaves alone -/

section
variable (s : State) (e : Event)
@[simp] theorem State.holdEvent_part : (s.holdEvent e).part = s.part := (congrArg (fun t : State => t.part) (s.holdEvent_sans e) :)
@[simp] theorem State.holdEvent_pending : (s.holdEvent e).pending = s.pending := (congrArg (fun t : State => t.pending) (s.holdEvent_sans e) :)
@[simp] theorem State.holdEvent_staged : (s.holdEvent e).regFile.staged = s.regFile.staged := (congrArg (fun t : State => t.regFile.staged) (s.holdEvent_sans e) :)
@[simp] theorem State.holdEvent_snap : (s.holdEvent e).regFile.snap = s.regFile.snap := (congrArg (fun t : State => t.regFile.snap) (s.holdEvent_sans e) :)
@[simp] theorem State.holdEvent_cntFrom : (s.holdEvent e).regFile.cntFrom = s.regFile.cntFrom := (congrArg (fun t : State => t.regFile.cntFrom) (s.holdEvent_sans e) :)
@[simp] theorem State.holdEvent_mems : (s.holdEvent e).mems = s.mems := (congrArg (fun t : State => t.mems) (s.holdEvent_sans e) :)
@[simp] theorem State.holdEvent_time : (s.holdEvent e).time = s.time := (congrArg (fun t : State => t.time) (s.holdEvent_sans e) :)
@[simp] theorem State.holdEvent_sched : (s.holdEvent e).sched = s.sched := (congrArg (fun t : State => t.sched) (s.holdEvent_sans e) :)
@[simp] theorem State.holdEvent_inq : (s.holdEvent e).inq = s.inq := (congrArg (fun t : State => t.inq) (s.holdEvent_sans e) :)
@[simp] theorem State.holdEvent_fabric : (s.holdEvent e).fabric = s.fabric := (congrArg (fun t : State => t.fabric) (s.holdEvent_sans e) :)
@[simp] theorem State.holdEvent_arch : (s.holdEvent e).arch = s.arch := (congrArg (fun t : State => t.arch) (s.holdEvent_sans e) :)
@[simp] theorem State.holdEvent_brd : (s.holdEvent e).brd = s.brd := (congrArg (fun t : State => t.brd) (s.holdEvent_sans e) :)
@[simp] theorem State.holdEvent_waiting : (s.holdEvent e).evts.waiting = s.evts.waiting := (congrArg (fun t : State => t.evts.waiting) (s.holdEvent_sans e) :)
@[simp] theorem State.holdEvent_ring : (s.holdEvent e).evts.ring = s.evts.ring := (congrArg (fun t : State => t.evts.ring) (s.holdEvent_sans e) :)
@[simp] theorem State.holdEvent_ringCancelled : (s.holdEvent e).evts.ringCancelled = s.evts.ringCancelled := (congrArg (fun t : State => t.evts.ringCancelled) (s.holdEvent_sans e) :)
@[simp] theorem State.holdEvent_evtSeq : (s.holdEvent e).evts.evtSeq = s.evts.evtSeq := (congrArg (fun t : State => t.evts.evtSeq) (s.holdEvent_sans e) :)
@[simp] theorem State.holdEvent_evtConsumed : (s.holdEvent e).evts.evtConsumed = s.evts.evtConsumed := (congrArg (fun t : State => t.evts.evtConsumed) (s.holdEvent_sans e) :)
@[simp] theorem State.holdEvent_dropped : (s.holdEvent e).evts.dropped = s.evts.dropped := (congrArg (fun t : State => t.evts.dropped) (s.holdEvent_sans e) :)
@[simp] theorem State.holdEvent_lastData : (s.holdEvent e).evts.lastData = s.evts.lastData := (congrArg (fun t : State => t.evts.lastData) (s.holdEvent_sans e) :)
@[simp] theorem State.holdEvent_plat : (s.holdEvent e).plat = s.plat := (congrArg (fun t : State => t.plat) (s.holdEvent_sans e) :)
@[simp] theorem State.holdEvent_draw : (s.holdEvent e).draw = s.draw := (congrArg (fun t : State => t.draw) (s.holdEvent_sans e) :)
@[simp] theorem State.holdEvent_out : (s.holdEvent e).out = s.out := (congrArg (fun t : State => t.out) (s.holdEvent_sans e) :)
end

/-! ### What raiseBy leaves alone -/

section
variable (s : State) (pg bit code sev : Nat) (data : List Byte) (after : Option (Nat × Nat))
@[simp] theorem State.raiseBy_part : (s.raiseBy pg bit code sev data after).part = s.part := (congrArg (fun t : State => t.part) (s.raiseBy_sans pg bit code sev data after) :)
@[simp] theorem State.raiseBy_pending : (s.raiseBy pg bit code sev data after).pending = s.pending := (congrArg (fun t : State => t.pending) (s.raiseBy_sans pg bit code sev data after) :)
@[simp] theorem State.raiseBy_staged : (s.raiseBy pg bit code sev data after).regFile.staged = s.regFile.staged := (congrArg (fun t : State => t.regFile.staged) (s.raiseBy_sans pg bit code sev data after) :)
@[simp] theorem State.raiseBy_snap : (s.raiseBy pg bit code sev data after).regFile.snap = s.regFile.snap := (congrArg (fun t : State => t.regFile.snap) (s.raiseBy_sans pg bit code sev data after) :)
@[simp] theorem State.raiseBy_cntFrom : (s.raiseBy pg bit code sev data after).regFile.cntFrom = s.regFile.cntFrom := (congrArg (fun t : State => t.regFile.cntFrom) (s.raiseBy_sans pg bit code sev data after) :)
@[simp] theorem State.raiseBy_mems : (s.raiseBy pg bit code sev data after).mems = s.mems := (congrArg (fun t : State => t.mems) (s.raiseBy_sans pg bit code sev data after) :)
@[simp] theorem State.raiseBy_time : (s.raiseBy pg bit code sev data after).time = s.time := (congrArg (fun t : State => t.time) (s.raiseBy_sans pg bit code sev data after) :)
@[simp] theorem State.raiseBy_sched : (s.raiseBy pg bit code sev data after).sched = s.sched := (congrArg (fun t : State => t.sched) (s.raiseBy_sans pg bit code sev data after) :)
@[simp] theorem State.raiseBy_inq : (s.raiseBy pg bit code sev data after).inq = s.inq := (congrArg (fun t : State => t.inq) (s.raiseBy_sans pg bit code sev data after) :)
@[simp] theorem State.raiseBy_fabric : (s.raiseBy pg bit code sev data after).fabric = s.fabric := (congrArg (fun t : State => t.fabric) (s.raiseBy_sans pg bit code sev data after) :)
@[simp] theorem State.raiseBy_arch : (s.raiseBy pg bit code sev data after).arch = s.arch := (congrArg (fun t : State => t.arch) (s.raiseBy_sans pg bit code sev data after) :)
@[simp] theorem State.raiseBy_brd : (s.raiseBy pg bit code sev data after).brd = s.brd := (congrArg (fun t : State => t.brd) (s.raiseBy_sans pg bit code sev data after) :)
@[simp] theorem State.raiseBy_waiting : (s.raiseBy pg bit code sev data after).evts.waiting = s.evts.waiting := (congrArg (fun t : State => t.evts.waiting) (s.raiseBy_sans pg bit code sev data after) :)
@[simp] theorem State.raiseBy_ring : (s.raiseBy pg bit code sev data after).evts.ring = s.evts.ring := (congrArg (fun t : State => t.evts.ring) (s.raiseBy_sans pg bit code sev data after) :)
@[simp] theorem State.raiseBy_ringCancelled : (s.raiseBy pg bit code sev data after).evts.ringCancelled = s.evts.ringCancelled := (congrArg (fun t : State => t.evts.ringCancelled) (s.raiseBy_sans pg bit code sev data after) :)
@[simp] theorem State.raiseBy_evtSeq : (s.raiseBy pg bit code sev data after).evts.evtSeq = s.evts.evtSeq := (congrArg (fun t : State => t.evts.evtSeq) (s.raiseBy_sans pg bit code sev data after) :)
@[simp] theorem State.raiseBy_evtConsumed : (s.raiseBy pg bit code sev data after).evts.evtConsumed = s.evts.evtConsumed := (congrArg (fun t : State => t.evts.evtConsumed) (s.raiseBy_sans pg bit code sev data after) :)
@[simp] theorem State.raiseBy_dropped : (s.raiseBy pg bit code sev data after).evts.dropped = s.evts.dropped := (congrArg (fun t : State => t.evts.dropped) (s.raiseBy_sans pg bit code sev data after) :)
@[simp] theorem State.raiseBy_plat : (s.raiseBy pg bit code sev data after).plat = s.plat := (congrArg (fun t : State => t.plat) (s.raiseBy_sans pg bit code sev data after) :)
@[simp] theorem State.raiseBy_draw : (s.raiseBy pg bit code sev data after).draw = s.draw := (congrArg (fun t : State => t.draw) (s.raiseBy_sans pg bit code sev data after) :)
@[simp] theorem State.raiseBy_out : (s.raiseBy pg bit code sev data after).out = s.out := (congrArg (fun t : State => t.out) (s.raiseBy_sans pg bit code sev data after) :)
end

/-! ### What raise leaves alone -/

section
variable (s : State) (pg bit code sev : Nat) (data : List Byte)
@[simp] theorem State.raise_part : (s.raise pg bit code sev data).part = s.part := (congrArg (fun t : State => t.part) (s.raise_sans pg bit code sev data) :)
@[simp] theorem State.raise_pending : (s.raise pg bit code sev data).pending = s.pending := (congrArg (fun t : State => t.pending) (s.raise_sans pg bit code sev data) :)
@[simp] theorem State.raise_staged : (s.raise pg bit code sev data).regFile.staged = s.regFile.staged := (congrArg (fun t : State => t.regFile.staged) (s.raise_sans pg bit code sev data) :)
@[simp] theorem State.raise_snap : (s.raise pg bit code sev data).regFile.snap = s.regFile.snap := (congrArg (fun t : State => t.regFile.snap) (s.raise_sans pg bit code sev data) :)
@[simp] theorem State.raise_cntFrom : (s.raise pg bit code sev data).regFile.cntFrom = s.regFile.cntFrom := (congrArg (fun t : State => t.regFile.cntFrom) (s.raise_sans pg bit code sev data) :)
@[simp] theorem State.raise_mems : (s.raise pg bit code sev data).mems = s.mems := (congrArg (fun t : State => t.mems) (s.raise_sans pg bit code sev data) :)
@[simp] theorem State.raise_time : (s.raise pg bit code sev data).time = s.time := (congrArg (fun t : State => t.time) (s.raise_sans pg bit code sev data) :)
@[simp] theorem State.raise_sched : (s.raise pg bit code sev data).sched = s.sched := (congrArg (fun t : State => t.sched) (s.raise_sans pg bit code sev data) :)
@[simp] theorem State.raise_inq : (s.raise pg bit code sev data).inq = s.inq := (congrArg (fun t : State => t.inq) (s.raise_sans pg bit code sev data) :)
@[simp] theorem State.raise_fabric : (s.raise pg bit code sev data).fabric = s.fabric := (congrArg (fun t : State => t.fabric) (s.raise_sans pg bit code sev data) :)
@[simp] theorem State.raise_arch : (s.raise pg bit code sev data).arch = s.arch := (congrArg (fun t : State => t.arch) (s.raise_sans pg bit code sev data) :)
@[simp] theorem State.raise_brd : (s.raise pg bit code sev data).brd = s.brd := (congrArg (fun t : State => t.brd) (s.raise_sans pg bit code sev data) :)
@[simp] theorem State.raise_waiting : (s.raise pg bit code sev data).evts.waiting = s.evts.waiting := (congrArg (fun t : State => t.evts.waiting) (s.raise_sans pg bit code sev data) :)
@[simp] theorem State.raise_ring : (s.raise pg bit code sev data).evts.ring = s.evts.ring := (congrArg (fun t : State => t.evts.ring) (s.raise_sans pg bit code sev data) :)
@[simp] theorem State.raise_ringCancelled : (s.raise pg bit code sev data).evts.ringCancelled = s.evts.ringCancelled := (congrArg (fun t : State => t.evts.ringCancelled) (s.raise_sans pg bit code sev data) :)
@[simp] theorem State.raise_evtSeq : (s.raise pg bit code sev data).evts.evtSeq = s.evts.evtSeq := (congrArg (fun t : State => t.evts.evtSeq) (s.raise_sans pg bit code sev data) :)
@[simp] theorem State.raise_evtConsumed : (s.raise pg bit code sev data).evts.evtConsumed = s.evts.evtConsumed := (congrArg (fun t : State => t.evts.evtConsumed) (s.raise_sans pg bit code sev data) :)
@[simp] theorem State.raise_dropped : (s.raise pg bit code sev data).evts.dropped = s.evts.dropped := (congrArg (fun t : State => t.evts.dropped) (s.raise_sans pg bit code sev data) :)
@[simp] theorem State.raise_plat : (s.raise pg bit code sev data).plat = s.plat := (congrArg (fun t : State => t.plat) (s.raise_sans pg bit code sev data) :)
@[simp] theorem State.raise_draw : (s.raise pg bit code sev data).draw = s.draw := (congrArg (fun t : State => t.draw) (s.raise_sans pg bit code sev data) :)
@[simp] theorem State.raise_out : (s.raise pg bit code sev data).out = s.out := (congrArg (fun t : State => t.out) (s.raise_sans pg bit code sev data) :)
end

/-! ### What foundUE leaves alone -/

section
variable (s : State) (inst off cause : Nat)
@[simp] theorem State.foundUE_part : (s.foundUE inst off cause).part = s.part := (congrArg (fun t : State => t.part) (s.foundUE_sans inst off cause) :)
@[simp] theorem State.foundUE_pending : (s.foundUE inst off cause).pending = s.pending := (congrArg (fun t : State => t.pending) (s.foundUE_sans inst off cause) :)
@[simp] theorem State.foundUE_staged : (s.foundUE inst off cause).regFile.staged = s.regFile.staged := (congrArg (fun t : State => t.regFile.staged) (s.foundUE_sans inst off cause) :)
@[simp] theorem State.foundUE_snap : (s.foundUE inst off cause).regFile.snap = s.regFile.snap := (congrArg (fun t : State => t.regFile.snap) (s.foundUE_sans inst off cause) :)
@[simp] theorem State.foundUE_cntFrom : (s.foundUE inst off cause).regFile.cntFrom = s.regFile.cntFrom := (congrArg (fun t : State => t.regFile.cntFrom) (s.foundUE_sans inst off cause) :)
@[simp] theorem State.foundUE_mems : (s.foundUE inst off cause).mems = s.mems := (congrArg (fun t : State => t.mems) (s.foundUE_sans inst off cause) :)
@[simp] theorem State.foundUE_time : (s.foundUE inst off cause).time = s.time := (congrArg (fun t : State => t.time) (s.foundUE_sans inst off cause) :)
@[simp] theorem State.foundUE_sched : (s.foundUE inst off cause).sched = s.sched := (congrArg (fun t : State => t.sched) (s.foundUE_sans inst off cause) :)
@[simp] theorem State.foundUE_inq : (s.foundUE inst off cause).inq = s.inq := (congrArg (fun t : State => t.inq) (s.foundUE_sans inst off cause) :)
@[simp] theorem State.foundUE_fabric : (s.foundUE inst off cause).fabric = s.fabric := (congrArg (fun t : State => t.fabric) (s.foundUE_sans inst off cause) :)
@[simp] theorem State.foundUE_arch : (s.foundUE inst off cause).arch = s.arch := (congrArg (fun t : State => t.arch) (s.foundUE_sans inst off cause) :)
@[simp] theorem State.foundUE_brd : (s.foundUE inst off cause).brd = s.brd := (congrArg (fun t : State => t.brd) (s.foundUE_sans inst off cause) :)
@[simp] theorem State.foundUE_waiting : (s.foundUE inst off cause).evts.waiting = s.evts.waiting := (congrArg (fun t : State => t.evts.waiting) (s.foundUE_sans inst off cause) :)
@[simp] theorem State.foundUE_ring : (s.foundUE inst off cause).evts.ring = s.evts.ring := (congrArg (fun t : State => t.evts.ring) (s.foundUE_sans inst off cause) :)
@[simp] theorem State.foundUE_ringCancelled : (s.foundUE inst off cause).evts.ringCancelled = s.evts.ringCancelled := (congrArg (fun t : State => t.evts.ringCancelled) (s.foundUE_sans inst off cause) :)
@[simp] theorem State.foundUE_evtSeq : (s.foundUE inst off cause).evts.evtSeq = s.evts.evtSeq := (congrArg (fun t : State => t.evts.evtSeq) (s.foundUE_sans inst off cause) :)
@[simp] theorem State.foundUE_evtConsumed : (s.foundUE inst off cause).evts.evtConsumed = s.evts.evtConsumed := (congrArg (fun t : State => t.evts.evtConsumed) (s.foundUE_sans inst off cause) :)
@[simp] theorem State.foundUE_dropped : (s.foundUE inst off cause).evts.dropped = s.evts.dropped := (congrArg (fun t : State => t.evts.dropped) (s.foundUE_sans inst off cause) :)
@[simp] theorem State.foundUE_plat : (s.foundUE inst off cause).plat = s.plat := (congrArg (fun t : State => t.plat) (s.foundUE_sans inst off cause) :)
@[simp] theorem State.foundUE_draw : (s.foundUE inst off cause).draw = s.draw := (congrArg (fun t : State => t.draw) (s.foundUE_sans inst off cause) :)
@[simp] theorem State.foundUE_out : (s.foundUE inst off cause).out = s.out := (congrArg (fun t : State => t.out) (s.foundUE_sans inst off cause) :)
end

/-! ### What touch leaves alone -/

section
variable (s : State) (a n cause : Nat)
@[simp] theorem State.touch_part : (s.touch a n cause).part = s.part := (congrArg (fun t : State => t.part) (s.touch_sans a n cause) :)
@[simp] theorem State.touch_pending : (s.touch a n cause).pending = s.pending := (congrArg (fun t : State => t.pending) (s.touch_sans a n cause) :)
@[simp] theorem State.touch_staged : (s.touch a n cause).regFile.staged = s.regFile.staged := (congrArg (fun t : State => t.regFile.staged) (s.touch_sans a n cause) :)
@[simp] theorem State.touch_snap : (s.touch a n cause).regFile.snap = s.regFile.snap := (congrArg (fun t : State => t.regFile.snap) (s.touch_sans a n cause) :)
@[simp] theorem State.touch_cntFrom : (s.touch a n cause).regFile.cntFrom = s.regFile.cntFrom := (congrArg (fun t : State => t.regFile.cntFrom) (s.touch_sans a n cause) :)
@[simp] theorem State.touch_mem : (s.touch a n cause).mems.mem = s.mems.mem := (congrArg (fun t : State => t.mems.mem) (s.touch_sans a n cause) :)
@[simp] theorem State.touch_im : (s.touch a n cause).mems.im = s.mems.im := (congrArg (fun t : State => t.mems.im) (s.touch_sans a n cause) :)
@[simp] theorem State.touch_cat : (s.touch a n cause).mems.cat = s.mems.cat := (congrArg (fun t : State => t.mems.cat) (s.touch_sans a n cause) :)
@[simp] theorem State.touch_am : (s.touch a n cause).mems.am = s.mems.am := (congrArg (fun t : State => t.mems.am) (s.touch_sans a n cause) :)
@[simp] theorem State.touch_tiles : (s.touch a n cause).mems.tiles = s.mems.tiles := (congrArg (fun t : State => t.mems.tiles) (s.touch_sans a n cause) :)
@[simp] theorem State.touch_errs : (s.touch a n cause).mems.errs = s.mems.errs := (congrArg (fun t : State => t.mems.errs) (s.touch_sans a n cause) :)
@[simp] theorem State.touch_rawChk : (s.touch a n cause).mems.rawChk = s.mems.rawChk := (congrArg (fun t : State => t.mems.rawChk) (s.touch_sans a n cause) :)
@[simp] theorem State.touch_leakAt : (s.touch a n cause).mems.leakAt = s.mems.leakAt := (congrArg (fun t : State => t.mems.leakAt) (s.touch_sans a n cause) :)
@[simp] theorem State.touch_scrubPos : (s.touch a n cause).mems.scrubPos = s.mems.scrubPos := (congrArg (fun t : State => t.mems.scrubPos) (s.touch_sans a n cause) :)
@[simp] theorem State.touch_unitKey : (s.touch a n cause).mems.unitKey = s.mems.unitKey := (congrArg (fun t : State => t.mems.unitKey) (s.touch_sans a n cause) :)
@[simp] theorem State.touch_time : (s.touch a n cause).time = s.time := (congrArg (fun t : State => t.time) (s.touch_sans a n cause) :)
@[simp] theorem State.touch_sched : (s.touch a n cause).sched = s.sched := (congrArg (fun t : State => t.sched) (s.touch_sans a n cause) :)
@[simp] theorem State.touch_inq : (s.touch a n cause).inq = s.inq := (congrArg (fun t : State => t.inq) (s.touch_sans a n cause) :)
@[simp] theorem State.touch_fabric : (s.touch a n cause).fabric = s.fabric := (congrArg (fun t : State => t.fabric) (s.touch_sans a n cause) :)
@[simp] theorem State.touch_arch : (s.touch a n cause).arch = s.arch := (congrArg (fun t : State => t.arch) (s.touch_sans a n cause) :)
@[simp] theorem State.touch_brd : (s.touch a n cause).brd = s.brd := (congrArg (fun t : State => t.brd) (s.touch_sans a n cause) :)
@[simp] theorem State.touch_waiting : (s.touch a n cause).evts.waiting = s.evts.waiting := (congrArg (fun t : State => t.evts.waiting) (s.touch_sans a n cause) :)
@[simp] theorem State.touch_ring : (s.touch a n cause).evts.ring = s.evts.ring := (congrArg (fun t : State => t.evts.ring) (s.touch_sans a n cause) :)
@[simp] theorem State.touch_ringCancelled : (s.touch a n cause).evts.ringCancelled = s.evts.ringCancelled := (congrArg (fun t : State => t.evts.ringCancelled) (s.touch_sans a n cause) :)
@[simp] theorem State.touch_evtSeq : (s.touch a n cause).evts.evtSeq = s.evts.evtSeq := (congrArg (fun t : State => t.evts.evtSeq) (s.touch_sans a n cause) :)
@[simp] theorem State.touch_evtConsumed : (s.touch a n cause).evts.evtConsumed = s.evts.evtConsumed := (congrArg (fun t : State => t.evts.evtConsumed) (s.touch_sans a n cause) :)
@[simp] theorem State.touch_dropped : (s.touch a n cause).evts.dropped = s.evts.dropped := (congrArg (fun t : State => t.evts.dropped) (s.touch_sans a n cause) :)
@[simp] theorem State.touch_plat : (s.touch a n cause).plat = s.plat := (congrArg (fun t : State => t.plat) (s.touch_sans a n cause) :)
@[simp] theorem State.touch_draw : (s.touch a n cause).draw = s.draw := (congrArg (fun t : State => t.draw) (s.touch_sans a n cause) :)
@[simp] theorem State.touch_out : (s.touch a n cause).out = s.out := (congrArg (fun t : State => t.out) (s.touch_sans a n cause) :)
end

/-! ### What writeBytes leaves alone -/

section
variable (s : State) (slot a : Nat) (bs : List Byte)
@[simp] theorem State.writeBytes_part : (s.writeBytes slot a bs).part = s.part := (congrArg (fun t : State => t.part) (s.writeBytes_sans slot a bs) :)
@[simp] theorem State.writeBytes_pending : (s.writeBytes slot a bs).pending = s.pending := (congrArg (fun t : State => t.pending) (s.writeBytes_sans slot a bs) :)
@[simp] theorem State.writeBytes_staged : (s.writeBytes slot a bs).regFile.staged = s.regFile.staged := (congrArg (fun t : State => t.regFile.staged) (s.writeBytes_sans slot a bs) :)
@[simp] theorem State.writeBytes_snap : (s.writeBytes slot a bs).regFile.snap = s.regFile.snap := (congrArg (fun t : State => t.regFile.snap) (s.writeBytes_sans slot a bs) :)
@[simp] theorem State.writeBytes_cntFrom : (s.writeBytes slot a bs).regFile.cntFrom = s.regFile.cntFrom := (congrArg (fun t : State => t.regFile.cntFrom) (s.writeBytes_sans slot a bs) :)
@[simp] theorem State.writeBytes_im : (s.writeBytes slot a bs).mems.im = s.mems.im := (congrArg (fun t : State => t.mems.im) (s.writeBytes_sans slot a bs) :)
@[simp] theorem State.writeBytes_cat : (s.writeBytes slot a bs).mems.cat = s.mems.cat := (congrArg (fun t : State => t.mems.cat) (s.writeBytes_sans slot a bs) :)
@[simp] theorem State.writeBytes_am : (s.writeBytes slot a bs).mems.am = s.mems.am := (congrArg (fun t : State => t.mems.am) (s.writeBytes_sans slot a bs) :)
@[simp] theorem State.writeBytes_tiles : (s.writeBytes slot a bs).mems.tiles = s.mems.tiles := (congrArg (fun t : State => t.mems.tiles) (s.writeBytes_sans slot a bs) :)
@[simp] theorem State.writeBytes_rawChk : (s.writeBytes slot a bs).mems.rawChk = s.mems.rawChk := (congrArg (fun t : State => t.mems.rawChk) (s.writeBytes_sans slot a bs) :)
@[simp] theorem State.writeBytes_leakAt : (s.writeBytes slot a bs).mems.leakAt = s.mems.leakAt := (congrArg (fun t : State => t.mems.leakAt) (s.writeBytes_sans slot a bs) :)
@[simp] theorem State.writeBytes_scrubPos : (s.writeBytes slot a bs).mems.scrubPos = s.mems.scrubPos := (congrArg (fun t : State => t.mems.scrubPos) (s.writeBytes_sans slot a bs) :)
@[simp] theorem State.writeBytes_time : (s.writeBytes slot a bs).time = s.time := (congrArg (fun t : State => t.time) (s.writeBytes_sans slot a bs) :)
@[simp] theorem State.writeBytes_sched : (s.writeBytes slot a bs).sched = s.sched := (congrArg (fun t : State => t.sched) (s.writeBytes_sans slot a bs) :)
@[simp] theorem State.writeBytes_inq : (s.writeBytes slot a bs).inq = s.inq := (congrArg (fun t : State => t.inq) (s.writeBytes_sans slot a bs) :)
@[simp] theorem State.writeBytes_fabric : (s.writeBytes slot a bs).fabric = s.fabric := (congrArg (fun t : State => t.fabric) (s.writeBytes_sans slot a bs) :)
@[simp] theorem State.writeBytes_arch : (s.writeBytes slot a bs).arch = s.arch := (congrArg (fun t : State => t.arch) (s.writeBytes_sans slot a bs) :)
@[simp] theorem State.writeBytes_brd : (s.writeBytes slot a bs).brd = s.brd := (congrArg (fun t : State => t.brd) (s.writeBytes_sans slot a bs) :)
@[simp] theorem State.writeBytes_waiting : (s.writeBytes slot a bs).evts.waiting = s.evts.waiting := (congrArg (fun t : State => t.evts.waiting) (s.writeBytes_sans slot a bs) :)
@[simp] theorem State.writeBytes_ring : (s.writeBytes slot a bs).evts.ring = s.evts.ring := (congrArg (fun t : State => t.evts.ring) (s.writeBytes_sans slot a bs) :)
@[simp] theorem State.writeBytes_ringCancelled : (s.writeBytes slot a bs).evts.ringCancelled = s.evts.ringCancelled := (congrArg (fun t : State => t.evts.ringCancelled) (s.writeBytes_sans slot a bs) :)
@[simp] theorem State.writeBytes_evtSeq : (s.writeBytes slot a bs).evts.evtSeq = s.evts.evtSeq := (congrArg (fun t : State => t.evts.evtSeq) (s.writeBytes_sans slot a bs) :)
@[simp] theorem State.writeBytes_evtConsumed : (s.writeBytes slot a bs).evts.evtConsumed = s.evts.evtConsumed := (congrArg (fun t : State => t.evts.evtConsumed) (s.writeBytes_sans slot a bs) :)
@[simp] theorem State.writeBytes_dropped : (s.writeBytes slot a bs).evts.dropped = s.evts.dropped := (congrArg (fun t : State => t.evts.dropped) (s.writeBytes_sans slot a bs) :)
@[simp] theorem State.writeBytes_plat : (s.writeBytes slot a bs).plat = s.plat := (congrArg (fun t : State => t.plat) (s.writeBytes_sans slot a bs) :)
@[simp] theorem State.writeBytes_draw : (s.writeBytes slot a bs).draw = s.draw := (congrArg (fun t : State => t.draw) (s.writeBytes_sans slot a bs) :)
@[simp] theorem State.writeBytes_out : (s.writeBytes slot a bs).out = s.out := (congrArg (fun t : State => t.out) (s.writeBytes_sans slot a bs) :)
end

/-! ### What zeroRange leaves alone -/

section
variable (s : State) (slot a n : Nat)
@[simp] theorem State.zeroRange_part : (s.zeroRange slot a n).part = s.part := (congrArg (fun t : State => t.part) (s.zeroRange_sans slot a n) :)
@[simp] theorem State.zeroRange_pending : (s.zeroRange slot a n).pending = s.pending := (congrArg (fun t : State => t.pending) (s.zeroRange_sans slot a n) :)
@[simp] theorem State.zeroRange_regFile : (s.zeroRange slot a n).regFile = s.regFile := (congrArg (fun t : State => t.regFile) (s.zeroRange_sans slot a n) :)
@[simp] theorem State.zeroRange_im : (s.zeroRange slot a n).mems.im = s.mems.im := (congrArg (fun t : State => t.mems.im) (s.zeroRange_sans slot a n) :)
@[simp] theorem State.zeroRange_cat : (s.zeroRange slot a n).mems.cat = s.mems.cat := (congrArg (fun t : State => t.mems.cat) (s.zeroRange_sans slot a n) :)
@[simp] theorem State.zeroRange_am : (s.zeroRange slot a n).mems.am = s.mems.am := (congrArg (fun t : State => t.mems.am) (s.zeroRange_sans slot a n) :)
@[simp] theorem State.zeroRange_tiles : (s.zeroRange slot a n).mems.tiles = s.mems.tiles := (congrArg (fun t : State => t.mems.tiles) (s.zeroRange_sans slot a n) :)
@[simp] theorem State.zeroRange_rawChk : (s.zeroRange slot a n).mems.rawChk = s.mems.rawChk := (congrArg (fun t : State => t.mems.rawChk) (s.zeroRange_sans slot a n) :)
@[simp] theorem State.zeroRange_buckets : (s.zeroRange slot a n).mems.buckets = s.mems.buckets := (congrArg (fun t : State => t.mems.buckets) (s.zeroRange_sans slot a n) :)
@[simp] theorem State.zeroRange_leakAt : (s.zeroRange slot a n).mems.leakAt = s.mems.leakAt := (congrArg (fun t : State => t.mems.leakAt) (s.zeroRange_sans slot a n) :)
@[simp] theorem State.zeroRange_scrubPos : (s.zeroRange slot a n).mems.scrubPos = s.mems.scrubPos := (congrArg (fun t : State => t.mems.scrubPos) (s.zeroRange_sans slot a n) :)
@[simp] theorem State.zeroRange_time : (s.zeroRange slot a n).time = s.time := (congrArg (fun t : State => t.time) (s.zeroRange_sans slot a n) :)
@[simp] theorem State.zeroRange_sched : (s.zeroRange slot a n).sched = s.sched := (congrArg (fun t : State => t.sched) (s.zeroRange_sans slot a n) :)
@[simp] theorem State.zeroRange_inq : (s.zeroRange slot a n).inq = s.inq := (congrArg (fun t : State => t.inq) (s.zeroRange_sans slot a n) :)
@[simp] theorem State.zeroRange_fabric : (s.zeroRange slot a n).fabric = s.fabric := (congrArg (fun t : State => t.fabric) (s.zeroRange_sans slot a n) :)
@[simp] theorem State.zeroRange_arch : (s.zeroRange slot a n).arch = s.arch := (congrArg (fun t : State => t.arch) (s.zeroRange_sans slot a n) :)
@[simp] theorem State.zeroRange_brd : (s.zeroRange slot a n).brd = s.brd := (congrArg (fun t : State => t.brd) (s.zeroRange_sans slot a n) :)
@[simp] theorem State.zeroRange_evts : (s.zeroRange slot a n).evts = s.evts := (congrArg (fun t : State => t.evts) (s.zeroRange_sans slot a n) :)
@[simp] theorem State.zeroRange_plat : (s.zeroRange slot a n).plat = s.plat := (congrArg (fun t : State => t.plat) (s.zeroRange_sans slot a n) :)
@[simp] theorem State.zeroRange_draw : (s.zeroRange slot a n).draw = s.draw := (congrArg (fun t : State => t.draw) (s.zeroRange_sans slot a n) :)
@[simp] theorem State.zeroRange_out : (s.zeroRange slot a n).out = s.out := (congrArg (fun t : State => t.out) (s.zeroRange_sans slot a n) :)
end

/-! ### What sendHop leaves alone -/

section
variable (s : State) (k kind : Nat) (data : List Nat)
@[simp] theorem State.sendHop_part : (s.sendHop k kind data).part = s.part := (congrArg (fun t : State => t.part) (s.sendHop_sans k kind data) :)
@[simp] theorem State.sendHop_pending : (s.sendHop k kind data).pending = s.pending := (congrArg (fun t : State => t.pending) (s.sendHop_sans k kind data) :)
@[simp] theorem State.sendHop_staged : (s.sendHop k kind data).regFile.staged = s.regFile.staged := (congrArg (fun t : State => t.regFile.staged) (s.sendHop_sans k kind data) :)
@[simp] theorem State.sendHop_snap : (s.sendHop k kind data).regFile.snap = s.regFile.snap := (congrArg (fun t : State => t.regFile.snap) (s.sendHop_sans k kind data) :)
@[simp] theorem State.sendHop_cntFrom : (s.sendHop k kind data).regFile.cntFrom = s.regFile.cntFrom := (congrArg (fun t : State => t.regFile.cntFrom) (s.sendHop_sans k kind data) :)
@[simp] theorem State.sendHop_mems : (s.sendHop k kind data).mems = s.mems := (congrArg (fun t : State => t.mems) (s.sendHop_sans k kind data) :)
@[simp] theorem State.sendHop_time : (s.sendHop k kind data).time = s.time := (congrArg (fun t : State => t.time) (s.sendHop_sans k kind data) :)
@[simp] theorem State.sendHop_sched : (s.sendHop k kind data).sched = s.sched := (congrArg (fun t : State => t.sched) (s.sendHop_sans k kind data) :)
@[simp] theorem State.sendHop_inq : (s.sendHop k kind data).inq = s.inq := (congrArg (fun t : State => t.inq) (s.sendHop_sans k kind data) :)
@[simp] theorem State.sendHop_tx : (s.sendHop k kind data).fabric.tx = s.fabric.tx := (congrArg (fun t : State => t.fabric.tx) (s.sendHop_sans k kind data) :)
@[simp] theorem State.sendHop_rx : (s.sendHop k kind data).fabric.rx = s.fabric.rx := (congrArg (fun t : State => t.fabric.rx) (s.sendHop_sans k kind data) :)
@[simp] theorem State.sendHop_retained : (s.sendHop k kind data).fabric.retained = s.fabric.retained := (congrArg (fun t : State => t.fabric.retained) (s.sendHop_sans k kind data) :)
@[simp] theorem State.sendHop_early : (s.sendHop k kind data).fabric.early = s.fabric.early := (congrArg (fun t : State => t.fabric.early) (s.sendHop_sans k kind data) :)
@[simp] theorem State.sendHop_combIn : (s.sendHop k kind data).fabric.combIn = s.fabric.combIn := (congrArg (fun t : State => t.fabric.combIn) (s.sendHop_sans k kind data) :)
@[simp] theorem State.sendHop_combs : (s.sendHop k kind data).fabric.combs = s.fabric.combs := (congrArg (fun t : State => t.fabric.combs) (s.sendHop_sans k kind data) :)
@[simp] theorem State.sendHop_cloTurn : (s.sendHop k kind data).fabric.cloTurn = s.fabric.cloTurn := (congrArg (fun t : State => t.fabric.cloTurn) (s.sendHop_sans k kind data) :)
@[simp] theorem State.sendHop_endIn : (s.sendHop k kind data).fabric.endIn = s.fabric.endIn := (congrArg (fun t : State => t.fabric.endIn) (s.sendHop_sans k kind data) :)
@[simp] theorem State.sendHop_endComb : (s.sendHop k kind data).fabric.endComb = s.fabric.endComb := (congrArg (fun t : State => t.fabric.endComb) (s.sendHop_sans k kind data) :)
@[simp] theorem State.sendHop_stalled : (s.sendHop k kind data).fabric.stalled = s.fabric.stalled := (congrArg (fun t : State => t.fabric.stalled) (s.sendHop_sans k kind data) :)
@[simp] theorem State.sendHop_loop : (s.sendHop k kind data).fabric.loop = s.fabric.loop := (congrArg (fun t : State => t.fabric.loop) (s.sendHop_sans k kind data) :)
@[simp] theorem State.sendHop_arch : (s.sendHop k kind data).arch = s.arch := (congrArg (fun t : State => t.arch) (s.sendHop_sans k kind data) :)
@[simp] theorem State.sendHop_brd : (s.sendHop k kind data).brd = s.brd := (congrArg (fun t : State => t.brd) (s.sendHop_sans k kind data) :)
@[simp] theorem State.sendHop_evts : (s.sendHop k kind data).evts = s.evts := (congrArg (fun t : State => t.evts) (s.sendHop_sans k kind data) :)
@[simp] theorem State.sendHop_plat : (s.sendHop k kind data).plat = s.plat := (congrArg (fun t : State => t.plat) (s.sendHop_sans k kind data) :)
@[simp] theorem State.sendHop_draw : (s.sendHop k kind data).draw = s.draw := (congrArg (fun t : State => t.draw) (s.sendHop_sans k kind data) :)
end

/-! ### What sendChunk leaves alone -/

section
variable (s : State) (dst vc kind : Nat) (data : List Byte)
@[simp] theorem State.sendChunk_part : (s.sendChunk dst vc kind data).part = s.part := (congrArg (fun t : State => t.part) (s.sendChunk_sans dst vc kind data) :)
@[simp] theorem State.sendChunk_pending : (s.sendChunk dst vc kind data).pending = s.pending := (congrArg (fun t : State => t.pending) (s.sendChunk_sans dst vc kind data) :)
@[simp] theorem State.sendChunk_staged : (s.sendChunk dst vc kind data).regFile.staged = s.regFile.staged := (congrArg (fun t : State => t.regFile.staged) (s.sendChunk_sans dst vc kind data) :)
@[simp] theorem State.sendChunk_snap : (s.sendChunk dst vc kind data).regFile.snap = s.regFile.snap := (congrArg (fun t : State => t.regFile.snap) (s.sendChunk_sans dst vc kind data) :)
@[simp] theorem State.sendChunk_cntFrom : (s.sendChunk dst vc kind data).regFile.cntFrom = s.regFile.cntFrom := (congrArg (fun t : State => t.regFile.cntFrom) (s.sendChunk_sans dst vc kind data) :)
@[simp] theorem State.sendChunk_mems : (s.sendChunk dst vc kind data).mems = s.mems := (congrArg (fun t : State => t.mems) (s.sendChunk_sans dst vc kind data) :)
@[simp] theorem State.sendChunk_time : (s.sendChunk dst vc kind data).time = s.time := (congrArg (fun t : State => t.time) (s.sendChunk_sans dst vc kind data) :)
@[simp] theorem State.sendChunk_sched : (s.sendChunk dst vc kind data).sched = s.sched := (congrArg (fun t : State => t.sched) (s.sendChunk_sans dst vc kind data) :)
@[simp] theorem State.sendChunk_inq : (s.sendChunk dst vc kind data).inq = s.inq := (congrArg (fun t : State => t.inq) (s.sendChunk_sans dst vc kind data) :)
@[simp] theorem State.sendChunk_rx : (s.sendChunk dst vc kind data).fabric.rx = s.fabric.rx := (congrArg (fun t : State => t.fabric.rx) (s.sendChunk_sans dst vc kind data) :)
@[simp] theorem State.sendChunk_early : (s.sendChunk dst vc kind data).fabric.early = s.fabric.early := (congrArg (fun t : State => t.fabric.early) (s.sendChunk_sans dst vc kind data) :)
@[simp] theorem State.sendChunk_combIn : (s.sendChunk dst vc kind data).fabric.combIn = s.fabric.combIn := (congrArg (fun t : State => t.fabric.combIn) (s.sendChunk_sans dst vc kind data) :)
@[simp] theorem State.sendChunk_combs : (s.sendChunk dst vc kind data).fabric.combs = s.fabric.combs := (congrArg (fun t : State => t.fabric.combs) (s.sendChunk_sans dst vc kind data) :)
@[simp] theorem State.sendChunk_cloTurn : (s.sendChunk dst vc kind data).fabric.cloTurn = s.fabric.cloTurn := (congrArg (fun t : State => t.fabric.cloTurn) (s.sendChunk_sans dst vc kind data) :)
@[simp] theorem State.sendChunk_endIn : (s.sendChunk dst vc kind data).fabric.endIn = s.fabric.endIn := (congrArg (fun t : State => t.fabric.endIn) (s.sendChunk_sans dst vc kind data) :)
@[simp] theorem State.sendChunk_endComb : (s.sendChunk dst vc kind data).fabric.endComb = s.fabric.endComb := (congrArg (fun t : State => t.fabric.endComb) (s.sendChunk_sans dst vc kind data) :)
@[simp] theorem State.sendChunk_arch : (s.sendChunk dst vc kind data).arch = s.arch := (congrArg (fun t : State => t.arch) (s.sendChunk_sans dst vc kind data) :)
@[simp] theorem State.sendChunk_brd : (s.sendChunk dst vc kind data).brd = s.brd := (congrArg (fun t : State => t.brd) (s.sendChunk_sans dst vc kind data) :)
@[simp] theorem State.sendChunk_evts : (s.sendChunk dst vc kind data).evts = s.evts := (congrArg (fun t : State => t.evts) (s.sendChunk_sans dst vc kind data) :)
@[simp] theorem State.sendChunk_plat : (s.sendChunk dst vc kind data).plat = s.plat := (congrArg (fun t : State => t.plat) (s.sendChunk_sans dst vc kind data) :)
@[simp] theorem State.sendChunk_draw : (s.sendChunk dst vc kind data).draw = s.draw := (congrArg (fun t : State => t.draw) (s.sendChunk_sans dst vc kind data) :)
end

/-! ### What respond leaves alone -/

section
variable (s : State) (code tag status : Nat) (payload : List Byte) (haddr hlen : Nat)
@[simp] theorem State.respond_part : (s.respond code tag status payload haddr hlen).part = s.part := (congrArg (fun t : State => t.part) (s.respond_sans code tag status payload haddr hlen) :)
@[simp] theorem State.respond_pending : (s.respond code tag status payload haddr hlen).pending = s.pending := (congrArg (fun t : State => t.pending) (s.respond_sans code tag status payload haddr hlen) :)
@[simp] theorem State.respond_staged : (s.respond code tag status payload haddr hlen).regFile.staged = s.regFile.staged := (congrArg (fun t : State => t.regFile.staged) (s.respond_sans code tag status payload haddr hlen) :)
@[simp] theorem State.respond_snap : (s.respond code tag status payload haddr hlen).regFile.snap = s.regFile.snap := (congrArg (fun t : State => t.regFile.snap) (s.respond_sans code tag status payload haddr hlen) :)
@[simp] theorem State.respond_cntFrom : (s.respond code tag status payload haddr hlen).regFile.cntFrom = s.regFile.cntFrom := (congrArg (fun t : State => t.regFile.cntFrom) (s.respond_sans code tag status payload haddr hlen) :)
@[simp] theorem State.respond_mems : (s.respond code tag status payload haddr hlen).mems = s.mems := (congrArg (fun t : State => t.mems) (s.respond_sans code tag status payload haddr hlen) :)
@[simp] theorem State.respond_time : (s.respond code tag status payload haddr hlen).time = s.time := (congrArg (fun t : State => t.time) (s.respond_sans code tag status payload haddr hlen) :)
@[simp] theorem State.respond_sched : (s.respond code tag status payload haddr hlen).sched = s.sched := (congrArg (fun t : State => t.sched) (s.respond_sans code tag status payload haddr hlen) :)
@[simp] theorem State.respond_inq : (s.respond code tag status payload haddr hlen).inq = s.inq := (congrArg (fun t : State => t.inq) (s.respond_sans code tag status payload haddr hlen) :)
@[simp] theorem State.respond_fabric : (s.respond code tag status payload haddr hlen).fabric = s.fabric := (congrArg (fun t : State => t.fabric) (s.respond_sans code tag status payload haddr hlen) :)
@[simp] theorem State.respond_arch : (s.respond code tag status payload haddr hlen).arch = s.arch := (congrArg (fun t : State => t.arch) (s.respond_sans code tag status payload haddr hlen) :)
@[simp] theorem State.respond_brd : (s.respond code tag status payload haddr hlen).brd = s.brd := (congrArg (fun t : State => t.brd) (s.respond_sans code tag status payload haddr hlen) :)
@[simp] theorem State.respond_evts : (s.respond code tag status payload haddr hlen).evts = s.evts := (congrArg (fun t : State => t.evts) (s.respond_sans code tag status payload haddr hlen) :)
@[simp] theorem State.respond_plat : (s.respond code tag status payload haddr hlen).plat = s.plat := (congrArg (fun t : State => t.plat) (s.respond_sans code tag status payload haddr hlen) :)
@[simp] theorem State.respond_draw : (s.respond code tag status payload haddr hlen).draw = s.draw := (congrArg (fun t : State => t.draw) (s.respond_sans code tag status payload haddr hlen) :)
end

end Sys2Proof.Machine
end

