-- ==== Sys2Proof/Laws/Events.lean ====
section
/-! SUPPORT. Everything that raising an event does (R666, R656) and everything that a response does (R543): the registers
each writes and leaves alone, and what it establishes. -/
namespace Sys2Proof.Machine

section
variable (s : State)

/-! ### Raising an event -/

theorem State.word_holdEvent (e : Event) {j : Nat} (h : j ∉ eventWords e.page) : (s.holdEvent e).word j = s.word j := by
  unfold State.holdEvent
  unfold eventWords at h
  split
  · rfl
  · rename_i d hd
    rw [hd] at h
    simp only [List.mem_cons, List.not_mem_nil, or_false, not_or] at h
    obtain ⟨-, h1, h2, h3⟩ := h
    split
    · split
      · exact s.word_setF_ne _ h1
      · exact s.word_count_ne _ h3
    · exact s.word_count_ne _ h2

/-- The counters of a die manager share no word with PG_EVT of any page. -/
theorem evt_ne_mgr (pg d : Nat) {f : Fld} (h : (Reg.PG_EVT.off / 4 ≠ f.off / 4) := by decide) (hf : f.off < 4096 := by decide) :
    regIdx pg Reg.PG_EVT ≠ regIdx (pgDie d) f := by
  unfold regIdx
  have : Reg.PG_EVT.off = 24 := rfl
  omega

theorem State.word_holdEvent_evt (e : Event) (pg : Nat) {j : Nat} (hj : j = regIdx pg Reg.PG_EVT) :
    (s.holdEvent e).word j = s.word j := by
  subst hj
  unfold State.holdEvent
  split
  · rfl
  · split
    · split
      · exact s.word_setF_ne _ (evt_ne_mgr _ _)
      · exact s.word_count_ne _ (evt_ne_mgr _ _)
    · exact s.word_count_ne _ (evt_ne_mgr _ _)

theorem State.word_mark (pg bit sev : Nat) (data : List Byte) (j : Nat) :
    (s.mark pg bit sev data).word j = (s.setF pg Reg.PG_EVT (s.getF pg Reg.PG_EVT ||| 2 ^ bit)).word j :=
  State.word_congr (Eq.trans rfl rfl) (Eq.trans rfl rfl) j

theorem State.word_raiseBy (pg bit code sev : Nat) (data : List Byte) (after : Option (Nat × Nat)) {j : Nat}
    (h : j ∉ eventWords pg) : (s.raiseBy pg bit code sev data after).word j = s.word j := by
  have h1 : (s.mark pg bit sev data).word j = s.word j := by
    rw [s.word_mark]
    refine s.word_setF_ne _ ?_
    intro hj; exact h (by rw [hj]; unfold eventWords; exact List.mem_cons_self)
  unfold State.raiseBy
  split
  · exact (State.word_holdEvent _ _ (by exact h)).trans h1
  · exact h1

theorem State.word_raise (pg bit code sev : Nat) (data : List Byte) {j : Nat} (h : j ∉ eventWords pg) :
    (s.raise pg bit code sev data).word j = s.word j := s.word_raiseBy pg bit code sev data none h

theorem State.getF_raiseBy (pg bit code sev : Nat) (data : List Byte) (after : Option (Nat × Nat)) (pg' : Nat) (f : Fld)
    (h : regIdx pg' f ∉ eventWords pg) : (s.raiseBy pg bit code sev data after).getF pg' f = s.getF pg' f := by
  unfold State.getF; rw [s.word_raiseBy _ _ _ _ _ _ h]

theorem State.getF_raise (pg bit code sev : Nat) (data : List Byte) (pg' : Nat) (f : Fld)
    (h : regIdx pg' f ∉ eventWords pg) : (s.raise pg bit code sev data).getF pg' f = s.getF pg' f :=
  s.getF_raiseBy pg bit code sev data none pg' f h

theorem State.getF_raiseBy_evt (pg bit code sev : Nat) (data : List Byte) (after : Option (Nat × Nat)) :
    (s.raiseBy pg bit code sev data after).getF pg Reg.PG_EVT = (s.getF pg Reg.PG_EVT ||| 2 ^ bit) % 2 ^ 32 := by
  have h1 : (s.mark pg bit sev data).getF pg Reg.PG_EVT = (s.getF pg Reg.PG_EVT ||| 2 ^ bit) % 2 ^ 32 := by
    unfold State.getF
    rw [s.word_mark]
    exact s.getF_setF_same pg _
  unfold State.raiseBy
  split
  · unfold State.getF at h1 ⊢
    rw [State.word_holdEvent_evt _ _ pg rfl]; exact h1
  · exact h1

/-- A raised event joins the held ones unless the Curator firmware is being replaced. -/
theorem State.mem_holdEvent (e : Event) (h : s.cur.replacing = false) : e ∈ (s.holdEvent e).held := by
  unfold State.holdEvent
  split
  · simp
  · rw [if_neg (by simp [h])]; simp

theorem State.held_mono_holdEvent (e x : Event) (h : x ∈ s.held) : x ∈ (s.holdEvent e).held := by
  unfold State.holdEvent
  split
  · simpa using Or.inl h
  · split
    · split
      · exact List.mem_append_left _ h
      · simpa using h
    · exact List.mem_append_left _ h

theorem State.held_mono_raiseBy (pg bit code sev : Nat) (data : List Byte) (after : Option (Nat × Nat)) (x : Event)
    (h : x ∈ s.held) : x ∈ (s.raiseBy pg bit code sev data after).held := by
  unfold State.raiseBy
  split
  · exact State.held_mono_holdEvent _ _ _ h
  · exact h

/-- R666. -/
theorem State.raiseBy_occurred (pg bit code sev : Nat) (data : List Byte) (after : Option (Nat × Nat)) (hb : bit < 32) :
    Occurred s (s.raiseBy pg bit code sev data after) pg bit code sev data := by
  constructor
  · rw [s.getF_raiseBy_evt]
    rw [Nat.testBit_mod_two_pow]
    simp [hb]
  · intro h0 h1 h2 h3
    have hr : s.raises pg bit = true := by unfold State.raises; simp [h0, h1, h2]
    unfold State.raiseBy
    rw [if_pos hr]
    exact ⟨_, State.mem_holdEvent _ _ h3, rfl, rfl, rfl, rfl⟩

theorem State.raise_occurred (pg bit code sev : Nat) (data : List Byte) (hb : bit < 32) :
    Occurred s (s.raise pg bit code sev data) pg bit code sev data := s.raiseBy_occurred pg bit code sev data none hb

end

/-- An occurrence seen from a state with the same event registers, enables and Curator. -/
theorem Occurred.before {s s' t : State} {pg bit code sev : Nat} {data : List Byte} (h : Occurred s t pg bit code sev data)
    (h1 : s.getF pg Reg.PG_EVT = s'.getF pg Reg.PG_EVT) (h2 : s.getF pg Reg.PG_EVT_EN = s'.getF pg Reg.PG_EVT_EN)
    (h3 : s.flag pg Reg.PG_CTL_EN = s'.flag pg Reg.PG_CTL_EN) (h4 : s.cur.replacing = s'.cur.replacing) :
    Occurred s' t pg bit code sev data :=
  ⟨h.isSet, fun a b c d => h.raised (h1 ▸ a) (h2 ▸ b) (h3 ▸ c) (h4 ▸ d)⟩

/-- An occurrence seen from a later state that keeps the event bits and the held events. -/
theorem Occurred.after {s t t' : State} {pg bit code sev : Nat} {data : List Byte} (h : Occurred s t pg bit code sev data)
    (h1 : t'.getF pg Reg.PG_EVT = t.getF pg Reg.PG_EVT) (h2 : ∀ e ∈ t.held, e ∈ t'.held) :
    Occurred s t' pg bit code sev data :=
  ⟨h1 ▸ h.isSet, fun a b c d => by obtain ⟨e, he, r⟩ := h.raised a b c d; exact ⟨e, h2 e he, r⟩⟩

end Sys2Proof.Machine
end

