-- ==== Sys2Proof/Laws/Mailbox.lean ====
section
/-! SUPPORT. Everything that accepting a mailbox request and answering it do (R543, R544): the registers each writes and
leaves alone, and the response that stands afterwards. -/
namespace Sys2Proof.Machine

theorem leBytes_length (n v : Nat) : (leBytes n v).length = n := by
  induction n generalizing v with
  | zero => rfl
  | succ n ih => simp [leBytes, ih]

/-- The number of a byte sequence's code is the number, within its width. -/
theorem ofLeBytes_leBytes (n v : Nat) : ofLeBytes (leBytes n v) = v % 256 ^ n := by
  induction n generalizing v with
  | zero => simp [leBytes, ofLeBytes, Nat.mod_one]
  | succ n ih =>
    rw [leBytes, ofLeBytes, ih, BitVec.toNat_ofNat, show 256 ^ (n + 1) = 256 * 256 ^ n by ring, Nat.mod_mul]

theorem ofLeBytes_append (a b : List Byte) : ofLeBytes (a ++ b) = ofLeBytes a + 256 ^ a.length * ofLeBytes b := by
  induction a with
  | nil => simp [ofLeBytes]
  | cons x a ih => rw [List.cons_append, ofLeBytes, ofLeBytes, ih, List.length_cons, Nat.pow_succ]; ring

/-- Doublewords outside the MSI-X pending bits of vector 16 that `msix` leaves alone. -/
theorem State.word_msix (s : State) (v : Nat) {j : Nat} (h : j ≠ msixPba v) : (s.msix v).word j = s.word j := by
  unfold State.msix
  split
  · exact s.word_setWord_ne _ h
  · rfl

theorem State.word_ssetAll_out (s : State) (k : Nat) (ws : List Word) {j : Nat} (h : j < k ∨ k + ws.length ≤ j) :
    State.word { s with regFile.regs := ssetAll (resetWord s.part) s.regs k ws } j = s.word j :=
  sget_ssetAll_out _ _ _ h

theorem State.word_ssetAll_in (s : State) (k : Nat) (ws : List Word) (i : Nat) (h : i < ws.length) :
    State.word { s with regFile.regs := ssetAll (resetWord s.part) s.regs k ws } (k + i) = ws[i] :=
  sget_ssetAll_in _ _ _ _ _ h

section
variable (s : State) (code tag status : Nat) (payload : List Byte) (haddr hlen : Nat)

/-- A response writes the CUR page and the pending bits of vector 16. -/
theorem State.word_respond {j : Nat} (h : j / 1024 ≠ pgCur) (h2 : j ≠ msixPba 16) :
    (s.respond code tag status payload haddr hlen).word j = s.word j := by
  unfold State.respond
  extract_lets bytes words s1 s2
  have h3 : ∀ f : Fld, f.off < 4096 → j ≠ regIdx pgCur f := by
    intro f hf hj; apply h; rw [hj]; unfold regIdx pgCur; omega
  rw [State.word_msix _ _ h2, State.word_setF_ne _ _ (h3 _ (by decide)), State.word_setF_ne _ _ (h3 _ (by decide))]
  refine State.word_ssetAll_out s _ _ ?_
  have : words.length = 256 := by simp [words]
  unfold pgCur at h ⊢
  omega

theorem State.getF_respond {pg : Nat} {f : Fld} (h : regIdx pg f / 1024 ≠ pgCur) (h2 : regIdx pg f ≠ msixPba 16) :
    (s.respond code tag status payload haddr hlen).getF pg f = s.getF pg f := by
  unfold State.getF; rw [s.word_respond _ _ _ _ _ _ h h2]

/-- R543: what stands after a response. -/
theorem State.respond_answered : Answered (s.respond code tag status payload haddr hlen) code tag status := by
  unfold State.respond
  extract_lets bytes words s1 s2 s3
  have hw : words.length = 256 := by simp [words]
  have hp : ∀ i, i < 256 → pgCur * 1024 + 0xA00 / 4 + i ≠ msixPba 16 := by
    intro i hi; unfold pgCur msixPba; omega
  have hb : ∀ f : Fld, regIdx pgCur f = pgCur * 1024 + 512 → ∀ i, pgCur * 1024 + 0xA00 / 4 + i ≠ regIdx pgCur f := by
    intro f hf i; rw [hf]; omega
  have key : ∀ i (hi : i < 256), ((s3.setF pgCur Reg.CUR_MBX_STAT_BUSY 0).msix 16).word (pgCur * 1024 + 0xA00 / 4 + i)
      = words[i]'(by omega) := by
    intro i hi
    rw [State.word_msix _ _ (hp i hi), State.word_setF_ne _ _ (hb _ rfl i), State.word_setF_ne _ _ (hb _ rfl i)]
    exact State.word_ssetAll_in s _ _ i (by omega)
  have hbs : bytes = (leBytes 2 code ++ leBytes 2 tag) ++ ((leBytes 2 payload.length ++ leBytes 2 status) ++ (leBytes 8 haddr
    ++ (leBytes 8 hlen ++ payload))) := by simp [bytes]
  have h4 : ∀ a b, (leBytes 2 a ++ leBytes 2 b).length = 4 := by intro a b; simp [leBytes_length]
  have hv : ∀ a b, ofLeBytes (leBytes 2 a ++ leBytes 2 b) = a % 65536 + b % 65536 * 65536 := by
    intro a b
    rw [ofLeBytes_append, ofLeBytes_leBytes, ofLeBytes_leBytes, leBytes_length]
    omega
  have e0 : words[0]'(by omega) = BitVec.ofNat 32 (code % 65536 + tag % 65536 * 65536) := by
    simp only [words, List.getElem_map, List.getElem_range]
    rw [hbs, Nat.mul_zero, List.drop_zero, List.take_left' (h4 _ _), hv]
  have e1 : words[1]'(by omega) = BitVec.ofNat 32 (payload.length % 65536 + status % 65536 * 65536) := by
    simp only [words, List.getElem_map, List.getElem_range]
    rw [hbs, Nat.mul_one, List.drop_left' (h4 _ _), List.take_left' (h4 _ _), hv]
  have hm : ∀ f : Fld, regIdx pgCur f = pgCur * 1024 + 512 → ((s3.setF pgCur Reg.CUR_MBX_STAT_BUSY 0).msix 16).getF pgCur f =
      (s3.setF pgCur Reg.CUR_MBX_STAT_BUSY 0).getF pgCur f := by
    intro f hf; unfold State.getF; rw [State.word_msix _ _ (by rw [hf]; decide)]
  refine ⟨(key 0 (by omega)).trans e0, ?_, ?_, ?_⟩
  · have := (key 1 (by omega)).trans e1
    refine (congrArg (fun x : Word => x.toNat / 65536) this).trans ?_
    simp only [BitVec.toNat_ofNat]
    omega
  · rw [hm _ rfl, State.getF_setF_field _ pgCur pgCur 0 (f := Reg.CUR_MBX_STAT_BUSY) (g := Reg.CUR_MBX_STAT_DONE), State.getF_setF_same]
    rfl
  · rw [hm _ rfl, State.getF_setF_same]
    rfl

end

end Sys2Proof.Machine
end

