-- ==== Sys2Proof/Laws/Memory.lean ====
section
/-! SUPPORT. Laws of memory: what a byte reads as after each operation that writes bytes, and that every one of them keeps
the canonical form of memory. -/
namespace Sys2Proof.Machine
variable (s : State)

/-! ### What a byte reads as -/

/-- Only the list of bytes decides what a byte reads as. -/
theorem State.byteAt_congr {s t : State} (h : t.mems.mem = s.mems.mem) (a : Nat) : t.byteAt a = s.byteAt a := by
  unfold State.byteAt; exact congrArg (fun m => sget _ m a) h

theorem State.byteAt_pokeByte (a : Nat) (b : Byte) (x : Nat) : (s.pokeByte a b).byteAt x = if x = a then b else s.byteAt x :=
  sget_sset _ s.mem a x b

theorem State.byteAt_pokeBytes (a : Nat) (bs : List Byte) (x : Nat) :
    (s.pokeBytes a bs).byteAt x = if a ≤ x then (bs[x - a]?).getD (s.byteAt x) else s.byteAt x :=
  sget_ssetAll _ bs s.mem a x

/-- A byte that is written reads as it was written. -/
theorem State.byteAt_pokeBytes_in (a : Nat) (bs : List Byte) (i : Nat) (h : i < bs.length) :
    (s.pokeBytes a bs).byteAt (a + i) = bs[i] := sget_ssetAll_in _ bs s.mem a i h

/-- A byte outside a write reads as before. -/
theorem State.byteAt_pokeBytes_out (a : Nat) (bs : List Byte) {x : Nat} (h : x < a ∨ a + bs.length ≤ x) :
    (s.pokeBytes a bs).byteAt x = s.byteAt x := sget_ssetAll_out _ bs s.mem h

@[simp] theorem State.tagPages_mem (slot a n : Nat) : (s.tagPages slot a n).mems.mem = s.mems.mem := by
  unfold State.tagPages; split <;> rfl

@[simp] theorem State.tagPages_errs (slot a n : Nat) : (s.tagPages slot a n).mems.errs = s.mems.errs := by
  unfold State.tagPages; split <;> rfl

theorem State.byteAt_zeroRange (slot a n x : Nat) :
    (s.zeroRange slot a n).byteAt x = if a ≤ x ∧ x < a + n then 0 else s.byteAt x := sget_sclear _ s.mem a (a + n) x

/-- Where no code word holds an error, a write through a key slot stores its bytes. -/
theorem State.writeBytes_mem (slot a : Nat) (bs : List Byte) (h : s.mems.errs = []) :
    (s.writeBytes slot a bs).mems.mem = (s.pokeBytes a bs).mems.mem := by
  unfold State.writeBytes
  by_cases hb : bs.isEmpty = true
  · simp [hb, h]
  · simp [hb, h, State.pokeBytes]

theorem State.byteAt_writeBytes (slot a : Nat) (bs : List Byte) (h : s.mems.errs = []) (x : Nat) :
    (s.writeBytes slot a bs).byteAt x = if a ≤ x then (bs[x - a]?).getD (s.byteAt x) else s.byteAt x := by
  rw [State.byteAt_congr (s.writeBytes_mem slot a bs h), State.byteAt_pokeBytes]

/-! ### The canonical form -/

theorem memory_wf_reset : Memory.wf State.reset.mem = true := rfl

theorem memory_wf_pokeByte (h : Memory.wf s.mem = true) (a : Nat) (b : Byte) : Memory.wf (s.pokeByte a b).mem = true :=
  swf_sset _ h a b

theorem memory_wf_pokeBytes (h : Memory.wf s.mem = true) (a : Nat) (bs : List Byte) : Memory.wf (s.pokeBytes a bs).mem = true :=
  swf_ssetAll _ h a bs

theorem memory_wf_clear {m : List (Nat × Byte)} (h : Memory.wf m = true) (lo hi : Nat) : Memory.wf (sclear m lo hi) = true :=
  swf_sclear _ h lo hi

theorem memory_wf_zeroRange (h : Memory.wf s.mem = true) (slot a n : Nat) : Memory.wf (s.zeroRange slot a n).mem = true :=
  swf_sclear _ h a (a + n)

theorem foundCE_mem (inst : Nat) : (s.foundCE inst).mem = s.mem :=
  (congrArg (fun t : State => t.mems.mem) (s.foundCE_sans inst) :)

theorem memory_wf_writeWord (h : Memory.wf s.mem = true) (a : Nat) (bs : List Byte) (i : Nat) :
    Memory.wf (s.writeWord a bs i).mem = true := by
  unfold State.writeWord
  dsimp only
  split
  · simpa using h
  · refine swf_ssetAll _ ?_ _ _
    split
    · exact (congrArg Memory.wf (foundCE_mem s _)).trans h
    · exact h

/-- A write through a key slot, whatever errors memory holds. -/
theorem memory_wf_writeBytes (h : Memory.wf s.mem = true) (slot a : Nat) (bs : List Byte) :
    Memory.wf (s.writeBytes slot a bs).mem = true := by
  have ht : Memory.wf (if bs.isEmpty = true then s else s.tagPages slot a bs.length).mem = true := by
    split
    · exact h
    · simpa using h
  have key : ∀ u : State, Memory.wf u.mem = true →
      Memory.wf (if u.errs.isEmpty = true then u.pokeBytes a bs
        else (List.range ((a % cwBytes a + bs.length + cwBytes a - 1) / cwBytes a)).foldl (fun s i => s.writeWord a bs i) u).mem = true := by
    intro u hu
    split
    · exact swf_ssetAll _ hu a bs
    · exact foldl_inv (fun t : State => Memory.wf t.mem = true) _ (fun t i hti => memory_wf_writeWord t hti a bs i) _ _ hu
  exact key _ ht

theorem memory_wf_touch (h : Memory.wf s.mem = true) (a n cause : Nat) : Memory.wf (s.touch a n cause).mem = true := by
  simpa using h

theorem recrypt_mem (p q old new : Nat) : (s.recrypt p q old new).mem = s.mem := by
  unfold State.recrypt; rfl

/-- A page of HBM copied to another (R650). -/
theorem memory_wf_copyPage (h : Memory.wf s.mem = true) (p q slot : Nat) : Memory.wf (s.copyPage p q slot).mem = true := by
  have key (u : State) (hu : Memory.wf u.mem = true) (data : List Byte) :
      Memory.wf ((u.pokeBytes (q * 65536) data).recrypt p q slot slot).mem = true := by
    rw [recrypt_mem]; exact memory_wf_pokeBytes u hu _ _
  have errs (u : State) (e : List (Nat × Nat)) : ({ u with mems.errs := e } : State).mem = u.mem := rfl
  unfold State.copyPage
  extract_lets u data
  rw [errs]
  exact key u (memory_wf_touch s h _ _ _) data

theorem pokeAm_mem (c o : Nat) (b : Byte) : (s.pokeAm c o b).mem = s.mem := by
  unfold State.pokeAm; dsimp only; split <;> rfl

/-- Readers' data of a code word stored by an ECC test write (R436). -/
theorem memory_wf_setCwData (h : Memory.wf s.mem = true) (inst off v : Nat) : Memory.wf (s.setCwData inst off v).mem = true := by
  unfold State.setCwData
  dsimp only
  split
  · exact memory_wf_pokeBytes s h _ _
  · exact memory_wf_pokeBytes s h _ _
  · exact foldl_inv (fun t : State => Memory.wf t.mem = true) _
      (fun t x ht => (congrArg Memory.wf (pokeAm_mem t _ _ _)).trans ht) _ _ h
  · exact h
  · exact h
  · exact memory_wf_pokeBytes s h _ _
  · exact h

/-- Zeroisation leaves no byte written (R435). -/
theorem memory_wf_zeroise : Memory.wf s.zeroise.mem = true := rfl

/-- Byte runs written in order, as a launch leaves them on completion. -/
theorem memory_wf_written {m : List (Nat × Byte)} (h : Memory.wf m = true) (runs : List (Nat × List Byte)) :
    Memory.wf (written m runs) = true :=
  foldl_inv (fun m => Memory.wf m = true) _ (fun _ p hm => swf_ssetAll _ hm p.1 p.2) runs m h

end Sys2Proof.Machine
end

