-- ==== Sys2Proof/Laws/Sequencer.lean ====
section
/-! SUPPORT. What one attempt to issue the head descriptor of a cluster can do (R315, R317, R318), once for every launch
command. -/
namespace Sys2Proof.Machine
variable (s : State) (c cls opc : Nat) (plan : State → Desc → Plan)

/-- An attempt does nothing (no descriptor, another operation, or none is due), refuses the descriptor, lets it wait, or
issues it. An operation of class 6 is due before the first flight too. -/
theorem tryIssue_cases :
    s.tryIssue c cls opc plan = s ∨
    ∃ d, (s.clu c).queue.head? = some d ∧ d.cls = cls ∧ d.opc = opc ∧ (s.issuable c = true ∨ cls = 6 ∧ s.preFlight c = true) ∧
      s.due c d = true ∧
      (((plan s d).bad = true ∨ s.commonBad c d = true) ∧ s.tryIssue c cls opc plan = s.refuseDesc c d ∨
       ((plan s d).bad = false ∧ s.commonBad c d = false) ∧
         (((plan s d).free = false ∨ s.depFree c (plan s d) = false) ∧
            s.tryIssue c cls opc plan = s.waited c d s.now ∨
          ((plan s d).free = true ∧ s.depFree c (plan s d) = true) ∧
            s.tryIssue c cls opc plan = (plan s d).go (s.issue c d))) := by
  unfold State.tryIssue
  split
  · exact .inl rfl
  · rename_i d hd
    split
    · exact .inl rfl
    · rename_i hc
      simp only [Bool.or_eq_true, not_or, Bool.not_eq_true, Bool.not_eq_false', decide_eq_true_eq, Bool.and_eq_true] at hc
      refine .inr ⟨d, hd, hc.1.1.1, hc.1.1.2, hc.1.2, hc.2, ?_⟩
      dsimp only
      cases hb : (plan s d).bad <;> cases hm : s.commonBad c d <;> cases hf : (plan s d).free <;>
        cases hp : s.depFree c (plan s d) <;> simp

/-- A descriptor that is due, well formed and free of dependences issues. -/
theorem tryIssue_issues {d : Desc} (hd : (s.clu c).queue.head? = some d) (hc : d.cls = cls) (ho : d.opc = opc)
    (hi : s.issuable c = true) (ht : s.due c d = true) (hb : (plan s d).bad = false) (hm : s.commonBad c d = false)
    (hf : (plan s d).free = true) (hp : s.depFree c (plan s d) = true) :
    s.tryIssue c cls opc plan = (plan s d).go (s.issue c d) := by
  simp [State.tryIssue, hd, hc, ho, hi, ht, hb, hm, hf, hp]

/-- Where no descriptor waits nothing happens. -/
theorem tryIssue_empty (h : (s.clu c).queue = []) : s.tryIssue c cls opc plan = s := by simp [State.tryIssue, h]

end Sys2Proof.Machine
end

