-- ==== Sys2Proof/Tests/Slice0.lean ====
section
/-! SUPPORT. Tests: an ill-formed command for each check of WellFormed, worked examples of the manual, and for every
statement states and operands that meet its hypotheses, with what the command then answers. -/
namespace Sys2Proof.Tests
open Sys2Proof Sys2Proof.Machine
set_option Elab.async false

/-! ### Helpers -/

/-- The state after a command; reset where it stops. -/
def after (r : Result) : State := match r with | .next t => t | _ => State.reset

/-- Several fields of one page set. -/
def setAll (s : State) (pg : Nat) (l : List (Fld × Nat)) : State := l.foldl (fun s p => s.setF pg p.1 p.2) s

/-- Full service: regions released, stacks filled, the Curator ready. -/
def up : State :=
  let s := setAll State.reset pgPwr [(Reg.PWR_RGN_REL_MASK, 2 ^ 32 - 1), (Reg.PWR_STAT_PHASE, 4)]
  let s := s.setF pgDev Reg.DEV_RGN_AVAIL_MASK (2 ^ 32 - 1)
  let s := (List.range 12).foldl (fun s x => setAll s (pgMem x) [(Reg.MEM_STAT_FILLED, 1), (Reg.MEM_STAT_TRAINED, 1)]) s
  let s := s.setF pgCur Reg.CUR_MBX_STAT_READY 1
  { s with plat.full := true, plat.perst := false, plat.sramFilled := true }

/-- A mailbox request. -/
def req (payload : List Byte) : MbxReq := { tag := 7, payload := payload, haddr := 0x1000, hlen := 65536 }

/-- A cluster in a flight with one descriptor at the head of its queue. -/
def inFlight (s : State) (c : Nat) (d : Desc) : State :=
  (s.setClu c { s.clu c with queue := [d], fLen := 1000, fLam := 512000 }).setDoc c docFlight

/-- A descriptor from its fields (low bit, value), with the word of the core fields of R317. -/
def desc (slot cls opc : Nat) (fields : List (Nat × Nat)) : Desc :=
  { slot := slot, ext := 0,
    w := BitVec.ofNat 256 ((fields.map (fun p => p.2 * 2 ^ p.1)).foldl (· + ·) (opc + cls * 2 ^ 8 + 2 ^ 13)) }


/-! ### The queue, time, register pages -/

theorem witness_IdleStepIsOneRefCycle : up.pending = [] ∧ (after (step up)).now = 160 ∧ up.ports = [] ∧ up.loop = [] ∧ up.runs = [] ∧
    (List.range 32).all (fun r => !up.draining r) = true ∧ (after (step { up with time.debt := 200, time.rot := 7 })).rot = 7 := by
  decide +kernel

theorem witness_InvariantKeptByStep : swf (fun _ => 0) up.mem = true ∧ swf (resetWord up.part) up.regs = true ∧
    (after (step { up with pending := [.timNowLoRead] })).pending = [] := by decide +kernel

theorem witness_StepTakesOneCommand : exec .timNowLoRead up = .next (after (exec .timNowLoRead up)) := rfl

theorem witness_RegisterWrite :
    (up.writable pgTim = some (.tim, 0) ∧ up.outOfService .tim 0 = false ∧
      ((0x104 : Nat) ∉ [0x010, 0x018, 0x01C, 0x020, 0x024, 0xEF8]) ∧
      (rowsAt .tim 0x104).any (fun p => p.1.acc = .rw && !p.1.act && p.1.staged && p.1.fld = Reg.TIM_LAND_CFG_DL) = true ∧
      Reg.TIM_LAND_CFG_DL.get ((after (exec (.registerWrite pgTim 0x104 5 true) up)).stagedWord (regIdx pgTim Reg.TIM_LAND_CFG_DL)) = 5) ∧
    ((rowsAt .doc 0x818).any (fun p => p.1.acc = .rw && !p.1.act && !p.1.staged) = true ∧
      (after (exec (.registerWrite (pgDoc 3) 0x818 9 true) up)).getF (pgDoc 3) Reg.DOC_RESUME_LO_T = 9) ∧
    ((rowsAt .vec 0x800).any (fun p => p.1.acc = .w1c && !p.1.act) = true ∧
      (let s := up.setVecFlags 3 0x1F
       (after (exec (.registerWrite (pgVec 3) 0x800 5 true) s)).getF (pgVec 3) vecFlagsF = 0x1A)) ∧
    (rowsAt .dev 0x8A0).any (fun p => p.1.acc = .ro) = true ∧
    (let s := { up.setF pgDev Reg.DEV_LS_FAIL_VALID 1 with inq.lsPend := [(0, 3, 7, true, false)] }
     s.reaches pgDev = true ∧
       let t := after (exec (.registerWrite pgDev 0x850 (2 ^ 17) true) s)
       t.lsPend = [] ∧ t.getF pgDev Reg.DEV_LS_FAIL_VALID = 1 ∧ t.getF pgDev Reg.DEV_LS_FAIL_CLU = 7) := by decide +kernel

theorem witness_ReservedPageIgnoresWrites : up.writable 0x07 = none ∧
    (after (exec (.registerWrite 0x07 0x100 5 true) up)).getF pgPci Reg.PCI_CNT_BADREG = 1 := by decide +kernel

/-- A commit of the landing deadline, LATE_MAX as at reset (R344). -/
def tim5 : State := up.writeReg pgTim 0x104 (5 + 50 * 2 ^ 9) true

theorem witness_CommitProtocol :
    (let u := tim5.writeReg pgTim 0x020 1 true
     u.writable pgTim = some (.tim, 0) ∧ Block.staged .tim = true ∧ u.outOfService .tim 0 = false ∧
       u.blockRunning .tim 0 = false ∧ (groupsOf .tim).all (fun g => (u.takeSnapshot pgTim).groupOk .tim 0 g) = true ∧
       (after (exec (.pgCommitReq pgTim 1) tim5)).getF pgTim Reg.TIM_LAND_CFG_DL = 5) ∧
    (let s := (inFlight up 3 (desc 0 6 4 [])).writeReg (pgDoc 3) 0x100 9 true
     let t := after (exec (.pgCommitReq (pgDoc 3) 1) s)
     (s.writeReg (pgDoc 3) 0x020 1 true).blockRunning .doc 3 = true ∧ t.getF (pgDoc 3) Reg.PG_COMMIT_STAT_PENDING = 1 ∧
       t.snapF (pgDoc 3) Reg.DOC_START_START = 9 ∧ (after (exec (.pgCommitCancel (pgDoc 3) 2) t)).snap = []) := by decide +kernel

theorem witness_ClusterSoftReset :
    (up.outOfService .clu 3 = false ∧ (up.writeReg (pgClu 3) 0x010 3 true).running 3 = false) ∧
    (let s := inFlight up 3 (desc 0 6 4 [])
     (s.writeReg (pgClu 3) 0x010 3 true).running 3 = true ∧
       (after (exec (.pgCtlSrst (pgClu 3) 3) s)).getF (pgClu 3) Reg.PG_CTL_SRST = 1) := by decide +kernel

theorem witness_ActingReadsAndCounterClear :
    up.writable pgPci = some (.pci, 0) ∧ up.outOfService .pci 0 = false ∧
    (let s := up.count pgPci Reg.PCI_CNT_BADREG 3
     (after (exec (.pgCntClr pgPci 1) s)).getF pgPci Reg.PCI_CNT_BADREG = 0 ∧ s.getF pgPci Reg.PCI_CNT_BADREG = 3) ∧
    up.reaches pgTim = true ∧ up.reaches pgDev = true ∧ up.reaches (pgDoc 3) = true ∧
    (let r := up.setF pgSec Reg.SEC_STAT_RECOVERY 1
     r.reaches pgTim = false ∧ r.reaches pgDev = false ∧ r.reaches (pgDoc 3) = false) := by
  decide +kernel

theorem witness_EventEnableWrite :
    (let s := setAll up pgTim [(Reg.PG_EVT, 1), (Reg.PG_EVT_EN, 0)]
     s.writable pgTim = some (.tim, 0) ∧ (s.getF pgTim Reg.PG_EVT).testBit 0 = true ∧ (s.enables pgTim).testBit 0 = false ∧
       ((after (exec (.pgEvtEnWrite pgTim 0x01C 1) s)).enables pgTim).testBit 0 = true ∧ s.cur.replacing = false ∧
       (after (exec (.pgEvtEnWrite pgTim 0x01C 1) s)).held.length = 1) ∧
    (let s := setAll up pgTim [(Reg.PG_EVT, 1), (Reg.PG_CTL_EN, 0)]
     (s.enables pgTim).testBit 0 = false ∧ (after (exec (.pgEvtEnWrite pgTim 0x010 1) s)).held.length = 1) := by
  decide +kernel

/-- An event ring of 64 entries (R691). -/
def ringed : State := { up with evts.ring := some { base := 0x10000, log2n := 6, cons := 0x20000 } }

theorem witness_EventHoldAndRing :
    (let s := { ringed.raise pgTim 0 0x20 1 [] with time.rot := us 9 }
     s.held ≠ [] ∧ (s.held.all (fun e => decide (e.time + us 8 ≤ s.rot)) = true) ∧ s.waiting = [] ∧ 0 < s.ringSpace ∧
       (after (exec .eventHoldExpiry s)).evtSeq = 1) ∧
    (let e : Event := { code := 1, sev := 3, page := 5, time := 0, deferred := false, late := false, data := [], after := none }
     let s := { ringed with evts.waiting := [e], evts.evtSeq := 64 }
     s.ringSpace = 0 ∧ 0 < State.ringSpace { s with evts.evtConsumed := 1 } ∧
       (after (exec (.eventRingDrain 1) s)).waiting = []) := by decide +kernel

/-! ### The mailbox -/

theorem witness_MailboxRefusals :
    (let s := up.setF pgCur Reg.CUR_MBX_STAT_READY 0
     s.mbxIgnores = true ∧ mbxWf (req []) = true ∧ mailboxOf (.attest (req [])) = some (0x0201, req []) ∧
       (after (exec (.attest (req [])) s)).getF pgCur Reg.CUR_MBX_STAT_REFUSED = 1) ∧
    (let s := up.setF pgSec Reg.SEC_STAT_RECOVERY 1
     s.mbxIgnores = false ∧ s.flag pgSec Reg.SEC_STAT_RECOVERY = true ∧
       ((after (exec (.slotFree (req [1])) s)).word (rspIdx + 1)).toNat / 65536 = 4) ∧
    (up.mbxIgnores = false ∧ up.mbxRefuses 0x0208 = false ∧ up.presence = false ∧
      (after (exec (.pufReenrol (req [])) up)).getF pgSec Reg.SEC_CNT_AUTHREF = 1) ∧
    (let s := { up with brd.cur := { up.cur with flashOp := some .counters } }
     s.flashBusy = true ∧ ((after (exec (.certInstall (req []) [] { rsaOk := true, slhOk := true, keyId := [] }) s)).word
       (rspIdx + 1)).toNat / 65536 = 4) ∧
    (let bad : SigCheck := { rsaOk := false, slhOk := true, keyId := [] }
     sigBoth bad = false ∧ up.flashBusy = false ∧ up.mbxRefuses 0x0209 = false ∧
       ((after (exec (.certInstall (req []) [] bad) up)).word (rspIdx + 1)).toNat / 65536 = 0x0102) := by decide +kernel

theorem witness_MailboxReports :
    (let m := req (leBytes 8 0x10000 ++ leBytes 8 6 ++ leBytes 8 0x20000)
     up.mbxIgnores = false ∧ up.mbxRefuses 0x0301 = false ∧ evtRingOk m.payload = true ∧
       (after (exec (.evtRing m) up)).ring.isSome = true) ∧
    ((0x1234 : Nat) ∉ knownCodes ∧ up.mbxRefuses 0x1234 = false ∧
      ((after (exec (.mailboxUnknownCode 0x1234 (req [])) up)).word (rspIdx + 1)).toNat / 65536 = 1) ∧
    (let s := { up with brd.cur := { up.cur with idOpen := true } }
     s.identityServes = true ∧ (List.replicate 48 (0 : Byte)).length = 48 ∧ s.mbxIgnores = false ∧
       (let u := { s with brd.flash := { s.flash with chain := [1, 2] } }
        u.out = [] ∧ (after (exec (.certGet { req [] with hlen := 1 }) u)).out = [] ∧
          ((after (exec (.certGet { req [] with hlen := 1 }) u)).word (rspIdx + 1)).toNat / 65536 = 5) ∧
       (after (exec (.certGet (req [])) s)).out.head? = some (.hostWrite 0x1000 [])) := by decide +kernel


/-! ### The security commands -/

def good : SigCheck := { rsaOk := true, slhOk := true, keyId := [1] }
def image1 : FwImage := { hash := [], svn := 3, handover := 1, sig := good }
def cfg1 : CfgRecord := { hash := [], idhash := [], isSealed := false, sealEn := true, debugAllow := true, winFirst := 0,
                          winPages := 0, mac0 := 0, mac1 := 0, intakeQ := 2, svn := 1, sig := good }
def owner1 : OwnerRecord := { hash := [], ownerId := List.replicate 16 0, keys := [[1]], svn := 1, sig := good }

/-- An enrolled package in a presence window. -/
def held : State :=
  let s := up.setF pgSec Reg.SEC_STAT_PRESENCE 1
  { s with brd.cur := { s.cur with owner := some owner1, cfg := some cfg1, fw := some image1 } }

def status (s : State) : Nat := (s.word (rspIdx + 1)).toNat / 65536

theorem witness_FlashCommandsBeginTheirWrite :
    (held.mbxIgnores = false ∧ held.flashBusy = false ∧ held.cur.flashHeld = false ∧ held.presence = true ∧
      held.sealed = false ∧ held.cur.entropyBad = false ∧
      [0x0203, 0x0204, 0x0205, 0x0206, 0x0207, 0x0208, 0x0209].all (fun k => !held.mbxRefuses k) = true) ∧
    (after (exec (.fwStage (req []) image1) held)).cur.flashOp = some (.fwStage true image1) ∧
    (let s := { held with brd.flash := { held.flash with fwB := some { gen := 1, marker := false, body := image1 } },
                          brd.cur := { held.cur with fwStagedB := some true } }
     s.stagedFw = some (true, image1) ∧ sigBoth image1.sig = true ∧ s.flash.fwCtr ≤ image1.svn ∧
       (after (exec (.fwCommit (req [0])) s)).cur.flashOp = some (.fwMarker true false) ∧
       (after (exec (.fwCommitLive (req [1])) s)).getF pgCur Reg.CUR_MBX_STAT_READY = 0) ∧
    (held.ownerSigned cfg1.sig = true ∧ cfg1.idhash = held.flash.idhash ∧
      (after (exec (.cfgStage (req []) cfg1) held)).cur.flashOp = some (.cfgStage (!held.cfgSlotB) cfg1)) ∧
    (let s := { held with brd.flash := { held.flash with cfgB := some { gen := 1, marker := false, body := cfg1 } },
                          brd.cur := { held.cur with cfgStagedB := some true } }
     (after (exec (.cfgCommit (req [])) s)).cur.flashOp = some (.cfgMarker true)) ∧
    (held.cur.owner = some owner1 ∧ owner1.svn < 2) ∧
    (after (exec (.pufReenrol (req [])) held)).cur.flashOp = some .reenrol ∧
    (after (exec (.certInstall (req []) [1, 2] good) held)).cur.flashOp = some (.chain [1, 2]) := by decide +kernel

/-- A flash write under way for a mailbox command. -/
def writing (op : FlashOp) : State :=
  { held with brd.cur := { held.cur with flashOp := some op, flashSent := true, job := some (.flash op), jobCode := 0x0209,
                                         jobTag := 7 },
              brd.flash := { held.flash with fwB := some { gen := 1, marker := false, body := { image1 with svn := 4 } } } }

theorem witness_FlashWriteEndsAndHandOver :
    (status (after (exec (.flashWriteComplete false) (writing (.chain [1])))) = 0x0103 ∧
      (after (exec (.flashWriteComplete true) (writing (.chain [1])))).flash.chain = [1]) ∧
    (after (exec (.flashWriteComplete true) (writing (.fwMarker true true)))).cur.replacing = true ∧
    (let s := { writing (.fwMarker true true) with brd.cur.fw := some { image1 with handover := 2 } }
     status (after (exec (.flashWriteComplete true) s)) = 0x0106) ∧
    (let s := after (exec (.flashWriteComplete true) (writing (.fwMarker true true)))
     s.cur.newFw = some { image1 with svn := 4 } ∧ s.cur.replacing = true ∧
       (after (exec .newImageReady s)).getF pgSec Reg.SEC_SVN_FW = 4) := by decide +kernel

/-- A token for an act, for the device identity and bring-up nonce of `named`. -/
def token (act : String) : Token :=
  { body := ascii act ++ List.replicate (16 - (ascii act).length) 0 ++ List.replicate 48 0 ++ List.replicate 48 0, sig := good }

def named : State :=
  { held with brd.flash := { held.flash with idhash := List.replicate 48 0 },
              brd.cur := { held.cur with nonce := List.replicate 48 0, closedRun := 10 } }

theorem witness_UnsealAndDebug :
    (let s := named.setF pgSec Reg.SEC_STAT_SEALED 1
     s.mbxIgnores = false ∧ s.mbxRefuses 0x020A = false ∧ s.presence = true ∧ s.tokenOk "UNSEAL" (token "UNSEAL") = true ∧
       s.sealed = true ∧ s.cur.entropyBad = false ∧ s.hbmFilled = true ∧
       let u := s.setF (pgMem 2) Reg.MEM_STAT_FILLED 0
       u.hbmFilled = false ∧ (after (exec (.unseal (req []) (token "UNSEAL")) u)).cur.job = some (.waitHbm (.unseal (req []) (token "UNSEAL")))) ∧
    (let t := { named with brd.cur.job := some .unseal }
     (after (exec .unsealDone t)).sealed = false ∧ (after (exec .unsealDone t)).mem = []) ∧
    (named.tokenOk "DEBUG" (token "DEBUG") = true ∧ named.debugAllow = true ∧
      (after (exec (.debugUnlock (req []) (token "DEBUG")) named)).getF pgSec Reg.SEC_STAT_DEBUG = 1) ∧
    (let s := named.setF pgSec Reg.SEC_STAT_SEAL 2
     10 ≤ s.cur.closedRun ∧ (after (exec (.sealRearm (req [])) s)).getF pgSec Reg.SEC_STAT_SEAL = 1) ∧
    (up.perst = false ∧ up.getF pgSec Reg.SEC_STAT_DEBUG = 0 ∧ State.reset.perst = true ∧
      (up.setF pgSec Reg.SEC_STAT_DEBUG 1).getF pgSec Reg.SEC_STAT_DEBUG = 1) := by decide +kernel

def acc1 : AccSess :=
  { sid := 5, epoch := 2, secret := 3, queue := 1, peer := false, ip := 1, port := 2, top := 0, window := [], txSeq := 0 }

theorem witness_KeySlotsAndWaitingCommands :
    (let s := { up with inq.accSess := [acc1] }
     let m := req (leBytes 1 9 ++ leBytes 4 5 ++ leBytes 4 2)
     mbxWf m = true ∧ s.mbxIgnores = false ∧ s.mbxRefuses 0x020D = false ∧ s.hbmFilled = true ∧ s.hasKey 9 = false ∧
       9 ≤ m.payload.length ∧ s.accSess.find? (fun x => x.sid = 5) = some acc1 ∧
       sget (fun _ => 0) (after (exec (.slotLoad m) s)).keys 9 = slotKey 3 9 ∧
       (let u := s.setF (pgMem 2) Reg.MEM_STAT_FILLED 0
        u.hbmFilled = false ∧ (after (exec (.slotLoad m) u)).cur.job = some (.waitHbm (.slotLoad m))) ∧
       (let w := { s with brd.cur := { s.cur with job := some (.waitHbm (.slotLoad m)), jobTag := 7, jobCode := 0x020D } }
        (after (exec .hbmWaitCommandResume w)).hasKey 9 = true)) ∧
    (let s := { up with brd.keys := [(9, 4)] }
     s.slotInUse 9 = false ∧ s.mbxRefuses 0x020E = false ∧ (after (exec (.slotFree (req [9])) s)).hasKey 9 = false) ∧
    (let w := { up with brd.cur := { up.cur with job := some (.waitHbm (.unseal (req []) (token "UNSEAL"))) } }
     w.hbmFilled = true) ∧
    (let m := req (leBytes 4 5 ++ leBytes 2 0xFFFF ++ leBytes 1 0 ++ leBytes 64 8)
     let w := { up with brd.cur := { up.cur with job := some (.waitHbm (.sessionScrub m)) } }
     71 ≤ m.payload.length ∧ w.scrubBlocked (scrubMask m) = false ∧
       (after (exec .hbmWaitCommandResume w)).cur.job = some (.scrub 0xFFFF 8)) ∧
    (let m := req (leBytes 4 5 ++ leBytes 2 1 ++ leBytes 1 0 ++ leBytes 64 8)
     let u := up.setF (pgMem 2) Reg.MEM_STAT_FILLED 0
     scrubSess m ≠ 0xFFFF ∧ u.hbmFilled = false ∧ (after (exec (.sessionScrub m) u)).cur.job = some (.waitHbm (.sessionScrub m))) := by
  decide +kernel

theorem witness_SessionScrub :
    (let s := { up with inq.accSess := [acc1] }
     let m := req (leBytes 4 5 ++ leBytes 2 0xFFFF ++ leBytes 1 0 ++ leBytes 64 8)
     mbxWf m = true ∧ s.mbxIgnores = false ∧ s.mbxRefuses 0x020F = false ∧ 71 ≤ m.payload.length ∧
       s.scrubBlocked (scrubMask m) = false ∧ (scrubSess m ≠ 0xFFFF → s.hbmFilled = true) ∧
       (after (exec (.sessionScrub m) s)).accSess = []) ∧
    (let s := { up with brd.cur := { up.cur with job := some (.scrub 0xFFFF 8) } }
     let s := { s with mems.mem := [(localAddr 3 0x80000, 1), (localAddr 4 0x80000, 1)] }
     s.arcCmd = none ∧ (after (exec .sessionScrubFinish s)).mem = [(localAddr 4 0x80000, 1)]) ∧
    (let m := req (leBytes 4 5 ++ leBytes 2 0xFFFF ++ leBytes 1 0 ++ leBytes 64 8)
     let s := up.setDoc 3 docFlight
     s.scrubBlocked (scrubMask m) = true ∧ status (after (exec (.sessionScrub m) s)) = 4) ∧
    (let s := { up with brd.cur := { up.cur with job := some (.scrub 1 8) } }
     (after (exec .sessionScrubFinish s)).cur.job = some (.scrub 0xFFFF 8) ∧
       State.arcCmd { s with arch.arcCmd := some { op := 1, sess := 0, newSlot := 0 } } ≠ none) := by decide +kernel

/-- A one-cluster exhibit: cluster 0, one descriptor. -/
def exhibit : List Byte :=
  ascii "AKX9" ++ leBytes 4 1 ++ leBytes 64 1 ++ leBytes 4 168 ++ leBytes 4 0 ++ List.replicate 48 0
    ++ (leBytes 2 0 ++ leBytes 2 1 ++ leBytes 4 136) ++ leBytes 32 0x1234

theorem witness_ExhibitLoad :
    (up.exhWhy exhibit good = (0, 0, 0) ∧ up.doc 0 = docIdle ∧ up.mbxRefuses 0x0210 = false ∧
      (after (exec (.exhLoad (req []) exhibit good) up)).imSlot 0 0 = 0x1234) ∧
    (up.exhWhy [] good = (2, 0, 0) ∧ status (after (exec (.exhLoad (req []) [] good) up)) = 2) := by decide +kernel

theorem witness_PhysicalSecurity :
    (up.cur.pinLow ≠ true ∧
      (let s := { up with brd.cur := { up.cur with pinLow := true }, time.now := ms 20 }
       s.cur.pinLow ≠ s.cur.debLow ∧ s.cur.pinAt + ms 20 ≤ s.now ∧
         (after (exec .presenceDebounceExpiry s)).cur.debLow = true) ∧
      (let s := { up with brd.cur := { up.cur with debLow := true }, time.now := ms 2000 }
       s.cur.debAt + ms 2000 ≤ s.now ∧ (after (exec .presenceWindowOpen s)).presence = true) ∧
      (held.cur.windowEnd ≤ held.now ∧ (after (exec .presenceWindowExpiry held)).presence = false)) ∧
    (let s := held.setF pgSec Reg.SEC_STAT_SEAL 1
     s.sealEn = true ∧ s.cur.sealAt ≤ s.now ∧ (after (exec (.sealCheck false) s)).getF pgSec Reg.SEC_STAT_SEAL = 2 ∧
       (after (exec (.sealCheck true) s)).cur.closedRun = 1) ∧
    (let s := { held with brd.cur.entropyBad := true }
     s.mbxRefuses 0x0208 = false ∧ status (after (exec (.pufReenrol (req [])) s)) = 0x0105 ∧
       (let own := { owner1 with svn := 2 }
        s.ownerSigned own.sig = true ∧ owner1.svn < own.svn ∧ status (after (exec (.ownerEnrol (req []) own) s)) = 0x0105) ∧
       (let u := { named.setF pgSec Reg.SEC_STAT_SEALED 1 with brd.cur := { named.cur with entropyBad := true } }
        u.tokenOk "UNSEAL" (token "UNSEAL") = true ∧ status (after (exec (.unseal (req []) (token "UNSEAL")) u)) = 0x0105) ∧
       (after (exec .entropyFaultClear s)).cur.entropyBad = false ∧ (after (exec (.healthTestFail 1) up)).cur.entropyBad = true) ∧
    (let s := held.setF pgSec Reg.SEC_STAT_SEAL 2
     s.sealEn = true ∧ s.getF pgSec Reg.SEC_STAT_SEAL ≠ 1 ∧ s.cur.sealAt ≤ s.now ∧ up.sealEn = false) ∧
    (after (exec (.presenceNChange true) up)).cur.pinLow = true := by decide +kernel


/-! ### Bring-up, resets, power and time -/

theorem witness_ColdAndFunctionReset :
    (State.reset.perst = true ∧ (after (exec .bringUpStart State.reset)).perst = false ∧
      up.cur.flashOp = none ∧ (after (exec .perstAssert held)).presence = false) ∧
    (writing (.fwStage true image1)).cur.flashOp = some (.fwStage true image1) ∧
    (after (exec .powerLoss (writing (.fwStage true image1)))).flash.fwB = none ∧
    (after (exec .powerLoss (writing (.cfgStage true cfg1)))).flash.cfgB = none ∧
    (FlashOp.chain [1]).isStage = false ∧ up.perst = false ∧
    (let t := after (exec .pcieFunctionReset (up.setF pgPci (Reg.PCI_DMA_CTL_EN 1) 1))
     t.dma = [] ∧ t.bar2Log2 = 30) := by decide +kernel

/-- Bring-up has started; one firmware slot holds a sound image, the other a bad one. -/
def booting : State :=
  let s := after (exec .bringUpStart State.reset)
  { s with brd.flash := { s.flash with fwA := some { gen := 1, marker := true, body := image1 },
                                       fwB := some { gen := 2, marker := true, body := { image1 with sig := { good with rsaOk := false } } } } }

theorem witness_FirmwareAndIdentity :
    (let s := { booting with brd.flash.fwB := none }
     s.perst = false ∧ s.phase = 0 ∧ s.fwSlots = [(false, { gen := 1, marker := true, body := image1 })] ∧
       s.fwWhy { gen := 1, marker := true, body := image1 } = none ∧ (after (exec .firmwareStart s)).phase = 1) ∧
    ((booting.fwSlots.map (·.1)) = [true, false] ∧ (booting.fwSlots.map (fun p => booting.fwWhy p.2)) = [some 0, none] ∧
      (after (exec .firmwareStart booting)).getF pgSec Reg.SEC_STAT_FALLBACK = 1) ∧
    (let s := { booting with brd.flash.fwA := none }
     s.fwSlots.all (fun p => (s.fwWhy p.2).isSome) = true ∧ (after (exec .firmwareStart s)).phase = 5) ∧
    (let s := booting.setPhase 1
     let x : IdentityIn := { pufOk := true, recordOk := true, sealClosed := true }
     s.phase = 1 ∧ s.cur.entropyBad = false ∧ (after (exec (.identityReady x) s)).phase = 2 ∧
       (after (exec (.identityReady { x with pufOk := false }) s)).phase = 5 ∧
       (after (exec (.identityReady x) { s with brd.cur.entropyBad := true })).phase = 1 ∧
       let r := { booting.setPhase 5 with brd.cur.idOpen := false }
       r.phase = 5 ∧ r.cur.idOpen = false ∧ (after (exec (.identityReady x) r)).cur.idOpen = true) := by decide +kernel

theorem witness_StagesOfBringUp :
    (let s := booting.setPhase 2
     s.phase = 2 ∧ s.cur.cfgApplied = false ∧ s.perst = false ∧ s.sramFilled = false ∧ up.sramFilled = true ∧
       let u := { s with mems.mem := [(5, 1), (localAddr 3 0, 2)], mems.errs := [(cwName 0x1000 0, 1), (cwName (9 * 4096) 0, 1)] }
       let t := after (exec .sramFillDone u)
       t.sramFilled = true ∧ t.mem = [(5, 1)] ∧ t.errs = [(cwName (9 * 4096) 0, 1)]) ∧
    (let s := booting.setPhase 1
     s.stackGone 3 = false ∧ s.getF (pgMem 3) Reg.MEM_STAT_TRAINED = 0 ∧
       (after (exec (.hbmTrained 3 true) s)).getF (pgMem 3) Reg.MEM_STAT_TRAINED = 1 ∧
       (after (exec (.hbmTrained 3 false) s)).getF (pgMem 3) Reg.MEM_STAT_RETIRED = 1) ∧
    (let s := (booting.setF (pgMem 3) Reg.MEM_STAT_TRAINED 1).setF pgSec Reg.SEC_STAT_IDREADY 1
     s.getF (pgMem 3) Reg.MEM_STAT_FILLED = 0 ∧
       (after (exec (.hbmFillDone 3) { s with mems.mem := [(3 * stackSize, 1)] })).mem = []) := by decide +kernel

theorem witness_ReleaseAndFullService :
    (let s := { (booting.setPhase 2).setF pgDev Reg.DEV_RGN_AVAIL_MASK 1 with plat.sramFilled := true, brd.cur.cfgApplied := true }
     s.phase = 2 ∧ s.avail 0 = true ∧ (s.getF pgPwr Reg.PWR_RGN_REL_MASK).testBit 0 = false ∧
       sget (fun _ => 0) s.flash.fails 0 ||| 4 = 4 ∧ regionOut 4 = false ∧ regionOut 6 = true ∧
       (after (exec (.regionRelease 0 4) s)).phase = 3 ∧
       (let u := { s with brd.flash.spares := [(0, 7)] }
        (after (exec (.regionRelease 0 4) u)).slotOf 7 = 16) ∧ (after (exec (.regionRelease 0 6) s)).avail 0 = false) ∧
    (let s := (List.range 8).foldl (fun s k => s.setF (pgLnk k) Reg.LNK_CFG_EN 0) (up.setPhase 3)
     s.phase = 3 ∧ s.fullReady = true ∧
       (s.setF (pgMem 2) Reg.MEM_STAT_FILLED 0).fullReady = false ∧
       s.t0 + ms 3000 ≤ ms 3000) := by
  decide +kernel

theorem witness_WarningAndCuratorRestart :
    (up.warnLow = false ∧ (after (exec .pwrWarnFall up)).cur.flashHeld = true) ∧
    (let s := { up with plat.warnLow := true, brd.cur.flashHeld := true }
     (after (exec .pwrWarnRise s)).cur.flashResumeAt = ms 10 ∧
       (let t := { s with plat.warnLow := false }
        t.cur.flashResumeAt ≤ t.now ∧ (after (exec .flashResume t)).cur.flashHeld = false)) ∧
    (let s := { up with mems.errs := [(7 * 4096 * 2 ^ 48, 2)] }
     s.errs.any (fun p => p.2 = 2 && p.1 / 2 ^ 48 / 4096 = 7) = true) := by decide +kernel

theorem witness_Throttles :
    up.tripped = false ∧ up.perst = false ∧
    (after (exec (.pmbAlert true) up)).freq 2 = freqOf (up.clkCode 2) / 2 ∧
    (up.getF pgPwr Reg.PWR_CAP_LIMIT < 5000 ∧ ((after (exec (.powerMeasure 1000 5000) up)).throttle 1).active = true) ∧
    (let x : Temps := { g := [105, 0, 0, 0], x := [0, 0, 0, 0], m := List.replicate 12 0 }
     ((after (exec (.temperatureSample x) up)).throttle 0).active = true ∧
       ((after (exec (.temperatureSample x) up)).throttle 1).active = false) ∧
    (let s := { up.setThrottle 1 { active := true } with time.now := ms 10 }
     s.releasable 1 = true ∧ s.dieFlying 1 = false ∧ ((after (exec (.throttleRelease 1) s)).throttle 1).active = false) ∧
    (after (exec (.temperatureSample { g := [115], x := [], m := [] }) up)).tripped = true := by decide +kernel

theorem witness_RotundaTime :
    (after (exec .rotundaStamp { up with time.refPhase := 64, time.rot := 99 })).stamp = 99 ∧
    (let s := setAll up pgTim [(Reg.TIM_SET_LO_T, 7), (Reg.TIM_STAT_LOCK, 1)]
     (after (exec (.timSet 1) s)).rot = 7) ∧
    (let s := { setAll up (pgLnk 0) [(Reg.LNK_STAT_STATE, lnkUp), (Reg.LNK_STAT_LANES, 0xFF), (Reg.LNK_STAT_NACT, 8)] with time.rot := 10 ^ 6 }
     let s := setAll s pgTim [(Reg.TIM_CFG_ROLE, 0), (Reg.TIM_CFG_PARENT, 0), (Reg.TIM_STAT_LOCK, 1)]
     let s := { s with time.lockRun := 63, time.unlockRun := 3 }
     let x : Stamps := { t1 := 0, t2 := 10, t3 := 20, t4 := 30, bad := false }
     up.flag pgTim Reg.TIM_CFG_ROLE = true ∧ s.flag pgTim Reg.TIM_CFG_ROLE = false ∧ s.portUp 0 = true ∧ s.anyFlight = false ∧
       (inFlight up 3 (desc 7 6 7 [])).anyFlight = true ∧
       (let t := after (exec (.timeExchange x) s)
        t.lockRun = 64 ∧ t.out.length = 1) ∧
       (let t := after (exec (.timeExchange { x with t2 := 6000 }) s)
        t.lockRun = 0 ∧ t.getF pgTim Reg.TIM_STAT_LOCK = 0 ∧ t.getF pgTim Reg.TIM_CNT_UNLOCK = 1 ∧
        t.getF pgTim Reg.TIM_CNT_STEP = 1 ∧ t.stepDue = 0) ∧
       (after (exec (.timeExchange { x with bad := true }) s)).getF pgTim Reg.TIM_CNT_XFER = 0) := by decide +kernel


/-! ### Descriptors and launches -/

/-- Everything that AtHead and CanIssue ask. -/
def issues (s : State) (i : Instr) (d : Desc) : Bool :=
  match askOf i with
  | none => false
  | some a => decide ((s.clu a.c).queue.head? = some d) && decide (d.cls = a.cls) && decide (d.opc = a.opc) && s.issuable a.c
      && s.due a.c d && !(a.plan s d).bad && !s.commonBad a.c d && (a.plan s d).free && s.depFree a.c (a.plan s d)

/-- FP32 vectors of 8 elements at local addresses 0, 64, 128, results at 0x80000 and above. -/
def vec8 (cls op : Nat) : Desc :=
  desc 5 cls op [(64, 8), (88, 9), (92, 9), (96, 9), (130, 0), (150, 64), (170, 128), (190, 0x80000),
                 (210, if op = 13 || op = 14 then 0x80100 else 0)]

/-- A move of 16 P8 elements from the weight store of cluster 3 to its activation buffer. -/
def copy16 : Desc := desc 5 3 1 [(64, 1), (80, 16), (142, localAddr 3 0), (190, localAddr 3 0x80000)]

/-- A row operation on 2 rows of 8 elements, in a format that it takes (R242). -/
def row8 (op : Nat) : Desc :=
  let f := if 3 ≤ op && op ≤ 8 then 1 else if op = 11 then 11 else 9
  desc 5 4 op [(64, 2), (80, 8), (104, f), (108, 1), (112, 1), (117, 1), (120, if 12 ≤ op then 4 else 0), (140, 0),
               (160, 0x80000), (180, 0x80400), (200, 0x80800), (220, 0x80C00), (240, 9)]

/-- A quire addition of 4 elements, and a rotation of 8. -/
def qadd : Desc := desc 5 1 15 [(64, 4), (88, 11), (92, 11), (96, 11), (100, 2), (130, 0), (150, 0x100), (190, 0x80000)]
def rope : Desc := desc 5 2 18 [(64, 8), (88, 9), (92, 9), (96, 9), (130, 0), (150, 64), (170, 128), (190, 0x80000)]

def catload : Desc := desc 5 3 2 [(64, 2), (142, localAddr 3 0), (190, 7)]
def catsave : Desc := desc 5 3 3 [(64, 2), (142, 7), (190, localAddr 3 0)]
def pagein : Desc := desc 5 3 4 [(64, 1), (80, 64), (142, 3 * 2 ^ 46), (190, localAddr 3 0x80000)]
def pageout : Desc := desc 5 3 5 [(64, 1), (80, 64), (142, localAddr 3 0x80000), (190, 3 * 2 ^ 46)]

/-- An ACTIVE session 0 of head dimension 64 with one stream, its table at 0x200000. -/
def sess0 : SessRec :=
  { state := 1, kslot := 0, dsel := 0, dfmt := 0, ageEn := 0, nstream := 0, age := 0, maxpos := 4096, len := 0, ptBase := 0x200000,
    scpg := 0, scnext := 16 }

def archived : State :=
  ((setAll up pgDev [(Reg.DEV_ARC_CFG_EN, 1), (Reg.DEV_ARC_SESS_LO_ADDR, 0x100000)]).setSess 0 sess0)

def fly (d : Desc) : State := inFlight up 3 d

theorem witness_LaunchRefusedOrWaiting :
    (let d := desc 5 1 1 [(64, 8), (88, 12), (92, 9), (96, 9)]
     (fly d).issuable 3 = true ∧ (fly d).due 3 d = true ∧ (vePlan 3 1 (fly d) d).bad = true ∧
       (after (exec (.veAdd 3) (fly d))).doc 3 = docStopped) ∧
    (let d := vec8 1 1
     let s := fly d
     let s := { s.setClu 3 { s.clu 3 with veFree := 3000 } with time.now := 2000, time.rot := 2000 }
     (vePlan 3 1 s d).free = false ∧ (vePlan 3 1 s d).bad = false ∧ s.commonBad 3 d = false ∧
       (after (exec (.veAdd 3) s)).getF (pgDoc 3) Reg.DOC_CNT_WAIT = 61) ∧
    (up.clu 3).queue = [] := by decide +kernel

theorem witness_VectorLaunchIssues :
    [issues (fly (vec8 1 1)) (.veAdd 3) (vec8 1 1), issues (fly (vec8 1 2)) (.veSub 3) (vec8 1 2),
     issues (fly (vec8 1 3)) (.veMul 3) (vec8 1 3), issues (fly (vec8 1 4)) (.veFma 3) (vec8 1 4),
     issues (fly (vec8 1 5)) (.veDiv 3) (vec8 1 5), issues (fly (vec8 1 6)) (.veMax 3) (vec8 1 6),
     issues (fly (vec8 1 7)) (.veMin 3) (vec8 1 7), issues (fly (vec8 1 8)) (.veCmplt 3) (vec8 1 8),
     issues (fly (vec8 1 9)) (.veCmpeq 3) (vec8 1 9), issues (fly (vec8 1 10)) (.veSel 3) (vec8 1 10),
     issues (fly (vec8 1 11)) (.veAbs 3) (vec8 1 11), issues (fly (vec8 1 12)) (.veNeg 3) (vec8 1 12),
     issues (fly (vec8 1 13)) (.veTwosum 3) (vec8 1 13), issues (fly (vec8 1 14)) (.veTwoprod 3) (vec8 1 14),
     issues (fly qadd) (.veQadd 3) qadd].all id = true ∧
    [issues (fly (vec8 2 1)) (.sfuExp 3) (vec8 2 1), issues (fly (vec8 2 2)) (.sfuExp2 3) (vec8 2 2),
     issues (fly (vec8 2 3)) (.sfuLog 3) (vec8 2 3), issues (fly (vec8 2 4)) (.sfuLog2 3) (vec8 2 4),
     issues (fly (vec8 2 5)) (.sfuRecip 3) (vec8 2 5), issues (fly (vec8 2 6)) (.sfuSqrt 3) (vec8 2 6),
     issues (fly (vec8 2 7)) (.sfuRsqrt 3) (vec8 2 7), issues (fly (vec8 2 8)) (.sfuSigmoid 3) (vec8 2 8),
     issues (fly (vec8 2 9)) (.sfuTanh 3) (vec8 2 9), issues (fly (vec8 2 10)) (.sfuErf 3) (vec8 2 10),
     issues (fly (vec8 2 11)) (.sfuGeluErf 3) (vec8 2 11), issues (fly (vec8 2 12)) (.sfuGeluTanh 3) (vec8 2 12),
     issues (fly (vec8 2 13)) (.sfuGeluSig 3) (vec8 2 13), issues (fly (vec8 2 14)) (.sfuSilu 3) (vec8 2 14),
     issues (fly (vec8 2 15)) (.sfuSoftplus 3) (vec8 2 15), issues (fly (vec8 2 16)) (.sfuSinturn 3) (vec8 2 16),
     issues (fly (vec8 2 17)) (.sfuCosturn 3) (vec8 2 17), issues (fly rope) (.sfuRope 3) rope].all id = true ∧
    [issues (fly (row8 1)) (.rowmax 3) (row8 1), issues (fly (row8 2)) (.rowmin 3) (row8 2),
     issues (fly (row8 3)) (.rowsum 3) (row8 3), issues (fly (row8 4)) (.meanvar 3) (row8 4),
     issues (fly (row8 5)) (.lnorm 3) (row8 5), issues (fly (row8 6)) (.rmsnorm 3) (row8 6),
     issues (fly (row8 7)) (.mvpart 3) (row8 7), issues (fly (row8 8)) (.mvfin 3) (row8 8),
     issues (fly (row8 9)) (.softmax 3) (row8 9), issues (fly (row8 10)) (.smpart 3) (row8 10),
     issues (fly (row8 11)) (.qdiv 3) (row8 11), issues (fly (row8 12)) (.topk 3) (row8 12),
     issues (fly (row8 13)) (.topkmerge 3) (row8 13)].all id = true := by decide +kernel

/-- A matrix launch of 4 x 8 results over 8 products, FP8-like posits throughout, on array 0, with its epilogue. -/
def mat48 : Desc :=
  desc 5 0 1 [(64, 4), (80, 8), (96, 8), (140, 1), (150, 1), (152, 3), (168, 0x80000), (188, 0), (208, 0x81000), (228, 1), (242, 1)]

theorem witness_MoveAndMatrixLaunchIssue :
    [issues (fly copy16) (.copy 3) copy16, issues (fly catload) (.catload 3) catload, issues (fly catsave) (.catsave 3) catsave,
     issues (fly pagein) (.pagein 3) pagein, issues (fly pageout) (.pageout 3) pageout].all id = true ∧
    (let s := fly pageout
     s.arcFault { sess := 0, stream := 0, pos := 0 } 1 64 = true ∧ arcAddr pageout.move.dst = some { sess := 0, stream := 0, pos := 0 }) ∧
    (let s := inFlight archived 3 pageout
     s.arcFault { sess := 0, stream := 0, pos := 0 } 1 64 = false ∧ pageout.move.sf.isSome = true ∧ issues s (.pageout 3) pageout = true) ∧
    issues (fly mat48) (.matmul 3) mat48 = true := by decide +kernel


/-! ### Collectives -/

def coll (op fmt dist : Nat) : Desc := desc 5 5 op [(64, 4), (88, fmt), (92, dist), (114, 0), (134, 0x80000), (154, 0x100)]

/-- Group 0 is cluster 3 of this package, in endpoint mode or with a Cloakroom. -/
def grouped (clo : Option Nat) : State :=
  { up with sched.groups := [(0, { members := [{ pkg := up.pkg, mask := 8 }], wmin := 1, rslots := 16, clo := clo })] }

def collFly (clo : Option Nat) (d : Desc) : State := inFlight (grouped clo) 3 d

theorem witness_CollectivesRun_launch :
    [issues (collFly none (coll 1 9 0)) (.shift 3) (coll 1 9 0), issues (collFly none (coll 2 9 0)) (.permute 3) (coll 2 9 0),
     issues (collFly none (coll 3 11 0)) (.reduce 3) (coll 3 11 0),
     issues (collFly (some 0) (coll 4 11 0)) (.allreduce 3) (coll 4 11 0),
     issues (collFly (some 0) (coll 5 9 0)) (.f32reduce 3) (coll 5 9 0),
     issues (collFly none (coll 6 9 0)) (.f32allreduce 3) (coll 6 9 0),
     issues (collFly none (coll 7 9 0)) (.ringstep 3) (coll 7 9 0),
     issues (collFly (some 0) (coll 8 9 0)) (.allmax 3) (coll 8 9 0)].all id = true := by decide +kernel

/-- A move to itself has received its payload; sums wait at the Cloakroom, and at the endpoint cluster. -/
theorem witness_CollectivesRun :
    (let s := after (exec (.shift 3) (collFly none (coll 1 9 0)))
     ((s.clu 3).colls.find? (fun x => decide (x.need ≤ x.received))).isSome = true ∧
       ((after (exec (.collectiveComplete 3) s)).clu 3).colls = []) ∧
    (let s := after (exec (.allreduce 3) (collFly (some 0) (coll 4 11 0)))
     (s.cloPick 0).isSome = true ∧
     ((after (exec (.cloakroomCombine 0) s)).clu 3).colls.any (fun y => decide (y.need ≤ y.received)) = true) ∧
    (let s := after (exec (.allreduce 3) (collFly none (coll 4 11 0)))
     s.endIn.head?.any (fun x => (s.group x.grp).any (fun g => (s.collOf 3 x.grp x.cseq).isSome &&
       (combFor s.endComb ((s.midx g).elim 0 g.rbase) (s.segLen g) x).any (fun y => !y.chain && y.ready x && y.cluster = 3 &&
         s.midx g = some y.root))) = true ∧
     ((after (exec (.endpointPass 3) s)).clu 3).colls.any (fun y => decide (y.need ≤ y.received)) = true) ∧
    (let g : Group := { members := [{ pkg := up.pkg, mask := 24 }], wmin := 1, rslots := 16, clo := some 0 }
     let s := { inFlight (collFly (some 0) (coll 4 11 0)) 4 (coll 4 11 0) with sched.groups := [(0, g)] }
     let t := after (exec (.cloakroomCombine 0) (after (exec (.allreduce 3) s)))
     sget (fun _ => []) t.combIn 0 = [] ∧ (sget (fun _ => []) t.combs 0).length = 1 ∧ t.out = []) := by decide +kernel

/-! ### Engines -/

/-- A descriptor with its extension. -/
def desc2 (slot cls opc : Nat) (fields ext : List (Nat × Nat)) : Desc :=
  { desc slot cls opc ((14, 1) :: fields) with ext := BitVec.ofNat 256 ((ext.map (fun p => p.2 * 2 ^ p.1)).foldl (· + ·) 0) }

def gradient (op : Nat) : Desc :=
  desc2 5 7 op [(64, 1), (68, 1), (72, 1), (76, 1), (92, 32), (116, 0)]
    [(0, localAddr 3 0), (48, localAddr 3 0x100), (96, localAddr 3 0x200), (144, localAddr 3 0x300)]

def ieeeOp (op : Nat) : Desc :=
  desc2 5 8 op [(64, 2), (80, 2), (104, if op = 10 then 2 else 0), (128, 9), (132, 9)]
    [(0, localAddr 3 0), (48, localAddr 3 0x100), (96, localAddr 3 0x200), (144, localAddr 3 0x300)]

def allEngineLaunches : List Bool :=
  [issues (fly (gradient 1)) (.momentum 3) (gradient 1), issues (fly (gradient 2)) (.adapt 3) (gradient 2),
   issues (fly (gradient 3)) (.signm 3) (gradient 3), issues (fly (ieeeOp 1)) (.conAdd 3) (ieeeOp 1),
   issues (fly (ieeeOp 2)) (.conSub 3) (ieeeOp 2), issues (fly (ieeeOp 3)) (.conMul 3) (ieeeOp 3),
   issues (fly (ieeeOp 4)) (.conDiv 3) (ieeeOp 4), issues (fly (ieeeOp 5)) (.conFma 3) (ieeeOp 5),
   issues (fly (ieeeOp 6)) (.conSqrt 3) (ieeeOp 6), issues (fly (ieeeOp 7)) (.conMinnum 3) (ieeeOp 7),
   issues (fly (ieeeOp 8)) (.conMaxnum 3) (ieeeOp 8), issues (fly (ieeeOp 9)) (.conCvt 3) (ieeeOp 9),
   issues (fly (ieeeOp 10)) (.conMatmul 3) (ieeeOp 10)]

theorem witness_EngineLaunches : allEngineLaunches.all id = true := by decide +kernel

theorem witness_EngineService :
    (let s := after (exec (.momentum 3) (fly (gradient 1)))
     (firstService (s.rgn 0).restorer).any (fun x => x.desc.upd.isSome && s.mayServe x) = true ∧ (s.rgn 0).restorerRun = none ∧
     (let u := s.setClu 3 { s.clu 3 with arrFree := [1000, 0, 0, 0] }
      (firstService (u.rgn 0).restorer).any (fun x => !u.mayServe x) = true ∧
        ((after (exec (.restorerServiceStart 0) u)).rgn 0).restorerRun = none) ∧
     let t := after (exec (.restorerServiceStart 0) s)
     let t := { t with time.now := t.now + 1000000 }
     (t.rgn 0).restorerRun.any (fun x => decide (x.due ≤ t.now)) = true ∧
       ((after (exec (.updateComplete 0) t)).clu 3).launches = []) ∧
    (let s := after (exec (.conCvt 3) (fly (ieeeOp 9)))
     (firstService (s.rgn 0).conservator).any (fun x => s.mayServe x) = true ∧ (s.rgn 0).conservatorRun = none ∧
     let t := after (exec (.conservatorServiceStart 0) s)
     let t := { t with time.now := t.now + 1000000 }
     (t.rgn 0).conservatorRun.any (fun x => decide (x.due ≤ t.now)) = true ∧
       ((after (exec (.conservatorComplete 0) t)).clu 3).launches = []) := by decide +kernel

/-! ### Completions -/

def aged (s : State) : State := { s with time.now := s.now + 10000000 }

theorem witness_LaunchesComplete :
    (let s := aged (after (exec (.veAdd 3) (fly (vec8 1 1))))
     (s.doneLaunch 3 1).any (fun l => match l.effs with
       | [.mem _ bs, .vecFlags _, .count pg f _] => decide (bs.length = 32 ∧ pg = pgVec 3 ∧ f = Reg.VEC_CNT_PASS)
       | _ => false) = true ∧ s.errs = [] ∧ ((after (exec (.vectorLaunchComplete 3) s)).clu 3).launches = []) ∧
    (let s := aged (after (exec (.sfuExp 3) (fly (vec8 2 1))))
     (s.doneLaunch 3 2).isSome = true ∧ ((after (exec (.sfuLaunchComplete 3) s)).clu 3).launches = []) ∧
    (let s := aged (after (exec (.copy 3) (fly copy16)))
     (s.doneLaunch 3 3).isSome = true ∧ ((after (exec (.moveComplete 3) s)).clu 3).launches = []) ∧
    (let s := aged (after (exec (.rowmax 3) (fly (row8 1))))
     (s.doneLaunch 3 4).isSome = true ∧ ((after (exec (.rowLaunchComplete 3) s)).clu 3).launches = []) := by decide +kernel

theorem witness_MatrixCompletes :
    (let s := aged (after (exec (.matmul 3) (fly mat48)))
     ((s.clu 3).launches.find? (fun l => l.cls = 0 && l.phase = 0 && l.desc.w.getLsbD 150 && decide (l.epiAt ≤ s.now))).isSome
       = true ∧
     let t := after (exec (.epilogueStart 3) s)
     ((t.clu 3).launches.find? (fun l => l.cls = 0 && decide (l.due ≤ t.now) && (l.phase = 1 || !l.desc.w.getLsbD 150))).isSome
       = true ∧
     let u := aged (after (exec (.matrixLaunchComplete 3) t))
     (u.clu 3).launches = [] ∧ u.getF (pgArr 3) (arrLevel 0) = 8 ∧ (u.nextLaunch 3 0).isNone = true ∧
     (u.clu 3).levelAt.getD 0 0 + u.cyc 3 32 ≤ u.now ∧
     (after (exec (.activityLevelStep 3 0) u)).getF (pgArr 3) (arrLevel 0) = 7) ∧
    (let s := fly mat48
     let s := (s.setF (pgArr 3) Reg.ARR_TRAP_EN_QOVF 1)
     let l : Launch := { slot := 5, cls := 0, opc := 1, amask := 1, start := 0, due := 0, deps := [], phase := 1, epiAt := 0,
                         desc := mat48, effs := [.arrFlags 0 16], seq := 0 }
     let s := s.setClu 3 { s.clu 3 with launches := [l] }
     s.matCauses 3 l ≠ [] ∧ (after (exec (.matrixLaunchComplete 3) s)).doc 3 = docTrapped) := by decide +kernel


/-! ### The sequencer -/

def loopD (ctr n : Nat) : Desc := desc 5 6 3 [(64, 2), (77, ctr), (79, n)]
def fenceD : Desc := desc 5 6 4 []
def signalD : Desc := desc 5 6 6 [(64, 0x1234)]
def intakeD (mx : Nat) : Desc := desc 5 6 5 [(64, 2), (68, 0x80000), (88, mx)]

/-- Queue 2 holds one record that a flight of T_START = 1000 sees. -/
def withRecord (s : State) : State :=
  let s := s.setIq 2 { s.iq 2 with recs := [{ payload := [1, 2, 3], reached := 5, land := 0, acc := none }] }
  s.setRun 0 { s.run 0 with tStart := 1000 }

def looping (v : Option Nat) (d : Desc) : State :=
  let s := fly d
  s.setClu 3 { s.clu 3 with loops := [none, v, none, none] }

theorem witness_LoopFenceSignalIntake :
    [issues (looping none (loopD 1 1)) (.loop 3) (loopD 1 1), issues (looping none (loopD 1 3)) (.loop 3) (loopD 1 3),
     issues (looping (some 0) (loopD 1 3)) (.loop 3) (loopD 1 3), issues (looping (some 1) (loopD 1 3)) (.loop 3) (loopD 1 3),
     issues (fly fenceD) (.fence 3) fenceD, issues (fly signalD) (.signal 3) signalD,
     issues (fly (intakeD 2)) (.intake 3) (intakeD 2), issues (withRecord (fly (intakeD 2))) (.intake 3) (intakeD 2)].all id = true ∧
    (let t := after (exec (.loop 3) (looping none (loopD 1 3)))
     (t.clu 3).queue = [] ∧ (t.clu 3).fetchPc = 2 ∧ (t.clu 3).loops = [none, some 1, none, none]) ∧
    ((after (exec (.loop 3) (looping (some 0) (loopD 1 3)))).clu 3).loops = [none, none, none, none] ∧
    ((after (exec (.loop 3) (looping (some 1) (loopD 1 3)))).clu 3).loops = [none, some 0, none, none] ∧
    ((after (exec (.signal 3) (fly signalD))).clu 3).signals = [0x1234] ∧
    (let s := withRecord (fly (intakeD 2))
     (s.visible 2 (s.grpOf 3)).any (fun r => decide (s.intakeData r = some [1, 2, 3])) = true ∧
     let t := after (exec (.intake 3) s)
     (List.range 11).map (fun i => (t.byteAt (localAddr 3 0x80000 + i)).toNat) = [3, 0, 0, 0, 0, 0, 0, 0, 1, 2, 0] ∧
       (t.getF (pgVec 3) vecFlagsF).testBit 3 = true ∧ (t.iq 2).recs = []) ∧
    (fly (intakeD 2)).visible 2 ((fly (intakeD 2)).grpOf 3) = none ∧
    (let s := (up.setClu 3 { up.clu 3 with queue := [signalD] }).setDoc 3 docBarrier
     s.preFlight 3 = true ∧ s.due 3 signalD = true ∧ ((after (exec (.signal 3) s)).clu 3).signals = [0x1234]) ∧
    (let s := withRecord (fly (intakeD 2))
     let s := s.setIq 2 { s.iq 2 with recs := [{ payload := [1], reached := 5, land := 0, acc := some (7, 1, 0) }] }
     (s.visible 2 (s.grpOf 3)).any (fun r => (s.intakeData r).isNone) = true ∧
     (after (exec (.intake 3) s)).mem = [] ∧ (after (exec (.intake 3) s)).getF (pgVec 3) vecFlagsF = 8) := by decide +kernel

/-- A cluster that waits for its barrier. -/
def waiting (q : List Desc) : State :=
  let s := up.setClu 3 { up.clu 3 with queue := q }
  s.setDoc 3 docBarrier

def flightD (n : Nat) : Desc := desc 6 6 1 [(64, n)]
def barrierD (t : Nat) : Desc := desc 5 6 2 [(64, t), (128, 9), (192, 4)]
def haltD : Desc := desc 7 6 7 []

theorem witness_BarrierFlightHalt :
    (let s := waiting [barrierD 5000, flightD 100]
     s.doc 3 = docBarrier ∧ s.badBarrier (barrierD 5000) = false ∧ (barrierD 5000).cls = 6 ∧ (barrierD 5000).opc = 2 ∧
       (flightD 100).cls = 6 ∧ (flightD 100).opc = 1 ∧ s.missed 0 5000 = false ∧ (barrierD 5000).f 127 64 = 5000 ∧
       let t := after (exec (.barrier 3) s)
       (t.clu 3).barrier = some (5000, 9, 4, 0) ∧ (t.run 0).step = 9) ∧
    (let s := { waiting [barrierD 5000, flightD 100] with time.rot := 6000 }
     s.missed 0 5000 = true ∧ (after (exec (.barrier 3) s)).doc 3 = docStopped) ∧
    (after (exec (.barrier 3) (waiting [barrierD 5000, haltD]))).doc 3 = docStopped ∧
    badFlight (flightD 100) = false ∧ ((after (exec (.flight 3) (fly (flightD 100)))).clu 3).next = some (100, false, 0) ∧
    (flightD 63).f 87 64 = 63 ∧ (after (exec (.flight 3) (fly (flightD 63)))).doc 3 = docStopped ∧
    haltD.f 255 64 = 0 ∧ ((after (exec (.halt 3) (fly haltD))).clu 3).halting = true ∧
    (after (exec (.halt 3) (waiting [haltD]))).doc 3 = docDone ∧
    (let s := { waiting [flightD 100] with time.rot := 70 }
     (s.clu 3).barrier = none ∧ (s.run 0).stopped = false ∧ ((after (exec (.flight 3) s)).clu 3).barrier = some (70, 0, s.clkCode 0, 0)) ∧
    (let s := waiting [flightD 100]
     let s := s.setRun 0 { s.run 0 with stopped := true }
     (s.run 0).stopped = true ∧ (after (exec (.flight 3) s)).doc 3 = docStopped) := by decide +kernel

def savedCtx : Ctx :=
  { pc := 40, loops := [none, none, none, none], queue := [haltD], next := none, grp := 2, idx := 6, step := 11, tiles := [],
    am := [(131072 * 3 + 5, 77)], arrFlags := [1, 0, 0, 4], vecFlags := 8, sfuFlags := 2, rowStat := 0 }

def savedState : State :=
  let s := up.setClu 3 { up.clu 3 with saved := some savedCtx }
  setAll (s.setDoc 3 docSaved) (pgDoc 3) [(Reg.DOC_RESUME_LO_T, 5000)]

theorem witness_FetchAndSequencerCommands :
    (let s := up.setF (pgDoc 3) Reg.DOC_START_START 20
     let u := s.writeReg (pgDoc 3) docCtlOff 1 true
     u.doc 3 = docIdle ∧ u.reaches (pgDoc 3) = true ∧ u.released 3 = true ∧
     let t := after (exec (.docGo 3 1) s)
     t.doc 3 = docBarrier ∧ (t.clu 3).fetchPc = 20 ∧ (after (exec (.docAbort 3 4) s)).doc 3 = docStopped) ∧
    (fly fenceD).doc 3 ≠ docIdle ∧ (fly fenceD).running 3 = true ∧
    (let u := savedState.writeReg (pgDoc 3) docCtlOff 2 true
     (u.clu 3).saved = some savedCtx ∧ u.doc 3 = docSaved ∧ u.reaches (pgDoc 3) = true ∧ u.missed 2 5000 = false ∧ u.ueIn (u.ctxAddr 3) (ctxBytes savedCtx.tiles) = false ∧
     let t := after (exec (.docResume 3 2) savedState)
     t.doc 3 = docBarrier ∧ (t.clu 3).queue = [haltD] ∧ (t.run 2).idx = 6 ∧ sget (fun _ => 0) t.am (131072 * 3 + 5) = 77 ∧
     (t.getF (pgArr 3) (arrFlagsF 0), t.getF (pgArr 3) (arrFlagsF 3), t.getF (pgVec 3) vecFlagsF, t.getF (pgVec 3) sfuFlagsF) = (1, 4, 8, 2)) ∧
    (let s := { savedState with mems.errs := [(cwName (9 * 4096) 0, 2)] }
     s.ueIn (s.ctxAddr 3) (ctxBytes savedCtx.tiles) = true) ∧
    (let s := { savedState with time.rot := 6000 }
     (s.writeReg (pgDoc 3) docCtlOff 2 true).missed 2 5000 = true ∧ (after (exec (.docResume 3 2) s)).doc 3 = docSaved) ∧
    (let s := waiting []
     let s := s.setClu 3 { s.clu 3 with fetchPc := 20 }
     let s := { s with mems.im := [(8192 * 3 + 20, 2 ^ 14 + 0x604), (8192 * 3 + 21, 77)] }
     s.running 3 = true ∧ s.errs = [] ∧
     let t := after (exec (.descriptorFetch 3) s)
     (t.clu 3).queue = [{ slot := 20, w := 2 ^ 14 + 0x604, ext := 77 }] ∧ (t.clu 3).fetchPc = 22) ∧
    (let s := waiting []
     let s := s.setClu 3 { s.clu 3 with fetchPc := 20 }
     let s := { s with mems.errs := [(cwName (3 * 4096 + 3) (32 * 20), 2)] }
     s.running 3 = true ∧ s.imErr 3 20 = 2 ∧ s.imErr 3 21 ≤ 2 ∧ (s.clu 3).queue = [] ∧ (s.clu 3).fetchPc = 20) ∧
    (let d := desc 5 6 9 []
     (fly d).issuable 3 = true ∧ listedOpc d.cls d.opc = false ∧ (after (exec (.descriptorFetch 3) (fly d))).doc 3 = docStopped) := by
  decide +kernel

theorem witness_FlightsBegin :
    (let s := waiting []
     let s := s.setClu 3 { s.clu 3 with barrier := some (1000, 9, 4, 0), next := some (100, true, 0) }
     let s := { s with time.rot := 1000 }
     s.barred 0 = [3] ∧
     let t := after (exec (.barrierStart 0) s)
     t.doc 3 = docFlight ∧ (t.clu 3).fS = 1000 ∧ (t.clu 3).fLam = 1000 + unitsAt (s.run 0).code 100) ∧
    up.barred 0 = [] ∧
    (let s := (waiting []).setDoc 3 docWindow
     let s := s.setClu 3 { s.clu 3 with next := some (100, true, 0) }
     let s := s.setRun 0 { s.run 0 with s := 1000, lam := 9000, winEnd := 900 }
     let s := { s with time.rot := 1000 }
     (s.run 0).stopped = false ∧ s.awaitsTwin 0 = false ∧ s.copying 3 = false ∧ (s.clu 3).saved = none ∧
     let t := after (exec (.flightBegin 0) s)
     t.doc 3 = docFlight ∧ (t.clu 3).fLam = 9000 ∧
     ({ s with time.rot := 999 }.run 0).s = 1000 ∧
     (let u := s.setF (pgRgn 0) Reg.RGN_REPAIR_STAT_STATE 2
      u.copying 3 = true ∧ (after (exec (.flightBegin 0) u)).doc 3 = docWindow)) := by decide +kernel

/-! ### Numbers -/

theorem witness_Numbers :
    [(Fmt.p8, 0x48), (.p8, 0xFF), (.p16, 0x0001), (.p32, 0x7FFFFFFF), (.sp8, 0x81), (.e4m3, 0x7E), (.e5m2, 0x80 + 4), (.fp32, 2 ^ 23),
     (.fp64, 1), (.int8, 0x7F), (.int4, 0x9)].all (fun p => match decodeFmt p.1 p.2 with
       | .fin x => decide (p.2 < 2 ^ p.1.width) && decide (encodeFmt p.1 .rto false (.fin x) = (p.2, {}))
       | _ => false) = true ∧
    roundCode .rne { m := 5, e := -1 } = (2, true) ∧ roundCode .rto { m := 5, e := -1 } = (3, true) ∧
    roundCode (.sr (2 ^ 23)) { m := 5, e := -1 } = (3, true) ∧ roundCode (.sr (2 ^ 23 - 1)) { m := 5, e := -1 } = (2, true) ∧
    (veElem 5 (.fin (.ofInt (-1))) (.fin .zero) (.fin .zero) = (.inf true, Flags.INV)) ∧
    (let q := Quire.q128
     q.add (q.write 5).1 (q.write (-7)).1 = ((q.write (-2)).1, false) ∧
     q.add (q.write (2 ^ 126)).1 (q.write (2 ^ 126)).1 = (q.nar, true)) := by decide +kernel


/-! ### Landings -/

/-- Group 0 has cluster 3 of this package and cluster 4 of package 9. -/
def paired (s : State) : State :=
  { s with sched.groups := [(0, { members := [{ pkg := up.pkg, mask := 8 }, { pkg := 9, mask := 16 }], wmin := 1, rslots := 0,
                                  clo := none })] }

/-- Cluster 3 flies in group 0, its HALT issued, its scheduled landing past. -/
def landing1 : State :=
  let s := inFlight (grouped none) 3 haltD
  let s := s.setClu 3 { s.clu 3 with queue := [], halting := true, signals := [7] }
  { s.setRun 0 { s.run 0 with s := 0, lam := 512000, step := 9 } with time.rot := 512000 }

theorem witness_LandingWindow :
    up.canLand 0 = false ∧ landing1.canLand 0 = true ∧ landing1.getF pgDev Reg.DEV_DET_CTL_DIVERGE = 0 ∧
    landing1.preempts 0 (landing1.run 0).lam = false ∧ (landing1.run 0).msgs = [] ∧ landing1.landSet 0 = [3] ∧
    (landing1.clu 3).srst = false ∧ (landing1.clu 3).saved = none ∧
    (let t := after (exec (.landing 0) landing1)
     (t.run 0).idx = 1 ∧ t.doc 3 = docDone ∧ (t.clu 3).signals = [] ∧ t.getF (pgDoc 3) Reg.DOC_LAND_LO_IDX = 1 ∧
       (t.run 0).msgs.map (fun m => (m.idx, m.pkg, m.final)) = [(1, up.pkg, true)]) ∧
    (let s := landing1.setClu 3 { landing1.clu 3 with halting := false, next := some (100, true, 0), fStep := true }
     s.canLand 0 = true ∧ (after (exec (.landing 0) s)).doc 3 = docWindow ∧ ((after (exec (.landing 0) s)).run 0).step = 10) ∧
    (let g : Group := { members := [{ pkg := up.pkg, mask := 24 }], wmin := 1, rslots := 16, clo := none }
     let s := { inFlight landing1 4 haltD with sched.groups := [(0, g)] }
     s.canLand 0 = false ∧ s.landing 0 = [3] ∧ s.lateAt 0 3 (s.run 0).lam = false ∧
       let t := after (exec (.landing 0) s)
       t.doc 3 = docWindow ∧ (t.clu 3).landed = true ∧ t.doc 4 = docFlight ∧ (t.run 0).idx = 0) := by decide +kernel

def landed9 : LandedMsg := { grp := 0, idx := 1, pkg := 9, code := 4, final := true, preempt := false, cur := [] }

/-- Cluster 3 flies in group 0 with package 9, its scheduled landing past. -/
def late : State :=
  let s := inFlight (paired up) 3 haltD
  { s.setRun 0 { s.run 0 with s := 0, lam := 512000 } with time.rot := 512000 }

theorem witness_LandingMessages :
    9 ∈ (paired up).others 0 ∧ (paired up).hasMsg 0 1 9 = false ∧ 5 ∉ (paired up).others 0 ∧
    (let t := after (exec (.landedMessageReceive landed9) (paired up))
     (t.run 0).msgs = [landed9] ∧ (t.run 0).finals = [(9, 1)] ∧ t.hasMsg 0 1 9 = true) ∧
    (let t := after (exec (.noticeReceive 0 1 9) (paired up))
     (t.run 0).notices = [(1, 9, up.rot)]) ∧
    (late.run 0).stopped = false ∧ (late.run 0).lam ≤ late.rot ∧ late.landSet 0 = [3] ∧ late.clusterReady 0 3 = false ∧
    late.doc 3 = docFlight ∧ late.grpOf 3 = 0 ∧
    ((after (exec (.landingInstant 0) late)).run 0).noticed = some 1 ∧
    (let s := { late with time.rot := 2 ^ 40 }
     late.lockstep = false ∧ 9 ∈ s.awaited 0 ((s.run 0).idx + 1) ∧ s.hasMsg 0 1 9 = false ∧ (s.run 0).finals = [] ∧
       s.judgeAt 0 1 (s.run 0).lam 9 ≤ s.rot ∧ (after (exec (.landingDeadline 0) s)).doc 3 = docStopped) ∧
    (let t := after (exec (.stopMessageReceive 0 1 9) late)
     t.doc 3 = docStopped ∧ (t.run 0).stopped = true ∧ t.getF pgDev Reg.PG_EVT = 2) ∧
    (let s := late.setF pgDev Reg.DEV_DET_CTL_DIVERGE 1
     s.twinPkg ∉ s.others 0 ∧ ((after (exec (.noticeReceive 0 1 s.twinPkg) s)).run 0).notices = [(1, s.twinPkg, s.rot)] ∧
       ((after (exec (.stopMessageReceive 0 1 s.twinPkg) s)).run 0).stopped = true) ∧
    (let s := late.setRun 0 { late.run 0 with stopped := true, lsAt := some 1 }
     let s := { s with time.rot := 2 ^ 40 }
     (s.run 0).lsAt = some ((s.run 0).idx + 1) ∧ (after (exec (.landingDeadline 0) s)).getF pgDev Reg.PG_EVT = 1) ∧
    (let q : Requant := { sess := 0, stream := 0, span := 0, page := 1, scalePage := 2, sslot := 0, done := false }
     let s := { setAll landing1 pgDev [(Reg.DEV_ARC_CFG_EN, 1), (Reg.DEV_ARC_CFG_AGEGRP, 0)] with arch.requant := [q] }
     s.landable 0 3 = true ∧ s.switchReady 0 = false ∧ ((after (exec (.landingInstant 0) s)).run 0).noticed = some 1) ∧
    (5 ∉ late.others 0 ∧ late.lockstep = false ∧ ((after (exec (.stopMessageReceive 0 1 5) late)).run 0).stopped = false) := by
  decide +kernel

def twin1 (sig : BitVec 64) : TwinMsg := { grp := 0, idx := 1, sig := sig, counts := [], bfields := none }

/-- LOCKSTEP with a signature of landing 1 latched. -/
def lock1 : State :=
  let s := inFlight (grouped none) 3 haltD
  let s := s.setF pgDev Reg.DEV_DET_CTL_DIVERGE 1
  s.setRun 0 { s.run 0 with idx := 1, lam := 512000, sigs := [(1, 77)], cluSigs := [(1, [(3, 77)])] }

theorem witness_SavesAndTwin :
    (let s := savedState.setDoc 3 docWindow
     let s := s.setF (pgDoc 3) Reg.DOC_CTX_LO_ADDR 0x200000
     (s.clu 3).saved = some savedCtx ∧ s.doc 3 = docWindow ∧ s.tilesUe 3 = [] ∧ ctxBytes savedCtx.tiles = 4096 ∧
       savedCtx.idx = 6) ∧
    lock1.lockstep = true ∧ (lock1.run 0).twin = [] ∧
    (let t := after (exec (.twinMessageReceive (twin1 77)) lock1)
     (t.run 0).checked = 1 ∧ (t.run 0).stopped = false) ∧
    (let t := after (exec (.twinMessageReceive (twin1 78)) lock1)
     (t.run 0).mismatch = true ∧ (t.run 0).checked = 1 ∧ t.doc 3 = docStopped ∧
     (t.run 0).cluSigs.find? (fun p => p.1 = 1) = some (1, [(3, 77)]) ∧
     ((after (exec (.clusterSignatureExchange 0 1 [(3, 78)]) t)).run 0).mismatch = false) ∧
    up.lockstep = false ∧
    (let r : TileRec := { f32 := true, width := 32, trow := 0, rows := 1, shape := 0, m := 1, n := 1, count := 1, replays := 0 }
     let s := { savedState.setDoc 3 docWindow with mems.tiles := [(tileKey 3 0 1, r)], mems.errs := [(cwName (2 * 4096 + 3) 0, 2)] }
     s.tilesUe 3 ≠ []) ∧
    (let s := lock1.setF pgDev Reg.DEV_DET_STAT_UNCHECKED 1
     s.flag pgDev Reg.DEV_DET_STAT_UNCHECKED = true ∧ ((after (exec (.twinMessageReceive (twin1 78)) s)).run 0).stopped = false) ∧
    (lock1.bFields ≠ [9] ∧
      (after (exec (.twinMessageReceive { twin1 77 with bfields := some [9] }) lock1)).doc 3 = docStopped) ∧
    (let s := lock1.setF pgDev Reg.DEV_LS_FAIL_VALID 1
     let t := after (exec (.twinMessageReceive (twin1 78)) s)
     (after (exec (.clusterSignatureExchange 0 1 [(3, 78)]) t)).lsPend = [(0, 1, 3, false, false)]) := by decide +kernel

/-! ### Host transfers -/

def dmaD (op : Nat) : DmaDesc :=
  { haddr := 0x1000, daddr := 0x200000, len := 4, op := op, irq := false, q := 2, caddr := 0x2000, ctag := 0x55, resv := false }

/-- Channel 1 has a descriptor to start. -/
def channel1 : State :=
  setAll up pgPci [(Reg.PCI_DMA_CTL_EN 1, 1), (Reg.PCI_DMA_TAIL_IDX 1, 1), (Reg.PCI_DMA_SIZE_LOG2N 1, 4), (Reg.PCI_IQ_SIZE_PAGES 2, 1)]

theorem witness_DmaTransfersAndCompletion :
    channel1.dmaReady 1 = true ∧ channel1.dmaStatus (dmaD 0) true = 0 ∧ channel1.dmaStatus { dmaD 0 with len := 0 } true = 6 ∧
    channel1.dmaStatus (dmaD 1) true = 0 ∧ channel1.dmaStatus { dmaD 1 with daddr := 2 ^ 47 } true = 2 ∧
    channel1.dmaStatus (dmaD 2) true = 0 ∧ channel1.iqFits 2 4 = true ∧ (up.iqFits 2 4 = false) ∧
    channel1.getF pgDev Reg.DEV_DET_CTL_DIVERGE ≤ 1 ∧
    (let s := channel1.setF pgSec Reg.SEC_STAT_SEALED 1
     dmaDescBad (dmaD 1) = false ∧ s.dmaRange 0x200000 4 = 0 ∧ s.inSealWindow 0x200000 4 = false ∧ s.dmaStatus (dmaD 1) true = 4) ∧
    (let t := after (exec (.dmaH2d 1 (dmaD 0) true [1, 2, 3, 4]) channel1)
     (List.range 5).map (fun i => (t.byteAt (0x200000 + i)).toNat) = [1, 2, 3, 4, 0] ∧
     t.dma.find? (fun p => p.1 = 1) = some (1, { desc := dmaD 0, status := 0, held := false }) ∧
     let u := after (exec (.dmaCompletion 1) t)
     u.getF pgPci (Reg.PCI_DMA_HEAD_IDX 1) = 1 ∧ u.getF pgPci (Reg.PCI_DMA_STAT_BUSY 1) = 0) ∧
    (let s := { channel1 with plat.dma := [(1, { desc := dmaD 0, status := 6, held := false })] }
     let t := after (exec (.dmaCompletion 1) s)
     t.getF pgPci (Reg.PCI_DMA_STAT_HALTED 1) = 1 ∧
     (after (exec (.pciDmaResume 1 2) t)).getF pgPci (Reg.PCI_DMA_STAT_HALTED 1) = 0) ∧
    ((after (exec (.dmaQpush 1 (dmaD 2) true [1, 2, 3, 4]) channel1)).iq 2).recs.length = 1 := by decide +kernel

/-- RECORD with a small log ring, one record held. -/
def logging (tail : Nat) : State :=
  let s := setAll up pgDev [(Reg.DEV_DET_CTL_DIVERGE, 2), (Reg.DEV_LOG_SIZE_PAGES, 1), (Reg.DEV_LOG_HEAD_OFF, 64),
    (Reg.DEV_LOG_TAIL_OFF, 96), (Reg.DEV_LOG_BASE_LO_ADDR, 0x200000)]
  { s with inq.logHeld := [{ q := 2, src := 0, kind := 0, land := 0, payload := List.replicate tail 5, acc := none, chan := none }] }

theorem witness_Bar2AndLogTail :
    (hbmStacks 0x200000 4 = some [0] ∧ up.stackGone 0 = false ∧ up.getF (pgMem 0) Reg.MEM_STAT_FILLED = 1 ∧ up.full = true ∧
     up.getF pgSec Reg.SEC_STAT_SEALED = 0 ∧ 0x200000 + 4 ≤ 2 ^ up.bar2Log2 ∧ 0x200000 % 4096 + 4 ≤ 4096 ∧
     let t := after (exec (.bar2Access 0x200000 4 (some [1, 2, 3, 4])) up)
     (List.range 5).map (fun i => (t.byteAt (0x200000 + i)).toNat) = [1, 2, 3, 4, 0] ∧
     (after (exec (.bar2Access 0x200000 2 none) t)).out = [Out.hostRead [1, 2]]) ∧
    (let s := up.setF pgSec Reg.SEC_STAT_SEALED 1
     (after (exec (.bar2Access 0x200000 4 none) s)).out = [Out.unsupported]) ∧
    up.logHeld = [] ∧ up.reaches pgDev = true ∧
    (let s := logging 4
     let u : State := { s.setF pgDev Reg.DEV_LOG_TAIL_OFF 32 with inq.logFull := false }
     u.logUsed = 32 ∧ u.logSize = 65536 ∧
     let t := after (exec (.devLogTailWrite 32) s)
     t.logHeld = [] ∧ t.logSeq = 1 ∧ t.getF pgDev Reg.DEV_LOG_HEAD_OFF = 128) ∧
    (let s := logging 4
     let u : State := { s.setF pgDev Reg.DEV_LOG_TAIL_OFF 96 with inq.logFull := false }
     u.logUsed = 65504 ∧ (after (exec (.devLogTailWrite 96) s)).logHeld.length = 1) := by decide +kernel

/-! ### Reliability -/

def marked (n : Nat) : State := { up with mems.errs := if n = 0 then [] else [(cwName 0x1000 8, n)] }

theorem witness_ErrorCorrection :
    instOff up.part 0x1000 (localAddr 0 0x80000 + 13) = some 8 ∧ up.sramFilled = true ∧
    up.getF pgEcc Reg.ECC_SCRUB_SRAM_MINUTES ≠ 0 ∧ sget (fun _ => 0) (marked 1).errs (cwName 0x1000 8) = 1 ∧
    sget (fun _ => 0) (marked 2).errs (cwName 0x1000 8) = 2 ∧
    (after (exec (.patrolScrub 0x1000 (localAddr 0 0x80000 + 13)) (marked 1))).errs = [] ∧
    (let s := { up with mems.buckets := [(5, 1), (6, 3)] }
     swf (fun _ => 0) s.buckets = true ∧ s.now < s.leakAt + ms (s.getF pgEcc Reg.ECC_LB_CFG_LEAK_MS) ∧
     (after (exec .bucketLeak { s with time.now := 2 ^ 50 })).buckets = [(6, 2)]) ∧
    (let s := setAll up pgEcc [(Reg.ECC_TEST_INST_INST, 0x1000), (Reg.ECC_TEST_ADDR_LO_ADDR, localAddr 0 0x80000 + 13),
        (Reg.ECC_TEST_ADDR_HI_ADDR, localAddr 0 0x80000 / 2 ^ 32)]
     let u := s.writeReg pgEcc 0x1B4 1 true
     u.testTarget = (0x1000, some 8) ∧ u.reaches pgEcc = true ∧ u.testRefused 0x1000 8 = false ∧
     u.instServed 0x1000 = true ∧
     (s.setDoc 0 docFlight).testRefused 0x1000 8 = true ∧
     (after (exec (.eccTestWrite 1) (s.setDoc 0 docFlight))).getF pgEcc Reg.ECC_TEST_STAT_REFUSED = 1) ∧
    (let s := setAll up pgEcc [(Reg.ECC_TEST_INST_INST, 0xFFFF)]
     (s.writeReg pgEcc 0x1B4 1 true).testTarget = (0xFFFF, none) ∧
     (after (exec (.eccTestWrite 1) s)).getF pgEcc Reg.ECC_TEST_STAT_REFUSED = 1) ∧
    (let s := { up with mems.errs := [(cwName (9 * 4096) 0, 1)] }
     instOff s.part (9 * 4096) 0 = some (0 % stackSize) ∧ s.flag (pgMem 0) Reg.MEM_SCRUB_HOURS = true ∧
     s.flag (pgMem 0) Reg.MEM_STAT_FILLED = true ∧ s.flag (pgMem 0) Reg.MEM_STAT_RETIRED = false ∧
     sget (fun _ => 0) s.scrubPos (9 * 4096) = 0 ∧
     let t := after (exec (.patrolScrub (9 * 4096) 0) s)
     t.errs = [] ∧ sget (fun _ => 0) t.scrubPos (9 * 4096) = 32) ∧
    up.part.hasStack 0 = true ∧ up.reaches (pgMem 0) = true ∧ (up.writeReg pgPci 0x230 2 true).reaches pgPci = true ∧ up.flag (pgMem 0) Reg.MEM_PPR_STAT_BUSY = false ∧
    (let t := after (exec (.pprSoft 0 1 true) up)
     t.getF (pgMem 0) Reg.MEM_PPR_STAT_BUSY = 1 ∧ (after (exec (.pprSoft 0 1 false) t)).getF (pgMem 0) Reg.MEM_PPR_STAT_FAIL = 0 ∧
     (after (exec (.pprSoftDone 0) t)).getF (pgMem 0) Reg.MEM_PPR_STAT_DONE = 1) ∧
    (after (exec (.pprSoft 0 1 false) up)).getF (pgMem 0) Reg.MEM_PPR_STAT_FAIL = 1 ∧
    (after (exec (.pprHard 0 1 true) (up.setF (pgMem 0) Reg.MEM_PPR_ROW_HARD 1))).repairWrites.length = 1 := by decide +kernel


/-! ### Repair, the Archive, groups -/

theorem witness_EpochsAndRegionRepair :
    (let a := localAddr 3 0x80000
     let pg := pgRgn 0
     cluRange up.part a 2 = some 3 ∧ up.copying 3 = false ∧ up.getF pg Reg.PG_EPOCH_EPOCH = 0 ∧
     ((after (exec (.inboundResult 3 0 a [7, 8]) up)).byteAt (a + 1)).toNat = 8 ∧
     (let s := setAll up pg [(Reg.PG_EPOCH_EPOCH, 5), (Reg.PG_EPOCH_RETIRING, 4), (Reg.PG_EPOCH_RVALID, 1), (Reg.RGN_EPOCH_OUT_COUNT, 2)]
      let t := after (exec (.inboundResult 3 4 a [7, 8]) s)
      t.getF pg Reg.RGN_EPOCH_OUT_COUNT = 1 ∧ t.getF pg Reg.PG_EPOCH_RVALID = 1 ∧
      (s.rgn 0).epochAt + us (s.getF pg Reg.RGN_EPOCH_TMO_US) ≤ 2 ^ 40 ∧
      (after (exec (.epochRetireTimeout 0) { s with time.now := 2 ^ 40 })).getF pg Reg.PG_EPOCH_RVALID = 0 ∧
      (after (exec (.inboundResult 3 9 a [7, 8]) s)).getF pg Reg.PG_EVT = 1) ∧
     (let s := up.setF pg Reg.RGN_REPAIR_STAT_STATE 2
      s.copying 3 = true ∧ ((after (exec (.inboundResult 3 0 a [7, 8]) s)).rgn 0).inbound = [(3, 0, a, [7, 8])])) ∧
    (let val := 2 ^ 31 + 3
     let u := up.writeReg (pgRgn 0) 0x104 val true
     u.reaches (pgRgn 0) = true ∧ u.getF (pgRgn 0) Reg.RGN_REPAIR_CTL_LOCAL = 3 ∧ u.repairWhy 0 3 0 = 0 ∧
     u.regionRunning 0 = false ∧
     (let v := (fly haltD).writeReg (pgRgn 0) 0x104 val true
      v.repairWhy 0 3 0 = 0 ∧ v.regionRunning 0 = true ∧
      (after (exec (.regionRepair 0 val) (fly haltD))).getF (pgRgn 0) Reg.RGN_REPAIR_STAT_STATE = 1) ∧
     (let s := up.setF (pgRgn 0) Reg.RGN_REPAIR_STAT_STATE 1
      (s.writeReg (pgRgn 0) 0x104 val true).repairWhy 0 3 0 = 1 ∧
      (after (exec (.regionRepair 0 val) s)).getF (pgRgn 0) Reg.RGN_REPAIR_STAT_FAIL = 1)) ∧
    (let s := up.setF (pgRgn 0) Reg.RGN_REPAIR_STAT_STATE 2
     let s := { s.setRgn 0 { s.rgn 0 with repairLocal := 3, repairEnd := 10 } with time.now := 10 }
     s.getF (pgRgn 0) Reg.RGN_REPAIR_STAT_STATE = 2 ∧ (s.rgn 0).repairEnd ≤ s.now ∧ (s.rgn 0).inbound = [] ∧
     let t := after (exec (.repairCopyDone 0) s)
     t.getF (pgRgn 0) Reg.RGN_REPAIR_STAT_STATE = 3 ∧ t.slotOf 3 = 16 ∧
     ((after (exec (.rescanDone 0 false) t)).getF (pgRgn 0) Reg.RGN_SLOT_FAIL_SLOTS).testBit (t.rgn 0).vacated = true ∧
     let u := after (exec (.rescanDone 0 true) t)
     u.getF (pgRgn 0) Reg.RGN_REPAIR_STAT_DONE = 1 ∧ u.repairWrites = [.repair 0] ∧ u.flashBusy = false ∧
     u.cur.flashHeld = false ∧ (after (exec .repairRecordWrite u)).cur.flashOp = some (.repair 0)) := by decide +kernel

/-- The Archive in service with a closed session 0 of one position. -/
def closed : State :=
  ((setAll up pgDev [(Reg.DEV_ARC_CFG_EN, 1), (Reg.DEV_ARC_SESS_LO_ADDR, 0x100000)]).setSess 0 { sess0 with state := 0, maxpos := 1 })

def archive (op : Nat) : Nat := 2 ^ 31 + 16384 * op

/-- Session 0 with a Display span whose first page is page 0x30000 of stack 0, which is retired. -/
def leaving : State :=
  let s := archived.setSess 0 { sess0 with maxpos := 1 }
  let s := s.setSpan { sess0 with maxpos := 1 } 0 0 { p0 := 0x30000, p1 := 0x30001, p2 := 0, p3 := 0, tier := 1, sslot := 0, fill := 1 }
  { s with arch.alloc := [0x30000, 0x30001], arch.retire := some { stack := 0, moved := 0 } }

theorem witness_ArchiveSessions :
    closed.errs = [] ∧
    (let u := closed.writeReg pgDev 0x170 (archive 1) true
     u.reaches pgDev = true ∧ u.getF pgDev Reg.DEV_ARC_CMD_OP = 1 ∧ u.arcWhy 1 0 0 = 0 ∧
     let t := after (exec (.arcOpen (archive 1)) closed)
     t.arcCmd = some { op := 1, sess := 0, newSlot := 0 } ∧
     let v := after (exec .arcCommandComplete t)
     (v.sess 0).state = sessActive ∧ v.getF pgDev Reg.DEV_ARC_STAT_DONE = 1) ∧
    (let u := closed.writeReg pgDev 0x170 (archive 2) true
     u.arcWhy 2 0 0 = 2 ∧ (after (exec (.arcScrub (archive 2)) closed)).getF pgDev Reg.DEV_ARC_STAT_WHY = 2) ∧
    (let s := closed.setSess 0 { sess0 with maxpos := 1 }
     (s.writeReg pgDev 0x170 (archive 3) true).arcWhy 3 0 0 = 0 ∧
     let t := after (exec (.arcRekey (archive 3)) s)
     (t.sess 0).state = sessRekeying ∧ ((after (exec .arcCommandComplete t)).sess 0).state = sessActive) ∧
    (let q : Requant := { sess := 0, stream := 0, span := 0, page := 1, scalePage := 2, sslot := 0, done := false }
     let s := { up with arch.requant := [q] }
     s.requant.find? (fun q => q.sess = 0 && q.stream = 0 && q.span = 0 && !q.done) = some q ∧
     (after (exec (.requantComplete 0 0 0) s)).requant = [{ q with done := true }]) := by decide +kernel

theorem witness_StackRetirement :
    (let val := 2 ^ 31 + 5
     let u := up.writeReg pgDev 0x1C0 val true
     u.reaches pgDev = true ∧ u.getF pgDev Reg.DEV_RET_CMD_STACK = 5 ∧ u.retWhy 5 = 0 ∧
     let t := after (exec (.stackRetire val) up)
     t.retire = some { stack := 5, moved := 0 } ∧ t.nextMigrate 5 = none ∧ t.allocOn 5 = [] ∧
     (after (exec .retirementComplete t)).getF (pgMem 5) Reg.MEM_STAT_RETIRED = 1 ∧
     (t.writeReg pgDev 0x1C0 val true).retWhy 5 = 1 ∧
     (after (exec (.stackRetire val) t)).getF pgDev Reg.DEV_RET_STAT_FAIL = 1) ∧
    leaving.nextMigrate 0 = some (0, [0x30000, 0x30001]) ∧ leaving.allocOn 0 ≠ [] := by decide +kernel

/-- A group image of this package's cluster 3 at 0x200000. -/
def imaged (member : Nat) : State :=
  let s := up.writeBytes 0 0x200000 (leBytes 64 (1 * 2 ^ 21) ++ leBytes 72 (member * 2 ^ 64 + up.pkg))
  setAll s pgDev [(Reg.DEV_GRP_IMG_LO_ADDR, 0x200000)]

def groupCmd (op : Nat) : Nat := 2 ^ 31 + 256 * op

theorem witness_GroupTable :
    (let s := imaged 8
     let u := s.writeReg pgDev 0x180 (groupCmd 1) true
     let x := u.groupImage 0x200000
     s.errs = [] ∧ u.reaches pgDev = true ∧ u.getF pgDev Reg.DEV_GRP_CMD_OP = 1 ∧ u.getF pgDev Reg.DEV_GRP_CMD_GRP = 0 ∧
     u.groupHeld 0 = false ∧ u.plain 0x200000 64 = true ∧ u.plain 0x200000 (64 + 72 * x.nmem) = true ∧ x.bad = false ∧
     x.members.all (fun m => m.clusters.all (fun c => u.avail (regionOf c))) = true ∧
     let t := after (exec (.grpLoad (groupCmd 1)) s)
     (t.group 0).map (fun g => g.members.map (fun m => m.clusters)) = some [[3]] ∧
     (t.writeReg pgDev 0x180 (groupCmd 2) true).getF pgDev Reg.DEV_GRP_CMD_OP = 2 ∧
     (after (exec (.grpClear (groupCmd 2)) t)).group 0 = none ∧
     (fly haltD).groupHeld 0 = true) ∧
    (let s := imaged 0
     let u := s.writeReg pgDev 0x180 (groupCmd 1) true
     (u.groupImage 0x200000).bad = true ∧ (after (exec (.grpLoad (groupCmd 1)) s)).getF pgDev Reg.DEV_GRP_STAT_WHY = 2) := by
  decide +kernel


/-! ### Efurn -/

def port0 (state : Nat) : State := up.setF (pgLnk 0) Reg.LNK_STAT_STATE state

/-- Port 0 is UP on its eight lanes. -/
def linked : State := setAll (port0 lnkUp) (pgLnk 0) [(Reg.LNK_STAT_LANES, 0xFF), (Reg.LNK_STAT_NACT, 8), (Reg.LNK_PEER_ID, 1)]

/-- Port, KIND and items of a HOP flit. -/
def hopOf (o : Out) : Option (Nat × Nat × List Nat) :=
  match o with
  | .flit k _ f => if f.ty = 2 then some (k, f.kind, f.words) else none
  | _ => none

def keyx (ok : Bool) : KeyxIn :=
  { certOk := true, sigOk := ok, cfgOk := true, peerSealed := false, peerSealBroken := false, peerEnc := false }

theorem witness_LinkBringUp :
    (port0 lnkTrain).lnk 0 = lnkTrain ∧ (after (exec (.pmdTrainingDone 0 0x0F) (port0 lnkTrain))).lnk 0 = lnkAlign ∧
    0x0F &&& (port0 lnkTrain).cfgLanes 0 ≠ 0 ∧ 0x100 &&& (port0 lnkTrain).cfgLanes 0 = 0 ∧
    (after (exec (.pmdTrainingDone 0 0x100) (port0 lnkTrain))).lnk 0 = lnkFailed ∧
    (let s := (port0 lnkAlign).updPort 0 (fun p => { p with good := 0x0F })
     s.lnk 0 = lnkAlign ∧
     (after (exec (.laneAlignDone 0 0x07 0) s)).out.map hopOf = [some (0, 0xD, [0, 0, 0])] ∧
     ((after (exec (.laneAlignDone 0 0x07 1) s)).port 0).rev = true ∧
     (after (exec (.laneAlignDone 0 0x07 2) s)).lnk 0 = lnkFailed) ∧
    (port0 lnkIdcheck).partner 0 = 1 ∧ (after (exec (.identReceive 0 1 1) (port0 lnkIdcheck))).lnk 0 = lnkKeyx ∧
    (after (exec (.identReceive 0 2 1) (port0 lnkIdcheck))).lnk 0 = lnkMiswire ∧
    (let s := (port0 lnkKeyx).updPort 0 (fun p => { p with good := 0x0F })
     s.keyxOk (keyx true) = true ∧ s.keyxOk (keyx false) = false ∧ (after (exec (.keyxDone 0 (keyx true)) s)).lnk 0 = lnkUp ∧
     (after (exec (.keyxDone 0 (keyx true)) s)).lanes 0 = 0x0F ∧ (after (exec (.keyxDone 0 (keyx false)) s)).lnk 0 = lnkFailed ∧
     (after (exec (.keyxDone 0 (keyx true)) { s with brd.cur := { s.cur with entropyBad := true } })).lnk 0 = lnkFailed) ∧
    (let s := { port0 lnkFailed with time.now := 2 ^ 40 }
     (s.port 0).failedAt + ms 1000 ≤ s.now ∧ (after (exec (.linkRetryTimer 0) s)).lnk 0 = lnkTrain) := by decide +kernel

theorem witness_LaneFaultsAndSwitches :
    linked.lnk 0 = lnkUp ∧ (linked.lanes 0).testBit 2 = true ∧ (linked.port 0).txOff = 0 ∧ linked.nextLanes 0 = 0xFF ∧
    (let t := after (exec (.laneLockLoss 0 2) linked)
     (t.port 0).lswitch = some (0xFB, linked.rot + us 4) ∧ t.lanes 0 = 0xFF ∧
     t.out.map hopOf = [some (0, 0xA, [4]), some (0, 0xB, [0xFB, linked.switchAt 0])] ∧
     let u := after (exec (.laneSwitch 0) { t with time.rot := t.rot + us 4 })
     u.lanes 0 = 0xFB ∧ (u.port 0).lswitch = none) ∧
    (let s := linked.setF (pgLnk 0) Reg.LNK_STAT_LANES 4
     without (s.nextLanes 0) 4 = 0 ∧ (after (exec (.laneLockLoss 0 2) s)).lnk 0 = lnkTrain) ∧
    (let s := linked.updPort 0 (fun p => { p with winUc := [(2, 0)] })
     let s := setAll s (pgLnk 0) [(Reg.LNK_CFG_AUTODROP, 1), (Reg.LNK_HEALTH_THRESH, 1), (Reg.LNK_HEALTH_WIN_MS, 1)]
     (s.rxLanes 0).testBit 2 = true ∧
     ((after (exec (.codewordReceive 0 2 true 16 0) s)).port 0).lswitch = some (0xFB, s.switchAt 0)) ∧
    ((port0 lnkAlign).updPort 0 (fun p => { p with good := 0x0F })).rxLanes 0 = 0x0F ∧
    (let s := linked.updPort 0 (fun p => { p with consec := [(2, 3)] })
     3 ≤ sget (fun _ => 0) (s.port 0).consec 2 ∧
     (after (exec (.codewordReceive 0 2 false 0 0) s)).getF (pgLnk 0) Reg.LNK_LANE_FAULT_LANES = 4 ∧
     sget (fun _ => 0) ((after (exec (.codewordReceive 0 2 true 5 0) s)).port 0).corr 2 = 5) ∧
    (after (exec (.lanesetReceive 0 ⟨0x0F, false⟩ 99) linked)).getF (pgLnk 0) Reg.LNK_STAT_PENDING = 1 ∧
    ((after (exec (.laneDownReceive 0 ⟨0x30, false⟩) linked)).port 0).txOff = 0x30 ∧
    (let s := linked.updPort 0 (fun p => { p with rev := true })
     (s.port 0).rev = true ∧ s.lanesHere 0 1 = 0x80 ∧ ((after (exec (.laneDownReceive 0 ⟨0x30, false⟩) s)).port 0).txOff = 0x0C) ∧
    (let s := linked.setF (pgLnk 0) Reg.LNK_STAT_ENC 1
     let t := after (exec (.laneDownReceive 0 ⟨0x30, false⟩) s)
     t.getF (pgLnk 0) Reg.LNK_CNT_AUTH = 1 ∧ t.lnk 0 = lnkUp ∧
     (let u := s.updPort 0 (fun p => { p with tagFails := List.replicate 16 0 })
      (after (exec (.lanesetReceive 0 ⟨1, false⟩ 99) u)).lnk 0 = lnkTrain)) := by decide +kernel

theorem witness_LinkCommandsAndKeys :
    (let u := linked.writeReg (pgLnk 0) 0x110 (16 + 3) true
     u.lnk 0 = lnkUp ∧ u.reaches (pgLnk 0) = true ∧ (u.nextLanes 0).testBit (u.getF (pgLnk 0) Reg.LNK_LANECMD_LANE) = true ∧
     ((after (exec (.laneDropCmd 0 (16 + 3)) linked)).port 0).lswitch = some (0xF7, linked.rot + us 4)) ∧
    (let t := after (exec (.linkRekeyCmd 0 32) linked)
     (t.port 0).rekeying = true ∧ (t.port 0).txCtr = 1 ∧ t.out.map hopOf = [some (0, 0xC, [])]) ∧
    (after (exec (.linkRetrainCmd 0 64) linked)).lnk 0 = lnkTrain ∧
    linked.flag (pgLnk 0) Reg.LNK_STAT_ENC = false ∧
    (let t := after (exec (.rekeyReceive 0 true) linked)
     (t.port 0).rekeyAt = some (linked.rot + us 4) ∧
     ((after (exec (.rekeySwitch 0) { t with time.rot := t.rot + us 4 })).port 0).keyGen = 1) ∧
    (let s := linked.setF (pgLnk 0) Reg.LNK_STAT_ENC 1
     s.flag (pgLnk 0) Reg.LNK_STAT_ENC = true ∧ (after (exec (.rekeyReceive 0 false) s)).getF (pgLnk 0) Reg.LNK_CNT_AUTH = 1) ∧
    (let s := linked.updPort 0 (fun p => { p with used := [(3, 9)] })
     ((after (exec (.creditReceive 0 1 1 ⟨4, true, false⟩) s)).port 0).used = [(3, 5)] ∧
     (let u := s.setF (pgLnk 0) Reg.LNK_STAT_ENC 1
      ((after (exec (.creditReceive 0 1 1 ⟨4, true, false⟩) u)).port 0).used = [(3, 9)] ∧
      ((after (exec (.creditReceive 0 1 1 ⟨4, false, false⟩) u)).port 0).used = [(3, 5)])) := by decide +kernel

/-- A chunk of package 1 for this package, or for package 2. -/
def chunk (dst vc seq : Nat) (fresh : Bool) : Chunk :=
  { src := 1, dst := dst, vc := vc, seq := seq, fresh := fresh, kind := 1, cls := 0, ty := 1, tagOk := false,
    crc := (crc32c [1, 2, 3]).toNat, badFlits := 0, credits := [], t1 := 0, data := [1, 2, 3] }

theorem witness_ChunkReceived :
    (let t := after (exec (.chunkReceive 0 { chunk 0 2 5 true with ty := 3 }) linked)
     t.getF (pgLnk 0) Reg.LNK_CNT_BAD = chunkFlits 3 ∧ t.getF (pgLnk 0) Reg.LNK_CNT_FLIT_RX = 0) ∧
    (let s := linked.updPort 0 (fun p => { p with used := [(3, 9)] })
     let t := after (exec (.chunkReceive 0 { chunk 0 2 5 true with badFlits := 1, credits := [(1, 1, 4)] }) s)
     t.getF (pgLnk 0) Reg.LNK_CNT_BAD = 1 ∧ t.getF (pgLnk 0) Reg.LNK_CNT_FLIT_RX = chunkFlits 3 - 1 ∧
     sget (fun _ => 0) (t.port 0).used 3 = 5) ∧
    (let t := after (exec (.chunkReceive 0 { chunk 0 2 0 true with ty := 2, kind := 8, t1 := 55 }) linked)
     t.out.map hopOf = [some (0, 8, [55, linked.timeOf (pgLnk 0), linked.timeOf (pgLnk 0)])]) ∧
    (let t := after (exec (.chunkReceive 0 (chunk 0 2 5 true)) linked)
     linked.pkg = 0 ∧ linked.rxStream 1 2 = none ∧ t.rxStream 1 2 = some { src := 1, vc := 2, next := 6, held := [], unacked := 1, since := 0 } ∧
     ((after (exec (.chunkReceive 0 (chunk 0 2 6 false)) t)).rxStream 1 2).map (fun r => r.next) = some 7 ∧
     ((after (exec (.chunkReceive 0 (chunk 0 2 8 false)) t)).rxStream 1 2).map (fun r => r.held) = some [(8, 1, [1, 2, 3])] ∧
     (after (exec (.chunkReceive 0 (chunk 0 2 5 false)) linked)).rx = [] ∧
     (let u := { t with fabric.rx := [{ src := 1, vc := 2, next := 6, held := [], unacked := 15, since := 0 }] }
      let v := after (exec (.chunkReceive 0 (chunk 0 2 6 false)) u)
      (v.rxStream 1 2).map (fun r => r.unacked) = some 0 ∧ (v.port 0).txq.map (fun x => (x.kind, x.vc, x.seq, x.dst)) = [(4, 2, 6, 1)]) ∧
     (after (exec (.chunkReceive 0 (chunk 0 2 5 false)) t)).getF (pgLnk 0) Reg.LNK_CNT_DUP = 1) ∧
    (after (exec (.chunkReceive 0 { chunk 0 2 5 true with crc := 0 }) linked)).getF (pgLnk 0) Reg.LNK_CNT_CRC = 1 ∧
    (let s := linked.setF (pgLnk 0) Reg.LNK_STAT_ENC 1
     (after (exec (.chunkReceive 0 (chunk 0 2 5 true)) s)).getF (pgLnk 0) Reg.LNK_CNT_AUTH = 1) := by decide +kernel

theorem witness_ChunkReceived_forward :
    (let s := setAll linked (pgLnk 1) [(Reg.LNK_STAT_STATE, lnkUp), (Reg.LNK_STAT_LANES, 0xFF), (Reg.LNK_STAT_NACT, 8)]
     linked.getF (pgLnk 0) Reg.LNK_CFG_ROLE = 0 ∧ s.forwardPort 0 7 = some (1, false) ∧
     let t := after (exec (.chunkReceive 0 (chunk 7 0 5 true)) s)
     (t.port 1).txq = [{ cls := s.classOn 1 0, src := 1, dst := 7, vc := 0, seq := 5, kind := 1, fresh := true, data := [1, 2, 3], back := some (0, 0) }] ∧ t.getF (pgLnk 1) Reg.LNK_CNT_FWD = 1) ∧
    (let s := linked.setF (pgLnk 6) Reg.LNK_STAT_STATE lnkUp
     let s := s.setF (pgLnk 6) Reg.LNK_CFG_ROLE 2
     s.getF (pgLnk 6) Reg.LNK_CFG_ROLE = 2 ∧
     (after (exec (.chunkReceive 6 (chunk 7 0 5 true)) s)).getF (pgLnk 6) Reg.LNK_CNT_BAD = chunkFlits 3) := by decide +kernel

theorem witness_StreamsAndRetries :
    (let r : Retained := { port := 0, dst := 1, vc := 0, seq := 5, fresh := true, kind := 1, data := [1], sent := 1, last := 0 }
     let s := { linked with fabric.retained := [r, { r with seq := 6 }], time.now := 2 ^ 40,
                            fabric.tx := [{ dst := 1, vc := 0, next := 7, fresh := false, broken := false }] }
     (after (exec (.ackReceive 1 0 5) s)).retained.map (fun x => x.seq) = [6] ∧
     s.retained.find? (fun r => r.dst = 1 && r.vc = 0 && r.seq = 5) = some r ∧ r.last + s.retryAfter r ≤ s.now ∧
     (after (exec (.retryTimeout 1 0 5) s)).getF (pgLnk 0) Reg.LNK_CNT_RETRY = 1 ∧
     let u := { s with fabric.retained := [{ r with sent := 4 }] }
     let v := after (exec (.retryTimeout 1 0 5) u)
     (v.txStream 1 0).broken = true ∧ (v.port 0).txq.map (fun x => (x.kind, x.dst, x.vc, x.data)) = [(5, 1, 2, [0])] ∧
     s.stalled = [] ∧ s.retentionFull 0 2 = false ∧ s.routePort 1 = some (0, false) ∧
     (let w := { s with fabric.retained := [{ r with queued := true }] }
      (after (exec (.retryTimeout 1 0 5) w)).getF (pgLnk 0) Reg.LNK_CNT_RETRY = 0) ∧
     (let w := { s with fabric.stalled := [(1, 0, 1, [9])] }
      s.retentionFull 0 0 = false ∧ (after (exec (.ackReceive 1 0 5) w)).retained.any (fun x => x.queued && x.data == [9]) = true)) ∧
    (let s := after (exec (.chunkReceive 0 (chunk 0 2 5 true)) linked)
     let x : TxChunk := { cls := 0, src := 0, dst := 1, vc := 0, seq := 5, kind := 1, fresh := true, data := [1] }
     let s := s.updPort 0 (fun p => { p with txq := [x], restart := 0 })
     let n := (s.port 0).slotsBy (s.txLanes 0).length (s.now + 160)
     let s := s.updPort 0 (fun p => { p with slot := n - 1 })
     0 < n ∧ s.portUp 0 = true ∧ ((s.port 0).choose (s.weight 0)).map (fun q => (q.1 == x)) = some true ∧ x.back = none ∧
     (s.port 0).slotsBy (s.txLanes 0).length (s.now + 160) = (s.port 0).slot + 1 ∧ s.loop = [] ∧ s.runs = [] ∧
     let t := after (step s)
     t.out.length = 1 ∧ t.getF (pgLnk 0) Reg.LNK_CNT_FLIT_TX = 1 ∧ sget (fun _ => 0) (t.port 0).used 0 = 1) ∧
    (let s := after (exec (.chunkReceive 0 (chunk 0 2 5 true)) linked)
     s.rxStream 1 2 = some { src := 1, vc := 2, next := 6, held := [], unacked := 1, since := 0 } ∧
     ((after (exec (.ackTimer 1 2) s)).rxStream 1 2).map (fun r => r.unacked) = some 0 ∧
     (after (exec (.breakReceive 0 1 2) s)).rx = []) := by decide +kernel

/-! ### Ethernet, Accession, transfers -/

def ether : State := setAll up (pgEth 0) [(Reg.ETH_CFG_EN, 1), (Reg.ETH_CFG_UDPPORT, 4791), (Reg.ETH_HR_TAIL_IDX 0, 1),
  (Reg.ETH_HR_TAIL_IDX 1, 1), (Reg.ETH_HR_SIZE_LOG2N 0, 4), (Reg.ETH_HR_SIZE_LOG2N 1, 4)]

/-- A datagram with an Accession message. -/
def datagram (port : Nat) (payload : List Byte) : EthFrame :=
  { fcsOk := true, udp := some { dstIp := 0, dstPort := port, srcIp := 9, srcPort := 8, payload := payload }, bytes := payload,
    hbuf := 0x1000, hlen := 2048 }

def message (type sid seq epoch : Nat) (text : List Byte) : List Byte :=
  accHeader type sid seq text.length epoch ++ text ++ leBytes 16 0

theorem witness_EthernetFrames :
    ether.flag (pgEth 0) Reg.ETH_CFG_EN = true ∧ (after (exec (.ethLinkStateChange 0 true) ether)).getF (pgEth 0) Reg.ETH_STAT_UP = 1 ∧
    (after (exec (.ethFrameReceive 0 { datagram 4791 [] with fcsOk := false }) ether)).getF (pgEth 0) Reg.ETH_CNT_FCS = 1 ∧
    ether.hostDesc 0 0 = some 0 ∧ ether.hostDesc 0 1 = some 0 ∧ up.hostDesc 0 0 = none ∧ ether.ethIp 0 = 0 ∧
    (after (exec (.ethFrameReceive 0 (datagram 53 [1, 2])) ether)).out =
      [Out.hostWrite 0x1000 [1, 2], .hostWrite 10 [2, 0, 1]] ++ (if (ether.word (msixCtrl 18)).getLsbD 0 then [] else [.msix 18]) ∧
    (after (exec (.ethFrameReceive 0 { datagram 53 [1, 2] with hlen := 1 }) ether)).getF (pgEth 0) Reg.ETH_CNT_RXDROP = 1 ∧
    (parseAcc 0 9 8 (message 2 77 0 1 [5])).isSome = true ∧ parseAcc 0 9 8 [1] = none ∧
    ((after (exec (.ethFrameReceive 0 (datagram 4791 (message 2 77 0 1 [5]))) ether)).accIn.map (fun m => m.sid)) = [77] ∧
    (after (exec (.ethFrameReceive 0 (datagram 4791 [1])) ether)).getF (pgEth 0) Reg.ETH_CNT_ACCBAD = 1 ∧
    (after (exec (.ethFrameTransmit 0 [7]) ether)).out =
      [Out.frame 0 [7], .hostWrite 12 [1]] ++ (if (ether.word (msixCtrl 19)).getLsbD 0 then [] else [.msix 19]) := by decide +kernel

/-- Session 77 of a user, or of a peer package, and one message of it that waits. -/
def talking (type seq : Nat) (peer : Bool) : State :=
  let x : AccSess := { sid := 77, epoch := 1, secret := 0, queue := 2, peer := peer, ip := 9, port := 8, top := 1, window := [0],
                       txSeq := 0 }
  let s := { ether with inq.accSess := [x], inq.accIn := ((parseAcc 0 9 8 (message type 77 seq 1 [5])).toList) }
  s.setF pgPci (Reg.PCI_IQ_SIZE_PAGES 2) 1

/-- Whether the engine takes the first message of a TYPE (R551). -/
def accepts (s : State) (type : Nat) : Bool :=
  match s.accFirst 0 type with
  | none => false
  | some m => match s.accSession m.sid with
    | none => false
    | some x => x.epoch = m.epoch && x.permits m.type && decide (x.top < m.seq + 65) && !x.window.contains m.seq

def hello0 : HelloIn := { complete := true, reportOk := true, reportOwner := [], reportSealed := false, reportSealBroken := false }

theorem witness_AccessionSessions :
    accepts (talking 2 3 false) 2 = true ∧ accepts (talking 6 3 false) 6 = true ∧ (talking 2 3 false).full = true ∧
    State.reset.full = false ∧ (talking 2 3 false).getF pgDev Reg.DEV_DET_CTL_DIVERGE < 2 ∧ (talking 2 3 false).iqFits 2 49 = true ∧
    (let t := after (exec (.request 0 true) (talking 2 3 false))
     (t.iq 2).recs.length = 1 ∧ t.accSess.map (fun x => x.top) = [4]) ∧
    (after (exec (.request 0 false) (talking 2 3 false))).getF (pgEth 0) Reg.ETH_CNT_ACCBAD = 1 ∧
    (after (exec (.close 0 true) (talking 6 3 false))).accSess = [] ∧
    (after (exec (.close 0 true) (talking 6 0 false))).getF (pgEth 0) Reg.ETH_CNT_ACCREPLAY = 1 ∧
    (let s := { ether with inq.accIn := ((parseAcc 0 9 8 (message 1 0 0 0 [1, 1, 0])).toList) }
     let u := s.setF pgSec Reg.SEC_HELLO_CTL_EN 1
     (s.accFirst 0 1).any (fun m => s.helloOk m 0 { hello0 with complete := false } = false && u.helloOk m 0 hello0 && (m.text.drop 2).take 1 == [0]) = true ∧
     (after (exec (.hello 0 { hello0 with complete := false }) s)).getF pgSec Reg.SEC_CNT_HELLOBAD = 1) := by decide +kernel

/-- An ACTIVE session of one position without spans, to send or to receive. -/
def giving : State := archived.setSess 0 { sess0 with maxpos := 1, len := 0 }

def outgoing : XferOut := { path := 1, dest := 77, xnum := 1, stream := [1, 2, 3], sent := 3, acked := 0, resends := 0, progressAt := 0 }
def incoming : XferIn := { sess := 0, xnum := 1, path := 1, src := 77, len := some 5, got := 64, buf := [], unacked := 2 }

theorem witness_TransferOutAndIn :
    (let val := 2 ^ 31
     let u := giving.writeReg pgDev 0x1A0 val true
     u.reaches pgDev = true ∧ u.getF pgDev Reg.DEV_XFER_CTL_PATH = 0 ∧ (u.sess 0).state = sessActive ∧ u.xferOut = none ∧
     u.xferUE 0 = false ∧
     let t := after (exec (.xferStart val) giving)
     t.getF pgDev Reg.DEV_XFER_STAT_BUSY = 1 ∧ (t.xferOut.map (fun x => (x.sent, x.xnum))) = some (64, 1) ∧
     (after (exec (.xferStart val) up)).getF pgDev Reg.DEV_XFER_STAT_WHY = 2) ∧
    (let s := { talking 5 3 true with arch.xferOut := some outgoing }
     accepts s 5 = true ∧ outgoing.path = 1 + 0 ∧ outgoing.dest = 77) ∧
    (let s := { talking 5 3 true with arch.xferOut := some outgoing, time.now := 2 ^ 40 }
     outgoing.progressAt + us 200 ≤ s.now ∧ (s.accSession 77).isSome = true ∧
     (after (exec .xferResendTimeout { s with arch.xferOut := some { outgoing with resends := 8 } })).getF pgDev Reg.DEV_XFER_STAT_WHY = 6 ∧
     (after (exec (.xferComplete false) { s with arch.xferOut := some { outgoing with acked := 3 } })).getF pgDev Reg.DEV_XFER_STAT_DONE = 1) ∧
    (accepts (talking 4 3 true) 4 = true ∧ (talking 4 3 true).xferIn = none ∧ (talking 4 3 true).xferArmed = none ∧
     (setAll giving pgDev [(Reg.DEV_XFER_ARM_EN, 1)]).xferArmed = some 0) ∧
    (let s := { talking 5 3 true with arch.xferIn := some incoming }
     (s.accSession incoming.src).isSome = true) ∧
    (let s := { giving with arch.xferIn := some incoming }
     (after (exec (.xferComplete true) s)).getF pgDev Reg.DEV_XFER_STAT_DONE = 1 ∧
     ((after (exec (.xferComplete true) s)).sess 0).len = 5) := by decide +kernel


/-! ### Worked examples of the manual -/

/-- The bytes of some integers times 2^e in a format. -/
def encoded (f : Fmt) (l : List (Int × Int)) : List Byte :=
  l.flatMap (fun p => leBytes (f.width / 8) (encodeFmt f .rne true (.fin { m := p.1, e := p.2 })).1)

/-- A launch of one result over k products of cluster 3: operands, then what stands at 0x81000 and at 0x82000 after it, and
the flags of array 0. -/
def dotted (d : Desc) (a b : List Byte) : List Nat × List Nat × Nat :=
  let s := ((fly d).writeBytes 0 (localAddr 3 0x80000) a).writeBytes 0 (localAddr 3 0) b
  let s := aged (after (exec (.matmul 3) s))
  let s := after (exec (.epilogueStart 3) s)
  let s := after (exec (.matrixLaunchComplete 3) s)
  let at_ (x : Nat) : List Nat := (List.range 4).map (fun i => (s.byteAt (localAddr 3 x + i)).toNat)
  (at_ 0x81000, at_ 0x82000, s.getF (pgArr 3) (arrFlagsF 0))

def dotD (k fmt out : Nat) (more : List (Nat × Nat)) (ext : List (Nat × Nat)) : Desc :=
  desc2 5 0 1 ([(64, 1), (80, 1), (96, k), (120, fmt), (124, fmt), (128, fmt), (132, fmt), (136, out), (140, 1), (150, 1), (168, 0x80000),
    (208, 0x81000), (228, 1), (242, 1)] ++ more) ext

/-- 02, E4M3 through the working format: the last rounding goes up. -/
theorem test_e4m3_no_double_rounding :
    (encodeFmt .e4m3 .rne true (convSource .fp64 .rne (.fin ((Num.ofInt 1).add ((Num.pow2 (-4)).add (Num.pow2 (-40))))))) =
      (0x39, { inx := true }) := by decide +kernel

def sp4Block : Stored :=
  let v := [(30 : Int), -110, 5, 260, -70, 0, 145, -290].map (fun n => (decodeFP32 (encodeFP32 .rne (.fin ((Num.ofInt n).div (.ofInt 100)))).1))
  State.reset.store 3 { t := { addr := 0x80000, rows := 1, cols := 8, fmt := .sp4, blk := 8 }, sat := true, blockmax := true, scat := 0 }
    [v] (fun _ _ => .rne)

/-- 02, the SP4 block: packed bytes, scale byte and flags. -/
theorem test_sp4_block :
    sp4Block.runs = [(0x80000, [0xC1, 0x61, 0x0D, 0xA5]), (0x80008, [0])] ∧ sp4Block.fl = { inx := true, unf := true } := by decide +kernel

def a14 : List Byte := encoded .p16 [(1, 20), (3, 0), (3, 0), (3, 0), (-1, 20), (5, 0)]
def b14 : List Byte := encoded .p16 [(1, 20), (1, 0), (1, 0), (1, 0), (1, 20), (1, 0)]

/-- 03, the P16 dot product: 14 exactly, and what F32 mode makes of it. -/
theorem test_exact_dot : dotted (dotD 6 1 1 [] []) a14 b14 = ([0, 0x5E, 0, 0], [0, 0, 0, 0], 0) := by decide +kernel
theorem test_f32_dot : dotted (dotD 6 1 1 [(144, 1)] []) a14 b14 = ([0, 0x52, 0, 0], [0, 0, 0, 0], 4) := by decide +kernel

def a25 : List Byte := encoded .p32 [(3, 63), (3, 63), (-3, 63), (-5, 62)]
def b25 : List Byte := encoded .p32 [(1, 63), (1, 63), (1, 63), (1, 63)]

/-- 03, the P32 dot product in F32 mode: 2^125 after a replay. -/
theorem test_f32_replay : dotted (dotD 4 2 9 [(144, 1)] []) a25 b25 = ([0, 0, 0, 0x7E], [0, 0, 0, 0], 64) := by decide +kernel

/-- 03, a result pair: y in two P16 codes. -/
theorem test_output_pair :
    dotted (dotD 3 1 1 [(151, 1)] [(94, 0x82000)]) (encoded .p16 [(1, 0), (1, -10), (1, -20)])
      (encoded .p16 [(1, 0), (1, -10), (1, -15)]) = ([0, 0x40, 0, 0], [0, 2, 0, 0], 4) := by decide +kernel

def int8S (d : Desc) : State :=
  let s := (fly d).writeBytes 0 (localAddr 3 0x80000) [10, 0xFD, 7, 0]
  let s := s.writeBytes 0 (localAddr 3 0) [5, 5, 0xF8, 1]
  let s := s.writeBytes 0 (localAddr 3 0x83000) [3, 0, 0, 0]
  { s with mems.cat := [(4096 * 3 + 16, 0x000000020000003F), (4096 * 3 + 17, 0x000000FF0000003E)] }

/-- 07, the INT8 launch: zero points, column sums and channel scales give -2.625. -/
theorem test_int8_dot :
    (let s := aged (after (exec (.matmul 3) (int8S (dotD 4 7 1 [] [(50, 16), (63, 17), (89, 1), (154, 0x83000)]))))
     let s := after (exec (.matrixLaunchComplete 3) (after (exec (.epilogueStart 3) s)))
     (s.readBytes 0 (localAddr 3 0x81000) 2, s.getF (pgArr 3) (arrFlagsF 0))) = ([0x80, 0xB5], 0) := by decide +kernel

/-- 05, one frequency of a rotation: the phase is exact, and the results of the table are among the allowed ones. -/
theorem test_rope_phase :
    ropePhase 4000000 0x5555555555555555 = { m := 0x555555555540FD00, e := -64 } ∧
    (let p := ropePhase 4000000 0x5555555555555555
     let b := sfuBounds false .fp32 true (turnReal false p)
     b.1 ≤ 0x3F5DB3D7 ∧ 0x3F5DB3D7 ≤ b.2 ∧ b.2 ≤ b.1 + 3) := by decide +kernel

/-- 06, mean and variance of 300, 300.5, 301, 301 in P16. -/
theorem test_meanvar :
    (let xs := [0x7058, 0x7059, 0x705A, 0x705A].map (fun c => decodePosit 16 2 c)
     let k := (reals xs).headD .zero
     let (a, b) := moments k (reals xs)
     let r := meanVar 4 k a b
     (r.o.map (encodePosit 16 2 .rne), encodePosit 16 2 .rne r.p)) =
      ([(0x7059, { inx := true })], (0x2B00, {})) := by decide +kernel

/-- 03, the fixed counter of an ordered sum: ones lost beside 2^24 in binary32. -/
theorem test_ordered_sum_step :
    (encodeFP32 .rne ((decodeFP32 0x4B800000).add (decodeFP32 0x3F800000)).1).1 = 0x4B800000 ∧
    (encodeFP32 .rne ((decodeFP32 0x4B800000).add (decodeFP32 0x42000000)).1).1 = 0x4B800010 := by decide +kernel

/-- 17, register pages: identity words, an absent stack, a write that is counted. -/
theorem test_page_identity :
    (({ up with part := .c4m8x2 } : State).readReg 0xCB3 0).toNat = 0x00012C13 ∧
    (({ up with part := .c4m8x2 } : State).readReg 0x25 0).toNat = 0 := by decide +kernel


/-! ### Ill-formed commands, one for each check of WellFormed -/

def goodChunk : Chunk := chunk 1 0 1 true

theorem test_refuses_register_numbers :
    [Instr.registerWrite 4096 0 0 false, .registerWrite 0 4096 0 false, .registerWrite 0 2 0 false,
     .registerWrite 0 0 (2 ^ 32) false, .pgEvtEnWrite 4096 0 0, .pgCommitReq 4096 0, .pgCommitReq 0 (2 ^ 32),
     .pgCommitCancel 4096 0, .pgCtlSrst 4096 0, .pgCntClr 0 (2 ^ 32), .timSet (2 ^ 32), .devLogTailWrite (2 ^ 32),
     .arcOpen (2 ^ 32), .arcScrub (2 ^ 32), .arcRekey (2 ^ 32), .stackRetire (2 ^ 32), .eccTestWrite (2 ^ 32),
     .eccTestRead (2 ^ 32), .grpLoad (2 ^ 32), .grpClear (2 ^ 32), .xferStart (2 ^ 32)].any Instr.wf = false := by decide +kernel

theorem test_refuses_unit_numbers :
    [Instr.matmul 512, .docSlackMinRead 512, .halt 512, .inboundResult 512 0 0 [], .docGo 512 0, .docGo 0 (2 ^ 32), .docResume 512 0,
     .docAbort 0 (2 ^ 32), .activityLevelStep 512 0, .activityLevelStep 0 4, .hbmFillDone 12, .regionRelease 32 0,
     .restorerServiceStart 32, .throttleRelease 4, .cloakroomCombine 4, .barrierStart 256, .landing 256,
     .noticeReceive 256 0 0, .noticeReceive 0 0 4096, .pprSoft 12 0 true, .pprSoft 0 (2 ^ 32) true, .regionRepair 32 0,
     .regionRepair 0 (2 ^ 32), .hello 2 hello0].any Instr.wf = false := by decide +kernel

theorem test_refuses_requests :
    [Instr.evtRing { req [] with tag := 65536 }, .attest { req [] with payload := List.replicate 1001 0 },
     .slotLoad { req [] with haddr := 2 ^ 64 }, .slotFree { req [] with hlen := 2 ^ 64 },
     .mailboxUnknownCode 65536 (req [])].any Instr.wf = false := by decide +kernel

theorem test_refuses_descriptors :
    [Instr.dmaCompletion 16, .pciDmaResume 16 0, .pciDmaResume 0 (2 ^ 32), .dmaD2h 16 (dmaD 1),
     .dmaD2h 0 { dmaD 1 with haddr := 2 ^ 64 }, .dmaD2h 0 { dmaD 1 with daddr := 2 ^ 48 },
     .dmaD2h 0 { dmaD 1 with len := 2 ^ 32 }, .dmaD2h 0 { dmaD 1 with op := 256 }, .dmaD2h 0 { dmaD 1 with q := 256 },
     .dmaD2h 0 { dmaD 1 with caddr := 2 ^ 64 }, .dmaD2h 0 { dmaD 1 with ctag := 2 ^ 32 }].any Instr.wf = false := by decide +kernel

theorem test_refuses_link_numbers :
    [Instr.linkRetryTimer 8, .identReceive 8 0 0, .identReceive 0 4096 0, .identReceive 0 0 8, .laneDropCmd 8 0,
     .laneDropCmd 0 (2 ^ 32), .laneLockLoss 8 0, .laneLockLoss 0 16, .creditReceive 8 0 0 ⟨0, true, true⟩, .creditReceive 0 4 0 ⟨0, true, true⟩,
     .ackReceive 4096 0 0, .ackReceive 0 4 0, .ackTimer 4096 0, .retryTimeout 4096 0 0, .retryTimeout 0 4 0,
     .breakReceive 8 0 0, .breakReceive 0 4096 0, .breakReceive 0 0 4, .chunkReceive 8 goodChunk,
     .chunkReceive 0 { goodChunk with src := 4096 }, .chunkReceive 0 { goodChunk with dst := 4096 },
     .chunkReceive 0 { goodChunk with vc := 4 }, .chunkReceive 0 { goodChunk with cls := 2 },
     .chunkReceive 0 { goodChunk with seq := 2 ^ 32 }].any Instr.wf = false := by decide +kernel

theorem test_takes_well_formed :
    [Instr.registerWrite 4095 4092 (2 ^ 32 - 1) true, .matmul 511, .docGo 511 0, .activityLevelStep 511 3, .hbmFillDone 11,
     .landing 255, .evtRing (req []), .mailboxUnknownCode 65535 (req []), .dmaCompletion 15, .dmaD2h 15 (dmaD 1),
     .chunkReceive 7 goodChunk, .breakReceive 7 4095 3, .hello 1 hello0, .powerLoss].all Instr.wf = true := by decide +kernel

/-! ### Combining points, the end of a member, long frames -/

/-- R516: seven members, ROOT the member of index 1; this package, member 2, holds no slots. The items of its branch (its own
ranks 2 and 3, and the sums of members 0 and 6) go to ROOT in rank order, when the last has come. -/
def branch (clo : Option Nat) : Group :=
  { members := [{ pkg := 2, mask := 1 }, { pkg := 1, mask := 1 }, { pkg := 0, mask := 24 }, { pkg := 3, mask := 1 }, { pkg := 4, mask := 1 },
                { pkg := 5, mask := 1 }, { pkg := 6, mask := 1 }], wmin := 1, rslots := 1, clo := clo }

def item (kind lo : Nat) : CombIn :=
  { grp := 0, cseq := 1024, opc := 4, ordered := false, off := 0, kind := kind, lo := lo, hi := lo, flags := 0, bytes := [1], since := 0 }

theorem test_endpoint_rank_order :
    linked.pkg = 0 ∧ (branch none).children 1 2 = [6, 0] ∧
    (let three := [item 1 6, item 0 3, item 0 2].foldl (fun s x => s.atPoint (branch none) 1 x) linked
     (three.port 0).txq.length = 0 ∧ three.endIn.length = 3 ∧
     (((three.atPoint (branch none) 1 (item 1 0)).port 0).txq.map (fun x =>
       let h := CollHdr.read x.data
       (h.part, h.srcm, h.dpos, h.dstm))) = [(false, 0, 0, 1), (true, 2, 0, 1), (true, 2, 1, 1), (false, 6, 0, 1)]) := by
  decide +kernel

/-- R514: with its one slot taken, a partial of another window keeps the receive buffer of its chunk until it is taken in;
R515: the groups of a Cloakroom take turns. -/
def point (grp : Nat) (y : Nat) : Comb :=
  { grp := grp, cseq := 1024, opc := 4, lgrp := 0, ordered := false, fmt := 11, width := 128, root := 2, off := y, len := 16, chain := false,
    lo := 0, hi := 0, have_ := [], next := 0, acc := none, total := none, flags := 0, qidx := none, cluster := 3 }

def cloaked : State :=
  { linked with sched.groups := [(0, branch (some 0)), (1, branch (some 0))],
                fabric.combs := [(0, [{ point 0 0 with have_ := [(0, 0, 0)] }, point 0 65536, point 1 0])] }

def partial_ (off : Nat) : List Byte :=
  CollHdr.bytes { grp := 0, opc := 4, srcm := 1, dstm := 2, dpos := 0, cloak := true, part := true, rflags := 0, ord := false,
                  cseq := 1024, off := off } ++ List.replicate 16 1

def partChunk (off : Nat) : Chunk :=
  { chunk 0 1 5 true with crc := (crc32c (partial_ off)).toNat, data := partial_ off }

theorem test_window_wait :
    (let t := after (exec (.chunkReceive 0 (partChunk 0)) cloaked)
     ((sget (fun _ => []) t.combIn 0).map (fun x => (x.since, x.back))) = [(0, none)] ∧
       (t.port 0).owed = [(2, chunkFlits 32)]) ∧
    (let t := after (exec (.chunkReceive 0 (partChunk 65536)) cloaked)
     ((sget (fun _ => []) t.combIn 0).map (fun x => x.back)) = [some (0, 2, chunkFlits 32)] ∧ (t.port 0).owed = [] ∧
     (t.cloPick 0).isNone = true ∧
     let u := { t with fabric.combs := [(0, [point 0 65536])] }
     ((after (exec (.cloakroomCombine 0) u)).port 0).owed = [(2, chunkFlits 32)] ∧
     sget (fun _ => 0) (after (exec (.cloakroomCombine 0) u)).cloTurn 0 = 1) := by decide +kernel

theorem test_cloakroom_turns :
    (let s := { cloaked with fabric.combIn := [(0, [item 0 1, { item 0 2 with grp := 1 }])] }
     (s.cloPick 0).map (fun p => p.1.grp) = some 0 ∧
     (({ s with fabric.cloTurn := [(0, 1)] } : State).cloPick 0).map (fun p => p.1.grp) = some 1 ∧
     (({ s with fabric.cloTurn := [(0, 2)] } : State).cloPick 0).map (fun p => p.1.grp) = some 0) := by decide +kernel

/-- R348, R503: a FINAL message of landing 1 stops a launch of flight 2 that needs its sender, and none of flight 1. -/
theorem test_final_after_launch :
    (let x : Coll := { slot := 1, grp := 0, cseq := 1024, opc := 1, ordered := false, fmt := 9, width := 32, bytes := 4, root := 0,
                       src := 0, dst := 0, need := 4, peers := [(((paired up).group 0).map (fun g => g.members.findIdx (fun m => m.pkg = 9))).getD 0],
                       got := [], inv := false, vary := false, last := [], qidx := none, deps := [], seq := 0 }
     let s (f : Nat) : State := late.setClu 3 { late.clu 3 with colls := [{ x with cseq := 1024 * f }] }
     (after (exec (.landedMessageReceive landed9) (s 1))).getF pgDev Reg.PG_EVT = 0 ∧
     (after (exec (.landedMessageReceive landed9) (s 2))).getF pgDev Reg.PG_EVT = 8 ∧
     (after (exec (.landedMessageReceive landed9) (s 2))).doc 3 = docStopped) := by decide +kernel

theorem test_frame_too_long : frameCarried (List.replicate 9213 0) = false ∧ frameCarried (List.replicate 9212 0) = true := by
  constructor <;> simp only [frameCarried, List.length_replicate] <;> decide

/-- No command has bits in the table. -/
theorem test_no_word_is_a_command : decodeTableWord 256 0xFFFF = none ∧ decodeTableWord 8 1 = none := by decide

end Sys2Proof.Tests
end

section
/-! PROOFS of the statements on the levels of the package (spec/01_hierarchy.md): the laws of the sparse maps, register words
and shared operations that they need, then O10, O26 and O23. -/
namespace Sys2Proof.Machine

/-! ### Single bits of a mask -/

/-- Above and below bit `r` a number that differs from another in bit `r` alone has the other's bits. -/
theorem testBit_split (n r v q : Nat) (hv : v < 2) :
    (n / 2 ^ (r + 1) * 2 ^ (r + 1) + v * 2 ^ r + n % 2 ^ r).testBit q = if q = r then v.testBit 0 else n.testBit q := by
  rw [testBit3 (w := 1) hv (Nat.mod_lt _ (by positivity))]
  rcases Nat.lt_trichotomy q r with h | h | h
  · rw [if_pos h, if_neg (by omega), Nat.testBit_mod_two_pow, decide_eq_true h, Bool.true_and]
  · subst h
    rw [if_neg (by omega), if_pos (by omega), if_pos rfl, Nat.sub_self]
  · rw [if_neg (by omega), if_neg (by omega), if_neg (by omega), Nat.testBit_div_two_pow]
    congr 1; omega

theorem testBit_add_two_pow {n r : Nat} (h : n.testBit r = false) (q : Nat) :
    (n + 2 ^ r).testBit q = if q = r then true else n.testBit q := by
  have hr : n / 2 ^ r % 2 ^ 1 = 0 := by simpa [Nat.testBit_eq_decide_div_mod_eq] using h
  have e := split3 n r 1
  rw [hr] at e
  have e' : n + 2 ^ r = n / 2 ^ (r + 1) * 2 ^ (r + 1) + 1 * 2 ^ r + n % 2 ^ r := by omega
  rw [e', testBit_split n r 1 q (by decide)]
  rfl

theorem testBit_sub_two_pow {n r : Nat} (h : n.testBit r = true) (q : Nat) :
    (n - 2 ^ r).testBit q = if q = r then false else n.testBit q := by
  have hr : n / 2 ^ r % 2 ^ 1 = 1 := by simpa [Nat.testBit_eq_decide_div_mod_eq] using h
  have e := split3 n r 1
  rw [hr] at e
  have e' : n - 2 ^ r = n / 2 ^ (r + 1) * 2 ^ (r + 1) + 0 * 2 ^ r + n % 2 ^ r := by omega
  rw [e', testBit_split n r 0 q (by decide)]
  rfl

/-- A mask from which one bit is taken away, whether it held it or not. -/
theorem testBit_without (n r q : Nat) :
    (if n.testBit r then n - 2 ^ r else n).testBit q = if q = r then false else n.testBit q := by
  by_cases h : n.testBit r = true
  · rw [if_pos h, testBit_sub_two_pow h]
  · rw [if_neg h]
    split
    · next hq => rw [hq]; simpa using h
    · rfl

/-! ### Sparse maps whose keys are filtered -/

theorem sget_filter_keys {α : Type} (d : Nat → α) (f : Nat → Bool) (m : List (Nat × α)) (k : Nat) :
    sget d (m.filter (fun p => f p.1)) k = if f k then sget d m k else d k := by
  induction m with
  | nil => simp
  | cons p t ih =>
    obtain ⟨i, a⟩ := p
    by_cases hk : k = i
    · subst hk
      by_cases hf : f k = true <;> simp [hf, sget, ih]
    · by_cases hf : f i = true <;> simp [hf, sget, ih, hk]

theorem mem_sclear {α : Type} {m : List (Nat × α)} {lo hi : Nat} {p : Nat × α} :
    p ∈ sclear m lo hi ↔ p ∈ m ∧ (p.1 < lo ∨ hi ≤ p.1) := by
  simp [sclear]

/-! ### Which word a field lies in -/

theorem regIdx_page (pg : Nat) (f : Fld) (hf : f.off < 4096 := by decide) : regIdx pg f / 1024 = pg := by
  unfold regIdx; omega

/-- A word of another page is not the word of the field. -/
theorem ne_regIdx_of_page {j pg : Nat} {f : Fld} (h : j / 1024 ≠ pg) (hf : f.off < 4096 := by decide) : j ≠ regIdx pg f := by
  rintro rfl; exact h (regIdx_page pg f hf)

/-- The words that an event may write lie in its own page or in the page of a die manager. -/
theorem not_mem_eventWords {j pg : Nat} (hj : j / 1024 < 8) (hp : j ≠ regIdx pg Reg.PG_EVT) : j ∉ eventWords pg := by
  have hd : ∀ (d : Nat) (f : Fld), f.off < 4096 → j ≠ regIdx (pgDie d) f := fun d f hf =>
    ne_regIdx_of_page (by unfold pgDie; omega) hf
  unfold eventWords
  split
  · simpa using hp
  · next d _ => simp [hp, hd d Reg.DIE_EVTQ (by decide), hd d Reg.DIE_CNT_EVT (by decide), hd d Reg.DIE_CNT_EVTDROP (by decide)]

/-! ### The pages of a cluster -/

theorem pageBlock_pgClu {c : Nat} (hc : c < 512) : pageBlock (pgClu c) = some (.clu, c) := by
  have h1 : 0x800 + 4 * c - 0x800 = 4 * c := by omega
  have h2 : 0x800 + 4 * c < 0x1000 := by omega
  have h3 : ∀ n, n ≤ 0x800 → ¬ 0x800 + 4 * c < n := by omega
  have h4 : ∀ n, n < 0x800 → 0x800 + 4 * c ≠ n := by omega
  simp [pageBlock, pgClu, h1, h2, h3, h4]

section
variable (s : State)

theorem State.pageBlock_of_writable {pg : Nat} {x : Block × Nat} (h : s.writable pg = some x) : pageBlock pg = some x := by
  unfold State.writable at h
  split at h
  · cases h
  · next b i hb =>
    split at h
    · rw [hb, h]
    · cases h

/-- A cluster page that takes writes is served and in service. -/
theorem State.reaches_pgClu {c : Nat} (hc : c < 512) (h : s.reaches (pgClu c) = true) :
    s.writable (pgClu c) = some (.clu, c) ∧ s.outOfService .clu c = false := by
  unfold State.reaches at h
  split at h
  · next b i hw =>
    have hb := s.pageBlock_of_writable hw
    rw [pageBlock_pgClu hc] at hb
    obtain ⟨rfl, rfl⟩ : Block.clu = b ∧ c = i := by simpa using hb
    exact ⟨hw, by simpa using h⟩
  · cases h

/-- Whether a page takes writes hangs on the part, on recovery and on the regions in service. -/
theorem State.writable_congr {s t : State} (hp : t.part = s.part)
    (hr : t.getF pgSec Reg.SEC_STAT_RECOVERY = s.getF pgSec Reg.SEC_STAT_RECOVERY) (pg : Nat) : t.writable pg = s.writable pg := by
  unfold State.writable State.served State.flag
  rw [hp, hr]

theorem State.outOfService_congr {s t : State} (ha : t.getF pgDev Reg.DEV_RGN_AVAIL_MASK = s.getF pgDev Reg.DEV_RGN_AVAIL_MASK)
    (b : Block) (i : Nat) : t.outOfService b i = s.outOfService b i := by
  unfold State.outOfService State.avail
  rw [ha]

/-! ### A write of an enable (R665, R666) -/

theorem State.raiseEnabled_sans (pg : Nat) (b : Block) (was : Nat) : (s.raiseEnabled pg b was).sansHeld = s.sansHeld := by
  unfold State.raiseEnabled
  refine foldl_keeps State.sansHeld _ (fun t n => ?_) _ _
  split
  · exact State.holdEvent_sans _ _
  · rfl

theorem State.word_raiseEnabled (pg : Nat) (b : Block) (was : Nat) {j : Nat} (h : j ∉ eventWords pg) :
    (s.raiseEnabled pg b was).word j = s.word j := by
  unfold State.raiseEnabled
  refine foldl_keeps (fun t : State => t.word j) _ (fun t n => ?_) _ _
  split
  · exact State.word_holdEvent _ _ (by exact h)
  · rfl

/-- A write of PG_CTL changes registers and held events alone. -/
theorem State.writeEnable_ctl_sans (b : Block) (i pg val : Nat) : (s.writeEnable b i pg 0x010 val).sansHeld = s.sansHeld :=
  (State.raiseEnabled_sans _ _ _ _).trans (State.held_of_regs (s.setF_sans _ _ _))

theorem State.word_writeEnable_ctl (b : Block) (i pg val : Nat) {j : Nat} (h : j ∉ eventWords pg)
    (hc : j ≠ regIdx pg Reg.PG_CTL_EN) : (s.writeEnable b i pg 0x010 val).word j = s.word j :=
  (State.word_raiseEnabled _ _ _ _ h).trans (s.word_setF_ne _ hc)

/-- A write of PG_CTL of a cluster page that takes writes, apart from SRST. -/
theorem State.writeReg_cluCtl {c : Nat} (hc : c < 512) (h : s.reaches (pgClu c) = true) (val : Nat) :
    s.writeReg (pgClu c) 0x010 val true = s.writeEnable .clu c (pgClu c) 0x010 val := by
  obtain ⟨hw, ho⟩ := s.reaches_pgClu hc h
  have h1 : ¬ (0x100 ≤ pgClu c && decide (pgClu c < 0x108)) = true := by unfold pgClu; simp; omega
  have h2 : pgClu c ≠ 0x108 := by unfold pgClu; omega
  simp only [State.writeReg, h1, h2, hw, ho, Bool.not_true, Bool.false_eq_true, if_false]
  rfl

/-- A page that takes writes still does after a write of its PG_CTL. -/
theorem State.reaches_after_cluCtl {c : Nat} (hc : c < 512) (h : s.reaches (pgClu c) = true) (val : Nat) :
    (s.writeReg (pgClu c) 0x010 val true).writable (pgClu c) = some (.clu, c) ∧
      (s.writeReg (pgClu c) 0x010 val true).outOfService .clu c = false := by
  obtain ⟨hw, ho⟩ := s.reaches_pgClu hc h
  have hf : ∀ (pg : Nat) (f : Fld), pg < 8 → f.off < 4096 →
      (s.writeEnable .clu c (pgClu c) 0x010 val).getF pg f = s.getF pg f := by
    intro pg f hpg hf
    have hp : regIdx pg f / 1024 ≠ pgClu c := by rw [regIdx_page pg f hf]; unfold pgClu; omega
    unfold State.getF
    rw [s.word_writeEnable_ctl _ _ _ _ (not_mem_eventWords (by rw [regIdx_page pg f hf]; omega) (ne_regIdx_of_page hp))
      (ne_regIdx_of_page hp)]
  rw [s.writeReg_cluCtl hc h]
  have hp : (s.writeEnable .clu c (pgClu c) 0x010 val).part = s.part :=
    (congrArg (fun t : State => t.part) (s.writeEnable_ctl_sans .clu c (pgClu c) val) :)
  rw [State.writable_congr hp (hf _ _ (by decide) (by decide)), State.outOfService_congr (hf _ _ (by decide) (by decide))]
  exact ⟨hw, ho⟩

theorem State.writeReg_cluCtl_mems {c : Nat} (hc : c < 512) (h : s.reaches (pgClu c) = true) (val : Nat) :
    (s.writeReg (pgClu c) 0x010 val true).mems = s.mems := by
  rw [s.writeReg_cluCtl hc h]
  exact (congrArg (fun t : State => t.mems) (s.writeEnable_ctl_sans .clu c (pgClu c) val) :)

/-! ### The cluster soft reset (R55) -/

/-- Beside registers a soft reset writes the sequencer, the accumulators, their tile records and their error marks. -/
theorem State.softReset_mems (c : Nat) : (s.softReset c).mems = { s.mems with
    am := sclear s.am (c * 131072) ((c + 1) * 131072), tiles := sclear s.tiles (c * 256) ((c + 1) * 256),
    errs := sclear s.errs (cwName (2 * 4096 + c) 0) (cwName (2 * 4096 + c) 0x80000) } := rfl

@[simp] theorem State.softReset_mem (c : Nat) : (s.softReset c).mems.mem = s.mems.mem := by rw [s.softReset_mems]
@[simp] theorem State.softReset_im (c : Nat) : (s.softReset c).mems.im = s.mems.im := by rw [s.softReset_mems]
@[simp] theorem State.softReset_cat (c : Nat) : (s.softReset c).mems.cat = s.mems.cat := by rw [s.softReset_mems]

theorem State.clu_softReset (c c' : Nat) : (s.softReset c).clu c' = if c' = c then {} else s.clu c' :=
  sget_sdel _ s.clusters c c'

theorem State.clu_softReset_same (c : Nat) : (s.softReset c).clu c = {} := by rw [s.clu_softReset, if_pos rfl]

theorem State.clu_softReset_ne {c c' : Nat} (h : c' ≠ c) : (s.softReset c).clu c' = s.clu c' := by
  rw [s.clu_softReset, if_neg h]

theorem State.word_clearSticky (c : Nat) {j : Nat} (ha : j / 1024 ≠ pgArr c) (hv : j / 1024 ≠ pgVec c) :
    (s.clearSticky c).word j = s.word j := by
  unfold State.clearSticky
  simp only []
  rw [State.word_setF_ne _ _ (ne_regIdx_of_page hv), State.word_setF_ne _ _ (ne_regIdx_of_page hv),
    State.word_setF_ne _ _ (ne_regIdx_of_page ha), State.word_setF_ne _ _ (ne_regIdx_of_page ha),
    State.word_setWord_ne _ _ (ne_regIdx_of_page hv),
    State.word_setF_ne _ _ (ne_regIdx_of_page hv), State.word_setF_ne _ _ (ne_regIdx_of_page hv),
    show List.range 4 = [0, 1, 2, 3] from rfl]
  simp only [List.foldl_cons, List.foldl_nil]
  rw [State.word_setF_ne _ _ (ne_regIdx_of_page ha), State.word_setF_ne _ _ (ne_regIdx_of_page ha),
    State.word_setF_ne _ _ (ne_regIdx_of_page ha), State.word_setF_ne _ _ (ne_regIdx_of_page ha)]

/-- A soft reset leaves every word outside the pages of its cluster. -/
theorem State.word_softReset (c : Nat) {j : Nat} (h : j / 1024 < pgClu c ∨ pgDoc c < j / 1024) :
    (s.softReset c).word j = s.word j := by
  have hl : j / 1024 ≠ pgClu c := by unfold pgClu pgDoc at *; omega
  have ha : j / 1024 ≠ pgArr c := by unfold pgClu pgDoc pgArr at *; omega
  have hv : j / 1024 ≠ pgVec c := by unfold pgClu pgDoc pgVec at *; omega
  have hd : j / 1024 ≠ pgDoc c := by unfold pgClu pgDoc at *; omega
  unfold State.softReset
  simp only []
  rw [State.word_setF_ne _ _ (ne_regIdx_of_page hl), State.word_setF_ne _ _ (ne_regIdx_of_page hd),
    State.word_setF_ne _ _ (ne_regIdx_of_page hd), State.word_setF_ne _ _ (ne_regIdx_of_page hd),
    State.word_setWord_ne _ _ (ne_regIdx_of_page hd), State.word_setWord_ne _ _ (ne_regIdx_of_page ha),
    State.word_clearSticky _ _ ha hv]
  rfl

theorem State.doc_softReset (c : Nat) : (s.softReset c).doc c = docIdle := by
  unfold State.softReset State.doc
  simp only []
  rw [State.getF_setF_page _ _ (by unfold pgDoc pgClu; omega), State.getF_setF_off, State.getF_setF_off, State.getF_setF_off]
  unfold State.getF
  rw [State.word_setWord_same]
  rfl

theorem State.srst_softReset (c : Nat) : (s.softReset c).getF (pgClu c) Reg.PG_CTL_SRST = 0 :=
  State.getF_setF_same _ _ _

/-- The state in which a reset has cleared the sticky flags of a cluster, and not yet its captures. -/
def State.flagsCleared (s : State) (c : Nat) : State :=
  ((((List.range 4).foldl (fun s a => s.setF (pgArr c) (arrFlagsF a) 0) s).setF (pgVec c) vecFlagsF 0).setF (pgVec c) sfuFlagsF 0).setWord
    (regIdx (pgVec c) Reg.VEC_ROW_STAT_ROW_NAR) 0

theorem State.clearSticky_eq (c : Nat) : s.clearSticky c =
    ((((s.flagsCleared c).setF (pgArr c) Reg.ARR_QCAP_VALID 0).setF (pgArr c) Reg.ARR_QCAP_MULTI 0).setF
      (pgVec c) Reg.VEC_QCAP_VALID 0).setF (pgVec c) Reg.VEC_QCAP_MULTI 0 := rfl

/-- The captures stand in word 0x030 of their page. -/
theorem State.word_clearSticky_flags (c : Nat) {j : Nat} (h : j % 1024 ≠ 0x030 / 4) :
    (s.clearSticky c).word j = (s.flagsCleared c).word j := by
  have hq : ∀ (pg : Nat) (f : Fld), f.off = 0x030 → j ≠ regIdx pg f := by
    rintro pg f hf rfl
    unfold regIdx at h
    rw [hf] at h
    omega
  rw [s.clearSticky_eq, State.word_setF_ne _ _ (hq _ _ rfl), State.word_setF_ne _ _ (hq _ _ rfl),
    State.word_setF_ne _ _ (hq _ _ rfl), State.word_setF_ne _ _ (hq _ _ rfl)]

/-- A word of sticky flags after a soft reset: the capture and ARR_STAT words of the two pages are the only others written. -/
theorem State.word_softReset_flags (c : Nat) {j : Nat} (hp : j / 1024 = pgArr c ∨ j / 1024 = pgVec c)
    (hq : j % 1024 ≠ 0x030 / 4) (hs : j ≠ regIdx (pgArr c) Reg.ARR_STAT_BUSY) :
    (s.softReset c).word j = (s.flagsCleared c).word j := by
  have hl : j / 1024 ≠ pgClu c := by unfold pgClu pgArr pgVec at *; omega
  have hd : j / 1024 ≠ pgDoc c := by unfold pgDoc pgArr pgVec at *; omega
  unfold State.softReset
  simp only []
  rw [State.word_setF_ne _ _ (ne_regIdx_of_page hl), State.word_setF_ne _ _ (ne_regIdx_of_page hd),
    State.word_setF_ne _ _ (ne_regIdx_of_page hd), State.word_setF_ne _ _ (ne_regIdx_of_page hd),
    State.word_setWord_ne _ _ (ne_regIdx_of_page hd), State.word_setWord_ne _ _ hs, ← s.word_clearSticky_flags c hq]
  exact State.word_congr rfl rfl j

/-- The flags of array a after those of the arrays of a list are cleared: each array has a word of its own. -/
theorem State.arrFlags_foldl_clear (c a : Nat) (l : List Nat) :
    (l.foldl (fun s b => s.setF (pgArr c) (arrFlagsF b) 0) s).getF (pgArr c) (arrFlagsF a) =
      if a ∈ l then 0 else s.getF (pgArr c) (arrFlagsF a) := by
  induction l generalizing s with
  | nil => simp
  | cons b l ih =>
    rw [List.foldl_cons, ih]
    by_cases hb : a = b
    · subst hb
      have h0 : (s.setF (pgArr c) (arrFlagsF a) 0).getF (pgArr c) (arrFlagsF a) = 0 :=
        (s.getF_setF_same _ _ (Nat.zero_le _) (Nat.lt_of_sub_eq_succ rfl)).trans (Nat.zero_mod _)
      simp [h0]
    · have hw : regIdx (pgArr c) (arrFlagsF a) ≠ regIdx (pgArr c) (arrFlagsF b) := by
        simp only [regIdx, arrFlagsF]; omega
      rw [s.getF_setF_ne 0 hw]
      simp [hb]

theorem State.arrFlags_softReset (c : Nat) {a : Nat} (h : a < 4) : (s.softReset c).getF (pgArr c) (arrFlagsF a) = 0 := by
  have ho : (arrFlagsF a).off < 4096 := by simp only [arrFlagsF]; omega
  have hp := regIdx_page (pgArr c) (arrFlagsF a) ho
  have hv : regIdx (pgArr c) (arrFlagsF a) / 1024 ≠ pgVec c := by rw [hp]; unfold pgArr pgVec; omega
  have hq : regIdx (pgArr c) (arrFlagsF a) % 1024 ≠ 0x030 / 4 := by simp only [regIdx, arrFlagsF]; omega
  have hs : regIdx (pgArr c) (arrFlagsF a) ≠ regIdx (pgArr c) Reg.ARR_STAT_BUSY := by
    simp only [regIdx, arrFlagsF, Reg.ARR_STAT_BUSY]; omega
  have hf := s.arrFlags_foldl_clear c a (List.range 4)
  rw [if_pos (List.mem_range.mpr h)] at hf
  unfold State.getF at hf ⊢
  rw [s.word_softReset_flags c (.inl hp) hq hs, State.flagsCleared, State.word_setWord_ne _ _ (ne_regIdx_of_page hv),
    State.word_setF_ne _ _ (ne_regIdx_of_page hv), State.word_setF_ne _ _ (ne_regIdx_of_page hv), hf]

/-- The words of the vector page that a soft reset clears. -/
theorem State.word_softReset_vec (c : Nat) (f : Fld) (hf : f.off < 4096) (hq : f.off / 4 ≠ 0x030 / 4) :
    (s.softReset c).word (regIdx (pgVec c) f) = (s.flagsCleared c).word (regIdx (pgVec c) f) := by
  have hp := regIdx_page (pgVec c) f hf
  refine s.word_softReset_flags c (.inr hp) (by unfold regIdx; omega) (ne_regIdx_of_page ?_)
  rw [hp]; unfold pgArr pgVec; omega

theorem State.rowStat_softReset (c : Nat) : (s.softReset c).word (regIdx (pgVec c) Reg.VEC_ROW_STAT_ROW_NAR) = 0 :=
  (s.word_softReset_vec c _ (by decide) (by decide)).trans (State.word_setWord_same _ _ _)

theorem State.sfuFlags_softReset (c : Nat) : (s.softReset c).getF (pgVec c) sfuFlagsF = 0 := by
  unfold State.getF
  rw [s.word_softReset_vec c _ (by decide) (by decide), State.flagsCleared,
    State.word_setWord_ne _ _ (regIdx_ne_off _ _ _ _)]
  exact State.getF_setF_same _ _ _

theorem State.vecFlags_softReset (c : Nat) : (s.softReset c).getF (pgVec c) vecFlagsF = 0 := by
  unfold State.getF
  rw [s.word_softReset_vec c _ (by decide) (by decide), State.flagsCleared,
    State.word_setWord_ne _ _ (regIdx_ne_off _ _ _ _), State.word_setF_ne _ _ (regIdx_ne_off _ _ _ _)]
  exact State.getF_setF_same _ _ _

/-- The accumulator entries of a cluster read zero after its soft reset, and every other entry reads as before. -/
theorem State.am_softReset (c k : Nat) : sget (fun _ => 0) (s.softReset c).am k =
    if 131072 * c ≤ k ∧ k < 131072 * (c + 1) then 0 else sget (fun _ => 0) s.am k := by
  rw [Nat.mul_comm 131072, Nat.mul_comm 131072]
  exact sget_sclear _ s.mems.am _ _ k

theorem State.mem_tiles_softReset (c : Nat) (p : Nat × TileRec) :
    p ∈ (s.softReset c).tiles ↔ p ∈ s.tiles ∧ (p.1 < 256 * c ∨ 256 * (c + 1) ≤ p.1) := by
  rw [Nat.mul_comm 256, Nat.mul_comm 256]
  exact mem_sclear

theorem State.clu_setClu (c c' : Nat) (k : Cluster) : (s.setClu c k).clu c' = if c' = c then k else s.clu c' :=
  sget_sset _ s.clusters c c' k

theorem State.clu_setF (pg : Nat) (f : Fld) (v c : Nat) : (s.setF pg f v).clu c = s.clu c := rfl

/-! ### O10: PG_CTL.SRST of a cluster page -/

/-- SRST of a cluster page that takes writes: at once in a cluster that does not run, else at the next landing. -/
theorem execPgCtlSrst_eq {c val : Nat} (hc : c < 512) (h : s.reaches (pgClu c) = true) (hv : val.testBit 1 = true)
    {u : State} (hu : s.writeReg (pgClu c) 0x010 val true = u) :
    exec (.pgCtlSrst (pgClu c) val) s =
      if u.running c then .next ((u.setClu c { u.clu c with srst := true }).setF (pgClu c) Reg.PG_CTL_SRST 1)
      else .next (u.softReset c) := by
  obtain ⟨hw, ho⟩ := s.reaches_after_cluCtl hc h val
  rw [hu] at hw ho
  change execPgCtlSrst (pgClu c) val s = _
  unfold execPgCtlSrst
  simp only [hu, hw, ho, hv, Bool.not_true, Bool.or_false, Bool.false_eq_true, if_false]

end

/-- Settles O10: the soft reset that acts is `softReset`, whose effects are the laws above; the one that waits sets a mark. -/
theorem clusterSoftReset : Obligations.ClusterSoftReset := by
  intro s c val hc hr hv u
  have hm : u.mems = s.mems := s.writeReg_cluCtl_mems hc hr val
  have hx := execPgCtlSrst_eq s (u := u) hc hr hv rfl
  clear_value u
  constructor
  · intro hrun
    rw [if_neg (by simp [hrun])] at hx
    refine ⟨u.softReset c, hx, u.clu_softReset_same c, u.doc_softReset c, ?_, fun a ha => u.arrFlags_softReset c ha, ?_, ?_, ?_,
      u.vecFlags_softReset c, u.sfuFlags_softReset c, u.rowStat_softReset c, u.srst_softReset c, ?_, ?_, ?_,
      fun c' h => u.clu_softReset_ne h⟩
    · intro a line ha hl
      rw [u.am_softReset, if_pos (by omega)]
    · intro k hk
      rw [u.am_softReset, if_neg (by omega), State.am, State.am, hm]
    · intro p hp
      exact ((u.mem_tiles_softReset c p).mp hp).2
    · intro p hp hk
      refine (u.mem_tiles_softReset c p).mpr ⟨?_, hk⟩
      rw [State.tiles, hm]; exact hp
    · rw [State.mem, State.softReset_mem, hm]
    · rw [State.im, State.softReset_im, hm]
    · rw [State.cat, State.softReset_cat, hm]
  · intro hrun
    rw [if_pos hrun] at hx
    refine ⟨_, hx, ?_, ?_, ?_, fun c' h => ?_⟩
    · rw [State.clu_setF, State.clu_setClu, if_pos rfl]
    · rw [State.getF_setF_same]; rfl
    · rw [State.setF_mems, State.setClu_mems, hm]
    · rw [State.clu_setF, State.clu_setClu, if_neg h]

/-! ### The release of a region (R35, R38, R39, R611) -/

section
variable (s : State)

/-- DEV_RGN_AVAIL without a region. -/
def State.availWithout (s : State) (r : Nat) : Nat :=
  if s.avail r then s.getF pgDev Reg.DEV_RGN_AVAIL_MASK - 2 ^ r else s.getF pgDev Reg.DEV_RGN_AVAIL_MASK

theorem State.testBit_availWithout (r q : Nat) : (s.availWithout r).testBit q = if q = r then false else s.avail q :=
  testBit_without (s.getF pgDev Reg.DEV_RGN_AVAIL_MASK) r q

theorem State.availWithout_lt (r : Nat) : s.availWithout r < 2 ^ 32 := by
  have h : s.getF pgDev Reg.DEV_RGN_AVAIL_MASK < 2 ^ 32 := s.getF_lt _ _
  unfold State.availWithout
  split
  · exact Nat.lt_of_le_of_lt (Nat.sub_le _ _) h
  · exact h

/-- Below the pages of the clusters, taking a region out writes DEV_RGN_AVAIL alone. -/
theorem State.word_takeOut (r : Nat) {j : Nat} (h : j / 1024 < 0x800) :
    (s.takeOut r).word j = (s.setF pgDev Reg.DEV_RGN_AVAIL_MASK (s.availWithout r)).word j := by
  unfold State.takeOut
  simp only []
  rw [State.word_setRgn, foldl_keeps (fun t : State => t.word j) _ (fun t i => t.word_softReset _ (.inl (by unfold pgClu; omega)))]
  rfl

theorem State.getF_takeOut_avail (r : Nat) : (s.takeOut r).getF pgDev Reg.DEV_RGN_AVAIL_MASK = s.availWithout r := by
  unfold State.getF
  rw [s.word_takeOut r (by decide)]
  exact (s.getF_setF_same _ _).trans (Nat.mod_eq_of_lt (s.availWithout_lt r))

theorem State.getF_takeOut (r : Nat) {pg : Nat} (f : Fld) (hp : pg < 0x800) (hd : pg ≠ pgDev)
    (hf : f.off < 4096 := by decide) : (s.takeOut r).getF pg f = s.getF pg f := by
  have hj := regIdx_page pg f hf
  unfold State.getF
  rw [s.word_takeOut r (by rw [hj]; exact hp), s.word_setF_ne _ (ne_regIdx_of_page (by rw [hj]; exact hd))]

theorem State.avail_takeOut (r q : Nat) : (s.takeOut r).avail q = if q = r then false else s.avail q := by
  unfold State.avail
  rw [s.getF_takeOut_avail, s.testBit_availWithout, State.avail]

/-- R611: Foyer service has not begun, the configuration is applied, and every available region is released. -/
def State.foyerDue (s : State) : Bool :=
  s.phase = 2 && s.cur.cfgApplied &&
    (List.range 32).all (fun r => !s.avail r || (s.getF pgPwr Reg.PWR_RGN_REL_MASK).testBit r)

theorem State.foyerCheck_eq : s.foyerCheck =
    if s.foyerDue then (s.setPhase 3).raise pgPwr 0 0x36 0 (leBytes 4 (s.getF pgPwr Reg.PWR_RGN_REL_MASK)) else s := rfl

@[simp] theorem State.foyerCheck_mems : s.foyerCheck.mems = s.mems := by
  rw [s.foyerCheck_eq]
  split
  · rw [State.raise_mems]; rfl
  · rfl

theorem State.word_foyerCheck {j : Nat} (hp : j ≠ regIdx pgPwr Reg.PWR_STAT_PHASE) (he : j ≠ regIdx pgPwr Reg.PG_EVT) :
    s.foyerCheck.word j = s.word j := by
  have hm : j ∉ eventWords pgPwr := by
    change j ∉ [regIdx pgPwr Reg.PG_EVT]
    simpa using he
  rw [s.foyerCheck_eq]
  split
  · exact (State.word_raise _ _ _ _ _ _ hm).trans (s.word_setF_ne _ hp)
  · rfl

theorem State.getF_foyerCheck {pg : Nat} {f : Fld} (hp : regIdx pg f ≠ regIdx pgPwr Reg.PWR_STAT_PHASE)
    (he : regIdx pg f ≠ regIdx pgPwr Reg.PG_EVT) : s.foyerCheck.getF pg f = s.getF pg f := by
  unfold State.getF
  rw [s.word_foyerCheck hp he]

theorem State.avail_foyerCheck (q : Nat) : s.foyerCheck.avail q = s.avail q := by
  unfold State.avail
  rw [s.getF_foyerCheck (by decide) (by decide)]

/-- A raise of an event of the PWR page keeps PHASE and sets the event's bit. -/
theorem State.raise_pwr {bit : Nat} (hb : bit < 32) (code sev : Nat) (data : List Byte) :
    (s.raise pgPwr bit code sev data).phase = s.phase ∧
      ((s.raise pgPwr bit code sev data).getF pgPwr Reg.PG_EVT).testBit bit = true :=
  ⟨s.getF_raise _ _ _ _ _ _ _ (by decide), (s.raise_occurred pgPwr bit code sev data hb).isSet⟩

theorem State.phase_setPhase {p : Nat} (hp : p < 8) : (s.setPhase p).phase = p :=
  (s.getF_setF_same _ _).trans (Nat.mod_eq_of_lt hp)

theorem State.foyerCheck_due (h : s.foyerDue = true) :
    s.foyerCheck.phase = 3 ∧ (s.foyerCheck.getF pgPwr Reg.PG_EVT).testBit 0 = true := by
  rw [s.foyerCheck_eq, if_pos h]
  obtain ⟨hp, he⟩ := (s.setPhase 3).raise_pwr (bit := 0) (by decide) 0x36 0 (leBytes 4 (s.getF pgPwr Reg.PWR_RGN_REL_MASK))
  exact ⟨hp.trans (s.phase_setPhase (by decide)), he⟩

/-- The failed slots and the spare swap of a region as its release shows them (R35, R38). -/
def State.regionShown (s : State) (r m : Nat) : State :=
  let s := s.setF (pgRgn r) Reg.RGN_SLOT_FAIL_SLOTS m
  match s.flash.spares.find? (fun p => p.1 = r) with
  | some (_, i) => (s.setF (pgRgn r) Reg.RGN_SPARE_USED 1).setF (pgRgn r) Reg.RGN_SPARE_LOCAL i
  | none => s

/-- The state in which a region is released, before Foyer service can begin. -/
def State.regionReleased (s : State) (r m : Nat) : State :=
  (s.regionShown r m).setF pgPwr Reg.PWR_RGN_REL_MASK (s.getF pgPwr Reg.PWR_RGN_REL_MASK + 2 ^ r)

theorem execRegionRelease_eq {r failed : Nat} (hp : s.phase = 2 ∨ s.phase = 3) (hf : s.sramFilled = true)
    (ha : s.avail r = true) (hr : (s.getF pgPwr Reg.PWR_RGN_REL_MASK).testBit r = false)
    {m : Nat} (hm : sget (fun _ => 0) s.flash.fails r ||| failed = m) :
    exec (.regionRelease r failed) s = .next (
      if regionOut m then ((s.regionShown r m).takeOut r).foyerCheck
      else (s.regionReleased r m).foyerCheck) := by
  change execRegionRelease r failed s = _
  have h1 : (decide (s.phase ≠ 2) && decide (s.phase ≠ 3)) = false := by
    rcases hp with h | h <;> simp [h]
  unfold execRegionRelease
  simp only [h1, hf, ha, hr, hm, Bool.not_true, Bool.or_false, Bool.false_eq_true, if_false]
  split <;> rfl

theorem State.word_regionShown (r m : Nat) {j : Nat} (h : j / 1024 ≠ pgRgn r) : (s.regionShown r m).word j = s.word j := by
  unfold State.regionShown
  simp only []
  split
  · rw [State.word_setF_ne _ _ (ne_regIdx_of_page h), State.word_setF_ne _ _ (ne_regIdx_of_page h),
      State.word_setF_ne _ _ (ne_regIdx_of_page h)]
  · rw [State.word_setF_ne _ _ (ne_regIdx_of_page h)]

theorem State.getF_regionShown (r m : Nat) {pg : Nat} (f : Fld) (h : pg ≠ pgRgn r) (hf : f.off < 4096 := by decide) :
    (s.regionShown r m).getF pg f = s.getF pg f := by
  unfold State.getF
  rw [s.word_regionShown r m (by rwa [regIdx_page pg f hf])]

@[simp] theorem State.regionShown_mems (r m : Nat) : (s.regionShown r m).mems = s.mems := by
  unfold State.regionShown
  simp only []
  split <;> rfl

@[simp] theorem State.regionShown_brd (r m : Nat) : (s.regionShown r m).brd = s.brd := by
  unfold State.regionShown
  simp only []
  split <;> rfl

theorem State.slotFail_regionShown (r : Nat) {m : Nat} (hm : m < 2 ^ 17) :
    (s.regionShown r m).getF (pgRgn r) Reg.RGN_SLOT_FAIL_SLOTS = m := by
  have h : (s.setF (pgRgn r) Reg.RGN_SLOT_FAIL_SLOTS m).getF (pgRgn r) Reg.RGN_SLOT_FAIL_SLOTS = m :=
    (s.getF_setF_same _ _).trans (Nat.mod_eq_of_lt hm)
  unfold State.regionShown
  simp only []
  split
  · rw [State.getF_setF_off, State.getF_setF_off, h]
  · exact h

/-- The repair record's swap is shown (R35). -/
theorem State.spare_regionShown (r m : Nat) {x : Nat} (hs : s.flash.spares.find? (fun p => p.1 = r) = some (r, x)) (hx : x < 16) :
    (s.regionShown r m).getF (pgRgn r) Reg.RGN_SPARE_USED = 1 ∧ (s.regionShown r m).getF (pgRgn r) Reg.RGN_SPARE_LOCAL = x := by
  have e : s.regionShown r m =
      ((s.setF (pgRgn r) Reg.RGN_SLOT_FAIL_SLOTS m).setF (pgRgn r) Reg.RGN_SPARE_USED 1).setF (pgRgn r) Reg.RGN_SPARE_LOCAL x := by
    unfold State.regionShown
    simp only [State.flash, State.setF_brd] at hs ⊢
    rw [hs]
  rw [e]
  refine ⟨?_, (State.getF_setF_same _ _ _).trans (Nat.mod_eq_of_lt hx)⟩
  rw [State.getF_setF_field, State.getF_setF_same]
  rfl

/-- The swapped cluster of a region is served by slot 16 (R35). -/
theorem State.slotOf_swapped {r x : Nat} (hx : x < 16) (hu : s.getF (pgRgn r) Reg.RGN_SPARE_USED = 1)
    (hl : s.getF (pgRgn r) Reg.RGN_SPARE_LOCAL = x) : s.slotOf (16 * r + x) = 16 := by
  have h1 : regionOf (16 * r + x) = r := by unfold regionOf; omega
  have h2 : (16 * r + x) % 16 = x := by omega
  simp [State.slotOf, State.flag, h1, h2, hu, hl]

/-! ### Full service (R613) -/

/-- The pages below the die managers keep every word of which no clock code is part. -/
theorem State.word_moveClock (d : Nat) {j : Nat} (hd : j / 1024 < 8) (hc : j ≠ regIdx pgPwr Reg.PWR_CLK_CODE) :
    (s.moveClock d).word j = s.word j := by
  have hr : ∀ (t : State) (f0 f1 : Nat), (t.rescale d f0 f1).word j = t.word j := by
    intro t f0 f1
    unfold State.rescale
    split <;> rfl
  unfold State.moveClock
  split
  · rfl
  · unfold State.setClock
    simp only []
    rw [State.word_count_ne _ _ (ne_regIdx_of_page (by unfold pgDie; omega)), hr]
    exact s.word_setF_ne _ hc

/-- Beside registers, a move of a die's clock changes what its clusters and regions still have to run. -/
theorem State.moveClock_keeps (d : Nat) : (s.moveClock d).mems = s.mems ∧ (s.moveClock d).pending = s.pending ∧
    (s.moveClock d).full = s.full := by
  have hr : ∀ (t : State) (f0 f1 : Nat), (t.rescale d f0 f1).mems = t.mems ∧ (t.rescale d f0 f1).pending = t.pending ∧
      (t.rescale d f0 f1).plat = t.plat := by
    intro t f0 f1
    unfold State.rescale
    split <;> exact ⟨rfl, rfl, rfl⟩
  unfold State.moveClock
  split
  · exact ⟨rfl, rfl, rfl⟩
  · unfold State.setClock
    obtain ⟨h1, h2, h3⟩ := hr (s.setClkCode d (s.permit d)) (s.freq d) ((s.setClkCode d (s.permit d)).freq d)
    simp only [State.full, State.count_mems, State.count_pending, State.count_plat]
    exact ⟨h1.trans (s.setClkCode_mems _ _), h2.trans (s.setClkCode_pending _ _),
      (congrArg Plat.full h3).trans (congrArg Plat.full (s.setClkCode_plat _ _))⟩

theorem State.raiseCounters_keeps : s.raiseCounters.regFile = s.regFile ∧ s.raiseCounters.part = s.part ∧
    s.raiseCounters.mems = s.mems ∧ s.raiseCounters.pending = s.pending ∧ s.raiseCounters.plat = s.plat := by
  unfold State.raiseCounters
  split
  · split <;> exact ⟨rfl, rfl, rfl, rfl, rfl⟩
  · exact ⟨rfl, rfl, rfl, rfl, rfl⟩

theorem State.word_raiseCounters (j : Nat) : s.raiseCounters.word j = s.word j := by
  obtain ⟨hr, hp, -⟩ := s.raiseCounters_keeps
  exact State.word_congr (congrArg RegFile.regs hr) hp j

/-- The state in which full service begins, its event raised, and no clock moved yet. -/
def State.fullRaised (s : State) : State :=
  let s := { s.setPhase 4 with plat.full := true }
  let gone := maskOf (s.part.stacks.filter s.stackGone)
  let down := maskOf ((List.range 8).filter (fun k =>
    s.part.hasInst .lnk k && decide (s.getF (pgLnk k) Reg.LNK_STAT_STATE ≠ 5)))
  s.raise pgPwr 1 0x37 0 (leBytes 2 gone ++ leBytes 1 down)

theorem State.beginFull_eq : s.beginFull = ((List.range 4).foldl State.moveClock s.fullRaised).raiseCounters := rfl

theorem State.word_beginFull {j : Nat} (hd : j / 1024 < 8) (hc : j ≠ regIdx pgPwr Reg.PWR_CLK_CODE) :
    s.beginFull.word j = s.fullRaised.word j := by
  rw [s.beginFull_eq, State.word_raiseCounters]
  exact foldl_keeps (fun t : State => t.word j) _ (fun t d => t.word_moveClock d hd hc) _ _

theorem State.fullRaised_keeps : s.fullRaised.mems = s.mems ∧ s.fullRaised.pending = s.pending ∧ s.fullRaised.full = true := by
  unfold State.fullRaised
  simp only [State.full, State.raise_mems, State.raise_pending, State.raise_plat]
  exact ⟨rfl, rfl, trivial⟩

theorem State.beginFull_keeps : s.beginFull.mems = s.mems ∧ s.beginFull.pending = s.pending ∧ s.beginFull.full = true := by
  obtain ⟨h1, h2, h3⟩ := s.fullRaised_keeps
  obtain ⟨-, -, c1, c2, c3⟩ := ((List.range 4).foldl State.moveClock s.fullRaised).raiseCounters_keeps
  rw [s.beginFull_eq]
  refine ⟨c1.trans ?_, c2.trans ?_, (congrArg Plat.full c3).trans ?_⟩
  · rw [foldl_keeps (fun t : State => t.mems) _ (fun t d => (t.moveClock_keeps d).1), h1]
  · rw [foldl_keeps (fun t : State => t.pending) _ (fun t d => (t.moveClock_keeps d).2.1), h2]
  · exact (foldl_keeps (fun t : State => t.full) _ (fun t d => (t.moveClock_keeps d).2.2) _ _).trans h3

/-- What the beginning of full service shows: PHASE reads FULL, and FULL_SERVICE has occurred. -/
theorem State.beginFull_shows : s.beginFull.phase = 4 ∧ (s.beginFull.getF pgPwr Reg.PG_EVT).testBit 1 = true := by
  unfold State.phase State.getF
  rw [s.word_beginFull (by decide) (by decide), s.word_beginFull (by decide) (by decide)]
  obtain ⟨hp, he⟩ := ({ s.setPhase 4 with plat.full := true } : State).raise_pwr (bit := 1) (by decide) 0x37 0 _
  exact ⟨hp.trans (s.phase_setPhase (by decide)), he⟩

theorem State.beginFull_full : s.beginFull.phase = 4 ∧ s.beginFull.full = true ∧
    (s.beginFull.getF pgPwr Reg.PG_EVT).testBit 1 = true ∧ s.beginFull.mems = s.mems ∧ s.beginFull.pending = s.pending := by
  obtain ⟨hp, he⟩ := s.beginFull_shows
  obtain ⟨hm, hq, hf⟩ := s.beginFull_keeps
  exact ⟨hp, hf, he, hm, hq⟩

/-! ### O26: release of a region, and full service -/

/-- A region that leaves service on its release is out, unreleased, and shows its failed slots (R39). -/
theorem State.release_out (r : Nat) {m : Nat} (hr : r < 32) (hm : m < 2 ^ 17) :
    let t := ((s.regionShown r m).takeOut r).foyerCheck
    t.avail r = false ∧ t.getF pgPwr Reg.PWR_RGN_REL_MASK = s.getF pgPwr Reg.PWR_RGN_REL_MASK ∧
      t.getF (pgRgn r) Reg.RGN_SLOT_FAIL_SLOTS = m ∧ ∀ q, q ≠ r → t.avail q = s.avail q := by
  have ha : ∀ q, (s.regionShown r m).avail q = s.avail q := fun q =>
    congrArg (fun n => n.testBit q) (s.getF_regionShown r m _ (by unfold pgDev pgRgn; omega))
  refine ⟨?_, ?_, ?_, fun q hq => ?_⟩
  · rw [State.avail_foyerCheck, State.avail_takeOut, if_pos rfl]
  · rw [State.getF_foyerCheck _ (by decide) (by decide), State.getF_takeOut _ r _ (by decide) (by decide),
      s.getF_regionShown r m _ (by unfold pgPwr pgRgn; omega)]
  · rw [State.getF_foyerCheck _ (regIdx_ne_page _ _ (by unfold pgPwr pgRgn; omega)) (regIdx_ne_page _ _ (by unfold pgPwr pgRgn; omega)),
      State.getF_takeOut _ r _ (by unfold pgRgn; omega) (by unfold pgDev pgRgn; omega), s.slotFail_regionShown r hm]
  · rw [State.avail_foyerCheck, State.avail_takeOut, if_neg hq, ha]

theorem State.getF_regionReleased (r m : Nat) {pg : Nat} (f : Fld) (hp : pg ≠ pgPwr) (hf : f.off < 4096 := by decide) :
    (s.regionReleased r m).getF pg f = (s.regionShown r m).getF pg f := State.getF_setF_page _ _ hp (by decide) hf

theorem State.avail_regionReleased (r m q : Nat) : (s.regionReleased r m).avail q = s.avail q := by
  unfold State.avail
  rw [s.getF_regionReleased r m _ (by decide), s.getF_regionShown r m _ (by unfold pgDev pgRgn; omega)]

theorem State.testBit_regionReleased (r m : Nat) {q : Nat} (hq : q < 32) (h : (s.getF pgPwr Reg.PWR_RGN_REL_MASK).testBit r = false) :
    ((s.regionReleased r m).getF pgPwr Reg.PWR_RGN_REL_MASK).testBit q =
      if q = r then true else (s.getF pgPwr Reg.PWR_RGN_REL_MASK).testBit q := by
  have hw : q < Reg.PWR_RGN_REL_MASK.width := hq
  unfold State.regionReleased
  rw [State.getF_setF_same, Nat.testBit_mod_two_pow, testBit_add_two_pow h, decide_eq_true hw, Bool.true_and]

/-- The release of the last available region makes Foyer service due (R611). -/
theorem State.foyerDue_regionReleased (r m : Nat) (hp : s.phase = 2) (hc : s.cur.cfgApplied = true)
    (hr : (s.getF pgPwr Reg.PWR_RGN_REL_MASK).testBit r = false)
    (h : ∀ q, q < 32 → q ≠ r → s.avail q = true → (s.getF pgPwr Reg.PWR_RGN_REL_MASK).testBit q = true) :
    (s.regionReleased r m).foyerDue = true := by
  have hp' : (s.regionReleased r m).phase = 2 := by
    unfold State.phase State.regionReleased at *
    rw [State.getF_setF_off, s.getF_regionShown r m _ (by unfold pgPwr pgRgn; omega), hp]
  have hc' : (s.regionReleased r m).cur.cfgApplied = true := by
    unfold State.regionReleased
    rw [State.cur, State.setF_brd, State.regionShown_brd]
    exact hc
  simp only [State.foyerDue, hp', hc', decide_true, Bool.true_and, List.all_eq_true, List.mem_range, Bool.or_eq_true, Bool.not_eq_true']
  intro q hq
  rw [s.avail_regionReleased, s.testBit_regionReleased r m hq hr]
  by_cases hqr : q = r
  · exact .inr (if_pos hqr)
  · rw [if_neg hqr]
    by_cases ha : s.avail q = true
    · exact .inr (h q hq hqr ha)
    · exact .inl (by simpa using ha)

/-- A released region is in service, shows its failed slots and its swap, and has its bit of PWR_RGN_REL set (R35, R38, R611). -/
theorem State.release_in {r : Nat} {m : Nat} (hr : r < 32) (hm : m < 2 ^ 17) (ha : s.avail r = true)
    (hrel : (s.getF pgPwr Reg.PWR_RGN_REL_MASK).testBit r = false) :
    let t := (s.regionReleased r m).foyerCheck
    (t.getF pgPwr Reg.PWR_RGN_REL_MASK).testBit r = true ∧ t.getF (pgRgn r) Reg.RGN_SLOT_FAIL_SLOTS = m ∧ t.avail r = true ∧
      t.mems = s.mems ∧
      ∀ x, s.flash.spares.find? (fun p => p.1 = r) = some (r, x) → x < 16 →
        t.getF (pgRgn r) Reg.RGN_SPARE_USED = 1 ∧ t.getF (pgRgn r) Reg.RGN_SPARE_LOCAL = x ∧ t.slotOf (16 * r + x) = 16 := by
  have hg : pgRgn r ≠ pgPwr := by unfold pgPwr pgRgn; omega
  have hk : ∀ f : Fld, f.off < 4096 → (s.regionReleased r m).foyerCheck.getF (pgRgn r) f = (s.regionShown r m).getF (pgRgn r) f := by
    intro f hf
    rw [State.getF_foyerCheck _ (regIdx_ne_page _ _ hg (by decide) hf) (regIdx_ne_page _ _ hg (by decide) hf),
      s.getF_regionReleased r m f hg hf]
  refine ⟨?_, ?_, ?_, ?_, fun x hs hx => ?_⟩
  · rw [State.getF_foyerCheck _ (by decide) (by decide), s.testBit_regionReleased r m hr hrel, if_pos rfl]
  · rw [hk _ (by decide), s.slotFail_regionShown r hm]
  · rw [State.avail_foyerCheck, s.avail_regionReleased, ha]
  · rw [State.foyerCheck_mems, State.regionReleased, State.setF_mems, State.regionShown_mems]
  · obtain ⟨hu, hl⟩ := s.spare_regionShown r m hs hx
    rw [← hk _ (by decide)] at hu hl
    exact ⟨hu, hl, State.slotOf_swapped _ hx hu hl⟩

theorem execFullServiceBegin_eq (h : s.phase = 3) :
    exec .fullServiceBegin s = .next (if s.fullReady then s.beginFull else s) := by
  change execFullServiceBegin s = _
  unfold execFullServiceBegin
  cases s.fullReady <;> simp [h]

theorem execFullServiceTimeout_eq (h : s.phase = 3) (ht : s.t0 + ms 3000 ≤ s.now) :
    exec .fullServiceTimeout s = .next s.beginFull := by
  change execFullServiceTimeout s = _
  unfold execFullServiceTimeout
  simp [h, ht]

end

/-- Settles O26, from what a release leaves in service or takes out, and from what the beginning of full service does. -/
theorem releaseAndFullService : Obligations.ReleaseAndFullService := by
  refine ⟨fun s r failed hr _ hp hf ha hrel => ?_, fun s hp => ⟨fun h => ?_, fun h => ?_, fun h => ?_⟩⟩
  · intro m
    have hx := execRegionRelease_eq s (m := m) hp hf ha hrel rfl
    clear_value m
    refine ⟨fun hm ho => ?_, fun hm ho => ?_⟩
    · rw [if_neg (by simp [ho])] at hx
      obtain ⟨h1, h2, h3, h4, h5⟩ := s.release_in hr hm ha hrel
      exact ⟨_, hx, h1, h2, h3, h4, h5, fun h2 hc hq => State.foyerCheck_due _ (s.foyerDue_regionReleased r m h2 hc hrel hq)⟩
    · rw [if_pos ho] at hx
      obtain ⟨h1, h2, h3, h4⟩ := s.release_out r hr hm
      exact ⟨_, hx, h1, by rw [h2]; exact hrel, h3, h4⟩
  · exact ⟨_, by rw [execFullServiceBegin_eq s hp, if_pos h], s.beginFull_full⟩
  · rw [execFullServiceBegin_eq s hp, if_neg (by simp [h])]
  · exact ⟨_, execFullServiceTimeout_eq s hp h, s.beginFull_full⟩

/-! ### The loss of all volatile state (R55, R609, R629) -/

section
variable (s : State)

/-- An interrupted flash write touches the flash and the draws of free values alone. -/
theorem State.tearFlash_eq : ∃ fl n, s.tearFlash = { s with brd.flash := fl, draw := n } := by
  unfold State.tearFlash
  split
  · exact ⟨s.flash, s.draw, rfl⟩
  · split <;> exact ⟨_, s.draw, rfl⟩
  · split <;> exact ⟨_, s.draw, rfl⟩
  · by_cases hc : (s.cur.flashSent && decide (Config.free s.draw % 2 = 1)) = true
    · exact ⟨_, s.draw + 1, if_pos hc⟩
    · exact ⟨s.flash, s.draw + 1, if_neg hc⟩

theorem State.tearFlash_none (h : s.cur.flashOp = none) : s.tearFlash.flash = s.flash := by
  unfold State.tearFlash
  rw [h]

/-- A firmware slot that was being staged is lost, and the other keeps its record. -/
theorem State.tearFlash_fwStage {b : Bool} {img : FwImage} (h : s.cur.flashOp = some (.fwStage b img)) :
    (if b then s.tearFlash.flash.fwB else s.tearFlash.flash.fwA) = none ∧
      (if b then s.tearFlash.flash.fwA else s.tearFlash.flash.fwB) = (if b then s.flash.fwA else s.flash.fwB) := by
  unfold State.tearFlash
  rw [h]
  cases b <;> exact ⟨rfl, rfl⟩

theorem State.tearFlash_cfgStage {b : Bool} {cfg : CfgRecord} (h : s.cur.flashOp = some (.cfgStage b cfg)) :
    (if b then s.tearFlash.flash.cfgB else s.tearFlash.flash.cfgA) = none ∧
      (if b then s.tearFlash.flash.cfgA else s.tearFlash.flash.cfgB) = (if b then s.flash.cfgA else s.flash.cfgB) := by
  unfold State.tearFlash
  rw [h]
  cases b <;> exact ⟨rfl, rfl⟩

/-- Of a write that stages nothing, the last program took place or did not (log 26). -/
theorem State.tearFlash_write {op : FlashOp} (h : s.cur.flashOp = some op) (hs : op.isStage = false) :
    s.tearFlash.flash = s.flash ∨ s.tearFlash.flash = (s.flashDone op).flash := by
  have e : s.tearFlash = if s.cur.flashSent && decide (Config.free s.draw % 2 = 1) then
      { s with draw := s.draw + 1, brd.flash := (s.flashDone op).flash }
      else { s with draw := s.draw + 1 } := by
    unfold State.tearFlash
    rw [h]
    cases op with
    | fwStage _ _ | cfgStage _ _ => cases hs
    | _ => rfl
  rw [e]
  split
  · exact .inr rfl
  · exact .inl rfl

/-- What is left when all volatile state of `s` is lost, registers and the instant of T0 aside. -/
structure ColdOf (s t : State) (perst powered : Bool) : Prop where
  perst : t.perst = perst
  powered : t.powered = powered
  staged : t.staged = []
  snap : t.snap = []
  mems : t.mems = { leakAt := s.now }
  sched : t.sched = {}
  inq : t.inq = {}
  fabric : t.fabric = {}
  arch : t.arch = {}
  evts : t.evts = {}
  keys : t.keys = []
  part : t.part = s.part
  pending : t.pending = s.pending
  out : t.out = s.out
  now : t.now = s.now
  rot : t.rot = 0
  flash : t.flash = s.tearFlash.flash

theorem State.cold_coldOf (perst powered : Bool) : ColdOf s (s.cold perst powered) perst powered := by
  obtain ⟨fl, n, h⟩ := s.tearFlash_eq
  constructor <;> simp [State.cold, State.reset, h]

theorem State.word_cold (perst powered : Bool) {j : Nat} (hj : j ≠ regIdx pgPwr Reg.PWR_STAT_WARN) :
    (s.cold perst powered).word j = resetWord s.part j := by
  obtain ⟨fl, n, h⟩ := s.tearFlash_eq
  unfold State.cold
  simp only []
  rw [State.word_setF_ne _ _ hj, h]
  rfl

/-- The state in which a bring-up starts (R608, log 27). -/
def State.bringUp (s : State) : State :=
  { (s.cold false true) with plat.t0 := s.now }.setF pgDev Reg.DEV_RGN_AVAIL_MASK (2 ^ 32 - 1)

theorem ColdOf.withT0 {t : State} {perst powered : Bool} (h : ColdOf s t perst powered) (t0 pg : Nat) (f : Fld) (v : Nat) :
    ColdOf s (({ t with plat.t0 := t0 } : State).setF pg f v) perst powered := by
  obtain ⟨h1, h2, h3, h4, h5, h6, h7, h8, h9, h10, h11, h12, h13, h14, h15, h16, h17⟩ := h
  exact ⟨h1, h2, h3, h4, h5, h6, h7, h8, h9, h10, h11, h12, h13, h14, h15, h16, h17⟩

theorem State.word_bringUp {j : Nat} (hw : j ≠ regIdx pgPwr Reg.PWR_STAT_WARN) (ha : j ≠ regIdx pgDev Reg.DEV_RGN_AVAIL_MASK) :
    s.bringUp.word j = resetWord s.part j := (State.word_setF_ne _ _ ha).trans (s.word_cold false true hw)

/-- Every region is in service when a bring-up starts (log 27). -/
theorem State.avail_bringUp {r : Nat} (hr : r < 32) : s.bringUp.avail r = true := by
  unfold State.avail State.bringUp
  rw [State.getF_setF_same, Nat.testBit_mod_two_pow, Nat.testBit_two_pow_sub_one]
  have hw : r < Reg.DEV_RGN_AVAIL_MASK.width := hr
  simp [hr, hw]

theorem execBringUpStart_eq (hp : s.perst = true) (ht : s.tripped = false) : exec .bringUpStart s = .next s.bringUp := by
  change execBringUpStart s = _
  unfold execBringUpStart
  rw [hp, ht]
  rfl

theorem execBringUpStart_ignored (h : s.perst = false ∨ s.tripped = true) : exec .bringUpStart s = .next s := by
  change execBringUpStart s = _
  unfold execBringUpStart
  rcases h with h | h <;> simp [h]

/-! ### The reset of the PCI Express function (R527, R693) -/

/-- The register words that a function reset leaves: those outside the PCI page, but for its sealed window (R537), and outside
the control words of the MSI-X vectors. -/
def fnKeeps (j : Nat) : Bool :=
  (j < pgPci * 1024 || decide (pgPci * 1024 + 1024 ≤ j) || j = regIdx pgPci Reg.PCI_SEALWIN_FIRST
    || j = regIdx pgPci Reg.PCI_SEALWIN_PAGES) &&
  !(decide (0x100 * 1024 ≤ j) && decide (j < 0x108 * 1024) && decide (j % 4 = 3))

/-- The function reset before the host decides the link anew. -/
def State.functionReset (s : State) : State :=
  { s with plat.dma := [], evts.ring := none, evts.ringCancelled := true, plat.bar2Log2 := 30,
           regFile.regs := s.regs.filter (fun p => fnKeeps p.1),
           regFile.staged := sclear s.staged (pgPci * 1024) (pgPci * 1024 + 1024),
           regFile.snap := sclear s.snap (pgPci * 1024) (pgPci * 1024 + 1024) }

theorem execPcieFunctionReset_eq : exec .pcieFunctionReset s = .next s.functionReset.hostLink := by
  change execPcieFunctionReset s = _
  unfold execPcieFunctionReset State.functionReset fnKeeps
  simp only [State.regs, List.filter_filter]
  simp only [Bool.and_comm]

theorem State.word_functionReset (j : Nat) :
    s.functionReset.word j = if fnKeeps j then s.word j else resetWord s.part j :=
  sget_filter_keys (resetWord s.part) fnKeeps s.regs j

/-- The host decides width and rate of its link, and nothing else changes but the draws of free values. -/
theorem State.word_hostLink {j : Nat} (h : j ≠ regIdx pgPci Reg.PCI_STAT_WIDTH) : s.hostLink.word j = s.word j := by
  unfold State.hostLink State.drawFree
  have hs : j ≠ regIdx pgPci Reg.PCI_STAT_SPEED := h
  simp only []
  rw [State.word_setF_ne _ _ hs, State.word_setF_ne _ _ h]
  rfl

theorem State.word_functionReset_link {j : Nat} (h : j ≠ regIdx pgPci Reg.PCI_STAT_WIDTH) :
    s.functionReset.hostLink.word j = if fnKeeps j then s.word j else resetWord s.part j :=
  (State.word_hostLink _ h).trans (s.word_functionReset j)

theorem fnKeeps_pci {off : Nat} (h : off < 4096)
    (hn : off / 4 ∉ [Reg.PCI_STAT_WIDTH.off / 4, Reg.PCI_SEALWIN_FIRST.off / 4, Reg.PCI_SEALWIN_PAGES.off / 4]) :
    fnKeeps (pgPci * 1024 + off / 4) = false := by
  simp only [List.mem_cons, List.not_mem_nil, or_false, not_or] at hn
  obtain ⟨-, h1, h2⟩ := hn
  have e1 : ¬ pgPci * 1024 + off / 4 < pgPci * 1024 := by omega
  have e2 : ¬ pgPci * 1024 + 1024 ≤ pgPci * 1024 + off / 4 := by omega
  simp [fnKeeps, regIdx, e1, e2, h1, h2]

/-- MSI-X vectors are masked at reset (R661). -/
theorem msixCtrl_masked (p : PartNo) {v : Nat} (hv : v < 2048) :
    fnKeeps (msixCtrl v) = false ∧ (resetWord p (msixCtrl v)).getLsbD 0 = true := by
  have e : msixCtrl v = 0x100 * 1024 + 4 * v + 3 := rfl
  have h1 : 0x100 * 1024 ≤ msixCtrl v ∧ msixCtrl v < 0x108 * 1024 ∧ msixCtrl v % 4 = 3 := by omega
  have h2 : 0x100 ≤ msixCtrl v / 1024 ∧ msixCtrl v / 1024 < 0x108 := by omega
  refine ⟨by simp [fnKeeps, h1], ?_⟩
  simp [resetWord, h1, h2]

/-- A word outside the PCI page that controls no vector is left. -/
theorem fnKeeps_other {j : Nat} (hp : j / 1024 ≠ pgPci) (hm : ∀ v, v < 2048 → j ≠ msixCtrl v) : fnKeeps j = true := by
  have h1 : j < pgPci * 1024 ∨ pgPci * 1024 + 1024 ≤ j := by omega
  have h2 : ¬ (0x100 * 1024 ≤ j ∧ j < 0x108 * 1024 ∧ j % 4 = 3) := by
    rintro ⟨hl, hu, h3⟩
    exact hm ((j - 0x100 * 1024) / 4) (by omega) (by unfold msixCtrl; omega)
  simp only [fnKeeps, Bool.and_eq_true, Bool.or_eq_true, decide_eq_true_eq, Bool.not_eq_true', Bool.and_eq_false_iff,
    decide_eq_false_iff_not]
  refine ⟨.inl (.inl h1), ?_⟩
  by_contra hc
  push Not at hc
  exact h2 ⟨hc.1.1, hc.1.2, hc.2⟩

/-- Nothing of the PCI page stays staged or in a snapshot. -/
theorem State.functionReset_staged {p : Nat × Word} (h : p ∈ s.functionReset.hostLink.staged ++ s.functionReset.hostLink.snap) :
    p.1 / 1024 ≠ pgPci := by
  have hc : ∀ m : List (Nat × Word), p ∈ sclear m (pgPci * 1024) (pgPci * 1024 + 1024) → p.1 / 1024 ≠ pgPci := by
    intro m hm
    have := (mem_sclear.mp hm).2
    omega
  rcases List.mem_append.mp h with h | h
  · exact hc _ h
  · exact hc _ h

end

/-- Settles O23: the three commands that lose all volatile state by what `cold` leaves, the function reset by the words it keeps. -/
theorem coldAndFunctionReset : Obligations.ColdAndFunctionReset := by
  refine ⟨fun s i perst powered hi => ?_, fun s h => execBringUpStart_ignored s h, fun s => ?_⟩
  · obtain ⟨t, hx, hc, ht0, hw, ha⟩ : ∃ t, exec i s = .next t ∧ ColdOf s t perst powered ∧ (i = .bringUpStart → t.t0 = s.now) ∧
        WordsKept { State.reset with part := s.part } t
          (regIdx pgPwr Reg.PWR_STAT_WARN :: if i = .bringUpStart then [regIdx pgDev Reg.DEV_RGN_AVAIL_MASK] else []) ∧
        (i = .bringUpStart → ∀ r, r < 32 → t.avail r = true) := by
      rcases hi with ⟨rfl, rfl, rfl⟩ | ⟨rfl, rfl, rfl⟩ | ⟨rfl, hp, ht, rfl, rfl⟩
      · exact ⟨_, rfl, s.cold_coldOf true true, nofun, fun j hj => s.word_cold _ _ (by simpa using hj), nofun⟩
      · exact ⟨_, rfl, s.cold_coldOf true false, nofun, fun j hj => s.word_cold _ _ (by simpa using hj), nofun⟩
      · refine ⟨_, execBringUpStart_eq s hp ht, ColdOf.withT0 s (s.cold_coldOf false true) _ _ _ _, fun _ => rfl, fun j hj => ?_,
          fun _ r hr => s.avail_bringUp hr⟩
        obtain ⟨h1, h2⟩ : j ≠ regIdx pgPwr Reg.PWR_STAT_WARN ∧ j ≠ regIdx pgDev Reg.DEV_RGN_AVAIL_MASK := by simpa using hj
        exact s.word_bringUp h1 h2
    refine ⟨t, hx, hc.perst, hc.powered, ht0, hw, ha, hc.staged, hc.snap, hc.mems, hc.sched, hc.inq, hc.fabric, hc.arch, hc.evts,
      hc.keys, hc.part, hc.pending, hc.out, hc.now, hc.rot, fun h => hc.flash.trans (s.tearFlash_none h),
      fun b img h => ?_, fun b cfg h => ?_, fun op h hs => ?_⟩
    · rw [hc.flash]; exact s.tearFlash_fwStage h
    · rw [hc.flash]; exact s.tearFlash_cfgStage h
    · rw [hc.flash]; exact s.tearFlash_write h hs
  · refine ⟨_, execPcieFunctionReset_eq s, rfl, rfl, rfl, rfl, fun off ho hn => ?_, ?_, ?_, fun p hp => s.functionReset_staged hp,
      fun v hv => ?_, fun j hj hm => ?_, rfl, rfl, rfl, rfl, rfl, rfl, rfl⟩
    · have hs : pgPci * 1024 + off / 4 ≠ regIdx pgPci Reg.PCI_STAT_WIDTH := by
        intro h
        exact hn (by simp [Nat.add_left_cancel h])
      rw [s.word_functionReset_link hs, fnKeeps_pci ho hn]
      rfl
    · exact s.word_functionReset_link (by decide)
    · exact s.word_functionReset_link (by decide)
    · obtain ⟨hk, hr⟩ := msixCtrl_masked s.part hv
      have hs : msixCtrl v ≠ regIdx pgPci Reg.PCI_STAT_WIDTH := ne_regIdx_of_page (by unfold msixCtrl pgPci; omega)
      rw [s.word_functionReset_link hs, hk]
      exact hr
    · rw [s.word_functionReset_link (ne_regIdx_of_page hj), fnKeeps_other hj hm]
      rfl
end Sys2Proof.Machine
end

section
/-! PROOFS of the statements on number formats (spec/02_tapered_formats.md), first part: the rational that each operation on exact
numbers yields, what each rounding mode makes of a magnitude code, then O41. -/
namespace Sys2Proof.Machine

/-! ### The rational of an exact number -/

section
variable (x y : Num)

/-- A power of two of the model, a natural number, as a rational. -/
theorem cast_two_pow_toNat {k : Int} (hk : 0 ≤ k) : (((2 ^ k.toNat : Nat) : Int) : ℚ) = (2 : ℚ) ^ k := by
  rw [Int.cast_natCast, Nat.cast_pow, Nat.cast_ofNat, ← zpow_natCast, Int.toNat_of_nonneg hk]

@[simp] theorem numRat_ofInt (i : Int) : numRat (.ofInt i) = i := by simp [numRat, Num.ofInt]

@[simp] theorem numRat_pow2 (k : Int) : numRat (.pow2 k) = (2 : ℚ) ^ k := by simp [numRat, Num.pow2]

@[simp] theorem numRat_neg : numRat x.neg = - numRat x := by simp [numRat, Num.neg, neg_div]

@[simp] theorem numRat_abs : numRat x.abs = |numRat x| := by
  simp [numRat, Num.abs, abs_div, abs_mul, Nat.cast_natAbs]

@[simp] theorem numRat_scale (k : Int) : numRat (x.scale k) = numRat x * (2 : ℚ) ^ k := by
  unfold numRat Num.scale
  rw [zpow_add₀ (by norm_num)]
  ring

@[simp] theorem numRat_mul : numRat (x.mul y) = numRat x * numRat y := by
  unfold numRat Num.mul
  rw [zpow_add₀ (by norm_num), Int.cast_mul, Nat.cast_mul, div_mul_div_comm]
  ring

/-- The significand at a lower exponent, scaled back. -/
theorem Num.at_mul {e : Int} (h : e ≤ x.e) : (x.at e : ℚ) * (2 : ℚ) ^ e = x.m * (2 : ℚ) ^ x.e := by
  unfold Num.at
  rw [Int.cast_mul, cast_two_pow_toNat (by omega), mul_assoc, ← zpow_add₀ (by norm_num), sub_add_cancel]

variable {x y}

theorem numRat_add (hx : 0 < x.d) (hy : 0 < y.d) : numRat (x.add y) = numRat x + numRat y := by
  have hx' : (x.d : ℚ) ≠ 0 := by positivity
  have hy' : (y.d : ℚ) ≠ 0 := by positivity
  have ex := x.at_mul (min_le_left x.e y.e)
  have ey := y.at_mul (min_le_right x.e y.e)
  unfold Num.add
  split
  · next hd => simp only [numRat, Int.cast_add, add_mul, ex, ey, hd, add_div]
  · simp only [numRat, Int.cast_add, Int.cast_mul, Int.cast_natCast, Nat.cast_mul]
    rw [div_add_div _ _ hx' hy', ← ex, ← ey]
    ring

theorem numRat_sub (hx : 0 < x.d) (hy : 0 < y.d) : numRat (x.sub y) = numRat x - numRat y := by
  rw [Num.sub, numRat_add hx (by exact hy), numRat_neg, sub_eq_add_neg]

theorem numRat_div (hy : numRat y ≠ 0) : numRat (x.div y) = numRat x / numRat y := by
  have hm : (y.m : ℚ) ≠ 0 := by intro h; exact hy (by simp [numRat, h])
  have hd : (y.d : ℚ) ≠ 0 := by intro h; exact hy (by simp [numRat, h])
  have he : (2 : ℚ) ^ y.e ≠ 0 := by positivity
  have hs : ((if y.m < 0 then - (x.m * (y.d : Int)) else x.m * (y.d : Int) : Int) : ℚ) / (y.m.natAbs : ℚ) = x.m * y.d / y.m := by
    rw [Nat.cast_natAbs]
    split
    · next h => rw [abs_of_neg h]; push_cast; rw [neg_div_neg_eq]
    · next h => rw [abs_of_nonneg (by omega)]; push_cast; rfl
  unfold numRat Num.div
  rw [zpow_sub₀ (by norm_num), Nat.cast_mul, mul_comm (x.d : ℚ), ← div_div, mul_div_right_comm, hs]
  field_simp

/-! ### Positive denominators -/

@[simp] theorem Num.scale_d (k : Int) : (x.scale k).d = x.d := rfl

theorem Num.add_d_pos (hx : 0 < x.d) (hy : 0 < y.d) : 0 < (x.add y).d := by
  unfold Num.add
  split
  · exact hx
  · exact Nat.mul_pos hx hy

theorem Num.sub_d_pos (hx : 0 < x.d) (hy : 0 < y.d) : 0 < (x.sub y).d := Num.add_d_pos hx hy

/-! ### Comparisons and the floor -/

theorem Num.isZero_iff (hx : 0 < x.d) : x.isZero = true ↔ numRat x = 0 := by
  have hd : (x.d : ℚ) ≠ 0 := by positivity
  simp [Num.isZero, numRat, hd, zpow_ne_zero]

theorem Num.isNeg_iff (hx : 0 < x.d) : x.isNeg = true ↔ numRat x < 0 := by
  have hd : (0 : ℚ) < x.d := by positivity
  have he : (0 : ℚ) < (2 : ℚ) ^ x.e := by positivity
  rw [Num.isNeg, decide_eq_true_eq, numRat, div_lt_iff₀ hd, zero_mul, mul_neg_iff]
  simp [he, he.not_gt]

theorem Num.lt_iff (hx : 0 < x.d) (hy : 0 < y.d) : x.lt y = true ↔ numRat x < numRat y := by
  rw [Num.lt, Num.isNeg_iff (Num.sub_d_pos hx hy), numRat_sub hx hy, sub_neg]

theorem Num.le_iff (hx : 0 < x.d) (hy : 0 < y.d) : x.le y = true ↔ numRat x ≤ numRat y := by
  rw [Num.le, Bool.not_eq_true', ← Bool.not_eq_true, Num.lt_iff hy hx, not_lt]

theorem Num.floor_eq (x : Num) : x.floor = ⌊numRat x⌋ := by
  unfold Num.floor numRat
  split
  · next h =>
    rw [← cast_two_pow_toNat h, ← Int.cast_mul, Rat.floor_intCast_div_natCast]
  · next h =>
    have e : (x.m : ℚ) * (2 : ℚ) ^ x.e / x.d = (x.m : ℚ) / ((x.d * 2 ^ (- x.e).toNat : Nat) : ℚ) := by
      have := cast_two_pow_toNat (k := - x.e) (by omega)
      rw [Int.cast_natCast] at this
      rw [Nat.cast_mul, this, zpow_neg]
      field_simp
    rw [e, Rat.floor_intCast_div_natCast]

end

/-! ### The binary logarithm -/

/-- The two powers of two that enclose a natural number. -/
theorem zpow_log2_bounds {n : Nat} (hn : n ≠ 0) :
    (2 : ℚ) ^ (n.log2 : Int) ≤ n ∧ (n : ℚ) < (2 : ℚ) ^ ((n.log2 : Int) + 1) := by
  constructor
  · rw [zpow_natCast]; exact_mod_cast Nat.log2_self_le hn
  · have := Nat.lt_log2_self (n := n)
    rw [zpow_add_one₀ two_ne_zero, zpow_natCast, ← pow_succ]; exact_mod_cast this

/-- The difference of the logarithms of numerator and denominator misses the magnitude by less than a factor of two. -/
theorem Num.log2_guess {x : Num} (hd : 0 < x.d) (hm : x.m ≠ 0) {h : Int}
    (hh : h = (Nat.log2 x.m.natAbs : Int) - (Nat.log2 x.d : Int) + x.e) :
    (2 : ℚ) ^ (h - 1) < |numRat x| ∧ |numRat x| < (2 : ℚ) ^ (h + 1) := by
  have key : |numRat x| = (x.m.natAbs : ℚ) * (2 : ℚ) ^ x.e / x.d := by rw [← numRat_abs]; simp [numRat, Num.abs]
  obtain ⟨lm, um⟩ := zpow_log2_bounds (Int.natAbs_ne_zero.mpr hm)
  obtain ⟨ld, ud⟩ := zpow_log2_bounds hd.ne'
  have hd' : (0 : ℚ) < x.d := by positivity
  constructor
  · rw [key, lt_div_iff₀ hd']
    calc (2 : ℚ) ^ (h - 1) * x.d < (2 : ℚ) ^ (h - 1) * (2 : ℚ) ^ ((x.d.log2 : Int) + 1) := by gcongr
      _ = (2 : ℚ) ^ (x.m.natAbs.log2 : Int) * (2 : ℚ) ^ x.e := by
        rw [← zpow_add₀ two_ne_zero, ← zpow_add₀ two_ne_zero]; congr 1; omega
      _ ≤ x.m.natAbs * (2 : ℚ) ^ x.e := by gcongr
  · rw [key, div_lt_iff₀ hd']
    calc (x.m.natAbs : ℚ) * (2 : ℚ) ^ x.e < (2 : ℚ) ^ ((x.m.natAbs.log2 : Int) + 1) * (2 : ℚ) ^ x.e := by gcongr
      _ = (2 : ℚ) ^ (h + 1) * (2 : ℚ) ^ (x.d.log2 : Int) := by
        rw [← zpow_add₀ two_ne_zero, ← zpow_add₀ two_ne_zero]; congr 1; omega
      _ ≤ (2 : ℚ) ^ (h + 1) * x.d := by gcongr

/-- The logarithm of a nonzero number encloses its magnitude. -/
theorem Num.log2_bounds {x : Num} (hd : 0 < x.d) (hm : x.m ≠ 0) :
    (2 : ℚ) ^ x.log2 ≤ |numRat x| ∧ |numRat x| < (2 : ℚ) ^ (x.log2 + 1) := by
  have d1 : 0 < x.abs.d := hd
  have d2 (k : Int) : 0 < (Num.pow2 k).d := Nat.one_pos
  unfold Num.log2
  extract_lets a h
  obtain ⟨lo, hi⟩ := Num.log2_guess hd hm (h := h) rfl
  rw [← numRat_abs] at lo hi ⊢
  split
  · next hlt =>
    rw [Num.lt_iff d1 (d2 _), numRat_pow2] at hlt
    exact ⟨lo.le, by rwa [sub_add_cancel]⟩
  · next hge =>
    rw [Num.lt_iff d1 (d2 _), numRat_pow2, not_lt] at hge
    rw [if_neg (by rw [Num.le_iff (d2 _) d1, numRat_pow2]; exact hi.not_ge)]
    exact ⟨hge, hi⟩

/-- The exponent of the two powers of two that enclose a magnitude is its logarithm. -/
theorem Num.log2_eq {x : Num} (hd : 0 < x.d) {h : Int} (lo : (2 : ℚ) ^ h ≤ |numRat x|) (hi : |numRat x| < (2 : ℚ) ^ (h + 1)) :
    x.log2 = h := by
  have hm : x.m ≠ 0 := by
    intro hm
    have : (0 : ℚ) < (2 : ℚ) ^ h := by positivity
    simp [numRat, hm] at lo
    linarith
  obtain ⟨l, u⟩ := Num.log2_bounds hd hm
  have h1 : h < x.log2 + 1 := (zpow_lt_zpow_iff_right₀ (by norm_num)).mp (lo.trans_lt u)
  have h2 : x.log2 < h + 1 := (zpow_lt_zpow_iff_right₀ (by norm_num)).mp (l.trans_lt hi)
  omega

/-! ### The rounding modes (R91 to R93) -/

section
variable {c : Num} (hd : 0 < c.d)
include hd

/-- The tail of a magnitude code is what its floor leaves. -/
theorem numRat_tail : numRat (c.sub (.ofInt c.floor)) = Int.fract (numRat c) := by
  rw [numRat_sub hd Nat.one_pos, numRat_ofInt, Num.floor_eq, Int.fract]

theorem tail_isZero_iff : (c.sub (.ofInt c.floor)).isZero = true ↔ Int.fract (numRat c) = 0 := by
  rw [Num.isZero_iff (Num.sub_d_pos hd Nat.one_pos), numRat_tail hd]

/-- A code without a tail is kept in every mode. -/
theorem roundCode_exact (rnd : Rnd) (h : Int.fract (numRat c) = 0) : roundCode rnd c = (⌊numRat c⌋.toNat, false) := by
  unfold roundCode
  dsimp only
  rw [if_pos ((tail_isZero_iff hd).mpr h), Num.floor_eq]

/-- A code that is a natural number is that number. -/
theorem roundCode_natCast (rnd : Rnd) {n : Nat} (h : numRat c = n) : roundCode rnd c = (n, false) := by
  rw [roundCode_exact hd rnd (by rw [h, Int.fract_natCast]), h, Int.floor_natCast, Int.toNat_natCast]

/-- R91: twice the tail decides, and at one half the parity of the kept code. -/
theorem roundCode_rne (h : Int.fract (numRat c) ≠ 0) : roundCode .rne c =
    (if Int.fract (numRat c) * 2 < 1 then ⌊numRat c⌋.toNat else if 1 < Int.fract (numRat c) * 2 then ⌊numRat c⌋.toNat + 1
      else if ⌊numRat c⌋.toNat % 2 = 0 then ⌊numRat c⌋.toNat else ⌊numRat c⌋.toNat + 1, true) := by
  have hl := Num.lt_iff (x := (c.sub (.ofInt c.floor)).scale 1) (y := .ofInt 1) (Num.sub_d_pos hd Nat.one_pos) Nat.one_pos
  have hg := Num.lt_iff (x := .ofInt 1) (y := (c.sub (.ofInt c.floor)).scale 1) Nat.one_pos (Num.sub_d_pos hd Nat.one_pos)
  rw [numRat_scale, numRat_tail hd, numRat_ofInt, Int.cast_one, zpow_one] at hl hg
  unfold roundCode
  dsimp only
  rw [if_neg (by rwa [tail_isZero_iff hd])]
  simp only [hl, hg]
  rw [Num.floor_eq]
  split_ifs <;> rfl

/-- R92: the odd one of the two codes around it. -/
theorem roundCode_rto (h : Int.fract (numRat c) ≠ 0) : roundCode .rto c =
    (if ⌊numRat c⌋.toNat % 2 = 0 then ⌊numRat c⌋.toNat + 1 else ⌊numRat c⌋.toNat, true) := by
  unfold roundCode
  dsimp only
  rw [if_neg (by rwa [tail_isZero_iff hd]), Num.floor_eq]

/-- R93: the carry of the first 24 bits of the tail and the draw. -/
theorem roundCode_sr (r : Nat) (h : Int.fract (numRat c) ≠ 0) : roundCode (.sr r) c =
    (if 2 ^ 24 ≤ ⌊Int.fract (numRat c) * 2 ^ 24⌋.toNat + r % 2 ^ 24 then ⌊numRat c⌋.toNat + 1
      else ⌊numRat c⌋.toNat, true) := by
  unfold roundCode
  dsimp only
  rw [if_neg (by rwa [tail_isZero_iff hd]), Num.floor_eq ((c.sub _).scale 24), numRat_scale, numRat_tail hd, Num.floor_eq]
  rfl

end

/-- In every mode a code with a tail is marked inexact. -/
theorem roundCode_inexact {c : Num} (hd : 0 < c.d) (rnd : Rnd) (h : Int.fract (numRat c) ≠ 0) : (roundCode rnd c).2 = true := by
  cases rnd with
  | rne => rw [roundCode_rne hd h]
  | rto => rw [roundCode_rto hd h]
  | sr r => rw [roundCode_sr hd r h]

/-- The distance of the two integers around a code without sign from it. -/
theorem abs_floor_sub {q : ℚ} (hq : 0 ≤ q) : |(((⌊q⌋.toNat : Nat) : Int) : ℚ) - q| = Int.fract q ∧
    |(((⌊q⌋.toNat + 1 : Nat) : Int) : ℚ) - q| = 1 - Int.fract q := by
  have hk : ((⌊q⌋.toNat : Nat) : Int) = ⌊q⌋ := Int.toNat_of_nonneg (Int.floor_nonneg.mpr hq)
  have h0 := Int.fract_nonneg q
  have h1 := Int.fract_lt_one q
  have hf := Int.self_sub_floor q
  rw [Nat.cast_succ, hk, Int.cast_add, Int.cast_one]
  constructor
  · rw [abs_of_nonpos (by linarith)]; linarith
  · rw [abs_of_nonneg (by linarith)]; linarith

/-- Settles O41, by the equation of each mode and the distances of the two integers around the code. -/
theorem roundingModes : Obligations.RoundingModes := by
  intro c hd hq
  have hk : ((⌊numRat c⌋.toNat : Nat) : Int) = ⌊numRat c⌋ := Int.toNat_of_nonneg (Int.floor_nonneg.mpr hq)
  have hint : (⌊numRat c⌋ : ℚ) = numRat c ↔ Int.fract (numRat c) = 0 := by rw [← Int.self_sub_floor, sub_eq_zero, eq_comm]
  have hg : 0 ≤ ⌊Int.fract (numRat c) * 2 ^ 24⌋ := Int.floor_nonneg.mpr (mul_nonneg (Int.fract_nonneg _) (by norm_num))
  obtain ⟨hlo, hhi⟩ := abs_floor_sub hq
  have h0 := Int.fract_nonneg (numRat c)
  have h1 := Int.fract_lt_one (numRat c)
  rcases eq_or_ne (Int.fract (numRat c)) 0 with h | h
  · have hx (m : Rnd) := roundCode_exact hd m h
    have hz := hint.mpr h
    refine ⟨fun m => by simp [hx, hz], fun m _ => by rw [hx, hk, hz], ?_, ?_, fun hne => absurd hz hne, fun r => ?_⟩
    · rw [hx, hlo, h]; norm_num
    · rw [hx, hlo, h]; norm_num
    · have hr : r % 2 ^ 24 < 2 ^ 24 := Nat.mod_lt _ (by positivity)
      rw [hx, hk, Int.self_sub_floor, h, zero_mul, Int.floor_zero, if_neg (by omega), add_zero]
  · have hz : (⌊numRat c⌋ : ℚ) ≠ numRat c := fun e => h (hint.mp e)
    refine ⟨fun m => by rw [roundCode_inexact hd m h, decide_eq_true hz], fun m e => absurd e hz, ?_, ?_, fun _ => ?_, fun r => ?_⟩
    · rw [roundCode_rne hd h]
      dsimp only
      split_ifs <;> simp only [hlo, hhi] <;> linarith
    · rw [roundCode_rne hd h]
      dsimp only
      split_ifs with hlt hgt hev
      · rw [hlo]; intro he; linarith
      · rw [hhi]; intro he; linarith
      · exact fun _ => hev
      · exact fun _ => by omega
    · rw [roundCode_rto hd h]
      dsimp only
      have hp : 0 < Int.fract (numRat c) := h0.lt_of_ne h.symm
      split_ifs
      · exact ⟨by omega, by rw [hhi]; linarith⟩
      · exact ⟨by omega, by rw [hlo]; exact h1⟩
    · rw [roundCode_sr hd r h, Int.self_sub_floor]
      dsimp only
      split_ifs <;> omega

end Sys2Proof.Machine
end

section
/-! PROOFS of the statements on number formats (spec/02_tapered_formats.md), second part: the fields of a posit code, the exponent
and mantissa of an IEEE code, the integer of an INT code, and what rounding makes of each, then O40. -/
namespace Sys2Proof.Machine

/-! ### Signs -/

/-- A magnitude is what its signed number has as absolute value. -/
theorem withSign_abs {x : Num} (h : 0 ≤ x.m) (neg : Bool) : (withSign neg x).abs = x := by
  have e : (x.m.natAbs : Int) = x.m := Int.natAbs_of_nonneg h
  cases neg
  · rw [withSign, if_neg Bool.false_ne_true, Num.abs, e]
  · rw [withSign, if_pos rfl, Num.neg, Num.abs, Int.natAbs_neg, e]

/-- The sign of a nonzero magnitude is the one it was given. -/
theorem withSign_isNeg {x : Num} (h : 0 < x.m) (neg : Bool) : (withSign neg x).isNeg = neg := by
  cases neg <;> simp [withSign, Num.isNeg, Num.neg, h, h.le]

theorem withSign_isZero {x : Num} (h : 0 < x.m) (neg : Bool) : (withSign neg x).isZero = false := by
  cases neg <;> simp [withSign, Num.isZero, Num.neg, h.ne']

/-! ### Posit codes (R63, R64) -/

/-- The exponent in the `nrest` bits `rest` after a regime: bits that are cut off are zeros. -/
def fieldExp (es nrest rest : Nat) : Nat := if es ≤ nrest then rest / 2 ^ (nrest - es) else rest * 2 ^ (es - nrest)

/-- The magnitude that a regime `k` and the `nrest` bits `rest` after it stand for. -/
def fieldMag (es : Nat) (k : Int) (nrest rest : Nat) : Num :=
  { m := ((2 ^ (nrest - es) + rest % 2 ^ (nrest - es) : Nat) : Int),
    e := k * ((2 ^ es : Nat) : Int) + (fieldExp es nrest rest : Int) - ((nrest - es : Nat) : Int) }

/-- Bits of a regime with its terminating bit. -/
def regLen (k : Int) : Int := if 0 ≤ k then k + 2 else 1 - k

/-- The bits of a regime with its terminating bit, as a number. -/
def regVal (k : Int) : Int := if 0 ≤ k then ((2 ^ (k + 2).toNat : Nat) : Int) - 2 else 1

/-- The magnitude code `a` of `n` bits is regime `k` and `nrest` bits `rest`; the regime of the greatest code has no
terminating bit. -/
def PositFields (n a : Nat) (k : Int) (nrest rest : Nat) : Prop :=
  (regLen k + nrest = (n : Int) - 1 ∧ (a : Int) = regVal k * 2 ^ nrest + rest ∧ rest < 2 ^ nrest) ∨
  (k = (n : Int) - 2 ∧ 2 ≤ n ∧ a + 1 = 2 ^ (n - 1) ∧ nrest = 0 ∧ rest = 0)

/-- The magnitude code of a posit code (R64). -/
def positMag (n c : Nat) : Nat := if c.testBit (n - 1) then 2 ^ n - c else c

theorem runLen_succ_same {c i : Nat} {r : Bool} (h : c.testBit (i + 1) = r) : runLen c r (i + 1) = runLen c r i + 1 := by
  simp [runLen, h, Nat.add_comm]

theorem runLen_succ_other {c i : Nat} {r : Bool} (h : c.testBit (i + 1) = !r) : runLen c r (i + 1) = 0 := by
  simp [runLen, h]

theorem runLen_pos {c i : Nat} {r : Bool} (h : c.testBit i = r) : 0 < runLen c r i := by
  cases i with
  | zero => simp [runLen, h]
  | succ i => rw [runLen_succ_same h]; omega

theorem runLen_le (c : Nat) (r : Bool) (i : Nat) : runLen c r i ≤ i + 1 := by
  induction i with
  | zero => unfold runLen; split <;> omega
  | succ i ih => unfold runLen; split <;> omega

/-- The low `i + 1` bits of a number whose bit `i` is known. -/
theorem mod_two_pow_succ_of_testBit {c i : Nat} {b : Bool} (h : c.testBit i = b) :
    c % 2 ^ (i + 1) = c % 2 ^ i + 2 ^ i * b.toNat := by
  rw [Nat.mod_pow_succ, ← Nat.toNat_testBit, h]

/-- A run of ones: the number lies between the least number that has it and the least that has a longer one. -/
theorem runLen_true (c i : Nat) : 2 ^ (i + 1) ≤ c % 2 ^ (i + 1) + 2 ^ (i + 1 - runLen c true i) ∧
    (runLen c true i ≤ i → c % 2 ^ (i + 1) + 2 ^ (i - runLen c true i) < 2 ^ (i + 1)) := by
  induction i with
  | zero =>
    have h := mod_two_pow_succ_of_testBit (c := c) (i := 0) rfl
    cases hb : c.testBit 0 <;> simp [runLen, hb] at h ⊢ <;> omega
  | succ i ih =>
    have hp : 2 ^ (i + 1 + 1) = 2 * 2 ^ (i + 1) := by ring
    have hlt : c % 2 ^ (i + 1) < 2 ^ (i + 1) := Nat.mod_lt _ (by positivity)
    cases hb : c.testBit (i + 1)
    · have h := mod_two_pow_succ_of_testBit hb
      rw [runLen_succ_other hb, Nat.sub_zero, Nat.sub_zero]
      simp only [Bool.toNat_false] at h
      omega
    · have h := mod_two_pow_succ_of_testBit hb
      rw [runLen_succ_same hb, Nat.add_sub_add_right, Nat.add_sub_add_right]
      simp only [Bool.toNat_true] at h
      omega

/-- A run of zeros: the number lies between the least number that has no longer one and the least that has a shorter one. -/
theorem runLen_false (c i : Nat) : c % 2 ^ (i + 1) < 2 ^ (i + 1 - runLen c false i) ∧
    (runLen c false i ≤ i → 2 ^ (i - runLen c false i) ≤ c % 2 ^ (i + 1)) := by
  induction i with
  | zero =>
    have h := mod_two_pow_succ_of_testBit (c := c) (i := 0) rfl
    cases hb : c.testBit 0 <;> simp [runLen, hb] at h ⊢ <;> omega
  | succ i ih =>
    have hp : c % 2 ^ (i + 1 + 1) < 2 ^ (i + 1 + 1) := Nat.mod_lt _ (by positivity)
    cases hb : c.testBit (i + 1)
    · have h := mod_two_pow_succ_of_testBit hb
      rw [runLen_succ_same hb, Nat.add_sub_add_right, Nat.add_sub_add_right]
      simp only [Bool.toNat_false] at h
      omega
    · have h := mod_two_pow_succ_of_testBit hb
      rw [runLen_succ_other hb, Nat.sub_zero, Nat.sub_zero]
      simp only [Bool.toNat_true] at h
      omega

theorem regVal_ones {m : Nat} (h : 0 < m) : regVal ((m : Int) - 1) = 2 ^ (m + 1) - 2 := by
  have e : ((m : Int) - 1 + 2).toNat = m + 1 := by omega
  rw [regVal, if_pos (by omega), e]
  push_cast
  rfl

theorem regVal_neg {k : Int} (h : k < 0) : regVal k = 1 := if_neg (by omega)

/-- The leading bits of a number that has a run of `m` ones: the run and its terminating zero. -/
theorem div_of_ones {a i m : Nat} (hm : m ≤ i) (lo : 2 ^ (i + 1) ≤ a + 2 ^ (i + 1 - m)) (hi : a + 2 ^ (i - m) < 2 ^ (i + 1)) :
    a / 2 ^ (i - m) = 2 ^ (m + 1) - 2 := by
  have hp : 2 ^ (i + 1) = 2 ^ (m + 1) * 2 ^ (i - m) := by rw [← pow_add]; congr 1; omega
  have hp1 : 2 ^ (i + 1 - m) = 2 * 2 ^ (i - m) := by rw [← pow_succ']; congr 1; omega
  have h2 : 2 ≤ 2 ^ (m + 1) := Nat.pow_le_pow_right (n := 2) (by omega) (show 1 ≤ m + 1 by omega)
  refine Nat.div_eq_of_lt_le ?_ ?_
  · rw [Nat.sub_mul]; omega
  · rw [show 2 ^ (m + 1) - 2 + 1 = 2 ^ (m + 1) - 1 by omega, Nat.sub_mul, one_mul]; omega

/-- The leading bits of a number that has a run of `m` zeros: the run and its terminating one. -/
theorem div_of_zeros {a i m : Nat} (hm : m ≤ i) (lo : 2 ^ (i - m) ≤ a) (hi : a < 2 ^ (i + 1 - m)) : a / 2 ^ (i - m) = 1 := by
  have hp1 : 2 ^ (i + 1 - m) = 2 * 2 ^ (i - m) := by rw [← pow_succ']; congr 1; omega
  exact Nat.div_eq_of_lt_le (by omega) (by omega)

/-- The regime that decoding reads off a magnitude code, and what is left after it. -/
theorem positFields {n a : Nat} (hn : 2 ≤ n) (h0 : 0 < a) (ha : a < 2 ^ (n - 1)) {r : Bool} (hr : a.testBit (n - 2) = r) :
    PositFields n a (if r then (runLen a r (n - 2) : Int) - 1 else - (runLen a r (n - 2) : Int))
      (n - 1 - (runLen a r (n - 2) + 1)) (a % 2 ^ (n - 1 - (runLen a r (n - 2) + 1))) := by
  obtain ⟨i, rfl⟩ : ∃ i, n = i + 2 := ⟨n - 2, by omega⟩
  simp only [Nat.add_sub_cancel, show i + 2 - 1 = i + 1 by omega, Nat.add_sub_add_right] at ha hr ⊢
  have hle := runLen_le a r i
  have hpos := runLen_pos hr
  have hmod : a % 2 ^ (i + 1) = a := Nat.mod_eq_of_lt ha
  cases r with
  | true =>
    obtain ⟨lo, hi⟩ := runLen_true a i
    rw [hmod] at lo hi
    generalize runLen a true i = m at *
    rcases Nat.lt_or_ge i m with hm | hm
    · obtain rfl : m = i + 1 := by omega
      rw [Nat.sub_self] at lo
      exact .inr ⟨by rw [if_pos rfl]; push_cast; ring, by omega, by simp; omega, by omega, by simp [Nat.mod_one]⟩
    · have hi := hi hm
      have h2 : 2 ≤ 2 ^ (m + 1) := Nat.pow_le_pow_right (n := 2) (by omega) (show 1 ≤ m + 1 by omega)
      have hdm := Nat.div_add_mod a (2 ^ (i - m))
      refine .inl ⟨?_, ?_, Nat.mod_lt _ (by positivity)⟩
      · rw [if_pos rfl, regLen, if_pos (by omega)]; omega
      · rw [if_pos rfl, regVal_ones hpos]
        have e : ((2 ^ (m + 1) - 2 : Nat) : Int) = 2 ^ (m + 1) - 2 := by rw [Nat.cast_sub h2]; norm_cast
        rw [← e, ← div_of_ones hm lo hi, mul_comm]
        exact_mod_cast hdm.symm
  | false =>
    obtain ⟨lo, hi⟩ := runLen_false a i
    rw [hmod] at lo hi
    generalize runLen a false i = m at *
    have hm : m ≤ i := by
      by_contra hm
      rw [show i + 1 - m = 0 by omega] at lo
      omega
    have hdm := Nat.div_add_mod a (2 ^ (i - m))
    refine .inl ⟨?_, ?_, Nat.mod_lt _ (by positivity)⟩
    · rw [if_neg Bool.false_ne_true, regLen, if_neg (by omega)]; omega
    · rw [if_neg Bool.false_ne_true, regVal_neg (by omega)]
      rw [div_of_zeros hm (hi hm) lo, mul_comm] at hdm
      exact_mod_cast hdm.symm

/-- A code that is neither zero nor NaR stands for the signed magnitude of its fields. -/
theorem decodePosit_eq {n es c : Nat} (hn : 2 ≤ n) (hc : c < 2 ^ n) (h0 : c ≠ 0) (hN : c ≠ 2 ^ (n - 1)) :
    0 < positMag n c ∧ positMag n c < 2 ^ (n - 1) ∧ ∃ k nrest rest, PositFields n (positMag n c) k nrest rest ∧
      decodePosit n es c = .fin (withSign (c.testBit (n - 1)) (fieldMag es k nrest rest)) := by
  have hp : 2 ^ n = 2 * 2 ^ (n - 1) := by rw [← pow_succ']; congr 1; omega
  have hs : c.testBit (n - 1) = true ↔ 2 ^ (n - 1) ≤ c := by
    have h := mod_two_pow_succ_of_testBit (c := c) (i := n - 1) rfl
    rw [Nat.sub_add_cancel (by omega), Nat.mod_eq_of_lt hc] at h
    have := Nat.mod_lt c (show 0 < 2 ^ (n - 1) by positivity)
    cases hb : c.testBit (n - 1) <;> rw [hb] at h <;> simp at h ⊢ <;> omega
  have hm : 0 < positMag n c ∧ positMag n c < 2 ^ (n - 1) := by
    unfold positMag
    split
    · next h => have := hs.mp h; omega
    · next h => have := mt hs.mpr h; omega
  refine ⟨hm.1, hm.2, _, _, _, positFields hn hm.1 hm.2 rfl, ?_⟩
  unfold decodePosit
  simp only [Nat.mod_eq_of_lt hc, if_neg h0, if_neg hN]
  rfl

/-- The fraction in the bits after a regime. -/
def fieldFrac (es nrest rest : Nat) : ℚ := ((rest % 2 ^ (nrest - es) : Nat) : ℚ) / 2 ^ (nrest - es)

theorem fieldFrac_nonneg (es nrest rest : Nat) : 0 ≤ fieldFrac es nrest rest := by unfold fieldFrac; positivity

theorem fieldFrac_lt_one (es nrest rest : Nat) : fieldFrac es nrest rest < 1 := by
  rw [fieldFrac, div_lt_one (by positivity)]
  exact_mod_cast Nat.mod_lt rest (by positivity)

theorem fieldExp_lt {es nrest rest : Nat} (h : rest < 2 ^ nrest) : fieldExp es nrest rest < 2 ^ es := by
  unfold fieldExp
  split
  · rwa [Nat.div_lt_iff_lt_mul (by positivity), ← pow_add, Nat.add_sub_cancel' (by assumption)]
  · calc rest * 2 ^ (es - nrest) < 2 ^ nrest * 2 ^ (es - nrest) := Nat.mul_lt_mul_of_pos_right h (by positivity)
      _ = 2 ^ es := by rw [← pow_add]; congr 1; omega

/-- Exponent and fraction together are the bits after the regime. -/
theorem fieldExp_add_frac (es nrest rest : Nat) :
    (fieldExp es nrest rest : ℚ) + fieldFrac es nrest rest = rest * (2 : ℚ) ^ ((es : Int) - nrest) := by
  unfold fieldExp fieldFrac
  split
  · next h =>
    have e : (2 : ℚ) ^ ((es : Int) - nrest) = (2 ^ (nrest - es) : ℚ)⁻¹ := by
      rw [← zpow_natCast, ← zpow_neg]; congr 1; omega
    have hp : (2 ^ (nrest - es) : ℚ) ≠ 0 := by positivity
    rw [e, ← div_eq_mul_inv, eq_div_iff hp, add_mul, div_mul_cancel₀ _ hp]
    exact_mod_cast Nat.div_add_mod' rest (2 ^ (nrest - es))
  · next h =>
    have e : (2 : ℚ) ^ ((es : Int) - nrest) = 2 ^ (es - nrest) := by
      rw [← zpow_natCast]; congr 1; omega
    rw [e, show nrest - es = 0 by omega]
    simp [Nat.mod_one]

theorem numRat_fieldMag (es : Nat) (k : Int) (nrest rest : Nat) : numRat (fieldMag es k nrest rest) =
    (1 + fieldFrac es nrest rest) * (2 : ℚ) ^ (k * 2 ^ es + fieldExp es nrest rest) := by
  have hp : (2 ^ (nrest - es) : ℚ) ≠ 0 := by positivity
  unfold numRat fieldMag fieldFrac
  rw [zpow_sub₀ two_ne_zero, zpow_natCast, Int.cast_natCast, Nat.cast_add, Nat.cast_pow, Nat.cast_pow, Nat.cast_ofNat,
    one_add_div hp, Nat.cast_one, div_one, mul_div_assoc', div_mul_eq_mul_div]
  rfl

/-- The regime and the exponent make up the binary logarithm. -/
theorem log2_fieldMag (es : Nat) (k : Int) (nrest rest : Nat) :
    (fieldMag es k nrest rest).log2 = k * 2 ^ es + fieldExp es nrest rest := by
  have hf := fieldFrac_nonneg es nrest rest
  have hf1 := fieldFrac_lt_one es nrest rest
  have hp : (0 : ℚ) < (2 : ℚ) ^ (k * 2 ^ es + fieldExp es nrest rest : Int) := by positivity
  refine Num.log2_eq Nat.one_pos ?_ ?_ <;> rw [numRat_fieldMag, abs_of_pos (by positivity)]
  · nlinarith
  · rw [zpow_add_one₀ two_ne_zero]; nlinarith

theorem PositFields.rest_lt {n a : Nat} {k : Int} {nrest rest : Nat} (h : PositFields n a k nrest rest) : rest < 2 ^ nrest := by
  rcases h with ⟨-, -, h⟩ | ⟨-, -, -, rfl, rfl⟩
  · exact h
  · exact Nat.one_pos

/-- The code of the magnitude is the code that was decoded (R63, R90). -/
theorem numRat_positCode {n es a : Nat} {k : Int} {nrest rest : Nat} (h : PositFields n a k nrest rest) :
    numRat (positCode n es (fieldMag es k nrest rest)) = a := by
  have he : (fieldExp es nrest rest : Int) < 2 ^ es := by exact_mod_cast fieldExp_lt h.rest_lt
  have hq : (k * 2 ^ es + fieldExp es nrest rest) / 2 ^ es = k := by
    rw [Int.mul_comm, Int.add_comm, Int.add_mul_ediv_left _ _ (by positivity), Int.ediv_eq_zero_of_lt (by omega) he, zero_add]
  have hr : (k * 2 ^ es + fieldExp es nrest rest) % 2 ^ es = fieldExp es nrest rest := by
    rw [Int.mul_comm, Int.add_comm, Int.add_mul_emod_self_left, Int.emod_eq_of_lt (by omega) he]
  have hc : positCode n es (fieldMag es k nrest rest) = ((Num.ofInt (regVal k * 2 ^ es + fieldExp es nrest rest - 1)).add
      ((fieldMag es k nrest rest).scale (-(k * 2 ^ es + fieldExp es nrest rest)))).scale (n - 1 - regLen k - es) := by
    unfold positCode
    simp only [log2_fieldMag, Nat.cast_pow, Nat.cast_ofNat, hq, hr]
    rfl
  have hm : numRat ((fieldMag es k nrest rest).scale (-(k * 2 ^ es + fieldExp es nrest rest))) = 1 + fieldFrac es nrest rest := by
    rw [numRat_scale, numRat_fieldMag, mul_assoc, ← zpow_add₀ two_ne_zero, add_neg_cancel, zpow_zero, mul_one]
  have hx := fieldExp_add_frac es nrest rest
  rw [hc, numRat_scale, numRat_add Nat.one_pos (by exact Nat.one_pos), hm, numRat_ofInt]
  push_cast
  rw [show (regVal k : ℚ) * 2 ^ es + fieldExp es nrest rest - 1 + (1 + fieldFrac es nrest rest) =
    regVal k * 2 ^ es + rest * (2 : ℚ) ^ ((es : Int) - nrest) by rw [← hx]; ring]
  rcases h with ⟨hl, ha, -⟩ | ⟨rfl, hn, ha, rfl, rfl⟩
  · have ha' : (a : ℚ) = regVal k * 2 ^ nrest + rest := by exact_mod_cast congrArg (Int.cast : Int → ℚ) ha
    rw [show (n : Int) - 1 - regLen k - es = nrest - es by omega, add_mul, mul_assoc (rest : ℚ), ← zpow_add₀ two_ne_zero, ha',
      zpow_sub₀ two_ne_zero, zpow_natCast, zpow_natCast]
    field_simp
    simp
  · have hv : (regVal ((n : Int) - 2) : ℚ) = 2 * a := by
      have e : (2 : Int) ^ n = 2 * (a + 1) := by
        rw [show n = n - 1 + 1 by omega, pow_succ']; exact_mod_cast congrArg (2 * ·) ha.symm
      have := regVal_ones (m := n - 1) (by omega)
      rw [show ((n - 1 : Nat) : Int) - 1 = n - 2 by omega, Nat.sub_add_cancel (by omega), e] at this
      rw [this]; push_cast; ring
    have hl : (n : Int) - 1 - regLen (n - 2) - es = -1 - es := by rw [regLen, if_pos (by omega)]; omega
    rw [hv, hl, Nat.cast_zero, zero_mul, add_zero, zpow_sub₀ two_ne_zero, zpow_neg_one, zpow_natCast]
    field_simp

/-- The magnitude of a code lies in the range of its format. -/
theorem fieldMag_bounds {n a : Nat} (es : Nat) {k : Int} {nrest rest : Nat} (h : PositFields n a k nrest rest) :
    numRat (minpos n es) ≤ numRat (fieldMag es k nrest rest) ∧ numRat (fieldMag es k nrest rest) ≤ numRat (maxpos n es) := by
  have hm : (fieldMag es k nrest rest).m ≠ 0 := by unfold fieldMag; positivity
  have hpos : 0 < numRat (fieldMag es k nrest rest) := by
    have := fieldFrac_nonneg es nrest rest
    rw [numRat_fieldMag]; positivity
  obtain ⟨lo, hi⟩ := Num.log2_bounds Nat.one_pos hm
  rw [abs_of_pos hpos, log2_fieldMag] at lo hi
  have he : (fieldExp es nrest rest : Int) + 1 ≤ 2 ^ es := by exact_mod_cast fieldExp_lt h.rest_lt
  have hes : (0 : Int) < 2 ^ es := by positivity
  have hk : -((n - 2 : Nat) : Int) ≤ k ∧
      (k + 1 ≤ (n - 2 : Nat) ∨ k = (n : Int) - 2 ∧ 2 ≤ n ∧ nrest = 0 ∧ rest = 0) := by
    rcases h with ⟨hl, -, -⟩ | ⟨rfl, hn, -, h1, h2⟩
    · unfold regLen at hl
      split at hl <;> omega
    · exact ⟨by omega, .inr ⟨rfl, hn, h1, h2⟩⟩
  unfold minpos maxpos
  rw [numRat_pow2, numRat_pow2]
  push_cast
  constructor
  · refine (zpow_le_zpow_right₀ one_le_two ?_).trans lo
    nlinarith [hk.1]
  · rcases hk.2 with h1 | ⟨rfl, hn, rfl, rfl⟩
    · refine hi.le.trans (zpow_le_zpow_right₀ one_le_two ?_)
      nlinarith
    · have e : (fieldExp es 0 0 : Int) = 0 := by simp [fieldExp]
      have f : fieldFrac es 0 0 = 0 := by simp [fieldFrac]
      rw [numRat_fieldMag, e, f, add_zero, one_mul, add_zero, Nat.cast_sub hn]
      rfl

/-- R91 to R94: a magnitude in the range of the format whose code is a natural number keeps that code, with no flag. -/
theorem encodePosit_exact {n es a : Nat} {x : Num} (hd : 0 < x.d) (hm : 0 < x.m) (lo : numRat (minpos n es) ≤ numRat x)
    (hi : numRat x ≤ numRat (maxpos n es)) (hc : numRat (positCode n es x) = a) (h0 : 0 < a) (ha : a < 2 ^ (n - 1)) (rnd : Rnd)
    (neg : Bool) : encodePosit n es rnd (.fin (withSign neg x)) = (positSigned n neg a, {}) := by
  have hcd : 0 < (positCode n es x).d := Num.add_d_pos Nat.one_pos (by exact hd)
  have h1 : (maxpos n es).lt x = false := by rw [← Bool.not_eq_true, Num.lt_iff (by exact Nat.one_pos) hd]; exact hi.not_gt
  have h2 : x.lt (minpos n es) = false := by rw [← Bool.not_eq_true, Num.lt_iff hd (by exact Nat.one_pos)]; exact lo.not_gt
  unfold encodePosit
  simp only [withSign_isZero hm, withSign_abs hm.le, withSign_isNeg hm, h1, h2, roundCode_natCast hcd rnd hc,
    Bool.false_eq_true, if_false, if_neg h0.ne', if_neg ha.not_ge]

/-- The sign and the magnitude code of a code give the code back (R64). -/
theorem positSigned_positMag {n c : Nat} (hc : c < 2 ^ n) : positSigned n (c.testBit (n - 1)) (positMag n c) = c := by
  unfold positSigned positMag
  split
  · rw [Nat.sub_sub_self hc.le, Nat.mod_eq_of_lt hc]
  · rfl

/-- R63: every posit code but NaR survives its value. -/
theorem encodePosit_decodePosit {n es c : Nat} {x : Num} (hn : 2 ≤ n) (hc : c < 2 ^ n) (rnd : Rnd)
    (h : decodePosit n es c = .fin x) : encodePosit n es rnd (.fin x) = (c, {}) := by
  rcases eq_or_ne c 0 with rfl | h0
  · have : decodePosit n es 0 = .fin .zero := by simp [decodePosit]
    rw [this] at h
    cases h
    rfl
  have hN : c ≠ 2 ^ (n - 1) := by
    rintro rfl
    simp [decodePosit, Nat.mod_eq_of_lt hc] at h
  obtain ⟨hp, hlt, k, nrest, rest, hf, hd⟩ := decodePosit_eq (es := es) hn hc h0 hN
  rw [hd] at h
  cases h
  obtain ⟨lo, hi⟩ := fieldMag_bounds es hf
  rw [encodePosit_exact Nat.one_pos (by unfold fieldMag; positivity) lo hi (numRat_positCode hf) hp hlt, positSigned_positMag hc]

/-! ### IEEE codes (R77, R83, R84) -/

/-- The magnitude of a normal code. -/
theorem numRat_decodeMag_normal {mb bias a : Nat} (h : 2 ^ mb ≤ a) : numRat (decodeMag mb bias a) =
    ((2 ^ mb + a % 2 ^ mb : Nat) : ℚ) * (2 : ℚ) ^ (((a / 2 ^ mb : Nat) : Int) - bias - mb) := by
  unfold decodeMag
  dsimp only
  rw [if_neg (Nat.div_pos h (by positivity)).ne']
  simp only [numRat, Nat.cast_one, div_one, Int.cast_natCast]

/-- The magnitude of a subnormal code. -/
theorem numRat_decodeMag_subnormal {mb bias a : Nat} (h : a < 2 ^ mb) :
    numRat (decodeMag mb bias a) = (a : ℚ) * (2 : ℚ) ^ (1 - (bias : Int) - mb) := by
  unfold decodeMag
  rw [if_pos (Nat.div_eq_of_lt h), Nat.mod_eq_of_lt h]
  simp [numRat]

theorem decodeMag_d (mb bias a : Nat) : (decodeMag mb bias a).d = 1 := by unfold decodeMag; dsimp only; split <;> rfl

theorem decodeMag_m_pos {mb bias a : Nat} (h : 0 < a) : 0 < (decodeMag mb bias a).m := by
  unfold decodeMag
  dsimp only
  split
  · next he =>
    have hlt : a < 2 ^ mb := (Nat.div_eq_zero_iff_lt (by positivity)).mp he
    simpa [Nat.mod_eq_of_lt hlt] using h
  · positivity

/-- The exponent of a normal code is its binary logarithm. -/
theorem log2_decodeMag_normal {mb bias a : Nat} (h : 2 ^ mb ≤ a) :
    (decodeMag mb bias a).log2 = ((a / 2 ^ mb : Nat) : Int) - bias := by
  have hr : a % 2 ^ mb < 2 ^ mb := Nat.mod_lt _ (by positivity)
  have e (k : Nat) : (2 : ℚ) ^ (((a / 2 ^ mb : Nat) : Int) - bias - mb) * 2 ^ (mb + k) =
      (2 : ℚ) ^ (((a / 2 ^ mb : Nat) : Int) - bias + k) := by
    rw [← zpow_natCast, ← zpow_add₀ two_ne_zero]; congr 1; push_cast; ring
  refine Num.log2_eq (by rw [decodeMag_d]; exact Nat.one_pos) ?_ ?_ <;>
    rw [numRat_decodeMag_normal h, abs_of_nonneg (by positivity), mul_comm]
  · have := e 0
    rw [Nat.cast_zero, add_zero, add_zero] at this
    rw [← this]
    gcongr
    exact_mod_cast Nat.le_add_right _ _
  · have := e 1
    rw [Nat.cast_one] at this
    rw [← this]
    gcongr
    have : 2 ^ mb + a % 2 ^ mb < 2 ^ (mb + 1) := by rw [pow_succ]; omega
    exact_mod_cast this

/-- A subnormal magnitude lies below the normal ones. -/
theorem log2_decodeMag_subnormal {mb bias a : Nat} (h : a < 2 ^ mb) (h0 : 0 < a) : (decodeMag mb bias a).log2 ≤ - (bias : Int) := by
  have hd : 0 < (decodeMag mb bias a).d := by rw [decodeMag_d]; exact Nat.one_pos
  obtain ⟨lo, -⟩ := Num.log2_bounds hd (decodeMag_m_pos h0).ne'
  have hi : (a : ℚ) * (2 : ℚ) ^ (1 - (bias : Int) - mb) < (2 : ℚ) ^ (1 - (bias : Int)) := by
    calc (a : ℚ) * (2 : ℚ) ^ (1 - (bias : Int) - mb) < (2 : ℚ) ^ mb * (2 : ℚ) ^ (1 - (bias : Int) - mb) := by
          gcongr; exact_mod_cast h
      _ = (2 : ℚ) ^ (1 - (bias : Int)) := by rw [← zpow_natCast, ← zpow_add₀ two_ne_zero]; congr 1; ring
  rw [numRat_decodeMag_subnormal h, abs_of_nonneg (by positivity)] at lo
  have := (zpow_lt_zpow_iff_right₀ (by norm_num)).mp (lo.trans_lt hi)
  omega

/-- The code of a magnitude is the code that was decoded (R90). -/
theorem numRat_ieeeCode {mb bias a : Nat} (h0 : 0 < a) : numRat (ieeeCode mb bias (decodeMag mb bias a)) = a := by
  have hd : 0 < (decodeMag mb bias a).d := by rw [decodeMag_d]; exact Nat.one_pos
  have hc (h : Int) (hh : max (decodeMag mb bias a).log2 (1 - (bias : Int)) = h) :
      numRat (ieeeCode mb bias (decodeMag mb bias a)) =
        (h + bias - 1) * 2 ^ mb + numRat (decodeMag mb bias a) * (2 : ℚ) ^ ((mb : Int) - h) := by
    unfold ieeeCode
    simp only [hh]
    rw [numRat_add Nat.one_pos (by exact hd), numRat_ofInt, numRat_scale]
    push_cast
    rfl
  rcases Nat.lt_or_ge a (2 ^ mb) with h | h
  · rw [hc (1 - bias) (max_eq_right (by have := log2_decodeMag_subnormal (bias := bias) h h0; omega)), numRat_decodeMag_subnormal h,
      mul_assoc, ← zpow_add₀ two_ne_zero]
    simp
  · have he : 1 ≤ a / 2 ^ mb := Nat.div_pos h (by positivity)
    have hm := Nat.div_add_mod a (2 ^ mb)
    rw [hc _ (max_eq_left (by rw [log2_decodeMag_normal h]; omega)), log2_decodeMag_normal h, numRat_decodeMag_normal h, mul_assoc,
      ← zpow_add₀ two_ne_zero, show (((a / 2 ^ mb : Nat) : Int) - bias - mb + (mb - (((a / 2 ^ mb : Nat) : Int) - bias))) = 0 by ring,
      zpow_zero, mul_one]
    have hq : (a : ℚ) = 2 ^ mb * (a / 2 ^ mb : Nat) + (a % 2 ^ mb : Nat) := by exact_mod_cast hm.symm
    rw [hq, Int.cast_sub, Int.cast_natCast, Int.cast_natCast, Nat.cast_add, Nat.cast_pow, Nat.cast_ofNat]
    ring

/-- Rounding the magnitude of a code gives the code back in every mode, with no tail. -/
theorem roundCode_ieeeCode {mb bias a : Nat} (h0 : 0 < a) (rnd : Rnd) :
    roundCode rnd (ieeeCode mb bias (decodeMag mb bias a)) = (a, false) := by
  refine roundCode_natCast ?_ rnd (numRat_ieeeCode h0)
  exact Num.add_d_pos Nat.one_pos (by rw [Num.scale_d, decodeMag_d]; exact Nat.one_pos)

/-- R699: a normal magnitude is not tiny after rounding. -/
theorem tinyAfter_normal {mb bias a : Nat} (h : 2 ^ mb ≤ a) (rnd : Rnd) {emin : Int} (he : emin = 1 - (bias : Int)) :
    tinyAfter mb emin rnd (decodeMag mb bias a) = false := by
  have hr : roundCode rnd ((decodeMag mb bias a).scale ((mb : Int) - (decodeMag mb bias a).log2)) =
      (2 ^ mb + a % 2 ^ mb, false) := by
    refine roundCode_natCast (by rw [Num.scale_d, decodeMag_d]; exact Nat.one_pos) rnd ?_
    rw [numRat_scale, log2_decodeMag_normal h, numRat_decodeMag_normal h, mul_assoc, ← zpow_add₀ two_ne_zero,
      show (((a / 2 ^ mb : Nat) : Int) - bias - mb + (mb - (((a / 2 ^ mb : Nat) : Int) - bias))) = 0 by ring, zpow_zero, mul_one]
  have hd : 1 ≤ a / 2 ^ mb := Nat.div_pos h (by positivity)
  unfold tinyAfter
  simp only [hr]
  rw [← Bool.not_eq_true, Num.lt_iff (by exact Nat.one_pos) (by exact Nat.one_pos), numRat_pow2, not_lt, log2_decodeMag_normal h, he]
  calc (2 : ℚ) ^ (1 - (bias : Int)) ≤ (2 : ℚ) ^ (((a / 2 ^ mb : Nat) : Int) - bias) := zpow_le_zpow_right₀ one_le_two (by omega)
    _ = 2 ^ mb * (2 : ℚ) ^ (((a / 2 ^ mb : Nat) : Int) - bias - mb) := by
      rw [← zpow_natCast, ← zpow_add₀ two_ne_zero]; congr 1; ring
    _ ≤ _ := by
      simp only [numRat, Nat.cast_one, div_one, Int.cast_natCast]
      gcongr
      exact_mod_cast Nat.le_add_right _ _

/-- The sign bit and the bits below it are the code. -/
theorem sign_add_mod {w c : Nat} (hc : c < 2 ^ (w + 1)) : (if c.testBit w then c % 2 ^ w + 2 ^ w else c % 2 ^ w) = c := by
  have h := mod_two_pow_succ_of_testBit (c := c) (i := w) rfl
  rw [Nat.mod_eq_of_lt hc] at h
  split <;> next hb => simp [hb] at h; omega

/-- R77: every OFP8 code of a nonzero value survives it. -/
theorem encodeOfp8_decodeMag {mb bias top nanc a : Nat} (infc : Option Nat) (rnd : Rnd) (sat neg : Bool) (h0 : 0 < a) (ht : a ≤ top) :
    encodeOfp8 mb bias top nanc infc rnd sat (.fin (withSign neg (decodeMag mb bias a))) = (if neg then a + 128 else a, {}) := by
  have hm := decodeMag_m_pos (mb := mb) (bias := bias) h0
  unfold encodeOfp8
  simp only [withSign_isZero hm, withSign_abs hm.le, withSign_isNeg hm, roundCode_ieeeCode h0, Bool.false_eq_true, if_false,
    if_neg ht.not_gt]
  simp [h0.ne']

/-- R83: every binary32 code of a normal value survives it. -/
theorem encodeFP32_decodeMag {a : Nat} (rnd : Rnd) (neg : Bool) (h : 2 ^ 23 ≤ a) (ht : a < 0x7F800000) :
    encodeFP32 rnd (.fin (withSign neg (decodeMag 23 127 a))) = (if neg then a + 2 ^ 31 else a, {}) := by
  have h0 : 0 < a := by omega
  have hm := decodeMag_m_pos (mb := 23) (bias := 127) h0
  have hy : tinyAfter 23 (-126) rnd (decodeMag 23 127 a) = false := tinyAfter_normal h rnd rfl
  have hx : max a 0x00800000 = a := max_eq_left h
  unfold encodeFP32
  simp only [withSign_isZero hm, withSign_abs hm.le, withSign_isNeg hm, roundCode_ieeeCode h0, hy, hx,
    Bool.false_eq_true, if_false, if_neg ht.not_ge]
  simp [h0.ne']

/-- R84: every binary64 code of a nonzero value survives it. -/
theorem encodeFP64_decodeMag {a : Nat} (rnd : Rnd) (neg : Bool) (h0 : 0 < a) (ht : a < 0x7FF0000000000000) :
    encodeFP64 rnd (.fin (withSign neg (decodeMag 52 1023 a))) = (if neg then a + 2 ^ 63 else a, {}) := by
  have hm := decodeMag_m_pos (mb := 52) (bias := 1023) h0
  unfold encodeFP64
  simp only [withSign_isZero hm, withSign_abs hm.le, withSign_isNeg hm, roundCode_ieeeCode h0, Bool.false_eq_true, if_false,
    if_neg ht.not_ge]
  simp [h0.ne']

/-! ### INT codes (R80) -/

/-- A two's-complement code and its integer. -/
theorem unsigned_signed {w c : Nat} (hc : c < 2 ^ w) : unsigned w (signed w c) = c := by
  have e : signed w c % ((2 ^ w : Nat) : Int) = c := by
    unfold signed
    rw [Nat.mod_eq_of_lt hc]
    split
    · exact Int.emod_eq_of_lt (by omega) (by omega)
    · rw [Int.sub_emod_right]; exact Int.emod_eq_of_lt (by omega) (by omega)
  rw [unsigned, e, Int.toNat_natCast]

theorem signed_bounds {w c : Nat} (hw : 0 < w) :
    - ((2 ^ (w - 1) : Nat) : Int) ≤ signed w c ∧ signed w c ≤ ((2 ^ (w - 1) : Nat) : Int) - 1 := by
  have hp : 2 ^ w = 2 * 2 ^ (w - 1) := by rw [← pow_succ']; congr 1; omega
  have hlt : c % 2 ^ w < 2 ^ w := Nat.mod_lt _ (by positivity)
  unfold signed
  split <;> omega

/-- R80: every INT code survives its value, through a unit scale and no zero point. -/
theorem encodeInt_signed {w c : Nat} (hw : 0 < w) (hc : c < 2 ^ w) (rnd : Rnd) :
    encodeInt w (.ofInt 1) 0 rnd (.fin (.ofInt (signed w c))) = (c, {}) := by
  obtain ⟨lo, hi⟩ := signed_bounds (c := c) hw
  have hd : 0 < ((Num.ofInt (signed w c)).div (.ofInt 1)).d := Nat.one_pos
  have hq : numRat ((Num.ofInt (signed w c)).div (.ofInt 1)) = signed w c := by
    rw [numRat_div (by simp)]; simp
  have hr : roundCode rnd ((Num.ofInt (signed w c)).div (.ofInt 1)).abs = ((signed w c).natAbs, false) :=
    roundCode_natCast (by exact hd) rnd (by rw [numRat_abs, hq, Nat.cast_natAbs, Int.cast_abs])
  have hn : ((Num.ofInt (signed w c)).div (.ofInt 1)).isNeg = decide (signed w c < 0) := by
    rw [Bool.eq_iff_iff, Num.isNeg_iff hd, hq, decide_eq_true_iff, Int.cast_lt_zero]
  have hs : (0 : Int) + (if signed w c < 0 then - ((signed w c).natAbs : Int) else ((signed w c).natAbs : Int)) = signed w c := by
    split <;> omega
  unfold encodeInt
  simp only [hr, hn, decide_eq_true_eq, hs]
  rw [if_neg (by omega), if_neg (by omega), unsigned_signed hc]

/-! ### Every format -/

/-- R77 to R79. -/
theorem encode_decodeE4M3 {c : Nat} {x : Num} (rnd : Rnd) (sat : Bool) (hc : c < 2 ^ 8) (hp : c % 128 ≠ 0 ∨ c = 0)
    (h : decodeE4M3 c = .fin x) : encodeOfp8 3 7 0x7E 0x7F none rnd sat (.fin x) = (c, {}) := by
  have hs := sign_add_mod (w := 7) hc
  unfold decodeE4M3 at h
  rcases hp with hp | rfl
  · dsimp only at h
    split_ifs at h
    cases h
    rw [encodeOfp8_decodeMag none rnd sat _ (Nat.pos_of_ne_zero hp) (by omega)]
    exact congrArg (·, _) hs
  · cases h; rfl

theorem encode_decodeE5M2 {c : Nat} {x : Num} (rnd : Rnd) (sat : Bool) (hc : c < 2 ^ 8) (hp : c % 128 ≠ 0 ∨ c = 0)
    (h : decodeE5M2 c = .fin x) : encodeOfp8 2 15 0x7B 0x7E (some 0x7C) rnd sat (.fin x) = (c, {}) := by
  have hs := sign_add_mod (w := 7) hc
  unfold decodeE5M2 at h
  rcases hp with hp | rfl
  · dsimp only at h
    split_ifs at h
    cases h
    rw [encodeOfp8_decodeMag _ rnd sat _ (Nat.pos_of_ne_zero hp) (by omega)]
    exact congrArg (·, _) hs
  · cases h; rfl

/-- R83: binary32 has no subnormal code as a result. -/
theorem encode_decodeFP32 {c : Nat} {x : Num} (rnd : Rnd) (hc : c < 2 ^ 32) (hp : 2 ^ 23 ≤ c % 2 ^ 31 ∨ c = 0)
    (h : decodeFP32 c = .fin x) : encodeFP32 rnd (.fin x) = (c, {}) := by
  have hs := sign_add_mod (w := 31) hc
  unfold decodeFP32 at h
  rcases hp with hp | rfl
  · rw [if_neg (by omega)] at h
    split_ifs at h
    cases h
    rw [encodeFP32_decodeMag rnd _ hp (by omega)]
    exact congrArg (·, _) hs
  · cases h; rfl

theorem encode_decodeFP64 {c : Nat} {x : Num} (rnd : Rnd) (hc : c < 2 ^ 64) (hp : c % 2 ^ 63 ≠ 0 ∨ c = 0)
    (h : decodeFP64 c = .fin x) : encodeFP64 rnd (.fin x) = (c, {}) := by
  have hs := sign_add_mod (w := 63) hc
  unfold decodeFP64 at h
  rcases hp with hp | rfl
  · dsimp only at h
    split_ifs at h
    cases h
    rw [encodeFP64_decodeMag rnd _ (Nat.pos_of_ne_zero hp) (by omega)]
    exact congrArg (·, _) hs
  · cases h; rfl

/-- Settles O40, format by format: a posit by the fields of its code, an IEEE code by exponent and mantissa, an INT code by its
integer. -/
theorem numberCodesRoundTrip : Obligations.NumberCodesRoundTrip := by
  intro f rnd sat c x hf hc hp h
  cases f with
  | p8 => exact encodePosit_decodePosit (by decide) hc rnd h
  | sp8 => exact encodePosit_decodePosit (by decide) hc rnd h
  | p16 => exact encodePosit_decodePosit (by decide) hc rnd h
  | p32 => exact encodePosit_decodePosit (by decide) hc rnd h
  | sp4 => exact encodePosit_decodePosit (by decide) hc rnd h
  | e4m3 => exact encode_decodeE4M3 rnd sat hc hp h
  | e5m2 => exact encode_decodeE5M2 rnd sat hc hp h
  | int8 => cases h; exact encodeInt_signed (by decide) hc rnd
  | int4 => cases h; exact encodeInt_signed (by decide) hc rnd
  | fp32 => exact encode_decodeFP32 rnd hc hp h
  | fp64 => exact encode_decodeFP64 rnd hc hp h
  | qfull => exact absurd rfl hf

end Sys2Proof.Machine
end

section
/-! PROOFS of the statements on number formats (spec/02_tapered_formats.md), third part: what an attempt to issue a descriptor
does short of a launch, then O30. -/
namespace Sys2Proof.Machine

/-- Every launch command is an attempt to issue the head descriptor of its cluster. -/
theorem exec_eq_tryIssue {i : Instr} {a : Ask} (h : askOf i = some a) (s : State) :
    exec i s = .next (s.tryIssue a.c a.cls a.opc a.plan) := by
  unfold askOf at h
  split at h <;> cases h <;> rfl

section
variable {s : State} {a : Ask} {d : Desc}

/-- What an attempt does with a descriptor that is due. -/
theorem tryIssue_atHead (h : s.AtHead a d) : s.tryIssue a.c a.cls a.opc a.plan =
    if (a.plan s d).bad || s.commonBad a.c d then s.refuseDesc a.c d
    else if !((a.plan s d).free && s.depFree a.c (a.plan s d)) then s.waited a.c d s.now
    else (a.plan s d).go (s.issue a.c d) := by
  have hi : (s.issuable a.c || (decide (a.cls = 6) && s.preFlight a.c)) = true := by simpa using h.issuable
  unfold State.tryIssue
  simp only [h.head, h.cls, h.opc, h.due, hi, decide_true, Bool.and_self, Bool.not_true, Bool.or_self, Bool.false_eq_true, if_false]

/-- Where no descriptor of the operation is due an attempt does nothing. -/
theorem tryIssue_of_not_atHead (h : ∀ d, ¬ s.AtHead a d) : s.tryIssue a.c a.cls a.opc a.plan = s := by
  rcases tryIssue_cases s a.c a.cls a.opc a.plan with e | ⟨d, hd, hc, ho, hi, ht, -⟩
  · exact e
  · exact absurd ⟨hd, hc, ho, hi, ht⟩ (h d)

end

section
variable (s : State) (c : Nat) (d : Desc)

@[simp] theorem State.refuseDesc_sched : (s.refuseDesc c d).sched = s.sched := s.raise_sched _ _ _ _ _
@[simp] theorem State.refuseDesc_mems : (s.refuseDesc c d).mems = s.mems := s.raise_mems _ _ _ _ _

@[simp] theorem State.doc_setDoc (v : Nat) : (s.setDoc c v).doc c = v % 8 := s.getF_setF_same _ _

/-- R60: the event of a refusal occurs, and the cluster stops. -/
theorem State.refuseDesc_occurred : Occurred s (s.refuseDesc c d) (pgDoc c) 0 0x01 3
    (leBytes 2 d.slot ++ leBytes 1 d.cls ++ leBytes 1 d.opc) :=
  (s.raise_occurred _ _ _ _ _ (by decide)).after (State.getF_setF_off _ _ _ _) fun _ h => h

@[simp] theorem State.clu_count (pg : Nat) (f : Fld) (n c : Nat) : (s.count pg f n).clu c = s.clu c := by
  unfold State.clu State.clusters
  rw [State.count_sched]

/-- A count counts. -/
theorem State.counted_count (pg : Nat) (f : Fld) (n : Nat) (h1 : f.lo ≤ f.hi := by decide) (h2 : f.hi < 32 := by decide) :
    Counted s (s.count pg f n) pg f n := by
  unfold Counted
  split
  · next hc => exact s.getF_count_same n hc h1 h2
  · next hc => rw [State.count, if_neg hc]

/-- Counting no event leaves the counter. -/
theorem State.counted_zero (pg : Nat) (f : Fld) : Counted s s pg f 0 := by
  have := s.getF_lt pg f
  unfold Counted
  split <;> omega

/-- What a wait does: the count of the whole cycles, and the instant up to which it has counted. -/
theorem State.waited_eq (t n : Nat) (hn : (t - s.dueFrom c d) * s.freq (dieOf c) / 512 = n) : s.waited c d t =
    if n = 0 then s
    else (s.setClu c { s.clu c with waitAt := s.dueFrom c d + s.cyc c n }).count (pgDoc c) Reg.DOC_CNT_WAIT n := by
  subst hn; rfl

/-- What a wait changes: the waiting count, and in the sequencer the instant up to which its cluster has counted. -/
theorem State.waited_waits (t : Nat) : ∃ u w, s.waited c d t = u ∧
    u = { s with regFile.regs := u.regs, sched.clusters := u.clusters } ∧
    u.clu c = { s.clu c with waitAt := w } ∧ (∀ c', c' ≠ c → u.clu c' = s.clu c') ∧
    Counted s u (pgDoc c) Reg.DOC_CNT_WAIT ((t - s.dueFrom c d) * s.freq (dieOf c) / 512) ∧
    WordsKept s u [regIdx (pgDoc c) Reg.DOC_CNT_WAIT] := by
  rw [s.waited_eq c d t _ rfl]
  generalize (t - s.dueFrom c d) * s.freq (dieOf c) / 512 = n
  split
  · next h => exact ⟨_, _, rfl, rfl, rfl, fun _ _ => rfl, h ▸ s.counted_zero _ _, fun _ _ => rfl⟩
  · refine ⟨_, s.dueFrom c d + s.cyc c n, rfl, ?_, ?_, fun c' h => ?_, ?_, fun j hj => ?_⟩
    · rcases (s.setClu c { s.clu c with waitAt := s.dueFrom c d + s.cyc c n }).count_eq (pgDoc c) Reg.DOC_CNT_WAIT n with e | e <;>
        rw [e] <;> rfl
    · rw [State.clu_count, State.clu_setClu, if_pos rfl]
    · rw [State.clu_count, State.clu_setClu, if_neg h]
    · exact State.counted_count _ _ _ _
    · rw [State.word_count_ne _ _ (by simpa using hj)]; rfl

end

/-- Settles O30, by the four outcomes of an attempt to issue. -/
theorem launchRefusedOrWaiting : Obligations.LaunchRefusedOrWaiting := by
  refine ⟨fun i a s d ha _ h hb => ?_, fun i a s ha _ => ⟨fun d h hb hm hw => ?_, fun h => ?_⟩⟩
  · have hr : ((a.plan s d).bad || s.commonBad a.c d) = true := by simpa using hb
    rw [exec_eq_tryIssue ha, tryIssue_atHead h, if_pos hr]
    exact ⟨_, rfl, State.doc_setDoc _ _ _, s.refuseDesc_sched _ _, s.refuseDesc_mems _ _, s.refuseDesc_occurred _ _⟩
  · have hr : (!((a.plan s d).free && s.depFree a.c (a.plan s d))) = true := by
      rcases hw with hw | hw <;> simp [hw]
    rw [exec_eq_tryIssue ha, tryIssue_atHead h, hb, hm, if_neg (by decide), if_pos hr]
    obtain ⟨u, w, hu, hk, hc, ho, hn, hww⟩ := s.waited_waits a.c d s.now
    exact ⟨u, w, congrArg _ hu, hk, hc, ho, hn, hww⟩
  · rw [exec_eq_tryIssue ha, tryIssue_of_not_atHead h]

end Sys2Proof.Machine
end

section
/-! PROOFS of the statements on number formats (spec/02_tapered_formats.md), fourth part: what an effect of a launch can change,
what the completion of a launch does, then O35. -/
namespace Sys2Proof.Machine

/-! ### Folds -/

/-- A fold reaches what one of its steps establishes and every step keeps. -/
theorem foldl_reaches {α β : Type} (P : α → Prop) (f : α → β → α) (h : ∀ a b, P a → P (f a b)) {l : List β} {b : β}
    (hb : b ∈ l) (hr : ∀ a, P (f a b)) (a : α) : P (l.foldl f a) := by
  obtain ⟨l1, l2, rfl⟩ := List.append_of_mem hb
  rw [List.foldl_append, List.foldl_cons]
  exact foldl_inv P f h _ _ (hr _)

/-- A fold whose steps over a list keep a projection keeps it. -/
theorem foldl_keeps_of_mem {α β γ : Type} (p : α → γ) (f : α → β → α) (l : List β)
    (h : ∀ a, ∀ b ∈ l, p (f a b) = p a) (a : α) : p (l.foldl f a) = p a := by
  induction l generalizing a with
  | nil => rfl
  | cons b l ih =>
    rw [List.foldl_cons, ih fun a x hx => h a x (List.mem_cons_of_mem _ hx), h a b List.mem_cons_self]

section
variable (s : State) (c : Nat)

/-! ### Bytes outside a write -/

/-- The bytes of a write that fall into a code word lie within the write. -/
theorem wordPart_within (a : Nat) (bs : List Byte) (cw : Nat) {x : Nat} (h : x < a ∨ a + bs.length ≤ x) :
    x < (wordPart a bs cw).1 ∨ (wordPart a bs cw).1 + (wordPart a bs cw).2.length ≤ x := by
  unfold wordPart
  simp only [List.length_take, List.length_drop]
  omega

theorem State.byteAt_writeWord_out (a : Nat) (bs : List Byte) (i : Nat) {x : Nat} (h : x < a ∨ a + bs.length ≤ x) :
    (s.writeWord a bs i).byteAt x = s.byteAt x := by
  unfold State.writeWord
  dsimp only
  split
  · exact State.byteAt_congr (congrArg Mems.mem (State.foundUE_mems _ _ _ _)) x
  · refine (State.byteAt_congr rfl x).trans ((State.byteAt_pokeBytes_out _ _ _ (wordPart_within a bs _ h)).trans ?_)
    split
    · exact State.byteAt_congr (foundCE_mem s _) x
    · rfl

/-- A write through a key slot, whatever errors memory holds, leaves the bytes outside it. -/
theorem State.byteAt_writeBytes_out (slot a : Nat) (bs : List Byte) {x : Nat} (h : x < a ∨ a + bs.length ≤ x) :
    (s.writeBytes slot a bs).byteAt x = s.byteAt x := by
  have ht : (if bs.isEmpty = true then s else s.tagPages slot a bs.length).byteAt x = s.byteAt x := by
    split
    · rfl
    · exact State.byteAt_congr (s.tagPages_mem _ _ _) x
  unfold State.writeBytes
  extract_lets u
  split
  · exact (State.byteAt_pokeBytes_out _ _ _ h).trans ht
  · exact (foldl_keeps (State.byteAt · x) _ (fun t i => t.byteAt_writeWord_out a bs i h) _ u).trans ht

/-- A run without some of its bytes lies within the run. -/
theorem cutRun_within {lo hi : Nat} {r p : Nat × List Byte} (h : p ∈ cutRun lo hi r) :
    r.1 ≤ p.1 ∧ p.1 + p.2.length ≤ r.1 + r.2.length := by
  unfold cutRun at h
  split at h
  · rw [List.mem_singleton.mp h]; exact ⟨le_rfl, le_rfl⟩
  · next hc =>
    simp only [Bool.or_eq_true, decide_eq_true_eq, not_or, not_le] at hc
    obtain ⟨hm, hne⟩ := List.mem_filter.mp h
    simp only [List.mem_cons, List.not_mem_nil, or_false] at hm
    rcases hm with rfl | rfl
    · simp only [List.length_take]; omega
    · simp at hne ⊢; omega

/-- An address outside a list of runs. -/
def OutsideRuns (x : Nat) (runs : List (Nat × List Byte)) : Prop := ∀ p ∈ runs, x < p.1 ∨ p.1 + p.2.length ≤ x

theorem OutsideRuns.cut {x : Nat} {runs : List (Nat × List Byte)} (h : OutsideRuns x runs) (lo hi : Nat) :
    OutsideRuns x (runs.flatMap (cutRun lo hi)) := by
  intro p hp
  obtain ⟨r, hr, hpr⟩ := List.mem_flatMap.mp hp
  have := cutRun_within hpr
  have := h r hr
  omega

/-- The runs of one launch, written or merged word by word, leave the bytes outside them. -/
theorem State.byteAt_writeRuns_out (runs : List (Nat × List Byte)) {x : Nat} (h : OutsideRuns x runs) :
    (s.writeRuns runs).byteAt x = s.byteAt x := by
  unfold State.writeRuns
  extract_lets starts bad whole part m u v kept
  have hk : OutsideRuns x kept := foldl_inv (OutsideRuns x) _ (fun rs a hrs => hrs.cut _ _) part runs h
  have hv : v.byteAt x = s.byteAt x :=
    foldl_keeps (State.byteAt · x) _ (fun t a => State.byteAt_congr (congrArg Mems.mem (State.foundUE_mems _ _ _ _)) x) part u
  exact (foldl_keeps_of_mem (State.byteAt · x) _ kept (fun t r hr => t.byteAt_writeBytes_out 0 r.1 r.2 (hk r hr)) v).trans hv

/-- Beside the bytes and their errors a launch's writes raise events alone. -/
theorem State.writeRuns_sans (runs : List (Nat × List Byte)) : (s.writeRuns runs).sansMem = s.sansMem := by
  unfold State.writeRuns
  extract_lets starts bad whole part m u v kept
  have hv : v.sansMem = s.sansMem :=
    foldl_keeps State.sansMem _ (fun t a => State.mem_of_events (t.foundUE_sans _ _ _)) part u
  exact (foldl_keeps State.sansMem _ (fun t (r : Nat × List Byte) => t.writeBytes_sans 0 r.1 r.2) kept v).trans hv

/-! ### One effect -/

theorem State.captureArr_sans (a slot line rid : Nat) : (s.captureArr c a slot line rid).sansRegs = s.sansRegs := by
  unfold State.captureArr
  extract_lets pg s1 s2 s3 s4 s5
  split
  · exact s.setF_sans _ _ _
  · split
    · rfl
    · simp only [State.setF_sans, s1, s2, s3, s4, s5]

theorem State.captureVec_sans (slot i : Nat) : (s.captureVec c slot i).sansRegs = s.sansRegs := by
  unfold State.captureVec
  extract_lets pg s1 s2 s3
  split
  · exact s.setF_sans _ _ _
  · split
    · rfl
    · simp only [State.setF_sans, s1, s2, s3]

theorem State.applyEff_rowStat_sans (slot : Nat) (nar empty : Bool) (row : Nat) :
    (s.applyEff c slot (.rowStat nar empty row)).sansRegs = s.sansRegs := by
  unfold State.applyEff
  dsimp only
  split_ifs <;> simp only [State.setF_sans]

/-- A report changes registers and the list of the slots that have reported. -/
theorem State.gathReport_keeps (r g : Nat) (cls : Option Int) : (s.gathReport r g cls).mems = s.mems ∧
    (s.gathReport r g cls).clusters = s.clusters := by
  unfold State.gathReport
  split
  · extract_lets t
    split
    · exact ⟨rfl, rfl⟩
    · exact ⟨rfl, rfl⟩
  · exact ⟨rfl, rfl⟩

/-- An effect that writes a memory, or reads one and reports its errors. -/
def Eff.isStore : Eff → Bool
  | .mem .. | .cat .. | .am .. | .tile .. | .touch .. => true
  | _ => false

/-- No effect changes a cluster beside its memories and registers, and no effect but a store or a read changes memories. -/
theorem State.applyEff_keeps (slot : Nat) (e : Eff) : (s.applyEff c slot e).clusters = s.clusters ∧
    (e.isStore = false → (s.applyEff c slot e).mems = s.mems) := by
  have sched {t : State} (h : t.sched = s.sched) : t.clusters = s.clusters := congrArg Sched.clusters h
  have regs {t : State} (h : t.sansRegs = s.sansRegs) : t.clusters = s.clusters ∧ (e.isStore = false → t.mems = s.mems) :=
    ⟨(congrArg (fun t : State => t.sched.clusters) h :), fun _ => (congrArg (fun t : State => t.mems) h :)⟩
  cases e with
  | mem a bs => exact ⟨sched (s.writeBytes_sched 0 a bs), nofun⟩
  | cat i v => exact ⟨rfl, nofun⟩
  | am k v => exact ⟨rfl, nofun⟩
  | tile a rid r => cases r <;> exact ⟨rfl, nofun⟩
  | touch a n cause => exact ⟨sched (s.touch_sched a n cause), nofun⟩
  | arrFlags a w => exact ⟨rfl, fun _ => rfl⟩
  | vecFlags w => exact ⟨rfl, fun _ => rfl⟩
  | sfuFlags w => exact ⟨rfl, fun _ => rfl⟩
  | conFlags w => exact ⟨rfl, fun _ => rfl⟩
  | updFlags w => exact ⟨rfl, fun _ => rfl⟩
  | rowStat nar empty row =>
    exact regs (s.applyEff_rowStat_sans c slot nar empty row)
  | arrQcap a line rid => exact regs (s.captureArr_sans c a slot line rid)
  | vecQcap i => exact regs (s.captureVec_sans c slot i)
  | gather g cls => exact ⟨(s.gathReport_keeps _ g cls).2, fun _ => (s.gathReport_keeps _ g cls).1⟩
  | count pg f n => exact ⟨sched (s.count_sched pg f n), fun _ => s.count_mems pg f n⟩
  | event pg code sev data => exact ⟨sched (s.raise_sched _ _ _ _ _), fun _ => s.raise_mems _ _ _ _ _⟩
  | varied => exact ⟨rfl, fun _ => rfl⟩

/-- An effect leaves every byte outside the run that it stores. -/
theorem State.byteAt_applyEff (slot : Nat) (e : Eff) {x : Nat} (h : OutsideRuns x (memRuns [e])) :
    (s.applyEff c slot e).byteAt x = s.byteAt x := by
  cases hs : e.isStore with
  | false => exact State.byteAt_congr (congrArg Mems.mem ((s.applyEff_keeps c slot e).2 hs)) x
  | true =>
    cases e with
    | mem a bs => exact s.byteAt_writeBytes_out 0 a bs (h (a, bs) List.mem_cons_self)
    | tile a rid r => cases r <;> rfl
    | touch a n cause => exact State.byteAt_congr (s.touch_mem a n cause) x
    | cat i v => rfl
    | am k v => rfl
    | _ => cases hs

/-- Accumulator entries change by effects that store one. -/
theorem State.applyEff_am (slot : Nat) (e : Eff) (h : ∀ k v, e ≠ .am k v) : (s.applyEff c slot e).am = s.am := by
  cases hs : e.isStore with
  | false => exact congrArg Mems.am ((s.applyEff_keeps c slot e).2 hs)
  | true =>
    cases e with
    | mem a bs => exact s.writeBytes_am 0 a bs
    | tile a rid r => cases r <;> rfl
    | touch a n cause => exact s.touch_am a n cause
    | cat i v => rfl
    | am k v => exact absurd rfl (h k v)
    | _ => cases hs

/-! ### The effects of a launch -/

/-- What every effect and the merged writes keep, the effects of a launch keep. -/
theorem State.applyEffs_keeps {γ : Type} (p : State → γ) (slot : Nat) (es : List Eff)
    (he : ∀ t : State, ∀ e ∈ es, p (t.applyEff c slot e) = p t) (hr : ∀ t : State, p (t.writeRuns (memRuns es)) = p t) :
    p (s.applyEffs c slot es) = p s := by
  unfold State.applyEffs
  split
  · exact foldl_keeps_of_mem p _ es he s
  · exact (foldl_keeps_of_mem p _ _ (fun t e h => he t e (List.mem_of_mem_filter h)) _).trans (hr s)

@[simp] theorem State.applyEffs_clusters (slot : Nat) (es : List Eff) : (s.applyEffs c slot es).clusters = s.clusters :=
  s.applyEffs_keeps c State.clusters slot es (fun t e _ => (t.applyEff_keeps c slot e).1)
    (fun t => (congrArg (fun t : State => t.sched.clusters) (t.writeRuns_sans _) :))

theorem State.byteAt_applyEffs (slot : Nat) (es : List Eff) {x : Nat} (h : OutsideRuns x (memRuns es)) :
    (s.applyEffs c slot es).byteAt x = s.byteAt x := by
  refine s.applyEffs_keeps c (State.byteAt · x) slot es (fun t e he => t.byteAt_applyEff c slot e fun p hp => h p ?_)
    (fun t => t.byteAt_writeRuns_out _ h)
  unfold memRuns at hp ⊢
  obtain ⟨e', he', hp⟩ := List.mem_filterMap.mp hp
  rw [List.mem_singleton.mp he'] at hp
  exact List.mem_filterMap.mpr ⟨e, he, hp⟩

theorem State.applyEffs_am (slot : Nat) (es : List Eff) (h : ∀ k v, Eff.am k v ∉ es) : (s.applyEffs c slot es).am = s.am :=
  s.applyEffs_keeps c State.am slot es (fun t e he => t.applyEff_am c slot e fun k v hk => h k v (hk ▸ he))
    (fun t => (congrArg (fun t : State => t.mems.am) (t.writeRuns_sans _) :))

/-! ### The completion of a launch (R314, R381) -/

/-- The units of a signature belong to the cluster's own entry. -/
theorem State.addUnits_eq (key : Nat) (bs : List Byte) :
    s.addUnits c key bs = s ∨ ∃ u, s.addUnits c key bs = s.setClu c { s.clu c with units := u } := by
  unfold State.addUnits
  split
  · exact .inl rfl
  · exact .inr ⟨_, rfl⟩

section
variable (key : Nat) (bs : List Byte)

@[simp] theorem State.addUnits_mems : (s.addUnits c key bs).mems = s.mems := by
  rcases s.addUnits_eq c key bs with e | ⟨u, e⟩ <;> rw [e]; rfl

@[simp] theorem State.word_addUnits (j : Nat) : (s.addUnits c key bs).word j = s.word j := by
  rcases s.addUnits_eq c key bs with e | ⟨u, e⟩ <;> rw [e]; rfl

theorem State.clu_addUnits_ne {c' : Nat} (h : c' ≠ c) : (s.addUnits c key bs).clu c' = s.clu c' := by
  rcases s.addUnits_eq c key bs with e | ⟨u, e⟩ <;> rw [e]
  rw [State.clu_setClu, if_neg h]

theorem State.clu_addUnits_same : ∃ u, (s.addUnits c key bs).clu c = { s.clu c with units := u } := by
  rcases s.addUnits_eq c key bs with e | ⟨u, e⟩ <;> rw [e]
  · exact ⟨_, rfl⟩
  · exact ⟨u, by rw [State.clu_setClu, if_pos rfl]⟩

end

@[simp] theorem State.clu_applyEffs (slot : Nat) (es : List Eff) (c' : Nat) : (s.applyEffs c slot es).clu c' = s.clu c' := by
  unfold State.clu
  rw [State.applyEffs_clusters]

variable (l : Launch)

@[simp] theorem State.finish_mems : (s.finish c l).mems = (s.applyEffs c l.slot l.effs).mems := State.addUnits_mems _ _ _ _

@[simp] theorem State.word_finish (j : Nat) : (s.finish c l).word j = (s.applyEffs c l.slot l.effs).word j :=
  State.word_addUnits _ _ _ _ j

theorem State.getF_finish (pg : Nat) (f : Fld) : (s.finish c l).getF pg f = (s.applyEffs c l.slot l.effs).getF pg f := by
  unfold State.getF
  rw [State.word_finish]

/-- A completion leaves every byte outside the runs of its launch. -/
theorem State.finish_runsKept : RunsKept s (s.finish c l) (memRuns l.effs) := fun x h =>
  (State.byteAt_congr (congrArg Mems.mem (s.finish_mems c l)) x).trans (s.byteAt_applyEffs c l.slot l.effs h)

theorem State.clu_finish_ne {c' : Nat} (h : c' ≠ c) : (s.finish c l).clu c' = s.clu c' := by
  unfold State.finish
  extract_lets t u k
  rw [State.clu_setClu, if_neg h, State.clu_addUnits_ne _ _ _ _ h, State.clu_applyEffs]

/-- A completion takes its launch out of the table, and leaves the queue. -/
theorem State.clu_finish_same : ((s.finish c l).clu c).launches = (s.clu c).launches.filter (fun x => x ≠ l) ∧
    ((s.finish c l).clu c).queue = (s.clu c).queue := by
  unfold State.finish
  extract_lets t u k
  obtain ⟨v, hv⟩ := t.clu_addUnits_same c (2 * l.seq) (storeUnits (decide (l.cls = 3)) (memRuns l.effs))
  have hk : k = { s.clu c with units := v } := hv.trans (by rw [State.clu_applyEffs])
  rw [State.clu_setClu, if_pos rfl, hk]
  exact ⟨rfl, rfl⟩

theorem State.not_mem_finish : l ∉ ((s.finish c l).clu c).launches := by
  rw [(s.clu_finish_same c l).1]
  simp

theorem State.mem_finish {m : Launch} (hm : m ∈ (s.clu c).launches) (h : m ≠ l) : m ∈ ((s.finish c l).clu c).launches := by
  rw [(s.clu_finish_same c l).1]
  simpa using ⟨hm, h⟩

theorem State.finish_am : (s.finish c l).am = s.am ∨ ∃ k v, Eff.am k v ∈ l.effs := by
  rcases Classical.em (∃ k v, Eff.am k v ∈ l.effs) with h | h
  · exact .inr h
  · push Not at h
    exact .inl ((congrArg Mems.am (s.finish_mems c l)).trans (s.applyEffs_am c l.slot l.effs h))

theorem State.complete_eq {cls : Nat} (h : s.doneLaunch c cls = some l) : s.complete c cls = s.finish c l := by
  unfold State.complete
  rw [h]

/-- The count of a move's bytes changes its region and a counter alone. -/
theorem State.countDma_keeps (r n : Nat) : (s.countDma r n).mems = s.mems ∧ (s.countDma r n).clusters = s.clusters := by
  unfold State.countDma
  dsimp only
  constructor
  · rw [State.count_mems]; rfl
  · rw [State.clusters, State.count_sched]; rfl

/-- The completion commands of classes 1 to 4: beside the count of a move's bytes, the launch finishes. -/
theorem exec_complete {i : Instr} {c cls : Nat} {l : Launch} (h : (i, cls) ∈ [(Instr.vectorLaunchComplete c, 1),
    (Instr.sfuLaunchComplete c, 2), (Instr.moveComplete c, 3), (Instr.rowLaunchComplete c, 4)])
    (hl : s.doneLaunch c cls = some l) :
    ∃ t, exec i s = .next t ∧ t.mems = (s.finish c l).mems ∧ t.clusters = (s.finish c l).clusters := by
  simp only [List.mem_cons, Prod.mk.injEq, List.not_mem_nil, or_false] at h
  rcases h with ⟨rfl, rfl⟩ | ⟨rfl, rfl⟩ | ⟨rfl, rfl⟩ | ⟨rfl, rfl⟩
  · exact ⟨_, congrArg Host.Outcome.next (s.complete_eq c l hl), rfl, rfl⟩
  · exact ⟨_, congrArg Host.Outcome.next (s.complete_eq c l hl), rfl, rfl⟩
  · refine ⟨_, ?_, (s.finish c l).countDma_keeps (regionOf c) l.moved⟩
    change execMoveComplete c s = _
    unfold execMoveComplete
    rw [hl]
    exact congrArg (fun t : State => Host.Outcome.next (t.countDma (regionOf c) l.moved)) (s.complete_eq c l hl)
  · exact ⟨_, congrArg Host.Outcome.next (s.complete_eq c l hl), rfl, rfl⟩

/-- O35, first clause: what the completion of a launch of classes 1 to 4 changes. -/
theorem complete_changes {i : Instr} {c cls : Nat} {l : Launch} (h : (i, cls) ∈ [(Instr.vectorLaunchComplete c, 1),
    (Instr.sfuLaunchComplete c, 2), (Instr.moveComplete c, 3), (Instr.rowLaunchComplete c, 4)])
    (hl : s.doneLaunch c cls = some l) :
    ∃ t, exec i s = .next t ∧ RunsKept s t (memRuns l.effs) ∧ l ∉ (t.clu c).launches ∧
      (∀ m ∈ (s.clu c).launches, m ≠ l → m ∈ (t.clu c).launches) ∧ (t.clu c).queue = (s.clu c).queue ∧
      (∀ c', c' ≠ c → t.clu c' = s.clu c') ∧ (t.am = s.am ∨ ∃ k v, Eff.am k v ∈ l.effs) := by
  obtain ⟨t, hx, hm, hk⟩ := exec_complete s h hl
  have hc (c' : Nat) : t.clu c' = (s.finish c l).clu c' := by unfold State.clu; rw [hk]
  refine ⟨t, hx, fun x hx => (State.byteAt_congr (congrArg Mems.mem hm) x).trans (s.finish_runsKept c l x hx), ?_, fun m hm hne => ?_,
    ?_, fun c' h => ?_, ?_⟩
  · rw [hc]; exact s.not_mem_finish c l
  · rw [hc]; exact s.mem_finish c l hm hne
  · rw [hc]; exact (s.clu_finish_same c l).2
  · rw [hc]; exact s.clu_finish_ne c l h
  · rw [State.am, hm]; exact s.finish_am c l

/-! ### A class-1 launch that stores one run -/

/-- Where no code word holds an error a write raises no event and makes none. -/
theorem State.writeBytes_noErrs (slot a : Nat) (bs : List Byte) (h : s.errs = []) :
    (s.writeBytes slot a bs).regs = s.regs ∧ (s.writeBytes slot a bs).errs = [] := by
  have ht : (if bs.isEmpty = true then s else s.tagPages slot a bs.length).regs = s.regs ∧
      (if bs.isEmpty = true then s else s.tagPages slot a bs.length).errs = [] := by
    split
    · exact ⟨rfl, h⟩
    · exact ⟨(congrArg (fun t : State => t.regs) (s.tagPages_sans slot a bs.length) :), (s.tagPages_errs _ _ _).trans h⟩
  unfold State.writeBytes
  extract_lets u
  rw [if_pos (by rw [show u.errs = [] from ht.2]; rfl)]
  exact ht

theorem State.applyEffs_noErrs (slot : Nat) (es : List Eff) (h : s.errs = []) :
    s.applyEffs c slot es = es.foldl (fun s e => s.applyEff c slot e) s := by
  unfold State.applyEffs
  rw [if_pos (by rw [h]; rfl)]

/-- Whether a counter counts hangs on one word of its cluster. -/
theorem State.counting_congr {s t : State} {pg : Nat}
    (h : t.word (regIdx (pgClu ((pg - 0x800) / 4)) Reg.CLU_CFG_CNTEN) = s.word (regIdx (pgClu ((pg - 0x800) / 4)) Reg.CLU_CFG_CNTEN)) :
    t.counting pg = s.counting pg := by
  unfold State.counting State.flag State.getF
  rw [h]

/-- A count seen from other states with the same counter and the same enable. -/
theorem Counted.congr {s s' t t' : State} {pg : Nat} {f : Fld} {n : Nat} (h : Counted s' t' pg f n) (h1 : s'.getF pg f = s.getF pg f)
    (h2 : s'.counting pg = s.counting pg) (h3 : t.getF pg f = t'.getF pg f) : Counted s t pg f n := by
  unfold Counted at h ⊢
  rw [h3, h, h1, h2]

/-- O35, second clause: a class-1 launch that stores one run, sets its flags and counts its passes. -/
theorem vectorComplete_oneRun {l : Launch} {addr w n : Nat} {bs : List Byte} (hl : s.doneLaunch c 1 = some l)
    (he : l.effs = [.mem addr bs, .vecFlags w, .count (pgVec c) Reg.VEC_CNT_PASS n]) (hn : s.errs = []) :
    ∃ t, exec (.vectorLaunchComplete c) s = .next t ∧ (∀ k (h : k < bs.length), t.byteAt (addr + k) = bs[k]) ∧
      BytesKept s t addr (addr + bs.length) ∧
      t.getF (pgVec c) vecFlagsF = (s.getF (pgVec c) vecFlagsF ||| w) % 2 ^ vecFlagsF.width ∧
      Counted s t (pgVec c) Reg.VEC_CNT_PASS n ∧
      WordsKept s t [regIdx (pgVec c) vecFlagsF, regIdx (pgVec c) Reg.VEC_CNT_PASS] := by
  set u := (s.writeBytes 0 addr bs).setVecFlags c w with hu
  have ha : s.applyEffs c l.slot l.effs = u.count (pgVec c) Reg.VEC_CNT_PASS n := by rw [s.applyEffs_noErrs c _ _ hn, he]; rfl
  have hw (j : Nat) : (s.writeBytes 0 addr bs).word j = s.word j :=
    State.word_congr (s.writeBytes_noErrs 0 addr bs hn).1 (s.writeBytes_part _ _ _) j
  have hf (pg : Nat) (f : Fld) : (s.writeBytes 0 addr bs).getF pg f = s.getF pg f := by unfold State.getF; rw [hw]
  have hne : regIdx (pgVec c) vecFlagsF ≠ regIdx (pgVec c) Reg.VEC_CNT_PASS := regIdx_ne_off _ _ _ _
  refine ⟨_, congrArg Host.Outcome.next (s.complete_eq c l hl), fun k h => ?_, fun x hx => ?_, ?_, ?_, fun j hj => ?_⟩
  · have hm : (s.finish c l).mem = (s.writeBytes 0 addr bs).mem := by
      rw [State.mem, State.finish_mems, ha, State.count_mems]; rfl
    rw [State.byteAt_congr hm, s.byteAt_writeBytes 0 addr bs hn, if_pos (by omega), Nat.add_sub_cancel_left]
    simp [h]
  · refine s.finish_runsKept c l x fun p hp => ?_
    rw [he] at hp
    rw [List.mem_singleton.mp hp]
    exact hx
  · rw [State.getF_finish, ha, State.getF_count_ne _ _ hne, ← hf]
    exact State.getF_setF_same _ _ _
  · refine (u.counted_count (pgVec c) Reg.VEC_CNT_PASS n).congr ?_ (State.counting_congr ?_) ?_
    · rw [← hf]; exact State.getF_setF_ne _ _ hne.symm
    · rw [← hw]; exact State.word_setF_ne _ _ (regIdx_ne_off _ _ _ _)
    · rw [State.getF_finish, ha]
  · simp only [List.mem_cons, List.not_mem_nil, or_false, not_or] at hj
    rw [State.word_finish, ha, State.word_count_ne _ _ hj.2, ← hw]
    exact State.word_setF_ne _ _ hj.1

/-! ### The state of a cluster's sequencer when memory errors are found

DOC_STAT lies at an offset at which no page counts, captures or raises an error. -/

/-- An event writes words at the offsets of PG_EVT and of the counters of the die managers alone. -/
theorem not_mem_eventWords_of_off (pg : Nat) {j : Nat} (h : j % 1024 ∉ [0x018 / 4, 0x808 / 4, 0xF00 / 4, 0xF04 / 4]) :
    j ∉ eventWords pg := by
  have hf (p : Nat) (f : Fld) (hf : f.off / 4 ∈ [0x018 / 4, 0x808 / 4, 0xF00 / 4, 0xF04 / 4]) (hlt : f.off < 4096) :
      j ≠ regIdx p f := by
    rintro rfl
    rw [regIdx, Nat.mul_comm, Nat.mul_add_mod, Nat.mod_eq_of_lt (by omega)] at h
    exact h hf
  have he : j ≠ regIdx pg Reg.PG_EVT := hf pg _ (by decide) (by decide)
  unfold eventWords
  split
  · simpa using he
  · next d _ =>
    simp [he, hf (pgDie d) Reg.DIE_EVTQ (by decide) (by decide), hf (pgDie d) Reg.DIE_CNT_EVT (by decide) (by decide),
      hf (pgDie d) Reg.DIE_CNT_EVTDROP (by decide) (by decide)]

/-- The words at the offset of DOC_STAT, of any page. -/
def AtDocStat (j : Nat) : Prop := j % 1024 = Reg.DOC_STAT_STATE.off / 4

section
variable {j : Nat} (hj : AtDocStat j)
include hj

theorem AtDocStat.ne (pg : Nat) {f : Fld} (h : f.off / 4 ≠ Reg.DOC_STAT_STATE.off / 4 := by decide) (hf : f.off < 4096 := by decide) :
    j ≠ regIdx pg f := by
  rintro rfl
  unfold AtDocStat regIdx at hj
  omega

theorem AtDocStat.notEvent (pg : Nat) : j ∉ eventWords pg :=
  not_mem_eventWords_of_off pg (by rw [show j % 1024 = 0x804 / 4 from hj]; decide)

/-- A field at another offset is written. -/
theorem AtDocStat.setF {s t : State} (h : t.word j = s.word j) (pg : Nat) (f : Fld) (v : Nat)
    (h1 : f.off / 4 ≠ Reg.DOC_STAT_STATE.off / 4 := by decide) (h2 : f.off < 4096 := by decide) :
    (t.setF pg f v).word j = s.word j :=
  (t.word_setF_ne v (hj.ne pg h1 h2)).trans h

/-- A counter at another offset counts. -/
theorem AtDocStat.count {s t : State} (h : t.word j = s.word j) (pg : Nat) (f : Fld) (n : Nat)
    (h1 : f.off / 4 ≠ Reg.DOC_STAT_STATE.off / 4 := by decide) (h2 : f.off < 4096 := by decide) :
    (t.count pg f n).word j = s.word j :=
  (t.word_count_ne n (hj.ne pg h1 h2)).trans h

theorem AtDocStat.foundUE (s : State) (inst off cause : Nat) : (s.foundUE inst off cause).word j = s.word j := by
  unfold State.foundUE
  extract_lets pg addr synd c1 c2 c3 c4 c5 c6 c7 s1 u1 u2 s2
  have h1 : s1.word j = s.word j := by
    have k1 : c1.word j = s.word j := hj.setF rfl _ _ _
    have k2 : c2.word j = s.word j := hj.setF k1 _ _ _
    have k3 : c3.word j = s.word j := hj.setF k2 _ _ _
    have k4 : c4.word j = s.word j := hj.setF k3 _ _ _
    have k5 : c5.word j = s.word j := hj.setF k4 _ _ _
    have k6 : c6.word j = s.word j := hj.setF k5 _ _ _
    have k7 : c7.word j = s.word j := hj.setF k6 _ _ _
    unfold s1
    split
    · exact hj.setF rfl _ _ _
    · exact hj.setF k7 _ _ _
  have h2 : u1.word j = s.word j := by
    unfold u1
    split
    · exact hj.count h1 _ _ _
    · exact h1
  have h3 : u2.word j = s.word j := by
    unfold u2
    split
    · exact hj.setF h2 _ _ _
    · exact h2
  have h4 : s2.word j = s.word j := by
    unfold s2
    split
    · exact hj.count h1 _ _ _
    · exact hj.count h3 _ _ _
  exact (s2.word_raise _ _ _ _ _ (hj.notEvent _)).trans h4

theorem AtDocStat.foundCE (s : State) (inst : Nat) : (s.foundCE inst).word j = s.word j := by
  unfold State.foundCE
  extract_lets pg s1 s2 n m u
  have h1 : s1.word j = s.word j := by
    unfold s1
    split
    · exact hj.count rfl _ _ _
    · exact hj.count rfl _ _ _
    · exact hj.count rfl _ _ _
    · exact hj.count rfl _ _ _
    · exact hj.count rfl _ _ _
    · exact hj.count rfl _ _ _
    · rfl
  have h2 : s2.word j = s.word j := by
    unfold s2
    split
    · exact h1
    · exact hj.count h1 _ _ _
  split
  · exact (State.word_raise _ _ _ _ _ _ (hj.notEvent _)).trans (hj.count (t := u) h2 _ _ _)
  · exact h2

theorem AtDocStat.writeWord (s : State) (a : Nat) (bs : List Byte) (i : Nat) : (s.writeWord a bs i).word j = s.word j := by
  unfold State.writeWord
  extract_lets w cw p io merged
  split
  · exact hj.foundUE s _ _ _
  · change (if (decide (s.errAt cw = 1) && merged) = true then s.foundCE io.1 else s).word j = s.word j
    split
    · exact hj.foundCE s _
    · rfl

theorem AtDocStat.writeBytes (s : State) (slot a : Nat) (bs : List Byte) : (s.writeBytes slot a bs).word j = s.word j := by
  have h0 : (if bs.isEmpty then s else s.tagPages slot a bs.length).word j = s.word j := by
    split
    · rfl
    · exact State.word_congr (congrArg (fun t : State => t.regs) (s.tagPages_sans slot a bs.length) :)
        (congrArg (fun t : State => t.part) (s.tagPages_sans slot a bs.length) :) j
  unfold State.writeBytes
  extract_lets u
  split
  · exact h0
  · exact (foldl_keeps (State.word · j) _ (fun t i => hj.writeWord t a bs i) _ u).trans h0

theorem AtDocStat.writeRuns (s : State) (runs : List (Nat × List Byte)) : (s.writeRuns runs).word j = s.word j := by
  unfold State.writeRuns
  extract_lets starts bad whole part m u v kept
  have hv : v.word j = s.word j := foldl_keeps (State.word · j) _ (fun t a => hj.foundUE t _ _ _) part u
  exact (foldl_keeps (State.word · j) _ (fun t (r : Nat × List Byte) => hj.writeBytes t 0 r.1 r.2) kept v).trans hv

end

/-! ### EPILOGUE_START (R183, R186) -/

/-- The stores among some effects are the runs that they store. -/
theorem memRuns_filter_isMem (es : List Eff) : memRuns (es.filter Eff.isMem) = memRuns es := by
  unfold memRuns
  rw [List.filterMap_filter]
  refine congrArg (List.filterMap · es) (funext fun e => ?_)
  cases e <;> rfl

/-- What a store keeps, and the merged writes, the outputs of an epilogue keep. -/
theorem State.applyOutputs_keeps {γ : Type} (p : State → γ) (slot : Nat) (es : List Eff)
    (hw : ∀ (t : State) (a : Nat) (bs : List Byte), p (t.writeBytes 0 a bs) = p t)
    (hr : ∀ (t : State) (runs : List (Nat × List Byte)), p (t.writeRuns runs) = p t) :
    p (s.applyEffs c slot (es.filter Eff.isMem)) = p s := by
  refine s.applyEffs_keeps c p slot _ (fun t e he => ?_) (fun t => hr t _)
  have hm := (List.mem_filter.mp he).2
  cases e with
  | mem a bs => exact hw t a bs
  | _ => cases hm

/-- Outputs change no memory beside bytes and their errors, and no word at the offset of DOC_STAT. -/
theorem State.applyOutputs_leaves (slot : Nat) (es : List Eff) :
    (s.applyEffs c slot (es.filter Eff.isMem)).am = s.am ∧ (s.applyEffs c slot (es.filter Eff.isMem)).cat = s.cat ∧
    (s.applyEffs c slot (es.filter Eff.isMem)).tiles = s.tiles ∧
    ∀ j, AtDocStat j → (s.applyEffs c slot (es.filter Eff.isMem)).word j = s.word j := by
  refine ⟨?_, ?_, ?_, fun j hj => ?_⟩
  · exact s.applyOutputs_keeps c State.am slot es (fun t a bs => t.writeBytes_am 0 a bs)
      (fun t runs => (congrArg (fun t : State => t.mems.am) (t.writeRuns_sans runs) :))
  · exact s.applyOutputs_keeps c State.cat slot es (fun t a bs => t.writeBytes_cat 0 a bs)
      (fun t runs => (congrArg (fun t : State => t.mems.cat) (t.writeRuns_sans runs) :))
  · exact s.applyOutputs_keeps c State.tiles slot es (fun t a bs => t.writeBytes_tiles 0 a bs)
      (fun t runs => (congrArg (fun t : State => t.mems.tiles) (t.writeRuns_sans runs) :))
  · exact s.applyOutputs_keeps c (State.word · j) slot es (fun t a bs => hj.writeBytes t 0 a bs) (fun t runs => hj.writeRuns t runs)

/-- Where no code word holds an error the outputs are written in order. -/
theorem State.applyOutputs_written (slot : Nat) (es : List Eff) (h : s.errs = []) :
    (s.applyEffs c slot (es.filter Eff.isMem)).mem = written s.mem (memRuns es) := by
  rw [s.applyEffs_noErrs c slot _ h]
  induction es generalizing s with
  | nil => rfl
  | cons e es ih =>
    cases e with
    | mem a bs =>
      have hm : (s.writeBytes 0 a bs).mem = ssetAll (fun _ => 0) s.mem a bs := s.writeBytes_mem 0 a bs h
      refine (ih (s.writeBytes 0 a bs) (s.writeBytes_noErrs 0 a bs h).2).trans ?_
      rw [hm]
      rfl
    | _ => exact ih s h

theorem State.tileUe_noErrs (a : Nat) (x : MatDesc) (h : s.errs = []) : s.tileUe c a x = [] := by
  unfold State.tileUe
  rw [if_pos (by rw [h]; rfl)]

/-- A tile that is spoilt has NaR in every entry (R186). -/
theorem State.am_spoilTile (a : Nat) (x : MatDesc) (ue : List Nat) {i j : Nat} (hi : i < x.m) (hj : j < x.n) :
    sget (fun _ => 0) (s.spoilTile c a x ue).am (x.key c a i j) = BitVec.ofNat 512 x.narCode := by
  have keep (m : List (Nat × BitVec 512)) (k : Nat) (h : sget (fun _ => 0) m (x.key c a i j) = BitVec.ofNat 512 x.narCode) :
      sget (fun _ => 0) (sset (fun _ => 0) m k (BitVec.ofNat 512 x.narCode)) (x.key c a i j) = BitVec.ofNat 512 x.narCode := by
    rw [sget_sset, h, ite_self]
  exact foldl_reaches (fun m => sget (fun _ => 0) m (x.key c a i j) = BitVec.ofNat 512 x.narCode) _
    (fun m _ hm => foldl_inv (fun m => sget (fun _ => 0) m (x.key c a i j) = BitVec.ofNat 512 x.narCode) _ (fun m _ => keep m _) _ m hm)
    (List.mem_range.mpr hi)
    (fun m => foldl_reaches (fun m => sget (fun _ => 0) m (x.key c a i j) = BitVec.ofNat 512 x.narCode) _ (fun m _ => keep m _)
      (List.mem_range.mpr hj) (fun m => sget_sset_same _ m _ _) m) _

/-- A spoilt tile changes accumulator entries and raises events. -/
theorem State.spoilTile_leaves (a : Nat) (x : MatDesc) (ue : List Nat) :
    (s.spoilTile c a x ue).mems = { s.mems with am := (s.spoilTile c a x ue).am } ∧ (s.spoilTile c a x ue).clusters = s.clusters ∧
    ∀ j, AtDocStat j → (s.spoilTile c a x ue).word j = s.word j := by
  unfold State.spoilTile
  extract_lets t am
  have hm : t.mems = s.mems := foldl_keeps State.mems _ (fun t off => t.foundUE_mems _ _ _) ue s
  have hc : t.sched = s.sched := foldl_keeps State.sched _ (fun t off => t.foundUE_sched _ _ _) ue s
  refine ⟨?_, congrArg Sched.clusters hc, fun j hj => ?_⟩
  · exact congrArg (fun m : Mems => { m with am := am }) hm
  · exact foldl_keeps (State.word · j) _ (fun t off => hj.foundUE t _ _ _) ue s

variable (l : Launch) (e : EpiRun)

/-- Reading the tile changes what a spoilt tile does, or nothing. -/
theorem State.epiNow_leaves : (s.epiNow c l e).1.mems = { s.mems with am := (s.epiNow c l e).1.am } ∧
    (s.epiNow c l e).1.clusters = s.clusters ∧ ∀ j, AtDocStat j → (s.epiNow c l e).1.word j = s.word j := by
  unfold State.epiNow
  split
  · exact ⟨rfl, rfl, fun _ _ => rfl⟩
  · next x _ =>
    dsimp only
    split
    · exact ⟨rfl, rfl, fun _ _ => rfl⟩
    · exact s.spoilTile_leaves c e.arr x _

theorem State.epiNow_noErrs (h : s.errs = []) : s.epiNow c l e = (s, e.effs) := by
  unfold State.epiNow
  split
  · rfl
  · rw [s.tileUe_noErrs c _ _ h]; rfl

theorem State.am_epiNow {x : MatDesc} (hx : l.desc.mat = some x) (hu : s.tileUe c e.arr x ≠ []) {i j : Nat} (hi : i < x.m)
    (hj : j < x.n) : sget (fun _ => 0) (s.epiNow c l e).1.am (x.key c e.arr i j) = BitVec.ofNat 512 x.narCode := by
  unfold State.epiNow
  rw [hx]
  dsimp only
  rw [if_neg (by simpa using hu)]
  exact s.am_spoilTile c e.arr x _ hi hj

/-- The state in which the epilogue's outputs are written and the launch has begun it. -/
def State.epiBegun (effs : List Eff) : State :=
  let t := (s.applyEffs c l.slot (effs.filter Eff.isMem)).addUnits c (2 * l.seq) (storeUnits false (memRuns (effs.filter Eff.isMem)))
  t.setClu c { t.clu c with launches := (t.clu c).launches.map (fun m => if m = l then l.beginEpi e effs else m) }

theorem execEpilogueStart_eq {l : Launch} {e : EpiRun} (hl : (s.clu c).launches.find? (fun l => (l.nextEpi s.now).isSome) = some l)
    (he : l.nextEpi s.now = some e) :
    exec (.epilogueStart c) s = .next ((s.epiNow c l e).1.epiBegun c l e (s.epiNow c l e).2) := by
  change execEpilogueStart c s = _
  unfold execEpilogueStart
  rw [hl]
  dsimp only
  rw [he]
  rfl

theorem State.epiBegun_mems (effs : List Eff) :
    (s.epiBegun c l e effs).mems = (s.applyEffs c l.slot (effs.filter Eff.isMem)).mems := State.addUnits_mems _ _ _ _

theorem State.word_epiBegun (effs : List Eff) (j : Nat) :
    (s.epiBegun c l e effs).word j = (s.applyEffs c l.slot (effs.filter Eff.isMem)).word j := State.word_addUnits _ _ _ _ j

theorem State.clu_epiBegun_ne (effs : List Eff) {c' : Nat} (h : c' ≠ c) : (s.epiBegun c l e effs).clu c' = s.clu c' := by
  unfold State.epiBegun
  extract_lets t
  rw [State.clu_setClu, if_neg h, State.clu_addUnits_ne _ _ _ _ h, State.clu_applyEffs]

theorem State.launches_epiBegun (effs : List Eff) : ((s.epiBegun c l e effs).clu c).launches =
    (s.clu c).launches.map (fun m => if m = l then l.beginEpi e effs else m) := by
  unfold State.epiBegun
  extract_lets t
  obtain ⟨v, hv⟩ := (s.applyEffs c l.slot (effs.filter Eff.isMem)).clu_addUnits_same c (2 * l.seq)
    (storeUnits false (memRuns (effs.filter Eff.isMem)))
  have ht : t.clu c = { s.clu c with units := v } := hv.trans (by rw [State.clu_applyEffs])
  rw [State.clu_setClu, if_pos rfl, ht]

/-- O35, third clause: an epilogue that begins. -/
theorem epilogueStart_changes {l : Launch} (hl : (s.clu c).launches.find? (fun l => (l.nextEpi s.now).isSome) = some l) :
    ∃ t e, l.nextEpi s.now = some e ∧ exec (.epilogueStart c) s = .next t ∧
      let effs := (s.epiNow c l e).2
      RunsKept s t (memRuns effs) ∧ (s.errs = [] → effs = e.effs ∧ t.mem = written s.mem (memRuns e.effs) ∧ t.am = s.am) ∧
      (t.clu c).launches = (s.clu c).launches.map (fun m => if m = l then l.beginEpi e effs else m) ∧
      (∀ x, l.desc.mat = some x → s.tileUe c e.arr x ≠ [] → ∀ i j, i < x.m → j < x.n →
        sget (fun _ => 0) t.am (x.key c e.arr i j) = BitVec.ofNat 512 x.narCode) ∧
      t.cat = s.cat ∧ t.tiles = s.tiles ∧ t.doc c = s.doc c ∧ ∀ c', c' ≠ c → t.clu c' = s.clu c' := by
  obtain ⟨e, he⟩ := Option.isSome_iff_exists.mp (by simpa using List.find?_some hl)
  refine ⟨_, e, he, execEpilogueStart_eq s c hl he, ?_⟩
  intro effs
  have hu := s.epiNow_noErrs c l e
  have hnar {x : MatDesc} := s.am_epiNow c l e (x := x)
  obtain ⟨hm, hc, hw⟩ := s.epiNow_leaves c l e
  set u := (s.epiNow c l e).1
  have hclu (c' : Nat) : u.clu c' = s.clu c' := by unfold State.clu; rw [hc]
  obtain ⟨oam, ocat, otiles, oword⟩ := u.applyOutputs_leaves c l.slot effs
  have om := u.epiBegun_mems c l e effs
  have tam : (u.epiBegun c l e effs).am = u.am := (congrArg Mems.am om).trans oam
  refine ⟨fun x hx => ?_, fun hn => ⟨congrArg Prod.snd (hu hn), ?_, ?_⟩, ?_,
    fun x hx ht i j hi hj => ?_, ?_, ?_, ?_, fun c' h => ?_⟩
  · calc (u.epiBegun c l e effs).byteAt x = (u.applyEffs c l.slot (effs.filter Eff.isMem)).byteAt x :=
          State.byteAt_congr (congrArg Mems.mem om) x
      _ = u.byteAt x := u.byteAt_applyEffs c l.slot _ (by rw [memRuns_filter_isMem]; exact hx)
      _ = s.byteAt x := State.byteAt_congr (congrArg Mems.mem hm :) x
  · have h1 : u = s := congrArg Prod.fst (hu hn)
    have h2 : effs = e.effs := congrArg Prod.snd (hu hn)
    rw [State.mem, om, h1, h2]
    exact s.applyOutputs_written c l.slot e.effs hn
  · rw [tam, show u = s from congrArg Prod.fst (hu hn)]
  · rw [u.launches_epiBegun, hclu]
  · rw [tam]; exact hnar hx ht hi hj
  · exact (congrArg Mems.cat om).trans (ocat.trans (congrArg Mems.cat hm :))
  · exact (congrArg Mems.tiles om).trans (otiles.trans (congrArg Mems.tiles hm :))
  · have hj : AtDocStat (regIdx (pgDoc c) Reg.DOC_STAT_STATE) := by
      unfold AtDocStat regIdx
      rw [Nat.mul_comm, Nat.mul_add_mod]; rfl
    unfold State.doc State.getF
    rw [State.word_epiBegun, oword _ hj, hw _ hj]
  · rw [u.clu_epiBegun_ne c l e effs h, hclu]

/-! ### MATRIX_LAUNCH_COMPLETE (R131, R157, R189) -/

/-- What a trap does: the cluster stands trapped unless it is done, SEQ_TRAP has occurred, and its cause joins the others. -/
theorem State.trap_does (bit slot : Nat) (after : Option (Nat × Nat)) :
    ((s.trap c bit slot after).doc c = docTrapped ∨ (s.trap c bit slot after).doc c = docDone) ∧
    ((s.trap c bit slot after).getF (pgDoc c) Reg.PG_EVT).testBit 1 = true ∧
    (s.trap c bit slot after).getF (pgDoc c) Reg.DOC_TRAP_CAUSE = (s.getF (pgDoc c) Reg.DOC_TRAP_CAUSE ||| 2 ^ bit) % 2 ^ 8 ∧
    (s.trap c bit slot after).mems = s.mems ∧ (s.trap c bit slot after).sched = s.sched := by
  unfold State.trap
  extract_lets t u
  have hc : u.getF (pgDoc c) Reg.DOC_TRAP_CAUSE = (s.getF (pgDoc c) Reg.DOC_TRAP_CAUSE ||| 2 ^ bit) % 2 ^ 8 := by
    have hn : regIdx (pgDoc c) Reg.DOC_TRAP_CAUSE ∉ eventWords (pgDoc c) := not_mem_eventWords_of_off _ (by
      rw [regIdx, Nat.mul_comm, Nat.mul_add_mod]; decide)
    exact (t.getF_raiseBy _ _ _ _ _ _ _ _ hn).trans (s.getF_setF_same _ _)
  have he : (u.getF (pgDoc c) Reg.PG_EVT).testBit 1 = true := (t.raiseBy_occurred _ _ _ _ _ _ (by decide)).isSet
  have hm : u.mems = s.mems := t.raiseBy_mems _ _ _ _ _ _
  have hs : u.sched = s.sched := t.raiseBy_sched _ _ _ _ _ _
  split
  · next hd => exact ⟨.inr hd, he, hc, hm, hs⟩
  · refine ⟨.inl (u.doc_setDoc c docTrapped), ?_, ?_, hm, hs⟩
    · rw [State.setDoc, State.getF_setF_off]; exact he
    · rw [State.setDoc, State.getF_setF_off]; exact hc

theorem State.matCauses_lt (l : Launch) {b : Nat} (h : b ∈ s.matCauses c l) : b < 2 := by
  unfold State.matCauses at h
  extract_lets fl at h
  rcases List.mem_append.mp h with h | h
  · split at h
    · rw [List.mem_singleton.mp h]; decide
    · cases h
  · split at h
    · rw [List.mem_singleton.mp h]; decide
    · cases h

/-- The completion of a matrix launch: it finishes, and every cause that is enabled to trap stands in one trap. -/
theorem execMatrixLaunchComplete_does {l : Launch} (hl : (s.clu c).launches.find?
    (fun l => l.cls = 0 && decide (l.due ≤ s.now) && (l.phase = 1 || l.epis.isEmpty)) = some l) :
    ∃ t, exec (.matrixLaunchComplete c) s = .next t ∧ t.mems = (s.finish c l).mems ∧ t.sched = (s.finish c l).sched ∧
      (s.matCauses c l ≠ [] → (t.doc c = docTrapped ∨ t.doc c = docDone) ∧ (t.getF (pgDoc c) Reg.PG_EVT).testBit 1 = true ∧
        ∀ b ∈ s.matCauses c l, (t.getF (pgDoc c) Reg.DOC_TRAP_CAUSE).testBit b = true) := by
  have hlt : ∀ b ∈ s.matCauses c l, b < 2 := fun b => s.matCauses_lt c l
  change ∃ t, execMatrixLaunchComplete c s = _ ∧ _
  unfold execMatrixLaunchComplete
  rw [hl]
  dsimp only
  generalize s.finish c l = t
  generalize s.matCauses c l = causes at hlt ⊢
  match causes, hlt with
  | [], _ => exact ⟨t, rfl, rfl, rfl, fun h => absurd rfl h⟩
  | [b], hlt =>
    obtain ⟨hd, he, hc, hm, hs⟩ := t.trap_does c b l.slot none
    refine ⟨_, rfl, hm, hs, fun _ => ⟨hd, he, fun b' hb' => ?_⟩⟩
    have hb := hlt b' hb'
    rw [List.mem_singleton.mp hb'] at hb ⊢
    rw [hc, Nat.testBit_mod_two_pow]
    simp; omega
  | b :: b2 :: rest, hlt =>
    set u := t.setF (pgDoc c) Reg.DOC_TRAP_CAUSE (t.getF (pgDoc c) Reg.DOC_TRAP_CAUSE ||| 3) with hu
    obtain ⟨hd, he, hc, hm, hs⟩ := u.trap_does c b l.slot none
    refine ⟨_, rfl, hm, hs, fun _ => ⟨hd, he, fun b' hb' => ?_⟩⟩
    have hb := hlt b' hb'
    have h3 : (3 : Nat).testBit b' = true := by interval_cases b' <;> rfl
    rw [hc, hu, State.getF_setF_same, Nat.testBit_mod_two_pow, Nat.testBit_or, Nat.testBit_mod_two_pow, Nat.testBit_or, h3]
    simp [show b' < 8 by omega, Fld.width, Reg.DOC_TRAP_CAUSE]

/-- O35, fourth clause: a matrix launch that completes. -/
theorem matrixComplete_changes {l : Launch} (hl : (s.clu c).launches.find?
    (fun l => l.cls = 0 && decide (l.due ≤ s.now) && (l.phase = 1 || l.epis.isEmpty)) = some l) :
    ∃ t, exec (.matrixLaunchComplete c) s = .next t ∧ l ∉ (t.clu c).launches ∧ RunsKept s t (memRuns l.effs) ∧
      (∀ c', c' ≠ c → t.clu c' = s.clu c') ∧
      (s.matCauses c l ≠ [] → (t.doc c = docTrapped ∨ t.doc c = docDone) ∧ (t.getF (pgDoc c) Reg.PG_EVT).testBit 1 = true ∧
        ∀ b ∈ s.matCauses c l, (t.getF (pgDoc c) Reg.DOC_TRAP_CAUSE).testBit b = true) := by
  obtain ⟨t, hx, hm, hs, ht⟩ := execMatrixLaunchComplete_does s c hl
  have hc (c' : Nat) : t.clu c' = (s.finish c l).clu c' := by unfold State.clu State.clusters; rw [hs]
  refine ⟨t, hx, ?_, fun x hx => ?_, fun c' h => ?_, ht⟩
  · rw [hc]; exact s.not_mem_finish c l
  · exact (State.byteAt_congr (congrArg Mems.mem hm) x).trans (s.finish_runsKept c l x hx)
  · rw [hc]; exact s.clu_finish_ne c l h

/-! ### ACTIVITY_LEVEL_STEP (R197, R200) -/

/-- The level below which array `a` does not fall: what its next scheduled launch needs. -/
def State.levelNeed (a : Nat) : Nat := match s.nextLaunch c a with | some (n, _) => 8 - n / 4 | none => 0

/-- The instant of the next fall of the level of array `a`. -/
def State.levelFallAt (a : Nat) : Nat := (s.clu c).levelAt.getD a 0 + s.cyc c (if s.getF (pgArr c) (arrLevel a) = 8 then 32 else 4)

/-- The state in which the level of array `a` has fallen by a step. -/
def State.levelFallen (a : Nat) : State :=
  let k := s.clu c
  let lv := s.getF (pgArr c) (arrLevel a)
  let t := if lv = 1 then s.count (pgArr c) (Reg.ARR_CNT_BALLAST a) (s.ballPending c a) else s
  (t.setClu c { k with levelAt := k.levelAt.set a (k.levelAt.getD a 0 + t.cyc c (if lv = 8 then 32 else 4)),
                       ballAt := if lv = 1 then k.ballAt.set a t.now else k.ballAt }).setF (pgArr c) (arrLevel a) (lv - 1)

theorem execActivityLevelStep_eq {a : Nat} (ha : a < 4) : exec (.activityLevelStep c a) s =
    if s.getF (pgArr c) (arrLevel a) = 0 || decide (s.now < s.levelFallAt c a) ||
      decide (s.getF (pgArr c) (arrLevel a) ≤ s.levelNeed c a)
    then .next s else .next (s.levelFallen c a) := by
  change execActivityLevelStep c a s = _
  unfold execActivityLevelStep
  rw [Nat.mod_eq_of_lt ha]
  rfl

/-- What a fall of the level does to registers, memories and launches. -/
theorem State.levelFallen_does {a : Nat} (ha : a < 4) :
    (s.getF (pgArr c) (arrLevel a) = 1 → Counted s (s.levelFallen c a) (pgArr c) (Reg.ARR_CNT_BALLAST a) (s.ballPending c a)) ∧
    (s.levelFallen c a).getF (pgArr c) (arrLevel a) = s.getF (pgArr c) (arrLevel a) - 1 ∧ (s.levelFallen c a).mems = s.mems ∧
    ((s.levelFallen c a).clu c).launches = (s.clu c).launches ∧
    WordsKept s (s.levelFallen c a) [regIdx (pgArr c) (arrLevel a), regIdx (pgArr c) (Reg.ARR_CNT_BALLAST a)] := by
  have hne : regIdx (pgArr c) (Reg.ARR_CNT_BALLAST a) ≠ regIdx (pgArr c) (arrLevel a) := by
    simp only [regIdx, arrLevel, Reg.ARR_CNT_BALLAST]; omega
  have hlt : s.getF (pgArr c) (arrLevel a) < 2 ^ 4 := by
    have := s.getF_lt (pgArr c) (arrLevel a)
    rwa [show (arrLevel a).width = 4 by simp only [Fld.width, arrLevel]; omega] at this
  unfold State.levelFallen
  extract_lets k lv t
  have hm : t.mems = s.mems := by
    unfold t
    split
    · exact s.count_mems _ _ _
    · rfl
  refine ⟨fun h => ?_, ?_, hm, ?_, fun j hj => ?_⟩
  · have ht : t = s.count (pgArr c) (Reg.ARR_CNT_BALLAST a) (s.ballPending c a) := if_pos h
    have hc := s.counted_count (pgArr c) (Reg.ARR_CNT_BALLAST a) (s.ballPending c a) (Nat.zero_le _) (Nat.lt_succ_self 31)
    refine hc.congr rfl rfl ?_
    rw [State.getF_setF_ne _ _ hne, State.getF_setClu, ht]
  · rw [State.getF_setF_same _ _ _ (by simp only [arrLevel]; omega) (by simp only [arrLevel]; omega)]
    rw [show (arrLevel a).width = 4 by simp only [Fld.width, arrLevel]; omega]
    exact Nat.mod_eq_of_lt (by omega)
  · rw [State.clu_setF, State.clu_setClu, if_pos rfl]
  · simp only [List.mem_cons, List.not_mem_nil, or_false, not_or] at hj
    rw [State.word_setF_ne _ _ hj.1, State.word_setClu]
    unfold t
    split
    · exact s.word_count_ne _ hj.2
    · rfl

/-- O35, last clause: the level of an idle array falls by one step. -/
theorem activityLevelStep_changes {a : Nat} (ha : a < 4) :
    ((s.getF (pgArr c) (arrLevel a) ≤ s.levelNeed c a ∨ s.now < s.levelFallAt c a) →
      exec (.activityLevelStep c a) s = .next s) ∧
    (s.levelNeed c a < s.getF (pgArr c) (arrLevel a) → s.levelFallAt c a ≤ s.now →
      ∃ t, exec (.activityLevelStep c a) s = .next t ∧
        (s.getF (pgArr c) (arrLevel a) = 1 → Counted s t (pgArr c) (Reg.ARR_CNT_BALLAST a) (s.ballPending c a)) ∧
        t.getF (pgArr c) (arrLevel a) = s.getF (pgArr c) (arrLevel a) - 1 ∧ t.mems = s.mems ∧
        (t.clu c).launches = (s.clu c).launches ∧
        WordsKept s t [regIdx (pgArr c) (arrLevel a), regIdx (pgArr c) (Reg.ARR_CNT_BALLAST a)]) := by
  rw [execActivityLevelStep_eq s c ha]
  constructor
  · intro h
    rw [if_pos]
    rcases h with h | h <;> simp [h]
  · intro hlv hat
    rw [if_neg (by simp only [Bool.or_eq_true, decide_eq_true_eq]; omega)]
    exact ⟨_, rfl, s.levelFallen_does c ha⟩

end

/-- Settles O35, clause by clause. -/
theorem launchesComplete : Obligations.LaunchesComplete :=
  ⟨⟨fun _ _ _ s _ _ h hl => complete_changes s h hl, fun c s _ _ _ _ _ _ hl he hn => vectorComplete_oneRun s c hl he hn⟩,
    fun c s _ _ hl => epilogueStart_changes s c hl, fun c s _ _ hl => matrixComplete_changes s c hl,
    fun c _ s _ ha => activityLevelStep_changes s c ha⟩

end Sys2Proof.Machine
end

section
/-! PROOFS of the statement on exact accumulation (spec/03_exact_accumulation.md): a quire code holds an integer of its range, an
addition that stays in range is exact, the lane blocks of a reduction hold every pair once, then O43. -/
namespace Sys2Proof.Machine

/-! ### Quire codes (R114, R117, R118) -/

/-- The two's-complement code of an integer in range: the integer, or 2^w more where it is negative. -/
theorem natCast_unsigned {w : Nat} {x : Int} (hw : 0 < w) (hx : x.natAbs < 2 ^ (w - 1)) :
    (unsigned w x : Int) = if 0 ≤ x then x else x + ((2 ^ w : Nat) : Int) := by
  have hp := Nat.two_pow_pred_mul_two hw
  unfold unsigned
  rw [Int.toNat_of_nonneg (Int.emod_nonneg _ (by positivity))]
  split
  · exact Int.emod_eq_of_lt ‹_› (by omega)
  · rw [← Int.add_emod_right]
    exact Int.emod_eq_of_lt (by omega) (by omega)

theorem signed_unsigned {w : Nat} {x : Int} (hw : 0 < w) (hx : x.natAbs < 2 ^ (w - 1)) : signed w (unsigned w x) = x := by
  have hp := Nat.two_pow_pred_mul_two hw
  have hu := natCast_unsigned hw hx
  have hm : unsigned w x % 2 ^ w = unsigned w x := Nat.mod_eq_of_lt (by split at hu <;> omega)
  unfold signed
  rw [hm]
  split at hu <;> split <;> omega

namespace Quire
variable {q : Quire} {x y : Int}

theorem width_pos (q : Quire) : 0 < q.width := by cases q <;> decide

theorem write_of_lt (hx : x.natAbs < 2 ^ (q.width - 1)) : q.write x = (unsigned q.width x, false) := by
  unfold write
  exact if_pos (by omega)

theorem write_of_le (hx : 2 ^ (q.width - 1) ≤ x.natAbs) : q.write x = (q.nar, true) := by
  unfold write
  exact if_neg (by omega)

/-- The code written for an integer in range is not NaR, and reads back as the integer. -/
theorem read_write (hx : x.natAbs < 2 ^ (q.width - 1)) : q.read (q.write x).1 = some x := by
  have hp := Nat.two_pow_pred_mul_two q.width_pos
  have hu := natCast_unsigned q.width_pos hx
  rw [write_of_lt hx]
  unfold read nar
  rw [signed_unsigned q.width_pos hx, Nat.mod_eq_of_lt (by split at hu <;> omega)]
  exact if_neg (by split at hu <;> omega)

/-- R148: two codes add as their integers do, before the result is written. -/
theorem add_write (hx : x.natAbs < 2 ^ (q.width - 1)) (hy : y.natAbs < 2 ^ (q.width - 1)) :
    q.add (q.write x).1 (q.write y).1 = q.write (x + y) := by
  unfold add
  rw [read_write hx, read_write hy]

end Quire

/-! ### Lane blocks (R169) -/

theorem le_ceilDiv_mul (k : Nat) {ls : Nat} (hl : 0 < ls) : k ≤ ceilDiv k ls * ls := by
  have h : k + ls - 1 < (ceilDiv k ls + 1) * ls := Nat.lt_mul_of_div_lt (Nat.lt_succ_self _) hl
  rw [Nat.add_mul] at h
  omega

/-- The first n blocks hold the first n * ls pairs, in their order. -/
theorem flatten_blocks {α : Type} (ls : Nat) (ps : List α) (n : Nat) :
    ((List.range n).map fun b => (ps.drop (b * ls)).take ls).flatten = ps.take (n * ls) := by
  induction n with
  | zero => simp
  | succ n ih => rw [List.range_succ, List.map_append, List.flatten_append, ih, Nat.succ_mul, List.take_add]; simp

/-- The lane blocks of a reduction hold each of its pairs once, in their order. -/
theorem flatten_laneBlocks {α : Type} {ls : Nat} (hl : 0 < ls) (ps : List α) : (laneBlocks ls ps.length ps).flatten = ps := by
  unfold laneBlocks
  rw [flatten_blocks, List.take_of_length_le (le_ceilDiv_mul _ hl)]

theorem laneBlocks_map {α β : Type} (f : α → β) (ls k : Nat) (ps : List α) :
    laneBlocks ls k (ps.map f) = (laneBlocks ls k ps).map (List.map f) := by
  simp [laneBlocks, Function.comp_def]

/-! ### Finite operands (R117, R160) -/

/-- A pair of exact numbers as a pair of operands. -/
def finOps (p : Num × Num) : Val × Val := (.fin p.1, .fin p.2)

/-- The product of a pair in units of the quire's last bit. -/
def Quire.term (q : Quire) (p : Num × Num) : Int := q.units (p.1.mul p.2)

/-- The greatest absolute value that partial sums of the products can reach. -/
def Quire.mass (q : Quire) (ps : List (Num × Num)) : Nat := ((ps.map q.term).map Int.natAbs).sum

section
variable (q : Quire)

theorem Quire.natAbs_sum_le_mass (ps : List (Num × Num)) : (ps.map q.term).sum.natAbs ≤ q.mass ps :=
  List.le_sum_of_subadditive Int.natAbs rfl.le Int.natAbs_add_le _

/-- A step over finite operands sums its products exactly, with no INV. -/
theorem stepSum_finOps (ps : List (Num × Num)) : stepSum q (ps.map finOps) = (some (ps.map q.term).sum, false) := by
  unfold stepSum
  rw [List.foldl_map, List.sum_eq_foldl, List.foldl_map]
  exact List.foldl_hom (fun u : Int => (some u, false)) fun _ _ => rfl

/-- An entry that holds an exact sum, with no flag. -/
def exactAcc (u : Int) : EntAcc := { v := some u, fl := {}, ovr := none }

/-- An addition that stays in range is exact and raises no flag. -/
theorem EntAcc.add_exact (n : Nat) {u w : Int} (h : (u + w).natAbs < 2 ^ (q.width - 1)) :
    (exactAcc u).add q n (some w, false) = exactAcc (u + w) := by
  simp [EntAcc.add, exactAcc, Quire.write_of_lt h]

/-- One step of a launch into an entry: a lane block and the step's number. -/
def EntAcc.addStep (e : EntAcc) (b : List (Val × Val) × Nat) : EntAcc := e.add q b.2 (stepSum q b.1)

/-- With no INT correction an entry is what its steps leave. -/
theorem exactEntry_none (ls k : Nat) (e : EntAcc) (ps : List (Val × Val)) :
    exactEntry q ls k e ps none = (laneBlocks ls k ps).zipIdx.foldl (EntAcc.addStep q) e := rfl

theorem EntAcc.addStep_exact (n : Nat) {u : Int} {ps : List (Num × Num)}
    (h : (u + (ps.map q.term).sum).natAbs < 2 ^ (q.width - 1)) :
    (exactAcc u).addStep q (ps.map finOps, n) = exactAcc (u + (ps.map q.term).sum) := by
  rw [addStep, stepSum_finOps, add_exact q n h]

/-- The steps over finite operands, numbered from any number on, add every product of their blocks: no partial sum leaves the
range. -/
theorem foldl_addStep_exact (bs : List (List (Num × Num))) (u : Int) (i : Nat)
    (h : u.natAbs + q.mass bs.flatten < 2 ^ (q.width - 1)) :
    ((bs.map (List.map finOps)).zipIdx i).foldl (EntAcc.addStep q) (exactAcc u) =
      exactAcc (u + (bs.flatten.map q.term).sum) := by
  induction bs generalizing u i with
  | nil => simp
  | cons b bs ih =>
    have hm : q.mass (b :: bs).flatten = q.mass b + q.mass bs.flatten := by simp [Quire.mass]
    have hb := q.natAbs_sum_le_mass b
    have hu := Int.natAbs_add_le u (b.map q.term).sum
    rw [List.map_cons, List.zipIdx_cons, List.foldl_cons, EntAcc.addStep_exact q i (by omega), ih _ _ (by omega),
      List.flatten_cons, List.map_append, List.sum_append, add_assoc]

/-- A launch over finite operands with no INT correction adds every product exactly, whatever the lanes of a step. -/
theorem exactEntry_finOps {ls : Nat} (hl : 0 < ls) (u : Int) (ps : List (Num × Num))
    (h : u.natAbs + q.mass ps < 2 ^ (q.width - 1)) :
    exactEntry q ls ps.length (exactAcc u) (ps.map finOps) none = exactAcc (u + (ps.map q.term).sum) := by
  have hf := flatten_laneBlocks hl ps
  rw [exactEntry_none, laneBlocks_map, foldl_addStep_exact q _ u 0 (by rwa [hf]), hf]

end

/-- Settles O43: the entry by the exactness of each step over the lane blocks, the sum of two codes by what the quire writes. -/
theorem exactAccumulation : Obligations.ExactAccumulation :=
  ⟨fun q _ start ps hl h => exactEntry_finOps q hl start ps h,
    fun _ _ _ hx hy => ⟨Quire.read_write hx, fun h => by rw [Quire.add_write hx hy, Quire.write_of_lt h],
      fun h => by rw [Quire.add_write hx hy, Quire.write_of_le h]⟩⟩

end Sys2Proof.Machine
end

section
/-! PROOFS of the statements on the vector engine (spec/05_vector_and_functions.md), first part: what each operation makes of
finite operands, then O42. -/
namespace Sys2Proof.Machine

/-- An element result that is a number of a given rational value, with no flag. -/
def ExactResult (r : Val × Flags) (q : ℚ) : Prop := ∃ y, r = (.fin y, {}) ∧ 0 < y.d ∧ numRat y = q

theorem ExactResult.of_eq {r r' : Val × Flags} {q : ℚ} (h : ExactResult r' q) (e : r = r') : ExactResult r q := e ▸ h

section
variable {a b : Num}

theorem Num.div_d_pos (ha : 0 < a.d) (hb : 0 < b.d) (h : numRat b ≠ 0) : 0 < (a.div b).d := by
  have hm : b.m ≠ 0 := by simpa [Num.isZero] using (Num.isZero_iff hb).not.mpr h
  exact Nat.mul_pos ha (Int.natAbs_pos.mpr hm)

/-- R210: a quotient by a number other than zero. -/
theorem Val.div_fin (hb : 0 < b.d) (h : numRat b ≠ 0) : (Val.fin a).div (.fin b) = (.fin (a.div b), {}) :=
  if_neg ((Num.isZero_iff hb).not.mpr h)

/-- R210: a nonzero dividend over zero. -/
theorem Val.div_fin_zero (ha : 0 < a.d) (hb : 0 < b.d) (h : numRat b = 0) (hn : numRat a ≠ 0) :
    (Val.fin a).div (.fin b) = (.inf (decide (numRat a < 0)), Flags.INV) := by
  unfold Val.div
  dsimp only
  rw [if_pos ((Num.isZero_iff hb).mpr h), if_neg ((Num.isZero_iff ha).not.mpr hn),
    Bool.eq_iff_iff.mpr ((Num.isNeg_iff ha).trans decide_eq_true_iff.symm)]

/-- R87: the total order of two numbers is that of their rationals. -/
theorem Val.lt_fin (ha : 0 < a.d) (hb : 0 < b.d) : (Val.fin a).lt (.fin b) = decide (numRat a < numRat b) :=
  Bool.eq_iff_iff.mpr ((Num.lt_iff ha hb).trans decide_eq_true_iff.symm)

theorem Val.eqv_fin (ha : 0 < a.d) (hb : 0 < b.d) : (Val.fin a).eqv (.fin b) = decide (numRat a = numRat b) := by
  simp [Val.eqv, Val.lt_fin, ha, hb, ← decide_not, ← Bool.decide_and, le_antisymm_iff, and_comm]

/-- The choice of one of two numbers takes the rational of the one chosen. -/
theorem exactResult_ite {p : Prop} [Decidable p] (ha : 0 < a.d) (hb : 0 < b.d) :
    ExactResult (if p then Val.fin a else .fin b, {}) (if p then numRat a else numRat b) := by
  split
  · exact ⟨a, rfl, ha, rfl⟩
  · exact ⟨b, rfl, hb, rfl⟩

/-- A comparison answers one or zero. -/
theorem exactResult_indicator (p : Prop) [Decidable p] :
    ExactResult (.fin (.ofInt (if p then 1 else 0)), {}) (if p then 1 else 0) :=
  ⟨_, rfl, Nat.one_pos, by rw [numRat_ofInt]; push_cast; rfl⟩

end

/-- R208, R210: the operations that choose or compare, on finite operands, decided by the rationals of the operands. -/
theorem veElem_choices {a b c : Num} (ha : 0 < a.d) (hb : 0 < b.d) (hc : 0 < c.d) :
    let r (op : Nat) := veElem op (.fin a) (.fin b) (.fin c)
    r 6 = (if numRat a < numRat b then .fin b else .fin a, {}) ∧ r 7 = (if numRat b < numRat a then .fin b else .fin a, {}) ∧
    r 8 = (.fin (.ofInt (if numRat a < numRat b then 1 else 0)), {}) ∧
    r 9 = (.fin (.ofInt (if numRat a = numRat b then 1 else 0)), {}) ∧
    r 10 = (if numRat c = 0 then .fin b else .fin a, {}) := by
  simp [veElem, Val.lt_fin, Val.eqv_fin, Num.isZero_iff, Val.isNan, ha, hb, hc]

/-- Settles O42, operation by operation, by the rational of each operation on exact numbers. -/
theorem vectorElementResults : Obligations.VectorElementResults := by
  intro a b c ha hb hc is
  have hab : 0 < (a.mul b).d := Nat.mul_pos ha hb
  obtain ⟨h6, h7, h8, h9, h10⟩ := veElem_choices ha hb hc
  refine ⟨⟨_, rfl, Num.add_d_pos ha hb, numRat_add ha hb⟩, ⟨_, rfl, Num.sub_d_pos ha hb, numRat_sub ha hb⟩,
    ⟨_, rfl, hab, numRat_mul a b⟩, ⟨_, rfl, Num.add_d_pos hab hc, by rw [numRat_add hab hc, numRat_mul]⟩,
    fun h => ⟨_, Val.div_fin hb h, Num.div_d_pos ha hb h, numRat_div h⟩, ?_, ?_, ?_, ?_, ?_,
    ⟨_, rfl, ha, numRat_abs a⟩, ⟨_, rfl, ha, numRat_neg a⟩, fun h hn => Val.div_fin_zero ha hb h hn⟩
  · rw [max_def_lt]; exact (exactResult_ite hb ha).of_eq h6
  · rw [min_comm, min_def_lt]; exact (exactResult_ite hb ha).of_eq h7
  · exact (exactResult_indicator _).of_eq h8
  · exact (exactResult_indicator _).of_eq h9
  · exact (exactResult_ite hb ha).of_eq h10

end Sys2Proof.Machine
end

section
/-! PROOFS of the statements on the vector engine (spec/05_vector_and_functions.md), second part: what the report of a memory
error leaves alone, what a launch of classes 1, 2 and 4 does, then O31. -/
namespace Sys2Proof.Machine

/-! ### Words that no report of a memory error writes -/

/-- The pages on which a memory error that is found, or its event, may be written: those of the code check, of die managers,
stacks, regions and clusters. -/
def ReportPage (pg : Nat) : Prop := 6 ≤ pg ∧ (pg < 0x800 ∨ pg % 4 = 0)

/-- A word of no such page. -/
def QuietWord (j : Nat) : Prop := ¬ ReportPage (j / 1024)

theorem quietWord_pgPwr (f : Fld) (hf : f.off < 4096 := by decide) : QuietWord (regIdx pgPwr f) := by
  rw [QuietWord, regIdx_page _ f hf, ReportPage, pgPwr]
  omega

theorem quietWord_pgDoc (c : Nat) (f : Fld) (hf : f.off < 4096 := by decide) : QuietWord (regIdx (pgDoc c) f) := by
  rw [QuietWord, regIdx_page _ f hf, ReportPage, pgDoc]
  omega

theorem reportPage_pgEcc : ReportPage pgEcc := ⟨le_rfl, .inl (by decide)⟩

theorem reportPage_pgRgn {r : Nat} (h : r < 512) : ReportPage (pgRgn r) := by
  unfold ReportPage pgRgn
  omega

/-- The pages that capture errors of the memory map and of Catalogues (R429). -/
def CapturePage (pg : Nat) : Prop := (∃ c < 512, pg = pgClu c) ∨ (∃ x < 12, pg = pgMem x) ∨ pg = pgEcc

theorem CapturePage.reportPage {pg : Nat} (h : CapturePage pg) : ReportPage pg := by
  obtain ⟨c, -, rfl⟩ | ⟨x, hx, rfl⟩ | rfl := h
  · unfold ReportPage pgClu; omega
  · unfold ReportPage pgMem; omega
  · exact reportPage_pgEcc

/-- The die manager that collects the events of such a page has a page of reports too. -/
theorem CapturePage.manager {pg d : Nat} (h : CapturePage pg) (hd : managerOf pg = some d) : ReportPage (pgDie d) := by
  have hlt : d < 4 := by
    obtain ⟨c, hc, rfl⟩ | ⟨x, hx, rfl⟩ | rfl := h
    · rw [managerOf, pageBlock_pgClu hc] at hd
      cases hd
      exact Nat.div_lt_of_lt_mul hc
    · interval_cases x <;> cases hd <;> decide
    · cases hd
  unfold ReportPage pgDie
  omega

/-- The memories of a cluster report on its own page. -/
theorem capturePage_cluster {k c : Nat} (hk : k < 5) (hc : c < 512) : CapturePage (instPage (k * 4096 + c)) := by
  refine .inl ⟨c, hc, ?_⟩
  have h1 : (k * 4096 + c) / 4096 = k := by omega
  have h2 : (k * 4096 + c) % 4096 = c := by omega
  unfold instPage
  rw [h1, h2]
  interval_cases k <;> rfl

theorem capturePage_stack {x : Nat} (hx : x < 12) : CapturePage (instPage (9 * 4096 + x)) := by
  refine .inr (.inl ⟨x, hx, ?_⟩)
  interval_cases x <;> rfl

/-- The stack or the cluster of an address is one of those that there are (R400). -/
def AddrKind.Placed : AddrKind → Prop
  | .hbm x _ => x < 12
  | .ws c _ | .ab c _ => c < 512
  | _ => True

theorem addrKind_placed (p : PartNo) (a : Nat) : (addrKind p a).Placed := by
  have hclu {i : Nat} (h : i < 512 * 0x800000) : i / 0x800000 < 512 := Nat.div_lt_of_lt_mul (by omega)
  unfold addrKind
  dsimp only
  split
  · next h =>
    split
    · exact Nat.div_lt_of_lt_mul (by rwa [mul_comm])
    · exact True.intro
  · split
    · next h =>
      have hc : (a - cluBase) / 0x800000 < 512 := hclu (by simp only [Bool.and_eq_true, decide_eq_true_eq] at h; omega)
      generalize a - cluBase = o at hc ⊢
      split
      · exact hc
      · split
        · exact hc
        · exact True.intro
    · split <;> exact True.intro

theorem capturePage_instOf (p : PartNo) (a : Nat) : CapturePage (instPage (instOf p a).1) := by
  have h := addrKind_placed p a
  unfold instOf
  generalize addrKind p a = k at h ⊢
  cases k with
  | hbm x o => exact capturePage_stack h
  | ws c o => simpa using capturePage_cluster (k := 0) (by decide) h
  | ab c o => simpa using capturePage_cluster (k := 1) (by decide) h
  | archive => exact .inr (.inr rfl)
  | hole => exact .inr (.inr rfl)

section
variable {j : Nat} (hj : QuietWord j)
include hj

theorem QuietWord.ne {pg : Nat} (hp : ReportPage pg) {f : Fld} (hf : f.off < 4096 := by decide) : j ≠ regIdx pg f :=
  ne_regIdx_of_page (fun h => hj (h ▸ hp)) hf

theorem QuietWord.setF (s : State) {pg : Nat} (hp : ReportPage pg) (f : Fld) (v : Nat) (hf : f.off < 4096) :
    (s.setF pg f v).word j = s.word j := s.word_setF_ne v (hj.ne hp hf)

theorem QuietWord.orF (s : State) {pg : Nat} (hp : ReportPage pg) (f : Fld) (v : Nat) (hf : f.off < 4096) :
    (s.orF pg f v).word j = s.word j := hj.setF s hp f _ hf

theorem QuietWord.count (s : State) {pg : Nat} (hp : ReportPage pg) (f : Fld) (n : Nat) (hf : f.off < 4096) :
    (s.count pg f n).word j = s.word j := s.word_count_ne n (hj.ne hp hf)

theorem QuietWord.raise (s : State) {pg : Nat} (hc : CapturePage pg) (bit code sev : Nat) (data : List Byte) :
    (s.raise pg bit code sev data).word j = s.word j := by
  have hp := hc.reportPage
  refine s.word_raise _ _ _ _ _ ?_
  unfold eventWords
  split
  · simpa using hj.ne hp (f := Reg.PG_EVT)
  · next d hd =>
    have hm := hc.manager hd
    simp [hj.ne hp (f := Reg.PG_EVT), hj.ne hm (f := Reg.DIE_EVTQ), hj.ne hm (f := Reg.DIE_CNT_EVT),
      hj.ne hm (f := Reg.DIE_CNT_EVTDROP)]

theorem QuietWord.foundUE (s : State) {inst : Nat} (hi : CapturePage (instPage inst)) (off cause : Nat) :
    (s.foundUE inst off cause).word j = s.word j := by
  have hr : ReportPage (pgRgn (regionOf (inst % 4096))) := reportPage_pgRgn (by unfold regionOf; omega)
  unfold State.foundUE
  extract_lets pg addr synd c1 c2 c3 c4 c5 c6 c7 s1 u1 u2 s2
  have hp : ReportPage pg := hi.reportPage
  have h1 : s1.word j = s.word j := by
    unfold s1
    split
    · exact hj.orF s hp _ _ (by decide)
    · simp (disch := decide) only [hj.setF _ hp, c1, c2, c3, c4, c5, c6, c7]
  have h2 : u1.word j = s1.word j := by
    unfold u1
    split
    · exact hj.count s1 hp _ _ (by decide)
    · rfl
  have h3 : u2.word j = u1.word j := by
    unfold u2
    split
    · exact hj.orF u1 hr _ _ (by decide)
    · rfl
  have h4 : s2.word j = s.word j := by
    unfold s2
    split
    · exact (hj.count s1 hp _ _ (by decide)).trans h1
    · exact (hj.count u2 reportPage_pgEcc _ _ (by decide)).trans (h3.trans (h2.trans h1))
  exact (hj.raise s2 hi _ _ _ _).trans h4

theorem QuietWord.foundCE (s : State) {inst : Nat} (hi : CapturePage (instPage inst)) : (s.foundCE inst).word j = s.word j := by
  unfold State.foundCE
  extract_lets pg s1 s2 n m u
  have hp : ReportPage pg := hi.reportPage
  have h1 : s1.word j = s.word j := by
    unfold s1
    split <;> simp (disch := decide) only [hj.count _ hp]
  have h2 : s2.word j = s.word j := by
    unfold s2
    split
    · exact h1
    · exact (hj.count s1 reportPage_pgEcc _ _ (by decide)).trans h1
  split
  · exact (hj.raise _ hi _ _ _ _).trans ((hj.count u reportPage_pgEcc _ _ (by decide)).trans h2)
  · exact h2

theorem QuietWord.foundAt (s : State) {inst : Nat} (hi : CapturePage (instPage inst)) (off cause : Nat) :
    (s.foundAt inst off cause).word j = s.word j := by
  unfold State.foundAt
  split
  · exact hj.foundCE s hi
  · exact hj.foundUE s hi _ _
  · rfl

end

/-! ### The operands of a launch are read (R370, R429, R430) -/

/-- What the reading of a launch's operands may change: the reports of errors found there, and the free-running draw. -/
structure OnlyReports (s t : State) : Prop where
  sans : { t.sansErrors with draw := 0 } = { s.sansErrors with draw := 0 }
  word : ∀ j, QuietWord j → t.word j = s.word j

namespace OnlyReports
variable {s t u : State}

theorem refl (s : State) : OnlyReports s s := ⟨rfl, fun _ _ => rfl⟩

theorem trans (h : OnlyReports s t) (h' : OnlyReports t u) : OnlyReports s u :=
  ⟨h'.sans.trans h.sans, fun j hj => (h'.word j hj).trans (h.word j hj)⟩

theorem foundAt (h : OnlyReports s t) {inst : Nat} (hi : CapturePage (instPage inst)) (off cause : Nat) :
    OnlyReports s (t.foundAt inst off cause) :=
  h.trans ⟨congrArg (fun x : State => { x with draw := 0 }) (t.foundAt_sans inst off cause), fun _ hj => hj.foundAt t hi off cause⟩

theorem touch (h : OnlyReports s t) (a n cause : Nat) : OnlyReports s (t.touch a n cause) := by
  unfold State.touch
  split
  · exact h
  · exact foldl_inv (OnlyReports s) _ (fun x _ hx => hx.foundAt (capturePage_instOf x.part _) _ _) _ _ h

theorem touchDeps (h : OnlyReports s t) (rs : List DepRange) (cause : Nat) :
    OnlyReports s (rs.foldl (fun s r => s.touch r.lo (r.hi - r.lo) cause) t) :=
  foldl_inv (OnlyReports s) _ (fun _ _ hx => hx.touch _ _ _) rs t h

theorem touchAll (h : OnlyReports s t) (rs : List (Nat × Nat)) (cause : Nat) : OnlyReports s (t.touchAll rs cause) := by
  unfold State.touchAll
  split
  · exact h
  · exact foldl_inv (OnlyReports s) _ (fun x _ hx => hx.foundAt (capturePage_instOf x.part _) _ _) _ _ h

theorem touchCats (h : OnlyReports s t) {c : Nat} (hc : c < 512) (cause : Nat) (is : List Nat) :
    OnlyReports s (t.touchCats c cause is) := by
  unfold State.touchCats
  split
  · exact h
  · exact foldl_inv (OnlyReports s) _ (fun _ _ hx => hx.foundAt (capturePage_cluster (k := 4) (by decide) hc) _ _) _ _ h

theorem vary (h : OnlyReports s t) (d : Desc) : OnlyReports s (t.vary d) := by
  unfold State.vary
  split
  · exact ⟨h.sans, h.word⟩
  · exact h

theorem sched (h : OnlyReports s t) : t.sched = s.sched := (congrArg State.sched h.sans :)
theorem plat (h : OnlyReports s t) : t.plat = s.plat := (congrArg State.plat h.sans :)

theorem mems (h : OnlyReports s t) : { t.mems with buckets := [] } = { s.mems with buckets := [] } := (congrArg State.mems h.sans :)

theorem clu (h : OnlyReports s t) (c : Nat) : t.clu c = s.clu c := by
  unfold State.clu State.clusters
  rw [h.sched]

theorem getF_pgDoc (h : OnlyReports s t) (c : Nat) (f : Fld) (hf : f.off < 4096 := by decide) :
    t.getF (pgDoc c) f = s.getF (pgDoc c) f := congrArg f.get (h.word _ (quietWord_pgDoc c f hf))

end OnlyReports

/-! ### Cycles of a cluster -/

/-- The cycles of a cluster hang on the throttles and the clock code in force. -/
theorem State.cyc_congr {s t : State} (hp : t.plat = s.plat)
    (hw : t.word (regIdx pgPwr Reg.PWR_CLK_CODE) = s.word (regIdx pgPwr Reg.PWR_CLK_CODE)) (c n : Nat) : t.cyc c n = s.cyc c n := by
  unfold State.cyc State.freq State.clkCode State.throttle State.throttles State.getF
  rw [hp, hw]

theorem OnlyReports.cyc {s t : State} (h : OnlyReports s t) (c n : Nat) : t.cyc c n = s.cyc c n :=
  State.cyc_congr h.plat (h.word _ (quietWord_pgPwr _)) c n

/-! ### The issue of a descriptor (R314, R357) -/

/-- What the issue of the head descriptor does before its class does anything. -/
structure Issued (s v : State) (c : Nat) (d : Desc) : Prop where
  clu : ∃ w, v.clu c = { s.clu c with waitAt := w, queue := (s.clu c).queue.tail, lastIssue := s.issueAt c }
  others : ∀ c', c' ≠ c → v.clu c' = s.clu c'
  counted : Counted s v (pgDoc c) Reg.DOC_CNT_ISSUE 1
  waited : Counted s v (pgDoc c) Reg.DOC_CNT_WAIT ((s.issueAt c - s.dueFrom c d) * s.freq (dieOf c) / 512)
  mems : v.mems = s.mems
  cyc : ∀ c' n, v.cyc c' n = s.cyc c' n

theorem State.issue_issued (s : State) (c : Nat) (d : Desc) : Issued s (s.issue c d) c d := by
  obtain ⟨u, w, hu, hf, hk, ho, hn, hw⟩ := s.waited_waits c d (s.issueAt c)
  have hcode : u.word (regIdx pgPwr Reg.PWR_CLK_CODE) = s.word (regIdx pgPwr Reg.PWR_CLK_CODE) :=
    hw _ (by simpa using regIdx_ne_off _ _ _ _)
  have hplat : u.plat = s.plat := (congrArg State.plat hf :)
  have hcyc (c' n : Nat) : u.cyc c' n = s.cyc c' n := State.cyc_congr hplat hcode c' n
  have hnow : u.now = s.now := (congrArg State.now hf :)
  have hat : u.issueAt c = s.issueAt c := by
    unfold State.issueAt
    rw [hk, hcyc, hnow]
  have hcnt : u.counting (pgDoc c) = s.counting (pgDoc c) := State.counting_congr (hw _ (by simpa using regIdx_ne_off _ _ _ _))
  have hissue : u.getF (pgDoc c) Reg.DOC_CNT_ISSUE = s.getF (pgDoc c) Reg.DOC_CNT_ISSUE :=
    congrArg (Fld.get _) (hw _ (by simpa using regIdx_ne_off (pgDoc c) (pgDoc c) Reg.DOC_CNT_WAIT Reg.DOC_CNT_ISSUE))
  unfold State.issue
  rw [hu]
  unfold State.popHead
  extract_lets k
  set v := u.setClu c { k with queue := k.queue.tail, lastIssue := u.issueAt c } with hv
  refine ⟨⟨w, ?_⟩, fun c' h => ?_, ?_, ?_, ?_, fun c' n => ?_⟩
  · rw [State.clu_count, hv, State.clu_setClu, if_pos rfl, hat, show k = _ from hk]
  · rw [State.clu_count, hv, State.clu_setClu, if_neg h, ho c' h]
  · exact (v.counted_count (pgDoc c) Reg.DOC_CNT_ISSUE 1).congr hissue hcnt rfl
  · exact hn.congr rfl rfl (State.getF_count_ne _ _ (regIdx_ne_off _ _ _ _))
  · rw [State.count_mems]
    exact (congrArg State.mems hf :)
  · rw [State.cyc_congr (v.count_plat _ _ _) (v.word_count_ne _ (regIdx_ne_off _ _ _ _))]
    exact hcyc c' n

/-! ### A launch enters the table of its cluster (R314, R315) -/

/-- The vector engine, and with it perhaps the SFU, is taken for `n` cycles(G) from the issue. -/
structure EngineTaken (u w : State) (c n : Nat) : Prop where
  frame : w = { u with sched.clusters := w.clusters }
  clu : ∃ f, w.clu c = { u.clu c with veFree := (u.clu c).lastIssue + u.cyc c n, sfuFree := f }
  others : ∀ c', c' ≠ c → w.clu c' = u.clu c'

theorem State.takeVe_taken (u : State) (c n : Nat) : EngineTaken u (u.takeVe c n) c n := by
  refine ⟨rfl, ⟨(u.clu c).sfuFree, ?_⟩, fun c' h => ?_⟩
  · unfold State.takeVe
    rw [State.clu_setClu, if_pos rfl]
  · unfold State.takeVe
    rw [State.clu_setClu, if_neg h]

theorem EngineTaken.setSfuFree {u w : State} {c n : Nat} (h : EngineTaken u w c n) (f : Nat) :
    EngineTaken u (w.setClu c { w.clu c with sfuFree := f }) c n := by
  obtain ⟨g, hg⟩ := h.clu
  refine ⟨?_, ⟨f, ?_⟩, fun c' hc => ?_⟩
  · conv_lhs => rw [h.frame]
    rfl
  · rw [State.clu_setClu, if_pos rfl, hg]
  · rw [State.clu_setClu, if_neg hc, h.others c' hc]

/-- The entry that a launch is given. -/
theorem State.addLaunch_enters (s : State) (c : Nat) (d : Desc) (holds : List DepRange) (dur epi : Nat) (effs : List Eff) :
    ∃ l : Launch, s.addLaunch c d holds dur epi 0 0 effs =
        s.setClu c { s.clu c with launches := (s.clu c).launches ++ [l], issued := (s.clu c).issued + 1 } ∧
      l.slot = d.slot ∧ l.cls = d.cls ∧ l.opc = d.opc ∧ l.deps = holds ∧ l.effs = effs ∧ l.start = (s.clu c).lastIssue ∧
      l.due = (s.clu c).lastIssue + s.cyc c dur := ⟨_, rfl, rfl, rfl, rfl, rfl, rfl, rfl, rfl⟩

/-- A descriptor that issues, has its operands read, takes the vector engine and enters the table has become a launch, and no
memory has changed. -/
theorem launched_of_addLaunch {s u w : State} {a : Ask} {d : Desc} {n : Nat} (h : s.AtHead a d)
    (hr : OnlyReports (s.issue a.c d) u) (hw : EngineTaken u w a.c n) (dur epi : Nat) (effs : List Eff) :
    let t := w.addLaunch a.c d (a.plan s d).holds dur epi 0 0 effs
    ∃ l, Launched s t a d l ∧ l.effs = effs ∧ l.due = l.start + s.cyc a.c dur ∧ s.issueAt a.c ≤ (t.clu a.c).veFree ∧
      t.mem = s.mem ∧ t.cat = s.cat ∧ t.am = s.am ∧ t.im = s.im ∧ t.tiles = s.tiles := by
  intro t
  have hi := s.issue_issued a.c d
  obtain ⟨l, ht, hslot, hcls, hopc, hdeps, heffs, hstart, hdue⟩ := w.addLaunch_enters a.c d (a.plan s d).holds dur epi effs
  obtain ⟨wait, hv⟩ := hi.clu
  obtain ⟨f, hk⟩ := hw.clu
  rw [hr.clu, hv, hr.cyc, hi.cyc] at hk
  have hcyc : w.cyc a.c dur = s.cyc a.c dur :=
    (State.cyc_congr (congrArg State.plat hw.frame) (congrArg (State.word · _) hw.frame) _ _).trans
      ((hr.cyc _ _).trans (hi.cyc _ _))
  have htc : t.clu a.c = _ := (congrArg (State.clu · a.c) ht).trans ((State.clu_setClu _ _ _ _).trans (if_pos rfl))
  have htf (f : Fld) (hf : f.off < 4096) : t.getF (pgDoc a.c) f = (s.issue a.c d).getF (pgDoc a.c) f := by
    rw [show t = _ from ht, State.getF_setClu, hw.frame]
    exact hr.getF_pgDoc a.c f hf
  have hm : { t.mems with buckets := [] } = { s.mems with buckets := [] } := by
    rw [show t = _ from ht, State.setClu_mems, hw.frame]
    exact hr.mems.trans (by rw [hi.mems])
  rw [hk] at hstart hdue htc
  refine ⟨l, ⟨?_, fun _ => ?_, ?_, hslot, hcls.trans h.cls, hopc.trans h.opc, hdeps, hstart.ge, fun _ => hstart, ?_, fun _ => ?_,
    fun c hc => ?_⟩, heffs, ?_, ?_, (congrArg Mems.mem hm :), (congrArg Mems.cat hm :), (congrArg Mems.am hm :),
    (congrArg Mems.im hm :), (congrArg Mems.tiles hm :)⟩
  · rw [htc]
  · rw [htc]
  · rw [htc]
    simp
  · exact hi.counted.congr rfl rfl (htf _ (by decide))
  · exact hi.waited.congr rfl rfl (htf _ (by decide))
  · rw [show t = _ from ht, State.clu_setClu, if_neg hc, hw.others c hc, hr.clu, hi.others c hc]
  · rw [hdue, hstart, hcyc]
  · rw [htc]
    exact Nat.le_add_right _ _

/-! ### The launches of classes 1, 2 and 4 -/

/-- What the launch commands of classes 1, 2 and 4 ask. -/
inductive VectorAsk : Ask → Prop
  | ve (c op : Nat) (h : op ≠ 15) : VectorAsk { c := c, cls := 1, opc := op, plan := vePlan c op }
  | qadd (c : Nat) : VectorAsk { c := c, cls := 1, opc := 15, plan := qaddPlan c }
  | sfu (c fn : Nat) (h : fn ≠ 18) : VectorAsk { c := c, cls := 2, opc := fn, plan := sfuPlan c fn }
  | rope (c : Nat) : VectorAsk { c := c, cls := 2, opc := 18, plan := ropePlan c }
  | row (c op : Nat) : VectorAsk { c := c, cls := 4, opc := op, plan := rowPlan c }

theorem vectorAsk_of_askOf {i : Instr} {a : Ask} (h : askOf i = some a) (hc : a.cls = 1 ∨ a.cls = 2 ∨ a.cls = 4) :
    VectorAsk a := by
  unfold askOf at h
  split at h <;> cases h <;> simp at hc <;> with_reducible constructor <;> decide

/-- From the state `v` in which its descriptor has issued, a launch comes to `t`: its operands are read, the engine is taken, and
an entry with its work is made. -/
def LaunchesFrom (a : Ask) (d : Desc) (holds : List DepRange) (v t : State) : Prop :=
  ∃ u w n epi, OnlyReports v u ∧ EngineTaken u w a.c n ∧
    t = w.addLaunch a.c d holds (vectorWork v a d).2 epi 0 0 (vectorWork v a d).1

/-- The cycles of the SFU that a class-2 launch loses are those that it finds taken at its issue (R233). -/
theorem launches_sfu {a : Ask} {d : Desc} {x : VecDesc} (hc : a.c < 512) (h2 : a.cls = 2) (hx : d.vec = some x) (v : State)
    (reads holds : List DepRange) (effs : List Eff)
    (he : effs = if a.opc = 18 then v.ropeEffs a.c d x else v.sfuEffs a.c a.opc d x) :
    LaunchesFrom a d holds v (v.sfuLaunch a.c a.opc d x reads holds effs) := by
  have hr := (((OnlyReports.refl v).touchDeps reads 4).touchCats hc 5 x.cats).vary d
  unfold LaunchesFrom State.sfuLaunch vectorWork
  rw [h2, hx]
  dsimp only
  rw [hr.clu, hr.cyc, hr.cyc, ← he]
  exact ⟨_, _, _, _, hr, (State.takeVe_taken _ _ _).setSfuFree _, rfl⟩

/-- A descriptor of classes 1, 2 and 4 that is in order launches. -/
theorem launches_of_good {a : Ask} (ha : VectorAsk a) (hc : a.c < 512) {s : State} {d : Desc} (hg : (a.plan s d).bad = false)
    (v : State) : LaunchesFrom a d (a.plan s d).holds v ((a.plan s d).go v) := by
  cases ha with
  | ve c op h =>
    dsimp only at hg hc ⊢
    unfold vePlan at hg ⊢
    unfold LaunchesFrom vectorWork
    split at hg
    · cases hg
    · next x hx =>
      simp only [hx, h, if_false]
      exact ⟨_, _, _, _, (((OnlyReports.refl v).touchDeps _ 4).touchCats hc 5 _).vary d, State.takeVe_taken _ _ _, rfl⟩
  | qadd c =>
    unfold qaddPlan at hg ⊢
    unfold LaunchesFrom vectorWork
    dsimp only at hg ⊢
    split at hg
    · next x q hx hq =>
      simp only [hx, hq]
      exact ⟨_, _, _, _, ((OnlyReports.refl v).touchDeps _ 4).vary d, State.takeVe_taken _ _ _, rfl⟩
    · cases hg
  | sfu c fn h =>
    dsimp only at hg hc ⊢
    unfold sfuPlan at hg ⊢
    split at hg
    · cases hg
    · next x hx =>
      exact launches_sfu hc rfl hx v _ _ _ (if_neg h).symm
  | rope c =>
    dsimp only at hg hc ⊢
    unfold ropePlan at hg ⊢
    split at hg
    · cases hg
    · next x hx =>
      exact launches_sfu hc rfl hx v _ _ _ (if_pos rfl).symm
  | row c op =>
    exact ⟨_, _, _, _, (((OnlyReports.refl v).touchAll _ 4).touchCats hc 5 _).vary d, State.takeVe_taken _ _ _, rfl⟩

/-- Settles O31: a descriptor in order issues, and its class makes its launch of the operands as they then stand. That they are
read at the issue and the effects come at the completion is the model's choice (log 31). -/
theorem vectorLaunchIssues : Obligations.VectorLaunchIssues := by
  intro i a s d hi hcls hc h hk
  obtain ⟨u, w, n, epi, hr, hw, hgo⟩ := launches_of_good (vectorAsk_of_askOf hi hcls) hc hk.good (s.issue a.c d)
  obtain ⟨l, hl⟩ := launched_of_addLaunch h hr hw (vectorWork (s.issue a.c d) a d).2 epi (vectorWork (s.issue a.c d) a d).1
  refine ⟨_, l, ?_, hl⟩
  rw [exec_eq_tryIssue hi, tryIssue_atHead h, hk.good, hk.common, hk.free, hk.deps, if_neg (by decide), if_neg (by decide), hgo]

end Sys2Proof.Machine
end

section
/-! PROOFS of the statement on the region engines (spec/07_scales_and_update.md): how a launch of classes 7 and 8 enters the table
of its cluster and the queue of its region, how a service starts and how it ends, then O34. -/
namespace Sys2Proof.Machine

/-! ### Regions -/

section
variable (s : State) (r : Nat)

theorem State.rgn_congr {t : State} (h : t.sched = s.sched) : t.rgn r = s.rgn r := by
  unfold State.rgn State.regions
  rw [h]

@[simp] theorem State.rgn_setRgn_same (k : Region) : (s.setRgn r k).rgn r = k := sget_sset_same _ _ _ _

@[simp] theorem State.rgn_count (pg : Nat) (f : Fld) (n : Nat) : (s.count pg f n).rgn r = s.rgn r :=
  s.rgn_congr r (s.count_sched pg f n)

/-- The issue of a descriptor leaves the regions. -/
@[simp] theorem State.rgn_issue (c : Nat) (d : Desc) : (s.issue c d).rgn r = s.rgn r := by
  obtain ⟨u, w, hu, hf, -⟩ := s.waited_waits c d (s.issueAt c)
  unfold State.issue State.popHead
  rw [State.rgn_count, hu, hf]
  rfl

end

/-! ### A launch enters the queue of its region's engine (R299, R333) -/

/-- The engine that queues a launch of a class in its region: the Restorer those of class 7, the Conservator those of class 8. -/
def Region.enqueue (cls : Nat) (k : Region) (x : Service) : Region :=
  if cls = 7 then { k with restorer := k.restorer ++ [x] } else { k with conservator := k.conservator ++ [x] }

/-- From the state `v` in which its descriptor has issued, a launch comes to `t`: it stands as `l`, with nothing to bring about
yet, in the table of cluster `c`, and as `x` where `put` queues it. -/
structure Queued (v t : State) (c : Nat) (d : Desc) (holds : List DepRange) (put : Region → Service → Region) (l : Launch)
    (x : Service) : Prop where
  frame : t = { v with sched.clusters := t.clusters, sched.regions := t.regions, draw := t.draw }
  clu : t.clu c = { v.clu c with launches := (v.clu c).launches ++ [l], issued := (v.clu c).issued + 1 }
  others : ∀ c', c' ≠ c → t.clu c' = v.clu c'
  rgn : t.rgn (regionOf c) = put (v.rgn (regionOf c)) x
  slot : l.slot = d.slot
  cls : l.cls = d.cls
  opc : l.opc = d.opc
  deps : l.deps = holds
  effs : l.effs = []
  start : l.start = (v.clu c).lastIssue
  cluster : x.cluster = c
  desc : x.desc = d
  issued : x.issued = l.start
  seq : x.seq = l.seq

/-- A launch that varies or does not: the draw alone moves on. -/
theorem State.vary_eq (s : State) (d : Desc) : ∃ n, s.vary d = { s with draw := n } := by
  unfold State.vary
  split
  · exact ⟨_, rfl⟩
  · exact ⟨s.draw, rfl⟩

theorem State.queueService_queued (v : State) (c : Nat) (d : Desc) (holds : List DepRange) (ws : List Nat) (rdir : Nat)
    (hyper : List Nat) (put : Region → Service → Region) :
    ∃ l x, Queued v (v.queueService c d holds ws rdir hyper put) c d holds put l x := by
  unfold State.queueService
  extract_lets k x w w'
  obtain ⟨n, hn⟩ : ∃ n, w' = { w with draw := n } := by
    unfold w'
    split
    · exact w.vary_eq d
    · exact ⟨w.draw, rfl⟩
  rw [hn]
  exact ⟨_, x,
    { frame := rfl
      clu := (v.clu_setClu _ _ _).trans (if_pos rfl)
      others := fun c' h => (v.clu_setClu _ _ _).trans (if_neg h)
      rgn := State.rgn_setRgn_same _ _ _
      slot := rfl
      cls := rfl
      opc := rfl
      deps := rfl
      effs := rfl
      start := rfl
      cluster := rfl
      desc := rfl
      issued := rfl
      seq := rfl }⟩

/-- A descriptor that issues and is queued has become a launch. -/
theorem Queued.launched {s t : State} {a : Ask} {d : Desc} {put : Region → Service → Region} {l : Launch} {x : Service}
    (hq : Queued (s.issue a.c d) t a.c d (a.plan s d).holds put l x) (h : s.AtHead a d) : Launched s t a d l := by
  have hi := s.issue_issued a.c d
  obtain ⟨wait, hv⟩ := hi.clu
  have hclu := hq.clu
  have hstart := hq.start
  rw [hv] at hclu hstart
  have hword (f : Fld) : t.getF (pgDoc a.c) f = (s.issue a.c d).getF (pgDoc a.c) f := by
    rw [hq.frame]
    rfl
  exact
    { queue := by rw [hclu]
      table := fun _ => by rw [hclu]
      last := by rw [hclu]; exact List.getLast?_concat
      slot := hq.slot
      cls := hq.cls.trans h.cls
      opc := hq.opc.trans h.opc
      deps := hq.deps
      notBefore := hstart.ge
      start := fun _ => hstart
      counted := hi.counted.congr rfl rfl (hword _)
      waited := fun _ => hi.waited.congr rfl rfl (hword _)
      others := fun c hc => (hq.others c hc).trans (hi.others c hc) }

/-- What the launch commands of classes 7 and 8 ask. -/
inductive EngineAsk : Ask → Prop
  | upd (c op : Nat) : EngineAsk { c := c, cls := 7, opc := op, plan := updPlan c op }
  | con (c op : Nat) : EngineAsk { c := c, cls := 8, opc := op, plan := conPlan c op }

theorem engineAsk_of_askOf {i : Instr} {a : Ask} (h : askOf i = some a) (hc : a.cls = 7 ∨ a.cls = 8) : EngineAsk a := by
  unfold askOf at h
  split at h <;> cases h <;> simp at hc <;> with_reducible constructor

/-- A descriptor of classes 7 and 8 that is in order is queued. -/
theorem queues_of_good {a : Ask} (ha : EngineAsk a) {s : State} {d : Desc} (hg : (a.plan s d).bad = false) (v : State) :
    ∃ l x, Queued v ((a.plan s d).go v) a.c d (a.plan s d).holds (Region.enqueue a.cls) l x := by
  cases ha with
  | upd c op =>
    dsimp only at hg ⊢
    unfold updPlan at hg ⊢
    split at hg
    · cases hg
    · exact v.queueService_queued _ _ _ _ _ _ (Region.enqueue 7)
  | con c op => exact v.queueService_queued _ _ _ _ _ _ (Region.enqueue 8)

/-- O34, first clause: a launch of classes 7 and 8. -/
theorem engineLaunch_queues {i : Instr} {a : Ask} {s : State} {d : Desc} (hi : askOf i = some a) (hcls : a.cls = 7 ∨ a.cls = 8)
    (h : s.AtHead a d) (hk : s.CanIssue a d) :
    ∃ t l x, exec i s = .next t ∧ Launched s t a d l ∧ l.effs = [] ∧ x.cluster = a.c ∧ x.desc = d ∧ x.issued = l.start ∧
      x.seq = l.seq ∧ t.mems = s.mems ∧
      (a.cls = 7 → (t.rgn (regionOf a.c)).restorer = (s.rgn (regionOf a.c)).restorer ++ [x] ∧
        (t.rgn (regionOf a.c)).conservator = (s.rgn (regionOf a.c)).conservator) ∧
      (a.cls = 8 → (t.rgn (regionOf a.c)).conservator = (s.rgn (regionOf a.c)).conservator ++ [x] ∧
        (t.rgn (regionOf a.c)).restorer = (s.rgn (regionOf a.c)).restorer) := by
  obtain ⟨l, x, hq⟩ := queues_of_good (engineAsk_of_askOf hi hcls) hk.good (s.issue a.c d)
  have hexec : exec i s = .next ((a.plan s d).go (s.issue a.c d)) := by
    rw [exec_eq_tryIssue hi, tryIssue_atHead h, hk.good, hk.common, hk.free, hk.deps, if_neg (by decide), if_neg (by decide)]
  have hmems : ((a.plan s d).go (s.issue a.c d)).mems = s.mems :=
    (congrArg State.mems hq.frame).trans (s.issue_issued a.c d).mems
  refine ⟨_, l, x, hexec, hq.launched h, hq.effs, hq.cluster, hq.desc, hq.issued, hq.seq, hmems, fun h7 => ?_, fun h8 => ?_⟩
  · rw [hq.rgn, State.rgn_issue, Region.enqueue, if_pos h7]
    exact ⟨rfl, rfl⟩
  · rw [hq.rgn, State.rgn_issue, Region.enqueue, if_neg (by omega)]
    exact ⟨rfl, rfl⟩

/-! ### A service starts (R299) -/

namespace OnlyReports
variable {s t : State}

theorem touchRanges (h : OnlyReports s t) (qs : List (Nat × Nat)) (cause : Nat) :
    OnlyReports s (qs.foldl (fun s q => s.touch q.1 q.2 cause) t) :=
  foldl_inv (OnlyReports s) _ (fun _ _ hx => hx.touch _ _ _) qs t h

theorem drawn (h : OnlyReports s t) (n : Nat) : OnlyReports s { t with draw := n } := ⟨h.sans, h.word⟩

theorem now (h : OnlyReports s t) : t.now = s.now := (congrArg State.now h.sans :)

theorem mem (h : OnlyReports s t) : t.mem = s.mem := (congrArg State.mem h.sans :)

end OnlyReports

/-- The launch `x` as an engine of region `r` holds it from the state `v` on, with its effects and a service of `n` cycles(G). -/
def State.begun (v : State) (r : Nat) (x : Service) (effs : List Eff) (n : Nat) : Service :=
  { x with effs := effs, due := v.now + v.cyc (16 * r) n }

/-- The Restorer of region `r` takes `x` out of its queue and holds it as `y`. -/
def State.restorerServes (v : State) (r : Nat) (x y : Service) : State :=
  v.setRgn r { v.rgn r with restorer := (v.rgn r).restorer.erase x, restorerRun := some y }

/-- The Conservator of region `r` takes `x` out of its queue and holds it as `y`. -/
def State.conservatorServes (v : State) (r : Nat) (x y : Service) : State :=
  v.setRgn r { v.rgn r with conservator := (v.rgn r).conservator.erase x, conservatorRun := some y }

theorem State.rgn_restorerServes (v : State) (r : Nat) (x y : Service) : (v.restorerServes r x y).rgn r =
    { v.rgn r with restorer := (v.rgn r).restorer.erase x, restorerRun := some y } := State.rgn_setRgn_same _ _ _

theorem State.rgn_conservatorServes (v : State) (r : Nat) (x y : Service) : (v.conservatorServes r x y).rgn r =
    { v.rgn r with conservator := (v.rgn r).conservator.erase x, conservatorRun := some y } := State.rgn_setRgn_same _ _ _

/-- The end of a service is reckoned from the state in which it starts, whatever errors its operands report. -/
theorem OnlyReports.begun_due {s v : State} (h : OnlyReports s v) (r : Nat) (x : Service) (effs : List Eff) (n : Nat) :
    (v.begun r x effs n).due = s.now + s.cyc (16 * r) n := by
  rw [State.begun, h.now, h.cyc]

/-- The Conservator reads the operands of a launch; one in an uncorrectable word makes its element vary (log 43). -/
def State.readCon (s : State) (x : Service) : State :=
  let qs := x.desc.con.reads x.desc.opc
  let t := qs.foldl (fun s q => s.touch q.1 q.2 4) s
  if qs.any (fun q => s.ueIn q.1 q.2) then { t with draw := t.draw + 1 } else t

theorem State.readCon_onlyReports (s : State) (x : Service) : OnlyReports s (s.readCon x) := by
  have hr := (OnlyReports.refl s).touchRanges (x.desc.con.reads x.desc.opc) 4
  unfold State.readCon
  extract_lets qs t
  split
  · exact hr.drawn _
  · exact hr

section
variable {s : State} {r : Nat} {x : Service}

/-- The Restorer takes the first launch in order: its operands are read, and it holds the effects and the end of the service. -/
theorem execRestorerServiceStart_serves {u : UpdDesc} (hx : firstService (s.rgn r).restorer = some x)
    (hn : (s.rgn r).restorerRun = none) (hu : x.desc.upd = some u) (hm : s.mayServe x = true) :
    ∃ v, OnlyReports s v ∧ exec (.restorerServiceStart r) s =
      .next (v.restorerServes r x (v.begun r x (s.updEffs r u x).1 (s.updEffs r u x).2)) := by
  refine ⟨_, (OnlyReports.refl s).touchRanges (u.writes x.desc.opc ++ u.reads) 7, ?_⟩
  change execRestorerServiceStart r s = _
  unfold execRestorerServiceStart
  dsimp only
  rw [hx, hn]
  dsimp only
  rw [hu]
  dsimp only
  rw [hm, if_neg (by decide)]
  rfl

/-- The Conservator takes the first launch in order. -/
theorem execConservatorServiceStart_serves (hx : firstService (s.rgn r).conservator = some x)
    (hn : (s.rgn r).conservatorRun = none) (hm : s.mayServe x = true) :
    ∃ v, OnlyReports s v ∧ exec (.conservatorServiceStart r) s = .next (v.conservatorServes r x (v.begun r x
      (s.conEffs x.desc.con x) ((x.desc.con.cycles x.desc.opc).1 + (x.desc.con.cycles x.desc.opc).2))) := by
  refine ⟨_, s.readCon_onlyReports x, ?_⟩
  change execConservatorServiceStart r s = _
  unfold execConservatorServiceStart
  dsimp only
  rw [hx, hn]
  dsimp only
  rw [hm, if_neg (by decide)]
  rfl

/-- O34, second clause: a class-7 service starts. -/
theorem restorerServiceStart_changes {u : UpdDesc} (hx : firstService (s.rgn r).restorer = some x)
    (hn : (s.rgn r).restorerRun = none) (hu : x.desc.upd = some u) (hm : s.mayServe x = true) :
    ∃ t y, exec (.restorerServiceStart r) s = .next t ∧ (t.rgn r).restorerRun = some y ∧ y.effs = (s.updEffs r u x).1 ∧
      y.due = s.now + s.cyc (16 * r) (s.updEffs r u x).2 ∧ (t.rgn r).restorer = (s.rgn r).restorer.erase x ∧
      t.mem = s.mem ∧ t.clusters = s.clusters := by
  obtain ⟨v, hv, he⟩ := execRestorerServiceStart_serves hx hn hu hm
  refine ⟨_, _, he, congrArg Region.restorerRun (State.rgn_restorerServes ..), rfl, hv.begun_due .., ?_, hv.mem,
    (congrArg Sched.clusters hv.sched :)⟩
  rw [State.rgn_restorerServes, s.rgn_congr r hv.sched]

/-- O34, third clause: while its first launch may not be served, an engine waits. -/
theorem serviceStart_waits (hm : s.mayServe x = false) :
    (firstService (s.rgn r).restorer = some x → exec (.restorerServiceStart r) s = .next s) ∧
    (firstService (s.rgn r).conservator = some x → exec (.conservatorServiceStart r) s = .next s) := by
  have hm' : (!s.mayServe x) = true := by rw [hm]; rfl
  refine ⟨fun hx => ?_, fun hx => ?_⟩
  · change execRestorerServiceStart r s = _
    unfold execRestorerServiceStart
    dsimp only
    rw [hx]
    cases (s.rgn r).restorerRun with
    | some _ => rfl
    | none =>
      dsimp only
      cases x.desc.upd with
      | none => rfl
      | some _ => exact if_pos hm'
  · change execConservatorServiceStart r s = _
    unfold execConservatorServiceStart
    dsimp only
    rw [hx]
    cases (s.rgn r).conservatorRun with
    | some _ => rfl
    | none => exact if_pos hm'

/-- O34, fourth clause: a class-8 service starts. -/
theorem conservatorServiceStart_changes (hx : firstService (s.rgn r).conservator = some x)
    (hn : (s.rgn r).conservatorRun = none) (hm : s.mayServe x = true) :
    ∃ t y, exec (.conservatorServiceStart r) s = .next t ∧ (t.rgn r).conservatorRun = some y ∧
      y.effs = s.conEffs x.desc.con x ∧
      y.due = s.now + s.cyc (16 * r) ((x.desc.con.cycles x.desc.opc).1 + (x.desc.con.cycles x.desc.opc).2) ∧
      (t.rgn r).conservator = (s.rgn r).conservator.erase x ∧ t.mem = s.mem ∧ t.clusters = s.clusters := by
  obtain ⟨v, hv, he⟩ := execConservatorServiceStart_serves hx hn hm
  refine ⟨_, _, he, congrArg Region.conservatorRun (State.rgn_conservatorServes ..), rfl, hv.begun_due .., ?_, hv.mem,
    (congrArg Sched.clusters hv.sched :)⟩
  rw [State.rgn_conservatorServes, s.rgn_congr r hv.sched]

end

/-! ### A service ends (R300, R333) -/

theorem memRuns_cons (e : Eff) (es : List Eff) : memRuns (e :: es) = memRuns [e] ++ memRuns es := List.filterMap_append (l := [e])

/-- An effect that stores nothing stores no run. -/
theorem memRuns_of_not_isStore {e : Eff} (h : e.isStore = false) : memRuns [e] = [] := by
  cases e <;> cases h <;> rfl

theorem written_append (m : List (Nat × Byte)) (xs ys : List (Nat × List Byte)) :
    written m (xs ++ ys) = written (written m xs) ys := List.foldl_append

section
variable (s : State)

/-- Where no code word holds an error an effect makes none, and memory takes the run that it stores. -/
theorem State.applyEff_noErrs (c slot : Nat) (e : Eff) (h : s.errs = []) :
    (s.applyEff c slot e).errs = [] ∧ (s.applyEff c slot e).mem = written s.mem (memRuns [e]) := by
  cases hs : e.isStore with
  | false =>
    have hm := (s.applyEff_keeps c slot e).2 hs
    exact ⟨(congrArg Mems.errs hm).trans h, by rw [memRuns_of_not_isStore hs]; exact congrArg Mems.mem hm⟩
  | true =>
    cases e with
    | mem a bs => exact ⟨(s.writeBytes_noErrs 0 a bs h).2, s.writeBytes_mem 0 a bs h⟩
    | cat i v => exact ⟨by unfold State.applyEff; dsimp only; rw [h]; rfl, rfl⟩
    | am k v => exact ⟨h, rfl⟩
    | tile a rid r => cases r <;> exact ⟨h, rfl⟩
    | touch a n cause => exact ⟨(s.touch_errs a n cause).trans h, s.touch_mem a n cause⟩
    | _ => cases hs

/-- Where no code word holds an error the runs among the effects of a launch are written in order. -/
theorem State.applyEffs_written (c slot : Nat) (es : List Eff) (h : s.errs = []) :
    (s.applyEffs c slot es).mem = written s.mem (memRuns es) := by
  rw [s.applyEffs_noErrs c slot es h]
  induction es generalizing s with
  | nil => rfl
  | cons e es ih =>
    obtain ⟨he, hm⟩ := s.applyEff_noErrs c slot e h
    calc (es.foldl (fun s e => s.applyEff c slot e) (s.applyEff c slot e)).mem
        = written (s.applyEff c slot e).mem (memRuns es) := ih _ he
      _ = written s.mem (memRuns (e :: es)) := by rw [hm, ← written_append, ← memRuns_cons]

variable (x : Service)

/-- The end of a service changes memory as its effects do. -/
@[simp] theorem State.endService_mems : (s.endService x).mems = (s.applyEffs x.cluster x.desc.slot x.effs).mems :=
  State.addUnits_mems _ _ _ _

theorem State.clu_endService_ne {c : Nat} (h : c ≠ x.cluster) : (s.endService x).clu c = s.clu c := by
  unfold State.endService
  extract_lets c' t u k
  rw [State.clu_setClu, if_neg h, State.clu_addUnits_ne _ _ _ _ h, State.clu_applyEffs]

/-- The end of a service takes its entry out of the table. -/
theorem State.launches_endService : ((s.endService x).clu x.cluster).launches =
    (s.clu x.cluster).launches.filter (fun l => !(decide (l.cls = x.desc.cls) && decide (l.seq = x.seq))) := by
  unfold State.endService
  extract_lets c t u k
  obtain ⟨v, hv⟩ := t.clu_addUnits_same c (2 * x.seq) (storeUnits true (memRuns x.effs))
  have hk : k = { s.clu c with units := v } := hv.trans (by rw [State.clu_applyEffs])
  rw [State.clu_setClu, if_pos rfl, hk]

/-- What the end of a service changes, seen from a state with the same memories and clusters. -/
theorem endService_changes {t : State} (hm : t.mems = (s.endService x).mems) (hc : t.clusters = (s.endService x).clusters) :
    RunsKept s t (memRuns x.effs) ∧ (s.errs = [] → t.mem = written s.mem (memRuns x.effs)) ∧
      (∀ l ∈ (t.clu x.cluster).launches, ¬ (l.cls = x.desc.cls ∧ l.seq = x.seq)) ∧
      ∀ c, c ≠ x.cluster → t.clu c = s.clu c := by
  have hclu (c : Nat) : t.clu c = (s.endService x).clu c := by unfold State.clu; rw [hc]
  rw [State.endService_mems] at hm
  refine ⟨fun a ha => ?_, fun h => ?_, fun l hl => ?_, fun c h => ?_⟩
  · exact (State.byteAt_congr (congrArg Mems.mem hm) a).trans (s.byteAt_applyEffs _ _ _ ha)
  · exact (congrArg Mems.mem hm).trans (s.applyEffs_written _ _ _ h)
  · rw [hclu, s.launches_endService x] at hl
    simpa [imp_iff_not_or] using (List.mem_filter.mp hl).2
  · exact (hclu c).trans (s.clu_endService_ne x h)

variable {s x} {r : Nat}

/-- UPDATE_COMPLETE ends the service in progress, and the Restorer is free. -/
theorem execUpdateComplete_ends (hx : (s.rgn r).restorerRun = some x) (hd : x.due ≤ s.now) :
    exec (.updateComplete r) s = .next ((s.endService x).setRgn r { (s.endService x).rgn r with restorerRun := none }) := by
  change execUpdateComplete r s = _
  unfold execUpdateComplete
  rw [hx]
  exact if_neg (Nat.not_lt.mpr hd)

/-- CONSERVATOR_COMPLETE ends the service in progress, and beside counters the Conservator alone changes: it is free. -/
theorem execConservatorComplete_ends (hx : (s.rgn r).conservatorRun = some x) (hd : x.due ≤ s.now) :
    ∃ t, exec (.conservatorComplete r) s = .next t ∧ (t.rgn r).conservatorRun = none ∧ t.mems = (s.endService x).mems ∧
      t.clusters = (s.endService x).clusters := by
  change ∃ t, execConservatorComplete r s = _ ∧ _
  unfold execConservatorComplete
  rw [hx]
  refine ⟨_, if_neg (Nat.not_lt.mpr hd), ?_, ?_, ?_⟩
  · rw [State.rgn_count, State.rgn_count, State.rgn_setRgn_same]
  · rw [State.count_mems, State.count_mems, State.setRgn_mems]
  · rw [State.clusters, State.count_sched, State.count_sched, State.setRgn_clusters]

/-- O34, fifth clause: a class-7 service ends. -/
theorem updateComplete_changes (hx : (s.rgn r).restorerRun = some x) (hd : x.due ≤ s.now) :
    ∃ t, exec (.updateComplete r) s = .next t ∧ (t.rgn r).restorerRun = none ∧ RunsKept s t (memRuns x.effs) ∧
      (s.errs = [] → t.mem = written s.mem (memRuns x.effs)) ∧
      (∀ l ∈ (t.clu x.cluster).launches, ¬ (l.cls = x.desc.cls ∧ l.seq = x.seq)) ∧
      ∀ c, c ≠ x.cluster → t.clu c = s.clu c :=
  ⟨_, execUpdateComplete_ends hx hd, by rw [State.rgn_setRgn_same], endService_changes s x rfl rfl⟩

/-- O34, last clause: a class-8 service ends. -/
theorem conservatorComplete_changes (hx : (s.rgn r).conservatorRun = some x) (hd : x.due ≤ s.now) :
    ∃ t, exec (.conservatorComplete r) s = .next t ∧ (t.rgn r).conservatorRun = none ∧ RunsKept s t (memRuns x.effs) ∧
      (s.errs = [] → t.mem = written s.mem (memRuns x.effs)) ∧
      (∀ l ∈ (t.clu x.cluster).launches, ¬ (l.cls = x.desc.cls ∧ l.seq = x.seq)) ∧
      ∀ c, c ≠ x.cluster → t.clu c = s.clu c := by
  obtain ⟨t, he, hr, hm, hc⟩ := execConservatorComplete_ends hx hd
  exact ⟨t, he, hr, endService_changes s x hm hc⟩

end

/-- Settles O34, clause by clause. That the effects are those of the operands as they stand when the service starts is the model's
choice (log 31). -/
theorem engineLaunchesAndService : Obligations.EngineLaunchesAndService :=
  ⟨fun _ _ _ _ hi hcls _ h hk => engineLaunch_queues hi hcls h hk,
    fun _ _ _ _ hx hn hu hm => restorerServiceStart_changes hx hn hu hm, fun _ _ _ hm => serviceStart_waits hm,
    fun _ _ _ hx hn hm => conservatorServiceStart_changes hx hn hm, fun _ _ _ hx hd => updateComplete_changes hx hd,
    fun _ _ _ hx hd => conservatorComplete_changes hx hd⟩

end Sys2Proof.Machine
end

section
/-! PROOFS of the statements on timed launch (spec/08_timed_launch.md), first part: what reset leaves in registers, and one REF
cycle; O3 and O2. -/
namespace Sys2Proof.Machine

/-! ### Registers at reset -/

theorem pageBlock_pgDoc {c : Nat} (hc : c < 512) : pageBlock (pgDoc c) = some (.doc, c) := by
  have h1 : 0x803 + 4 * c - 0x800 = 4 * c + 3 := by omega
  have h2 : 0x803 + 4 * c < 0x1000 := by omega
  have h3 : ∀ n, n ≤ 0x800 → ¬ 0x803 + 4 * c < n := by omega
  have h4 : (4 * c + 3) % 4 = 3 := by omega
  have h5 : (4 * c + 3) / 4 = c := by omega
  have h6 : ∀ n, n < 0x803 → ¬ 0x803 + 4 * c = n := by omega
  simp [pageBlock, pgDoc, h1, h2, h3, h4, h5, h6]

theorem pageBlock_pgRgn {r : Nat} (hr : r < 32) : pageBlock (pgRgn r) = some (.rgn, r) := by
  have h1 : 0x40 + r - 0x40 = r := by omega
  have h2 : 0x40 + r < 0x60 := by omega
  have h3 : ∀ n, n ≤ 0x40 → ¬ 0x40 + r < n := by omega
  have h6 : ∀ n, n < 0x40 → ¬ 0x40 + r = n := by omega
  simp [pageBlock, pgRgn, h1, h2, h3, h6]

/-- The word at an offset that a page's own rows govern, at reset. -/
def rowsWord (p : PartNo) (b : Block) (i off : Nat) : Word :=
  (rowsAt b off).foldl (fun w (r, _) => { r.fld with off := off }.put w (rowReset p b i r)) 0

theorem resetWord_regIdx (p : PartNo) {pg i : Nat} {b : Block} {f : Fld} (hp : pageBlock pg = some (b, i))
    (hm : ¬ (0x100 ≤ pg ∧ pg < 0x108)) (ho : f.off < 4096) (h4 : f.off % 4 = 0)
    (hs : f.off ≠ 0x010 ∧ f.off ≠ 0x01C ∧ f.off ≠ 0xEF8) :
    resetWord p (regIdx pg f) = rowsWord p b i f.off := by
  have e1 : regIdx pg f / 1024 = pg := regIdx_page pg f ho
  have e2 : regIdx pg f % 1024 * 4 = f.off := by unfold regIdx; omega
  have e3 : (decide (0x100 ≤ pg) && decide (pg < 0x108)) = false := by
    rw [← Bool.decide_and]
    exact decide_eq_false hm
  unfold resetWord
  simp only [e1, e2, e3, hp, hs.1, hs.2.1, hs.2.2, Bool.false_eq_true, if_false, rowsWord]

/-- Beside PWR, LNK and VEC no page has a reset value that depends on the part or on the index of the page. -/
theorem rowsWord_plain (p : PartNo) {b : Block} (hb : b ≠ .pwr ∧ b ≠ .lnk ∧ b ≠ .vec) (i off : Nat) :
    rowsWord p b i off = (rowsAt b off).foldl (fun w r => { r.1.fld with off := off }.put w r.1.rst) 0 := by
  have h (r : FieldRow) : rowReset p b i r = r.rst := by simp [rowReset, hb]
  simp only [rowsWord, h]

theorem State.doc_reset {c : Nat} (hc : c < 512) : State.reset.doc c = docIdle := by
  unfold State.doc State.getF State.word
  rw [show State.reset.regs = [] from rfl, sget_nil, resetWord_regIdx _ (pageBlock_pgDoc hc) (by unfold pgDoc; omega) (by decide)
    (by decide) (by decide), rowsWord_plain _ (by decide)]
  decide

theorem State.slotOf_reset {c : Nat} (hc : c < 512) : State.reset.slotOf c = c % 16 := by
  have hr : regionOf c < 32 := Nat.div_lt_of_lt_mul hc
  have hu : State.reset.flag (pgRgn (regionOf c)) Reg.RGN_SPARE_USED = false := by
    unfold State.flag State.getF State.word
    rw [show State.reset.regs = [] from rfl, sget_nil, resetWord_regIdx _ (pageBlock_pgRgn hr) (by unfold pgRgn; omega) (by decide)
      (by decide) (by decide), rowsWord_plain _ (by decide)]
    decide
  unfold State.slotOf
  simp [hu]

/-- Settles O3. That memory reads zero before any fill is the model's choice (logs 13, 14). -/
theorem resetState : Obligations.ResetState := by
  refine ⟨by decide, by decide, by decide, by decide, fun c hc => ⟨State.doc_reset hc, State.slotOf_reset hc⟩, fun _ => rfl,
    fun c i => ?_, rfl, rfl⟩
  have hw : State.reset.catWord c i = 0 := rfl
  have he : State.reset.catErr c i = 0 := rfl
  simp [State.catEnt, hw, he, bits, signed]

/-! ### One REF cycle (R303, R304) -/

section
variable (s : State)

/-- The trim of a cycle, in 2^-32 unit. -/
def State.trimNow : Int := if s.flag pgTim Reg.TIM_CFG_ROLE then 0 else signed 32 (s.getF pgTim Reg.TIM_TRIM_TRIM)

/-- The count advances by a number of units that the fraction and the trim decide, less what it has to stand still. -/
theorem State.tick_advances : ∃ inc : Nat, (inc : Int) * 2 ^ 32 + s.tick.rotFrac = 160 * 2 ^ 32 + s.rotFrac + s.trimNow ∧
    s.tick.rotFrac < 2 ^ 32 ∧ s.tick.rot = (s.rot + (inc - s.debt)) % 2 ^ 64 ∧ s.tick.debt = s.debt - inc := by
  have ht : - 2 ^ 31 ≤ s.trimNow := by
    unfold State.trimNow
    split
    · decide
    · exact (signed_bounds (w := 32) (by decide)).1
  refine ⟨(160 + ((s.rotFrac : Int) + s.trimNow) / 2 ^ 32).toNat, ?_, ?_, ?_, ?_⟩
  · change _ + ((((s.rotFrac : Int) + s.trimNow) % 2 ^ 32).toNat : Int) = _
    omega
  · change (((s.rotFrac : Int) + s.trimNow) % 2 ^ 32).toNat < 2 ^ 32
    omega
  · change (s.rot + (_ - min s.debt _)) % 2 ^ 64 = _
    congr 2
    exact (by omega : ∀ a b : Nat, a - min b a = a - b) _ _
  · change s.debt - min s.debt _ = _
    exact (by omega : ∀ a b : Nat, b - min b a = b - a) _ _

/-- A fold stays where each of its steps does. -/
theorem foldl_stays {α β : Type} {f : α → β → α} {l : List β} {a : α} (h : ∀ b ∈ l, f a b = a) : l.foldl f a = a := by
  induction l with
  | nil => rfl
  | cons b l ih => rw [List.foldl_cons, h b List.mem_cons_self, ih fun x hx => h x (List.mem_cons_of_mem _ hx)]

/-- A key that the list holds reads as one of its entries, any other as the default. -/
theorem sget_mem_or {α : Type} (d : Nat → α) (m : List (Nat × α)) (k : Nat) : (k, sget d m k) ∈ m ∨ sget d m k = d k := by
  induction m with
  | nil => exact .inr rfl
  | cons p t ih =>
    obtain ⟨j, a⟩ := p
    by_cases hk : k = j
    · subst hk
      simp [sget]
    · rw [sget, if_neg hk]
      exact ih.imp_left (List.mem_cons_of_mem _)

variable {s}

/-- Ports that have nothing to send send nothing. -/
theorem State.drainLinks_idle (h : ∀ q ∈ s.ports, q.2.txq = [] ∧ q.2.owed = []) : s.drainLinks = s := by
  have hp (k : Nat) : (s.port k).txq = [] ∧ (s.port k).owed = [] := by
    rcases sget_mem_or (fun _ => ({} : Port)) s.ports k with hm | hd
    · exact h _ hm
    · unfold State.port
      rw [hd]
      exact ⟨rfl, rfl⟩
  exact foldl_stays fun k _ => by simp [hp k]

theorem State.deliverLoop_idle (h : s.loop = []) : s.deliverLoop = s := by
  unfold State.deliverLoop
  rw [h]
  exact congrArg (fun l => { s with fabric.loop := l }) h.symm

/-- No window ends where no group has a switch of its clocks to make. -/
theorem State.endWindows_idle (h : ∀ q ∈ s.runs, q.2.switch = none) : (s.runs.map (·.1)).foldl State.endWindow s = s := by
  have hr (g : Nat) : (s.run g).switch = none := by
    rcases sget_mem_or (fun _ => ({} : GroupRun)) s.runs g with hm | hd
    · exact h _ hm
    · unfold State.run
      rw [hd]
  exact foldl_stays fun g _ => by simp [State.endWindow, hr]

theorem State.endDrains_idle (h : ∀ r, r < 32 → s.draining r = false) : s.endDrains = s :=
  foldl_stays fun r hr => by simp [h r (List.mem_range.mp hr)]

end

/-- Settles O2: where the links, the windows and the regions have nothing to do, the cycle is its tick. That a step with no command
waiting is one REF cycle, and that the count stands still after a step back, are the model's choices (logs 1, 70). -/
theorem idleStepIsOneRefCycle : Obligations.IdleStepIsOneRefCycle := by
  intro s hp
  have hs : step s = .next s.idle := by
    unfold step
    rw [hp]
  refine ⟨⟨_, hs⟩, fun hports hloop hruns hregions => ?_⟩
  have hd (r : Nat) (hr : r < 32) : s.tick.draining r = false := hregions r hr
  have hi : s.idle = s.tick := by
    unfold State.idle
    rw [State.drainLinks_idle (s := s.tick) hports, State.deliverLoop_idle (s := s.tick) hloop]
    dsimp only
    rw [State.endWindows_idle (s := s.tick) hruns, State.endDrains_idle hd]
  obtain ⟨inc, hfrac, hlt, hrot, hdebt⟩ := s.tick_advances
  exact ⟨s.tick, inc, hs.trans (by rw [hi]), rfl, rfl, hfrac, hlt, hrot, hdebt, rfl⟩

end Sys2Proof.Machine
end

section
/-! PROOFS of the statements on timed launch (spec/08_timed_launch.md), second part: Rotunda time; O29. -/
namespace Sys2Proof.Machine

/-! ### Action bits are not stored (R673) -/

/-- A write of TIM_SET_CTL to a page that takes it stores nothing. -/
theorem State.writeReg_timSet (s : State) (val : Nat) (h : (s.writeReg pgTim 0x128 val true).reaches pgTim = true) :
    s.writeReg pgTim 0x128 val true = s := by
  have hp : s.writePage .tim 0 pgTim 0x128 val = s := rfl
  have hw : s.writeReg pgTim 0x128 val true = match s.writable pgTim with
      | none => s.count pgPci Reg.PCI_CNT_BADREG 1
      | some (b, i) => if s.outOfService b i then s else s.writePage b i pgTim 0x128 val := rfl
  cases hx : s.writable pgTim with
  | none =>
    rw [hw, hx] at h
    have hn : (s.count pgPci Reg.PCI_CNT_BADREG 1).writable pgTim = none :=
      (State.writable_congr (s.count_part _ _ _) (s.getF_count_ne _ (regIdx_ne_page _ _ (by decide))) _).trans hx
    simp [State.reaches, hn] at h
  | some x =>
    obtain ⟨b, i⟩ := x
    obtain ⟨rfl, rfl⟩ : Block.tim = b ∧ 0 = i := by simpa [pageBlock, pgTim] using s.pageBlock_of_writable hx
    rw [hw, hx]
    exact hp

/-! ### HOP flits (R477) -/

section
variable (s : State) (k : Nat)

theorem State.wakePort_eq : ∃ p, s.wakePort k = s.setPort k p ∨ s.wakePort k = s := by
  unfold State.wakePort
  dsimp only
  split
  · exact ⟨_, .inl rfl⟩
  · exact ⟨{}, .inr rfl⟩

@[simp] theorem State.word_wakePort (j : Nat) : (s.wakePort k).word j = s.word j := by
  obtain ⟨p, e | e⟩ := s.wakePort_eq k <;> rw [e]
  rfl

@[simp] theorem State.wakePort_out : (s.wakePort k).out = s.out := by
  obtain ⟨p, e | e⟩ := s.wakePort_eq k <;> rw [e]
  rfl

@[simp] theorem State.word_putFlit (f : Flit) (j : Nat) : (s.putFlit k f).word j = s.word j := by
  unfold State.putFlit
  dsimp only
  split <;> rfl

/-- What leaves with a flit: the flit, with the credit that it carries. -/
theorem State.putFlit_out (f : Flit) : ∃ lane c v l, (s.putFlit k f).out = s.out ++ [.flit k lane { f with cred := c, cvc := v, ccls := l }] := by
  unfold State.putFlit
  dsimp only
  split
  · exact ⟨_, _, _, _, rfl⟩
  · exact ⟨_, _, _, _, rfl⟩

theorem State.word_sendHop (kind : Nat) (data : List Nat) {j : Nat} (h : j / 1024 ≠ pgLnk k) :
    (s.sendHop k kind data).word j = s.word j := by
  unfold State.sendHop
  extract_lets f u
  rw [State.word_putFlit, State.updPort, State.word_setPort, State.word_wakePort, State.word_count_ne _ _ (ne_regIdx_of_page h)]

/-- The HOP flit leaves. -/
theorem State.sendHop_out (kind : Nat) (data : List Nat) :
    ∃ o, (s.sendHop k kind data).out = s.out ++ [o] ∧ HopSent s k kind data o := by
  unfold State.sendHop
  extract_lets f u
  obtain ⟨lane, c, v, l, ho⟩ := (u.updPort k fun p => { p with txCtr := p.txCtr + 1 }).putFlit_out k f
  refine ⟨.flit k lane { f with cred := c, cvc := v, ccls := l }, ho.trans ?_, ?_⟩
  · rw [State.updPort, State.setPort_out, State.wakePort_out, State.count_out]
  · unfold HopSent
    refine ⟨lane, _, rfl, ?_⟩
    unfold f State.hopFlit
    dsimp only
    split <;> exact ⟨rfl, rfl, rfl, rfl, rfl, rfl, rfl⟩

theorem State.counterRekey_eq : s.counterRekey k = s ∨ ∃ p, s.counterRekey k = (s.setPort k p).sendHop k 0xC [] := by
  unfold State.counterRekey State.startRekey
  split
  · split
    · exact .inl rfl
    · exact .inr ⟨_, rfl⟩
  · exact .inl rfl

theorem State.hopIn_sans : (s.hopIn k).sansLinks = s.sansLinks := by
  unfold State.hopIn
  rw [State.counterRekey_sans, State.updPort_sans]
  exact State.links_of_regs (s.count_sans _ _ _)

theorem State.word_hopIn {j : Nat} (h : j / 1024 ≠ pgLnk k) : (s.hopIn k).word j = s.word j := by
  unfold State.hopIn
  set u := (s.count (pgLnk k) Reg.LNK_CNT_FLIT_RX 1).updPort k fun p => { p with rxCtr := p.rxCtr + 1 }
  have hu : u.word j = s.word j := s.word_count_ne _ (ne_regIdx_of_page h)
  obtain e | ⟨p, e⟩ := u.counterRekey_eq k <;> rw [e]
  · exact hu
  · rw [State.word_sendHop _ _ _ _ h, State.word_setPort, hu]

/-- What arrives may start a key agreement, with its own flit. -/
theorem State.hopIn_out : ∃ rest, (s.hopIn k).out = s.out ++ rest := by
  unfold State.hopIn
  set u := (s.count (pgLnk k) Reg.LNK_CNT_FLIT_RX 1).updPort k fun p => { p with rxCtr := p.rxCtr + 1 }
  have hu : u.out = s.out := s.count_out _ _ _
  obtain e | ⟨p, e⟩ := u.counterRekey_eq k <;> rw [e]
  · exact ⟨[], by rw [hu, List.append_nil]⟩
  · obtain ⟨o, ho, -⟩ := (u.setPort k p).sendHop_out k 0xC []
    exact ⟨[o], by rw [ho, State.setPort_out, hu]⟩

end

/-! ### The exchange of time (R304, R308, R309) -/

section
variable (s : State) (n : Int)

/-- The exchanges in a row inside and outside the limits of R308, after one whose doubled offset is `n`. -/
def Times.counted (τ : Times) (n : Int) : Times :=
  { τ with lockRun := if n.natAbs ≤ 32 then τ.lockRun + 1 else 0, unlockRun := if 64 < n.natAbs then τ.unlockRun + 1 else 0 }

/-- The state with its exchanges counted. -/
def State.exchangeCounted : State := { s with time := s.time.counted n }

/-- The lock is lost (R308). -/
def State.lockLost : State :=
  let u := (s.setF pgTim Reg.TIM_STAT_LOCK 0).count pgTim Reg.TIM_CNT_UNLOCK 1
  u.raise pgTim 0 0x20 1 (leBytes 4 (u.getF pgTim Reg.TIM_OFFSET_THETA) ++ leBytes 1 (u.getF pgTim Reg.TIM_CFG_PARENT))

theorem State.lockStep_eq : s.lockStep n =
    if 64 ≤ (s.exchangeCounted n).lockRun then (s.exchangeCounted n).setF pgTim Reg.TIM_STAT_LOCK 1
    else if decide (4 ≤ (s.exchangeCounted n).unlockRun) && s.flag pgTim Reg.TIM_STAT_LOCK then (s.exchangeCounted n).lockLost
    else s.exchangeCounted n := rfl

theorem State.lockLost_sans : s.lockLost.sansEvents = s.sansEvents :=
  (State.raise_sans _ _ _ _ _ _).trans (State.events_of_regs ((State.count_sans _ _ _ _).trans (s.setF_sans _ _ _)))

/-- Beside the runs of exchanges an exchange changes registers and events alone. -/
theorem State.lockStep_sans : (s.lockStep n).sansEvents = (s.exchangeCounted n).sansEvents := by
  rw [s.lockStep_eq]
  split
  · rfl
  · split
    · exact State.lockLost_sans _
    · rfl

theorem State.lockStep_frame : (s.lockStep n).time = s.time.counted n ∧ (s.lockStep n).mems = s.mems ∧
    (s.lockStep n).sched = s.sched ∧ (s.lockStep n).out = s.out :=
  have h := s.lockStep_sans n
  ⟨(congrArg State.time h :), (congrArg State.mems h :), (congrArg State.sched h :), (congrArg State.out h :)⟩

/-- No event of the TIM page is collected by a die manager. -/
theorem eventWords_pgTim : eventWords pgTim = [regIdx pgTim Reg.PG_EVT] := rfl

theorem State.word_lockLost {j : Nat} (h : j ∉ [regIdx pgTim Reg.TIM_STAT_LOCK, regIdx pgTim Reg.TIM_CNT_UNLOCK, regIdx pgTim Reg.PG_EVT]) :
    s.lockLost.word j = s.word j := by
  simp only [List.mem_cons, List.not_mem_nil, or_false, not_or] at h
  obtain ⟨hl, hu, he⟩ := h
  unfold State.lockLost
  extract_lets u
  rw [State.word_raise _ _ _ _ _ _ (by simpa [eventWords_pgTim] using he), State.word_count_ne _ _ hu, State.word_setF_ne _ _ hl]

theorem State.word_lockStep {j : Nat} (h : j ∉ [regIdx pgTim Reg.TIM_STAT_LOCK, regIdx pgTim Reg.TIM_CNT_UNLOCK, regIdx pgTim Reg.PG_EVT]) :
    (s.lockStep n).word j = s.word j := by
  rw [s.lockStep_eq]
  split
  · exact State.word_setF_ne _ _ fun e => h (by simp [e])
  · split
    · exact State.word_lockLost _ h
    · rfl

theorem State.getF_lockStep (pg : Nat) (f : Fld)
    (h : regIdx pg f ∉ [regIdx pgTim Reg.TIM_STAT_LOCK, regIdx pgTim Reg.TIM_CNT_UNLOCK, regIdx pgTim Reg.PG_EVT]) :
    (s.lockStep n).getF pg f = s.getF pg f := congrArg f.get (s.word_lockStep n h)

/-- The 64th exchange in a row within the limit locks. -/
theorem State.lockStep_locks (hn : n.natAbs ≤ 32) (h : 63 ≤ s.lockRun) : (s.lockStep n).getF pgTim Reg.TIM_STAT_LOCK = 1 := by
  have hr : 64 ≤ (s.exchangeCounted n).lockRun := by
    change 64 ≤ if n.natAbs ≤ 32 then s.lockRun + 1 else 0
    rw [if_pos hn]
    omega
  rw [s.lockStep_eq, if_pos hr, State.getF_setF_same]
  rfl

/-- The fourth exchange in a row beyond the limit loses the lock. -/
theorem State.lockStep_loses (hn : 64 < n.natAbs) (h : 3 ≤ s.unlockRun) (hl : s.getF pgTim Reg.TIM_STAT_LOCK = 1) :
    (s.lockStep n).getF pgTim Reg.TIM_STAT_LOCK = 0 ∧
    (s.lockStep n).getF pgTim Reg.TIM_CNT_UNLOCK = min (2 ^ 32 - 1) (s.getF pgTim Reg.TIM_CNT_UNLOCK + 1) ∧
    Occurred s (s.lockStep n) pgTim 0 0x20 1
      (leBytes 4 (s.getF pgTim Reg.TIM_OFFSET_THETA) ++ leBytes 1 (s.getF pgTim Reg.TIM_CFG_PARENT)) := by
  have hr : ¬ 64 ≤ (s.exchangeCounted n).lockRun := by
    change ¬ 64 ≤ if n.natAbs ≤ 32 then s.lockRun + 1 else 0
    rw [if_neg (by omega)]
    decide
  have hu : (decide (4 ≤ (s.exchangeCounted n).unlockRun) && s.flag pgTim Reg.TIM_STAT_LOCK) = true := by
    change (decide (4 ≤ if 64 < n.natAbs then s.unlockRun + 1 else 0) && s.flag pgTim Reg.TIM_STAT_LOCK) = true
    rw [if_pos hn, State.flag, hl]
    simpa using h
  rw [s.lockStep_eq, if_neg hr, if_pos hu]
  unfold State.lockLost
  extract_lets u
  have huf (f : Fld) (h1 : f.off / 4 ≠ Reg.TIM_STAT_LOCK.off / 4) (h2 : f.off / 4 ≠ Reg.TIM_CNT_UNLOCK.off / 4) (h3 : f.off < 4096) :
      u.getF pgTim f = s.getF pgTim f :=
    (State.getF_count_ne _ _ (regIdx_ne_off _ _ _ _ h2.symm (by decide) h3)).trans
      (State.getF_setF_off _ _ _ _ h1.symm (by decide) h3)
  have hne (f : Fld) (h : regIdx pgTim f ≠ regIdx pgTim Reg.PG_EVT) : regIdx pgTim f ∉ eventWords pgTim := by
    simpa [eventWords_pgTim] using h
  refine ⟨?_, ?_, ?_⟩
  · rw [State.getF_raise _ _ _ _ _ _ _ _ (hne _ (by decide)), State.getF_count_ne _ _ (by decide), State.getF_setF_same]
    rfl
  · rw [State.getF_raise _ _ _ _ _ _ _ _ (hne _ (by decide)), State.getF_count_same _ _ rfl, State.getF_setF_off]
    rfl
  · rw [huf _ (by decide) (by decide) (by decide), huf _ (by decide) (by decide) (by decide)]
    refine (u.raise_occurred _ _ _ _ _ (by decide)).before (huf _ (by decide) (by decide) (by decide))
      (huf _ (by decide) (by decide) (by decide)) ?_ ?_
    · rw [State.flag, State.flag, huf _ (by decide) (by decide) (by decide)]
    · exact congrArg (fun b : Board => b.cur.replacing) (State.count_brd _ _ _ _)

end

/-- What an exchange leaves, whatever it does to the count: the TIME flit, the offset, the count of exchanges and the lock. -/
structure Exchanged (s t : State) (k : Nat) (x : Stamps) (n : Int) : Prop where
  sent : ∃ o rest, t.out = s.out ++ o :: rest ∧ HopSent s k 8 [x.t1] o
  now : t.now = s.now
  mems : t.mems = s.mems
  sched : t.sched = s.sched
  theta : t.getF pgTim Reg.TIM_OFFSET_THETA = unsigned 32 (8 * n)
  xfer : t.getF pgTim Reg.TIM_CNT_XFER = min (2 ^ 32 - 1) (s.getF pgTim Reg.TIM_CNT_XFER + 1)
  inside : n.natAbs ≤ 32 → t.lockRun = s.lockRun + 1 ∧ (63 ≤ s.lockRun → t.getF pgTim Reg.TIM_STAT_LOCK = 1)
  outside : 32 < n.natAbs → t.lockRun = 0
  beyond : 64 < n.natAbs → t.unlockRun = s.unlockRun + 1 ∧
    (3 ≤ s.unlockRun → s.getF pgTim Reg.TIM_STAT_LOCK = 1 → t.getF pgTim Reg.TIM_STAT_LOCK = 0 ∧
      t.getF pgTim Reg.TIM_CNT_UNLOCK = min (2 ^ 32 - 1) (s.getF pgTim Reg.TIM_CNT_UNLOCK + 1) ∧
      Occurred s t pgTim 0 0x20 1 (leBytes 4 (unsigned 32 (8 * n)) ++ leBytes 1 k))

/-- The trim, the count itself and the count of steps are not what an exchange is said to leave. -/
theorem Exchanged.congr {s t t' : State} {k : Nat} {x : Stamps} {n : Int} (h : Exchanged s t k x n) (ho : t'.out = t.out)
    (hm : t'.mems = t.mems) (hs : t'.sched = t.sched) (he : t'.evts = t.evts) (hn : t'.now = t.now)
    (hl : t'.lockRun = t.lockRun ∧ t'.unlockRun = t.unlockRun)
    (hw : WordsKept t t' [regIdx pgTim Reg.TIM_TRIM_TRIM, regIdx pgTim Reg.TIM_CNT_STEP]) : Exchanged s t' k x n := by
  have hf (f : Fld) (hne : regIdx pgTim f ∉ [regIdx pgTim Reg.TIM_TRIM_TRIM, regIdx pgTim Reg.TIM_CNT_STEP]) :
      t'.getF pgTim f = t.getF pgTim f := congrArg f.get (hw _ hne)
  have hheld : t'.held = t.held := congrArg Events.held he
  obtain ⟨hl, hu⟩ := hl
  refine ⟨ho ▸ h.sent, hn.trans h.now, hm.trans h.mems, hs.trans h.sched, (hf _ (by decide)).trans h.theta,
    (hf _ (by decide)).trans h.xfer, fun hi => ?_, fun hi => hl.trans (h.outside hi), fun hi => ?_⟩
  · rw [hl, hf _ (by decide)]
    exact h.inside hi
  · rw [hu, hf _ (by decide), hf _ (by decide)]
    obtain ⟨h1, h2⟩ := h.beyond hi
    refine ⟨h1, fun h3 h4 => ?_⟩
    obtain ⟨h5, h6, h7⟩ := h2 h3 h4
    exact ⟨h5, h6, h7.after (hf _ (by decide)) fun e he => hheld ▸ he⟩

section
variable (s : State) (x : Stamps) (n : Int)

/-- The state after the flits, the counts and the lock of an exchange. -/
def State.exchanged (k : Nat) : State :=
  let u := (s.sendHop k 0x8 [x.t1]).hopIn k
  let v := State.count { u with draw := u.draw + 1 } pgTim Reg.TIM_CNT_XFER 1
  (v.setF pgTim Reg.TIM_OFFSET_THETA (unsigned 32 (8 * n))).lockStep n

theorem unsigned_lt (w : Nat) (y : Int) : unsigned w y < 2 ^ w := by
  have h1 := Int.emod_nonneg y (b := ((2 ^ w : Nat) : Int)) (by positivity)
  have h2 := Int.emod_lt_of_pos y (b := ((2 ^ w : Nat) : Int)) (by positivity)
  unfold unsigned
  omega

/-- Beside registers, events and the links an exchange changes the runs of exchanges alone. -/
theorem State.exchanged_frame (k : Nat) : (s.exchanged x n k).time = s.time.counted n ∧ (s.exchanged x n k).mems = s.mems ∧
    (s.exchanged x n k).sched = s.sched ∧ (s.exchanged x n k).out = ((s.sendHop k 0x8 [x.t1]).hopIn k).out := by
  have hu : ((s.sendHop k 0x8 [x.t1]).hopIn k).sansLinks = s.sansLinks := (State.hopIn_sans _ _).trans (s.sendHop_sans _ _ _)
  unfold State.exchanged
  dsimp only
  generalize (s.sendHop k 0x8 [x.t1]).hopIn k = u at hu ⊢
  obtain ⟨ht, hm, hs, ho⟩ := State.lockStep_frame ((State.count { u with draw := u.draw + 1 } pgTim Reg.TIM_CNT_XFER 1).setF pgTim
    Reg.TIM_OFFSET_THETA (unsigned 32 (8 * n))) n
  rw [ht, hm, hs, ho, State.setF_time, State.setF_mems, State.setF_sched, State.setF_out, State.count_time, State.count_mems,
    State.count_sched, State.count_out]
  exact ⟨congrArg (Times.counted · n) (congrArg State.time hu :), (congrArg State.mems hu :), (congrArg State.sched hu :), rfl⟩

@[simp] theorem State.word_withDraw (d j : Nat) : ({ s with draw := d } : State).word j = s.word j := rfl

@[simp] theorem State.getF_withDraw (d pg : Nat) (f : Fld) : ({ s with draw := d } : State).getF pg f = s.getF pg f := rfl

/-- A word that the exchange does not name. -/
theorem State.word_exchanged {k j : Nat} (hk : j / 1024 ≠ pgLnk k) (h : j ∉ [regIdx pgTim Reg.TIM_STAT_LOCK,
    regIdx pgTim Reg.TIM_CNT_UNLOCK, regIdx pgTim Reg.PG_EVT, regIdx pgTim Reg.TIM_CNT_XFER, regIdx pgTim Reg.TIM_OFFSET_THETA]) :
    (s.exchanged x n k).word j = s.word j := by
  simp only [List.mem_cons, List.not_mem_nil, or_false, not_or] at h
  obtain ⟨hl, hu, he, hx, ht⟩ := h
  unfold State.exchanged
  extract_lets u v
  rw [State.word_lockStep _ _ (by simp [hl, hu, he]), State.word_setF_ne _ _ ht, State.word_count_ne _ _ hx,
    State.word_withDraw, State.word_hopIn _ _ hk, State.word_sendHop _ _ _ _ hk]

/-- What the registers of the TIM page hold when the lock is judged. -/
structure Judged (s w : State) (n : Int) : Prop where
  runs : w.lockRun = s.lockRun ∧ w.unlockRun = s.unlockRun
  theta : w.getF pgTim Reg.TIM_OFFSET_THETA = unsigned 32 (8 * n)
  xfer : w.getF pgTim Reg.TIM_CNT_XFER = min (2 ^ 32 - 1) (s.getF pgTim Reg.TIM_CNT_XFER + 1)
  kept : ∀ f : Fld, regIdx pgTim f ≠ regIdx pgTim Reg.TIM_OFFSET_THETA → regIdx pgTim f ≠ regIdx pgTim Reg.TIM_CNT_XFER →
    f.off < 4096 → w.getF pgTim f = s.getF pgTim f
  replacing : w.cur.replacing = s.cur.replacing

theorem State.exchanged_judged (k : Nat) : ∃ w, s.exchanged x n k = w.lockStep n ∧ Judged s w n := by
  have htim (f : Fld) (hf : f.off < 4096) : regIdx pgTim f / 1024 ≠ pgLnk k := by
    rw [regIdx_page _ _ hf]
    unfold pgTim pgLnk
    omega
  have hs : ((s.sendHop k 0x8 [x.t1]).hopIn k).sansLinks = s.sansLinks := (State.hopIn_sans _ _).trans (s.sendHop_sans _ _ _)
  have hu (f : Fld) (hf : f.off < 4096) : ((s.sendHop k 0x8 [x.t1]).hopIn k).getF pgTim f = s.getF pgTim f :=
    congrArg f.get ((State.word_hopIn _ _ (htim f hf)).trans (State.word_sendHop _ _ _ _ (htim f hf)))
  unfold State.exchanged
  dsimp only
  generalize (s.sendHop k 0x8 [x.t1]).hopIn k = u at hs hu ⊢
  have ht : u.time = s.time := (congrArg State.time hs :)
  have hb : u.brd = s.brd := (congrArg State.brd hs :)
  refine ⟨_, rfl, ⟨?_, ?_⟩, ?_, ?_, fun f h1 h2 hf => ?_, ?_⟩
  · rw [State.lockRun, State.setF_time, State.count_time, ht]
  · rw [State.unlockRun, State.setF_time, State.count_time, ht]
  · rw [State.getF_setF_same]
    exact Nat.mod_eq_of_lt (unsigned_lt 32 (8 * n))
  · rw [State.getF_setF_off, State.getF_count_same _ _ rfl, State.getF_withDraw, hu _ (by decide)]
    rfl
  · rw [State.getF_setF_ne _ _ h1, State.getF_count_ne _ _ h2, State.getF_withDraw, hu f hf]
  · rw [State.cur, State.setF_brd, State.count_brd, hb]

theorem State.exchanged_does {k : Nat} (hp : s.getF pgTim Reg.TIM_CFG_PARENT = k) :
    Exchanged s (s.exchanged x n k) k x n := by
  obtain ⟨htime, hmems, hsched, hout⟩ := s.exchanged_frame x n k
  have hlr : (s.exchanged x n k).lockRun = if n.natAbs ≤ 32 then s.lockRun + 1 else 0 := congrArg Times.lockRun htime
  have hur : (s.exchanged x n k).unlockRun = if 64 < n.natAbs then s.unlockRun + 1 else 0 := congrArg Times.unlockRun htime
  have hnow : (s.exchanged x n k).now = s.now := (congrArg Times.now htime).trans rfl
  obtain ⟨w, hw, h⟩ := s.exchanged_judged x n k
  obtain ⟨hlock, hunlock⟩ := h.runs
  rw [hw] at hlr hur hnow hmems hsched hout ⊢
  refine ⟨?_, hnow, hmems, hsched, ?_, ?_, fun hi => ?_, fun hi => ?_, fun hi => ?_⟩
  · obtain ⟨o, ho, hsent⟩ := s.sendHop_out k 0x8 [x.t1]
    obtain ⟨rest, hr⟩ := (s.sendHop k 0x8 [x.t1]).hopIn_out k
    exact ⟨o, rest, by rw [hout, hr, ho, List.append_assoc]; rfl, hsent⟩
  · rw [State.getF_lockStep _ _ _ _ (by decide), h.theta]
  · rw [State.getF_lockStep _ _ _ _ (by decide), h.xfer]
  · exact ⟨hlr.trans (if_pos hi), fun h3 => w.lockStep_locks n hi (hlock ▸ h3)⟩
  · exact hlr.trans (if_neg (by omega))
  · refine ⟨hur.trans (if_pos hi), fun h3 hl => ?_⟩
    obtain ⟨h4, h5, h6⟩ := w.lockStep_loses n hi (hunlock ▸ h3) ((h.kept _ (by decide) (by decide) (by decide)).trans hl)
    rw [h.kept _ (by decide) (by decide) (by decide)] at h5
    rw [h.theta, h.kept _ (by decide) (by decide) (by decide), hp] at h6
    refine ⟨h4, h5, h6.before (h.kept _ (by decide) (by decide) (by decide)) (h.kept _ (by decide) (by decide) (by decide)) ?_ h.replacing⟩
    rw [State.flag, State.flag, h.kept _ (by decide) (by decide) (by decide)]

/-- No exchange changes the state of a sequencer. -/
theorem State.anyFlight_exchanged {k : Nat} (hk : k < 8) : (s.exchanged x n k).anyFlight = s.anyFlight := by
  have hd (c : Nat) : (s.exchanged x n k).doc c = s.doc c := by
    refine congrArg (Fld.get _) (s.word_exchanged x n ?_ ?_)
    · rw [regIdx_page _ _ (by decide)]
      unfold pgDoc pgLnk
      omega
    · have ht (f : Fld) (hf : f.off < 4096) : regIdx (pgDoc c) Reg.DOC_STAT_STATE ≠ regIdx pgTim f := by
        refine ne_regIdx_of_page ?_ hf
        rw [regIdx_page _ _ (by decide)]
        unfold pgDoc pgTim
        omega
      simp (disch := decide) [ht]
  unfold State.anyFlight
  simp only [hd]

/-- Half a unit of the offset is free (log 30). -/
theorem half_free (r : Nat) : (2 * ((n + (r % 2 : Nat)) / 2) - n).natAbs ≤ 1 := by omega

variable {s} in
/-- An exchange beyond 1,024 units steps the count, at once where no cluster is in a flight. -/
theorem execTimeExchange_far (hr : s.flag pgTim Reg.TIM_CFG_ROLE = false) (hu : s.portUp (s.getF pgTim Reg.TIM_CFG_PARENT) = true)
    (hb : x.bad = false) (hn : n = ((x.t2 : Int) - x.t1) - ((x.t4 : Int) - x.t3)) (hf : 2048 < n.natAbs) :
    let e := s.exchanged x n (s.getF pgTim Reg.TIM_CFG_PARENT)
    ∃ θ : Int, (2 * θ - n).natAbs ≤ 1 ∧ exec (.timeExchange x) s =
      .next (if e.anyFlight then { e with time.stepDue := θ } else { e.stepCount θ with time.stepDue := 0 }) := by
  subst hn
  intro e
  refine ⟨_, half_free _ (Config.free ((s.sendHop (s.getF pgTim Reg.TIM_CFG_PARENT) 0x8 [x.t1]).hopIn (s.getF pgTim Reg.TIM_CFG_PARENT)).draw), ?_⟩
  change execTimeExchange x s = _
  unfold execTimeExchange
  simp only [hr, hu, hb, Bool.not_true, Bool.or_self, Bool.false_eq_true, if_false, hf, if_true, State.drawFree]
  by_cases he : e.anyFlight = true
  · rw [if_pos he]
    exact if_pos he
  · rw [if_neg he]
    exact if_neg he

variable {s} in
/-- An exchange up to 1,024 units trims the clock. -/
theorem execTimeExchange_near (hr : s.flag pgTim Reg.TIM_CFG_ROLE = false) (hu : s.portUp (s.getF pgTim Reg.TIM_CFG_PARENT) = true)
    (hb : x.bad = false) (hn : n = ((x.t2 : Int) - x.t1) - ((x.t4 : Int) - x.t3)) (hf : ¬ 2048 < n.natAbs) :
    let e := s.exchanged x n (s.getF pgTim Reg.TIM_CFG_PARENT)
    ∃ trim : Int, trim.natAbs ≤ trimMax ∧ exec (.timeExchange x) s =
      .next (State.setF { e with draw := e.draw + 1, time.stepDue := 0 } pgTim Reg.TIM_TRIM_TRIM (unsigned 32 trim)) := by
  subst hn
  intro e
  refine ⟨((Config.free e.draw % (2 * trimMax + 1) : Nat) : Int) - trimMax, ?_, ?_⟩
  · have := Nat.mod_lt (Config.free e.draw) (show 0 < 2 * trimMax + 1 by decide)
    omega
  · change execTimeExchange x s = _
    unfold execTimeExchange
    simp only [hr, hu, hb, Bool.not_true, Bool.or_self, Bool.false_eq_true, if_false, hf, State.drawFree]
    unfold e State.exchanged
    rfl


theorem State.timeExchange_ignored (h : s.flag pgTim Reg.TIM_CFG_ROLE = true ∨ s.portUp (s.getF pgTim Reg.TIM_CFG_PARENT) = false) :
    exec (.timeExchange x) s = .next s := by
  change execTimeExchange x s = _
  unfold execTimeExchange
  rcases h with h | h <;> simp [h]

/-- An exchange with a discarded flit has only sent its own. -/
theorem State.timeExchange_bad (hr : s.flag pgTim Reg.TIM_CFG_ROLE = false)
    (hu : s.portUp (s.getF pgTim Reg.TIM_CFG_PARENT) = true) (hb : x.bad = true) :
    exec (.timeExchange x) s = .next (s.sendHop (s.getF pgTim Reg.TIM_CFG_PARENT) 0x8 [x.t1]) := by
  change execTimeExchange x s = _
  unfold execTimeExchange
  simp [hr, hu, hb]

/-! ### Steps of the count (R303, R309) -/

/-- A step of the count changes time and the count of steps. -/
theorem State.stepCount_does (θ : Int) : (s.stepCount θ).rot = (s.rot + (θ - s.debt).toNat) % 2 ^ 64 ∧
    (s.stepCount θ).debt = ((s.debt : Int) - θ).toNat ∧
    (s.stepCount θ).getF pgTim Reg.TIM_CNT_STEP = min (2 ^ 32 - 1) (s.getF pgTim Reg.TIM_CNT_STEP + 1) ∧
    (s.stepCount θ).out = s.out ∧ (s.stepCount θ).mems = s.mems ∧ (s.stepCount θ).sched = s.sched ∧
    (s.stepCount θ).evts = s.evts ∧ (s.stepCount θ).now = s.now ∧ (s.stepCount θ).lockRun = s.lockRun ∧
    (s.stepCount θ).unlockRun = s.unlockRun ∧ WordsKept s (s.stepCount θ) [regIdx pgTim Reg.TIM_CNT_STEP] := by
  unfold State.stepCount
  extract_lets left up
  generalize hu : ({ s with time.rot := (s.rot + up) % 2 ^ 64, time.stamp := (s.stamp + up) % 2 ^ 64, time.debt := (-left).toNat } : State) = u
  have hw (j : Nat) : u.word j = s.word j := by rw [← hu]; rfl
  have hf : u.getF pgTim Reg.TIM_CNT_STEP = s.getF pgTim Reg.TIM_CNT_STEP := congrArg (Fld.get _) (hw _)
  have ht : u.time = { s.time with rot := (s.rot + up) % 2 ^ 64, stamp := (s.stamp + up) % 2 ^ 64, debt := (-left).toNat } := by rw [← hu]
  refine ⟨?_, ?_, ?_, ?_, ?_, ?_, ?_, ?_, ?_, ?_, fun j hj => ?_⟩
  · rw [State.rot, State.count_time, ht]
  · rw [State.debt, State.count_time, ht]
    change (-left).toNat = _
    congr 1
    omega
  · rw [State.getF_count_same _ _ rfl, hf]
    rfl
  · rw [State.count_out, ← hu]
  · rw [State.count_mems, ← hu]
  · rw [State.count_sched, ← hu]
  · rw [State.count_evts, ← hu]
  · rw [State.now, State.count_time, ht]
  · rw [State.lockRun, State.count_time, ht]
  · rw [State.unlockRun, State.count_time, ht]
  · rw [State.word_count_ne _ _ (by simpa using hj), hw]

@[simp] theorem State.word_withStepDue (d : Int) (j : Nat) : ({ s with time.stepDue := d } : State).word j = s.word j := rfl
@[simp] theorem State.getF_withStepDue (d : Int) (pg : Nat) (f : Fld) : ({ s with time.stepDue := d } : State).getF pg f = s.getF pg f := rfl

theorem State.timeExchange_far (hr : s.flag pgTim Reg.TIM_CFG_ROLE = false)
    (hu : s.portUp (s.getF pgTim Reg.TIM_CFG_PARENT) = true) (hb : x.bad = false)
    (hn : n = ((x.t2 : Int) - x.t1) - ((x.t4 : Int) - x.t3)) (hf : 2048 < n.natAbs) :
    ∃ t, exec (.timeExchange x) s = .next t ∧ Exchanged s t (s.getF pgTim Reg.TIM_CFG_PARENT) x n ∧
      ∃ θ : Int, (2 * θ - n).natAbs ≤ 1 ∧ (s.anyFlight = true → t.rot = s.rot ∧ t.stepDue = θ) ∧
        (s.anyFlight = false → t.rot = (s.rot + (θ - s.debt).toNat) % 2 ^ 64 ∧ t.debt = ((s.debt : Int) - θ).toNat ∧
          t.stepDue = 0 ∧ t.getF pgTim Reg.TIM_CNT_STEP = min (2 ^ 32 - 1) (s.getF pgTim Reg.TIM_CNT_STEP + 1)) := by
  obtain ⟨θ, hθ, he⟩ := execTimeExchange_far x n hr hu hb hn hf
  have hk : s.getF pgTim Reg.TIM_CFG_PARENT < 8 := s.getF_lt _ _
  have hd := s.exchanged_does x n rfl
  obtain ⟨htime, -, -, -⟩ := s.exchanged_frame x n (s.getF pgTim Reg.TIM_CFG_PARENT)
  have hrot : (s.exchanged x n (s.getF pgTim Reg.TIM_CFG_PARENT)).rot = s.rot := (congrArg Times.rot htime).trans rfl
  have hdebt : (s.exchanged x n (s.getF pgTim Reg.TIM_CFG_PARENT)).debt = s.debt := (congrArg Times.debt htime).trans rfl
  have hstep : (s.exchanged x n (s.getF pgTim Reg.TIM_CFG_PARENT)).getF pgTim Reg.TIM_CNT_STEP = s.getF pgTim Reg.TIM_CNT_STEP := by
    refine congrArg (Fld.get _) (s.word_exchanged x n ?_ (by decide))
    rw [regIdx_page _ _ (by decide)]
    unfold pgTim pgLnk
    omega
  rw [s.anyFlight_exchanged x n hk] at he
  generalize s.exchanged x n (s.getF pgTim Reg.TIM_CFG_PARENT) = e at *
  cases ha : s.anyFlight with
  | true =>
    rw [ha, if_pos rfl] at he
    exact ⟨_, he, hd.congr rfl rfl rfl rfl rfl ⟨rfl, rfl⟩ fun _ _ => rfl, θ, hθ, fun _ => ⟨hrot, rfl⟩, nofun⟩
  | false =>
    rw [ha, if_neg (by decide)] at he
    obtain ⟨h1, h2, h3, h4, h5, h6, h7, h8, h9, h10, h11⟩ := e.stepCount_does θ
    rw [hrot, hdebt] at h1
    rw [hdebt] at h2
    rw [hstep] at h3
    generalize e.stepCount θ = u at *
    refine ⟨_, he, hd.congr h4 h5 h6 h7 h8 ⟨h9, h10⟩ fun j hj => ?_, θ, hθ, nofun, fun _ => ⟨h1, h2, rfl, h3⟩⟩
    exact (u.word_withStepDue 0 j).trans (h11 j fun h => hj (List.mem_cons_of_mem _ h))

theorem State.timeExchange_near (hr : s.flag pgTim Reg.TIM_CFG_ROLE = false)
    (hu : s.portUp (s.getF pgTim Reg.TIM_CFG_PARENT) = true) (hb : x.bad = false)
    (hn : n = ((x.t2 : Int) - x.t1) - ((x.t4 : Int) - x.t3)) (hf : ¬ 2048 < n.natAbs) :
    ∃ t, exec (.timeExchange x) s = .next t ∧ Exchanged s t (s.getF pgTim Reg.TIM_CFG_PARENT) x n ∧
      t.rot = s.rot ∧ t.stepDue = 0 ∧ (signed 32 (t.getF pgTim Reg.TIM_TRIM_TRIM)).natAbs ≤ trimMax := by
  obtain ⟨trim, ht, he⟩ := execTimeExchange_near x n hr hu hb hn hf
  have hd := s.exchanged_does x n rfl
  obtain ⟨htime, -, -, -⟩ := s.exchanged_frame x n (s.getF pgTim Reg.TIM_CFG_PARENT)
  have hrot : (s.exchanged x n (s.getF pgTim Reg.TIM_CFG_PARENT)).rot = s.rot := (congrArg Times.rot htime).trans rfl
  generalize s.exchanged x n (s.getF pgTim Reg.TIM_CFG_PARENT) = e at *
  refine ⟨_, he, hd.congr rfl rfl rfl rfl rfl ⟨rfl, rfl⟩ fun j hj => ?_, hrot, rfl, ?_⟩
  · exact State.word_setF_ne _ _ fun h => hj (by simp [h])
  · have hlt : trim.natAbs < 2 ^ 31 := lt_of_le_of_lt ht (by decide)
    rw [State.getF_setF_same, show Reg.TIM_TRIM_TRIM.width = 32 from rfl, Nat.mod_eq_of_lt (unsigned_lt 32 trim), signed_unsigned (by decide) hlt]
    exact ht

/-! ### Stamps and TIM_SET (R305, R310) -/

theorem State.rotundaStamp_does (h : 64 ≤ s.refPhase) :
    exec .rotundaStamp s = .next { s with time.stamp := s.rot, time.refPhase := 0 } := by
  change execRotundaStamp s = _
  unfold execRotundaStamp
  exact if_neg (by omega)

/-- The count that TIM_SET takes. -/
def State.countToSet : Nat := s.getF pgTim Reg.TIM_SET_LO_T + s.getF pgTim Reg.TIM_SET_HI_T * 2 ^ 32

/-- TIM_SET sets the count. -/
def State.setCount (v : Nat) : State :=
  State.setF { s with time.rot := v, time.rotFrac := 0, time.stamp := v, time.refPhase := 0, time.lockRun := 0, time.stepDue := 0,
                      time.debt := 0 } pgTim Reg.TIM_STAT_LOCK 0

theorem State.setCount_does (v : Nat) : (s.setCount v).rot = v ∧ (s.setCount v).stamp = (s.setCount v).rot ∧ (s.setCount v).now = s.now ∧
    (s.setCount v).stepDue = 0 ∧ (s.setCount v).debt = 0 ∧ (s.setCount v).getF pgTim Reg.TIM_STAT_LOCK = 0 ∧
    PagesKept s (s.setCount v) pgTim [] ∧ s.setCount v = { s with regFile := (s.setCount v).regFile, time := (s.setCount v).time } := by
  refine ⟨rfl, rfl, rfl, rfl, rfl, ?_, fun j hj _ => ?_, rfl⟩
  · unfold State.setCount
    rw [State.getF_setF_same]
    rfl
  · unfold State.setCount
    rw [State.word_setF_ne _ _ (ne_regIdx_of_page hj)]
    rfl

theorem State.timSet_eq (val : Nat) (h : (s.writeReg pgTim 0x128 val true).reaches pgTim = true) :
    exec (.timSet val) s = .next (if val.testBit 0 then s.setCount s.countToSet else s) := by
  have hs := s.writeReg_timSet val h
  rw [hs] at h
  change execTimSet val s = _
  unfold execTimSet
  rw [hs]
  cases hv : val.testBit 0
  · simp
  · simp [h, State.setCount, State.countToSet]

end

/-- Settles O29. That half a unit of a step is free, and that the count stands still after a step back, are the model's choices
(logs 30, 70). -/
theorem rotundaTime : Obligations.RotundaTime := by
  refine ⟨⟨fun s h => ⟨_, s.rotundaStamp_does h, rfl, rfl, rfl, rfl, rfl⟩, fun s val h => ⟨fun hv => ?_, fun hv => ?_⟩⟩, fun s x => ?_⟩
  · exact ⟨s.setCount s.countToSet, (s.timSet_eq val h).trans (by rw [hv, if_pos rfl]), s.setCount_does _⟩
  · exact ⟨s, (s.timSet_eq val h).trans (by rw [hv, if_neg (by decide)]), rfl, fun _ _ _ => rfl⟩
  · refine ⟨s.timeExchange_ignored x, fun hr hu => ?_⟩
    cases hb : x.bad with
    | true =>
      obtain ⟨o, ho, hsent⟩ := s.sendHop_out (s.getF pgTim Reg.TIM_CFG_PARENT) 0x8 [x.t1]
      refine ⟨_, s.timeExchange_bad x hr hu hb, ⟨o, [], ho, hsent⟩, congrArg Times.now (s.sendHop_time _ _ _), s.sendHop_mems _ _ _,
        s.sendHop_sched _ _ _, fun _ => ⟨s.sendHop_time _ _ _, ?_⟩, nofun⟩
      refine congrArg (Fld.get _) (s.word_sendHop _ 8 [x.t1] ?_)
      rw [regIdx_page _ _ (by decide)]
      unfold pgTim pgLnk
      omega
    | false =>
      rcases Nat.lt_or_ge 2048 (((x.t2 : Int) - x.t1) - ((x.t4 : Int) - x.t3)).natAbs with hf | hf
      · obtain ⟨t, he, hx, hθ⟩ := s.timeExchange_far x _ hr hu hb rfl hf
        exact ⟨t, he, hx.sent, hx.now, hx.mems, hx.sched, nofun, fun _ => ⟨hx.theta, hx.xfer, hx.inside, hx.outside, hx.beyond,
          fun h => absurd hf (Nat.not_lt.mpr h), fun _ => hθ⟩⟩
      · obtain ⟨t, he, hx, hnear⟩ := s.timeExchange_near x _ hr hu hb rfl (Nat.not_lt.mpr hf)
        exact ⟨t, he, hx.sent, hx.now, hx.mems, hx.sched, nofun, fun _ => ⟨hx.theta, hx.xfer, hx.inside, hx.outside, hx.beyond,
          fun _ => hnear, fun h => absurd hf (Nat.not_le.mpr h)⟩⟩

end Sys2Proof.Machine
end

section
/-! PROOFS of the statements on timed launch (spec/08_timed_launch.md), third part: what the stop state of a landing group changes
(R347, R521), and the messages that stop it. -/
namespace Sys2Proof.Machine

/-! ### Words that no counter holds (R25) -/

/-- A word below the counter range of its page. -/
def Uncounted (j : Nat) : Prop := j % 1024 < 0xF00 / 4

theorem uncounted_regIdx (pg : Nat) (f : Fld) (hf : f.off < 0xF00 := by decide) : Uncounted (regIdx pg f) := by
  unfold Uncounted regIdx
  omega

theorem Uncounted.ne {j : Nat} (h : Uncounted j) (pg : Nat) (f : Fld) (hf : 0xF00 ≤ f.off ∧ f.off < 4096 := by decide) :
    j ≠ regIdx pg f := by
  unfold Uncounted at h
  unfold regIdx
  omega

theorem Uncounted.count {j : Nat} (h : Uncounted j) (s : State) (pg : Nat) (f : Fld) (n : Nat)
    (hf : 0xF00 ≤ f.off ∧ f.off < 4096 := by decide) : (s.count pg f n).word j = s.word j :=
  s.word_count_ne n (h.ne pg f hf)

/-- A word that counts neither rerouted chunks nor discarded ones. -/
def Unsent (j : Nat) : Prop := j % 1024 ≠ Reg.LNK_CNT_REROUTE.off / 4 ∧ j % 1024 ≠ Reg.CLO_CNT_DISCARD.off / 4

theorem unsent_regIdx (pg : Nat) (f : Fld)
    (hf : f.off / 4 ≠ Reg.LNK_CNT_REROUTE.off / 4 ∧ f.off / 4 ≠ Reg.CLO_CNT_DISCARD.off / 4 ∧ f.off < 4096 := by decide) :
    Unsent (regIdx pg f) := by
  obtain ⟨h1, h2, h3⟩ := hf
  have h : regIdx pg f % 1024 = f.off / 4 := by
    unfold regIdx
    omega
  rw [Unsent, h]
  exact ⟨h1, h2⟩

theorem Unsent.reroute {j : Nat} (h : Unsent j) (s : State) (pg n : Nat) :
    (s.count pg Reg.LNK_CNT_REROUTE n).word j = s.word j := by
  refine s.word_count_ne n fun e => h.1 ?_
  rw [e, regIdx, Nat.mul_comm, Nat.mul_add_mod]
  rfl

theorem Unsent.discard {j : Nat} (h : Unsent j) (s : State) (pg n : Nat) :
    (s.count pg Reg.CLO_CNT_DISCARD n).word j = s.word j := by
  refine s.word_count_ne n fun e => h.2 ?_
  rw [e, regIdx, Nat.mul_comm, Nat.mul_add_mod]
  rfl

/-! ### Chunks (R456, R465) -/

section
variable (s : State)

@[simp] theorem State.word_sendOn (k cls src dst vc seq kind : Nat) (fresh : Bool) (data : List Byte) (back : Option (Nat × Nat)) (j : Nat) :
    (s.sendOn k cls src dst vc seq kind fresh data back).word j = s.word j := by
  unfold State.sendOn State.updPort
  rw [State.word_setPort, State.word_wakePort]

@[simp] theorem State.word_withRetained (l : List Retained) (j : Nat) : ({ s with fabric.retained := l } : State).word j = s.word j := rfl

theorem State.word_pushChunk (dst vc kind : Nat) (data : List Byte) {j : Nat} (h : Unsent j) :
    (s.pushChunk dst vc kind data).word j = s.word j := by
  unfold State.pushChunk
  split
  · rfl
  · next k re _ =>
    split
    · rfl
    · dsimp only
      rw [State.word_sendOn, State.word_withRetained, State.word_setTx]
      split
      · exact h.reroute s _ _
      · rfl

/-- A chunk that leaves counts, and writes no other register. -/
theorem State.word_sendChunk (dst vc kind : Nat) (data : List Byte) {j : Nat} (h : Unsent j) :
    (s.sendChunk dst vc kind data).word j = s.word j := by
  unfold State.sendChunk
  split
  · rfl
  · exact s.word_pushChunk dst vc kind data h

theorem State.word_oweCredit (k key n j : Nat) : (s.oweCredit k key n).word j = s.word j := by
  unfold State.oweCredit State.updPort
  rw [State.word_setPort, State.word_wakePort]

theorem State.wakePort_frame (k : Nat) : ∃ p, s.wakePort k = { s with fabric.ports := p } := by
  obtain ⟨p, e | e⟩ := s.wakePort_eq k <;> rw [e]
  · exact ⟨_, rfl⟩
  · exact ⟨s.ports, rfl⟩

theorem State.oweCredit_frame (k key n : Nat) : ∃ p, s.oweCredit k key n = { s with fabric.ports := p } := by
  obtain ⟨p, e⟩ := s.wakePort_frame k
  unfold State.oweCredit
  rw [e]
  exact ⟨_, rfl⟩

/-- Items that leave the links change the ports alone. -/
theorem State.freeItems_frame (l : List CombIn) : ∃ p, s.freeItems l = { s with fabric.ports := p } := by
  unfold State.freeItems
  refine foldl_inv (fun t : State => ∃ p, t = { s with fabric.ports := p }) _ (fun t x ht => ?_) l s ⟨s.ports, rfl⟩
  obtain ⟨p, rfl⟩ := ht
  split
  · exact State.oweCredit_frame _ _ _ _
  · exact ⟨p, rfl⟩

/-! ### A cluster stops (R347) -/

/-- The entry of a cluster in the stop state. -/
def Cluster.stopped (k : Cluster) : Cluster :=
  { k with colls := k.colls.filter (fun x => decide (x.need ≤ x.received)), barrier := none, landed := false }

theorem Cluster.stopped_stopped (k : Cluster) : k.stopped.stopped = k.stopped := by
  simp [Cluster.stopped, List.filter_filter]

theorem State.stopCluster_eq (c : Nat) : s.stopCluster c = (s.setClu c (s.clu c).stopped).setDoc c docStopped := rfl

/-- The state with registers, clusters, runs, the fabric and the output blanked. -/
def State.sansStop : State := { s with regFile.regs := [], sched.clusters := [], sched.runs := [], fabric := {}, out := [] }

theorem docStat_ne {c c' : Nat} (h : c ≠ c') : regIdx (pgDoc c) Reg.DOC_STAT_STATE ≠ regIdx (pgDoc c') Reg.DOC_STAT_STATE :=
  regIdx_ne_page _ _ (by unfold pgDoc; omega)

theorem State.clu_setDoc (c v c' : Nat) : (s.setDoc c v).clu c' = s.clu c' := rfl

theorem State.doc_setDoc_ne {c c' : Nat} (v : Nat) (h : c' ≠ c) : (s.setDoc c v).doc c' = s.doc c' :=
  congrArg (Fld.get _) (s.word_setF_ne v (docStat_ne h))

theorem State.grpOf_setDoc (c v c' : Nat) : (s.setDoc c v).grpOf c' = s.grpOf c' := s.getF_setF_field _ _ _

/-- What stopping some clusters does. -/
theorem State.stopClusters_does (l : List Nat) : (l.foldl State.stopCluster s).sansStop = s.sansStop ∧
    (l.foldl State.stopCluster s).runs = s.runs ∧ (l.foldl State.stopCluster s).fabric = s.fabric ∧
    (l.foldl State.stopCluster s).out = s.out ∧
    (∀ c, (l.foldl State.stopCluster s).clu c = if c ∈ l then (s.clu c).stopped else s.clu c) ∧
    (∀ c, (l.foldl State.stopCluster s).doc c = if c ∈ l then docStopped else s.doc c) ∧
    (∀ c, (l.foldl State.stopCluster s).grpOf c = s.grpOf c) ∧
    ∀ j, (∀ c, j ≠ regIdx (pgDoc c) Reg.DOC_STAT_STATE) → (l.foldl State.stopCluster s).word j = s.word j := by
  induction l generalizing s with
  | nil => exact ⟨rfl, rfl, rfl, rfl, fun _ => rfl, fun _ => rfl, fun _ => rfl, fun _ _ => rfl⟩
  | cons x l ih =>
    obtain ⟨h1, h2, h3, h4, h5, h6, h7, h8⟩ := ih (s.stopCluster x)
    rw [List.foldl_cons]
    refine ⟨h1.trans rfl, h2.trans rfl, h3.trans rfl, h4.trans rfl, fun c => (h5 c).trans ?_, fun c => (h6 c).trans ?_,
      fun c => (h7 c).trans (State.grpOf_setDoc _ _ _ _), fun j hj => (h8 j hj).trans ((State.word_setF_ne _ _ (hj x)).trans rfl)⟩
    · rw [s.stopCluster_eq, State.clu_setDoc, State.clu_setClu]
      by_cases hc : c = x
      · subst hc
        simp [Cluster.stopped_stopped]
      · simp [hc]
    · rw [s.stopCluster_eq]
      by_cases hc : c = x
      · subst hc
        rw [State.doc_setDoc, if_pos List.mem_cons_self]
        simp [docStopped]
      · rw [State.doc_setDoc_ne _ _ hc]
        simp [hc]
        rfl

/-! ### The stop state (R347, R521) -/

theorem State.sansStop_of_regs {s t : State} (h : t.sansRegs = s.sansRegs) : t.sansStop = s.sansStop := (congrArg State.sansStop h :)

theorem State.dropEarly_does (g : Nat) : (s.dropEarly g).sansStop = s.sansStop ∧ (s.dropEarly g).sched = s.sched ∧
    (s.dropEarly g).out = s.out ∧ ∀ j, Unsent j → (s.dropEarly g).word j = s.word j := by
  unfold State.dropEarly
  dsimp only
  generalize (s.early.partition _).1 = gone
  generalize (s.early.partition _).2 = kept
  have hsans : ({ s with fabric.early := kept } : State).sansStop = s.sansStop := rfl
  have hsched : ({ s with fabric.early := kept } : State).sched = s.sched := rfl
  have hout : ({ s with fabric.early := kept } : State).out = s.out := rfl
  have hword (j : Nat) : ({ s with fabric.early := kept } : State).word j = s.word j := rfl
  generalize ({ s with fabric.early := kept } : State) = u at hsans hsched hout hword ⊢
  refine ⟨Eq.trans ?_ hsans, Eq.trans ?_ hsched, Eq.trans ?_ hout, fun j hj => Eq.trans ?_ (hword j)⟩
  · exact foldl_keeps State.sansStop _ (fun t e => State.sansStop_of_regs (t.count_sans _ _ _)) gone u
  · exact foldl_keeps State.sched _ (fun t e => t.count_sched _ _ _) gone u
  · exact foldl_keeps State.out _ (fun t e => t.count_out _ _ _) gone u
  · exact foldl_keeps (State.word · j) _ (fun t e => hj.discard t _ _) gone u

/-- Which clusters a stop reaches hangs on their DOC_STAT. -/
theorem State.stoppable_congr {s t : State} (hd : ∀ c, t.doc c = s.doc c) (hg : ∀ c, t.grpOf c = s.grpOf c) (g : Nat) :
    t.stoppable g = s.stoppable g := by
  unfold State.stoppable State.running
  simp only [hd, hg]

theorem State.run_setRun (g g' : Nat) (r : GroupRun) : (s.setRun g r).run g' = if g' = g then r else s.run g' := sget_sset _ _ _ _ _

/-- What the stop state of a group changes: the clusters that it reaches, the group's run, the fabric, and counters. -/
structure Stopped (s t : State) (g : Nat) : Prop where
  sans : t.sansStop = s.sansStop
  clu : ∀ c, t.clu c = if c ∈ s.stoppable g then (s.clu c).stopped else s.clu c
  doc : ∀ c, t.doc c = if c ∈ s.stoppable g then docStopped else s.doc c
  grpOf : ∀ c, t.grpOf c = s.grpOf c
  run : ∀ g', t.run g' = if g' = g then { s.run g with stopped := true } else s.run g'
  word : ∀ j, Unsent j → (∀ c, j ≠ regIdx (pgDoc c) Reg.DOC_STAT_STATE) → t.word j = s.word j

theorem State.enterStop_stopped (g : Nat) : Stopped s (s.enterStop g) g := by
  obtain ⟨h1, h2, -, h4⟩ := s.dropEarly_does g
  have hdoc (c : Nat) : (s.dropEarly g).doc c = s.doc c := congrArg (Fld.get _) (h4 _ (unsent_regIdx _ _))
  have hgrp (c : Nat) : (s.dropEarly g).grpOf c = s.grpOf c := congrArg (Fld.get _) (h4 _ (unsent_regIdx _ _))
  have hclu (c : Nat) : (s.dropEarly g).clu c = s.clu c := by unfold State.clu State.clusters; rw [h2]
  have hrun (g' : Nat) : (s.dropEarly g).run g' = s.run g' := by unfold State.run State.runs; rw [h2]
  unfold State.enterStop
  extract_lets u v cs es live w fab x r
  have hl : u.stoppable g = s.stoppable g := State.stoppable_congr hdoc hgrp g
  obtain ⟨k1, k2, -, -, k5, k6, k7, k8⟩ := u.stopClusters_does (s.stoppable g)
  have hv : v = (s.stoppable g).foldl State.stopCluster u := by unfold v; rw [hl]
  rw [← hv] at k1 k2 k5 k6 k7 k8
  obtain ⟨p, hw⟩ := v.freeItems_frame (v.combIn.flatMap (fun p => p.2.filter (fun x => !live (cs.flatMap (fun (q : Nat × List Comb) => q.2)) x)))
  have hw' : w = { v with fabric.ports := p } := hw
  clear hw
  clear_value w v
  have hx : ∃ f, x = { w with fabric := f } := ⟨_, rfl⟩
  clear_value fab x
  obtain ⟨f, rfl⟩ := hx
  subst hw'
  have hvr (g' : Nat) : v.run g' = s.run g' := by unfold State.run; rw [k2]; exact hrun g'
  refine ⟨?_, fun c => ?_, fun c => ?_, fun c => ?_, fun g' => ?_, fun j hj hd => ?_⟩
  · exact Eq.trans rfl (k1.trans h1)
  · exact Eq.trans rfl ((k5 c).trans (by rw [show u.clu c = s.clu c from hclu c]))
  · exact Eq.trans rfl ((k6 c).trans (by rw [show u.doc c = s.doc c from hdoc c]))
  · exact Eq.trans rfl ((k7 c).trans (hgrp c))
  · rw [State.run_setRun]
    split
    · exact congrArg (fun r : GroupRun => { r with stopped := true }) (hvr g)
    · exact hvr g'
  · exact Eq.trans rfl ((k8 j hd).trans (h4 j hj))

/-- An event and messages leave memory, the DOC_STAT of every cluster and the calendar of the groups. -/
structure Told (s t : State) : Prop where
  mems : t.mems = s.mems
  sched : t.sched = s.sched
  stat : ∀ c, t.word (regIdx (pgDoc c) Reg.DOC_STAT_STATE) = s.word (regIdx (pgDoc c) Reg.DOC_STAT_STATE)

theorem Told.doc {s t : State} (h : Told s t) (c : Nat) : t.doc c = s.doc c := congrArg (Fld.get _) (h.stat c)

theorem Told.grpOf {s t : State} (h : Told s t) (c : Nat) : t.grpOf c = s.grpOf c :=
  congrArg (Fld.get Reg.DOC_STAT_GRP) (h.stat c)

theorem Told.trans {s t u : State} (h : Told s t) (k : Told t u) : Told s u :=
  ⟨k.mems.trans h.mems, k.sched.trans h.sched, fun c => (k.stat c).trans (h.stat c)⟩

theorem Told.clusters {s t : State} (h : Told s t) : t.clusters = s.clusters := by unfold State.clusters; rw [h.sched]

theorem Told.run {s t : State} (h : Told s t) (g : Nat) : t.run g = s.run g := by unfold State.run State.runs; rw [h.sched]

theorem Told.stoppable {s t : State} (h : Told s t) (g : Nat) : t.stoppable g = s.stoppable g :=
  State.stoppable_congr h.doc h.grpOf g

theorem atDocStat (c : Nat) : AtDocStat (regIdx (pgDoc c) Reg.DOC_STAT_STATE) := by
  unfold AtDocStat regIdx
  rw [Nat.mul_comm, Nat.mul_add_mod]
  rfl

theorem State.raise_told (pg bit code sev : Nat) (data : List Byte) : Told s (s.raise pg bit code sev data) :=
  ⟨s.raise_mems _ _ _ _ _, s.raise_sched _ _ _ _ _, fun c => s.word_raise _ _ _ _ _ ((atDocStat c).notEvent pg)⟩

theorem State.sendChunk_told (dst vc kind : Nat) (data : List Byte) : Told s (s.sendChunk dst vc kind data) :=
  ⟨s.sendChunk_mems _ _ _ _, s.sendChunk_sched _ _ _ _, fun _ => s.word_sendChunk _ _ _ _ (unsent_regIdx _ _)⟩

/-- One chunk for each of some packages: registers that no counter holds stay. -/
theorem State.sendAll_told (vc kind : Nat) (data : State → List Byte) (l : List Nat) :
    Told s (l.foldl (fun s p => s.sendChunk p vc kind (data s)) s) :=
  foldl_inv (Told s ·) _ (fun t p ht => ht.trans (t.sendChunk_told p vc kind (data t))) l s ⟨rfl, rfl, fun _ => rfl⟩

theorem State.sendStopsAt_told (g n : Nat) : Told s (s.sendStopsAt g n) :=
  s.sendAll_told 2 3 (fun s => leBytes 1 g ++ leBytes 8 n ++ leBytes 2 s.pkg) (s.others g)

theorem State.word_sendStopsAt (g n : Nat) {j : Nat} (h : Unsent j) : (s.sendStopsAt g n).word j = s.word j :=
  foldl_keeps (State.word · j) _ (fun t p => t.word_sendChunk p 2 3 _ h) (s.others g) s

theorem State.sendStops_told (g : Nat) : Told s (s.sendStops g) := s.sendStopsAt_told g _

/-- Every cluster that a stop of the group reaches is stopped, and the group; memory and every other cluster's state stay. -/
structure Halted (s t : State) (g : Nat) : Prop where
  mems : t.mems = s.mems
  stopped : (t.run g).stopped = true
  doc : ∀ c, t.doc c = if c ∈ s.stoppable g then docStopped else s.doc c
  grpOf : ∀ c, t.grpOf c = s.grpOf c

theorem Stopped.mems {s t : State} {g : Nat} (h : Stopped s t g) : t.mems = s.mems :=
  (congrArg (fun x : State => x.mems) h.sans :)

theorem Stopped.halted {s t : State} {g : Nat} (h : Stopped s t g) : Halted s t g :=
  ⟨h.mems, by rw [h.run, if_pos rfl], h.doc, h.grpOf⟩

theorem Stopped.evt {s t : State} {g : Nat} (h : Stopped s t g) : t.getF pgDev Reg.PG_EVT = s.getF pgDev Reg.PG_EVT :=
  congrArg (Fld.get _) (h.word _ (unsent_regIdx _ _) fun _ => regIdx_ne_off _ _ Reg.DOC_STAT_STATE Reg.PG_EVT)

theorem Stopped.held {s t : State} {g : Nat} (h : Stopped s t g) : t.held = s.held :=
  (congrArg (fun x : State => x.held) h.sans :)

/-- What precedes the stop: it leaves memory and the state of every cluster. -/
theorem Halted.before {s u t : State} {g : Nat} (h : Halted u t g) (hm : u.mems = s.mems) (hd : ∀ c, u.doc c = s.doc c)
    (hg : ∀ c, u.grpOf c = s.grpOf c) : Halted s t g :=
  ⟨h.mems.trans hm, h.stopped, fun c => by rw [h.doc, State.stoppable_congr hd hg, hd], fun c => (h.grpOf c).trans (hg c)⟩

theorem Halted.after {s u t : State} {g : Nat} (h : Halted s u g) (k : Told u t) : Halted s t g :=
  ⟨k.mems.trans h.mems, by rw [k.run]; exact h.stopped, fun c => (k.doc c).trans (h.doc c), fun c => (k.grpOf c).trans (h.grpOf c)⟩

theorem docStopped_ne : docStopped ≠ docSaved ∧ ¬ docStopped ≤ 3 := by decide

/-- A second stop of the group finds nothing more to stop. -/
theorem Halted.trans {s u t : State} {g : Nat} (h : Halted s u g) (k : Halted u t g) : Halted s t g := by
  have hsub (c : Nat) (hc : c ∈ u.stoppable g) : c ∈ s.stoppable g := by
    by_contra hn
    have hd : u.doc c = s.doc c := by rw [h.doc, if_neg hn]
    unfold State.stoppable State.running at hc hn
    rw [List.mem_filter] at hc hn
    rw [hd, h.grpOf] at hc
    exact hn hc
  refine ⟨k.mems.trans h.mems, k.stopped, fun c => ?_, fun c => (k.grpOf c).trans (h.grpOf c)⟩
  rw [k.doc]
  by_cases hc : c ∈ u.stoppable g
  · rw [if_pos hc, if_pos (hsub c hc)]
  · rw [if_neg hc, h.doc]

theorem Halted.doc_of_mem {s t : State} {g : Nat} (h : Halted s t g) : ∀ c ∈ s.stoppable g, t.doc c = docStopped :=
  fun c hc => by rw [h.doc, if_pos hc]

theorem Halted.doc_of_not_mem {s t : State} {g : Nat} (h : Halted s t g) :
    ∀ c, c < 512 → c ∉ s.stoppable g → t.doc c = s.doc c := fun c _ hc => by rw [h.doc, if_neg hc]

/-- The stop behind an event. -/
theorem State.raise_enterStop (pg bit code sev : Nat) (data : List Byte) (g : Nat) :
    Halted s ((s.raise pg bit code sev data).enterStop g) g :=
  (State.enterStop_stopped _ g).halted.before (s.raise_told _ _ _ _ _).mems (s.raise_told _ _ _ _ _).doc (s.raise_told _ _ _ _ _).grpOf

theorem State.collMismatch_halted (lg grp cseq i off : Nat) : Halted s (s.collMismatch lg grp cseq i off) lg :=
  (s.raise_enterStop _ _ _ _ _ lg).after (State.sendStops_told _ lg)

/-! ### Landed messages, notices, deadlines, stop messages (R345 to R348) -/

/-- A run but for its stop. -/
def GroupRun.unstopped (r : GroupRun) : GroupRun := { r with stopped := false }

theorem GroupRun.unstopped_msgs (r : GroupRun) : r.unstopped.msgs = r.msgs := rfl

theorem GroupRun.unstopped_finals (r : GroupRun) : r.unstopped.finals = r.finals := rfl

theorem State.raise_enterStop_run (pg bit code sev : Nat) (data : List Byte) (g : Nat) :
    (((s.raise pg bit code sev data).enterStop g).run g).unstopped = (s.run g).unstopped := by
  rw [(State.enterStop_stopped _ g).run, if_pos rfl, (s.raise_told pg bit code sev data).run]
  rfl

theorem State.splitCheck_keeps (g n : Nat) : (s.splitCheck g n).mems = s.mems ∧
    ((s.splitCheck g n).run g).unstopped = (s.run g).unstopped := by
  unfold State.splitCheck
  dsimp only
  split
  · exact ⟨rfl, rfl⟩
  · split
    · exact ⟨rfl, rfl⟩
    · exact ⟨(s.raise_enterStop _ _ _ _ _ g).mems, s.raise_enterStop_run _ _ _ _ _ g⟩

theorem State.collMismatch_keeps (g grp cseq i off : Nat) : (s.collMismatch g grp cseq i off).mems = s.mems ∧
    ((s.collMismatch g grp cseq i off).run g).unstopped = (s.run g).unstopped := by
  refine ⟨(s.collMismatch_halted g grp cseq i off).mems, ?_⟩
  unfold State.collMismatch
  rw [(State.sendStops_told _ g).run]
  exact s.raise_enterStop_run _ _ _ _ _ g

theorem State.landedMessageReceive_keeps (m : LandedMsg) (hm : m.pkg ∈ s.others m.grp) (hn : s.hasMsg m.grp m.idx m.pkg = false) :
    ∃ t, exec (.landedMessageReceive m) s = .next t ∧ (t.run m.grp).msgs = (s.run m.grp).msgs ++ [m] ∧ t.mems = s.mems ∧
      (t.run m.grp).finals = (s.run m.grp).finals ++ (if m.final then [(m.pkg, m.idx)] else []) := by
  rw [show exec (.landedMessageReceive m) s = execLandedMessageReceive m s from rfl]
  unfold execLandedMessageReceive
  extract_lets r u v
  rw [if_neg (by simp [hm, hn])]
  have hu : (u.run m.grp).unstopped.msgs = (s.run m.grp).msgs ++ [m] ∧
      (u.run m.grp).unstopped.finals = (s.run m.grp).finals ++ (if m.final then [(m.pkg, m.idx)] else []) := by
    unfold u
    rw [State.run_setRun, if_pos rfl]
    refine ⟨rfl, ?_⟩
    cases m.final
    · exact (List.append_nil _).symm
    · rfl
  have hum : u.mems = s.mems := rfl
  clear_value u
  have hv : v.mems = u.mems ∧ (v.run m.grp).unstopped = (u.run m.grp).unstopped := by
    unfold v
    split
    · exact u.splitCheck_keeps _ _
    · exact ⟨rfl, rfl⟩
  clear_value v
  obtain ⟨hvm, hvr⟩ := hv
  rw [← hvr] at hu
  split
  · next grp cseq i _ =>
    obtain ⟨h1, h2⟩ := v.collMismatch_keeps m.grp grp cseq i 0
    rw [← h2, GroupRun.unstopped_msgs, GroupRun.unstopped_finals] at hu
    exact ⟨_, rfl, hu.1, h1.trans (hvm.trans hum), hu.2⟩
  · rw [GroupRun.unstopped_msgs, GroupRun.unstopped_finals] at hu
    exact ⟨_, rfl, hu.1, hvm.trans hum, hu.2⟩

theorem State.sendNotice_does (g : Nat) : ((s.sendNotice g).run g).noticed = some ((s.run g).idx + 1) ∧
    (s.sendNotice g).mems = s.mems ∧ (s.sendNotice g).clusters = s.clusters ∧
    ((s.run g).noticed = some ((s.run g).idx + 1) → s.sendNotice g = s) := by
  unfold State.sendNotice
  extract_lets r
  split
  · next h => exact ⟨h, rfl, rfl, fun _ => rfl⟩
  · next h =>
    generalize (s.others g ++ if s.lockstep = true then [s.twinPkg] else []) = l
    have hrun : ((s.setRun g { r with noticed := some (r.idx + 1) }).run g).noticed = some (r.idx + 1) := by
      rw [State.run_setRun, if_pos rfl]
    have hm : (s.setRun g { r with noticed := some (r.idx + 1) }).mems = s.mems := rfl
    have hc : (s.setRun g { r with noticed := some (r.idx + 1) }).clusters = s.clusters := rfl
    generalize s.setRun g { r with noticed := some (r.idx + 1) } = u at hrun hm hc
    have ht := u.sendAll_told 2 2 (fun s => leBytes 1 g ++ leBytes 8 (r.idx + 1) ++ leBytes 2 s.pkg) l
    exact ⟨by rw [ht.run]; exact hrun, ht.mems.trans hm, ht.clusters.trans hc, fun h' => absurd h' h⟩

theorem State.landingInstant_sends (g : Nat) (hs : (s.run g).stopped = false) (hl : s.landSet g ≠ []) (h0 : (s.run g).lam ≠ 0)
    (ht : (s.run g).lam ≤ s.rot)
    (hlate : (∃ c ∈ s.landSet g, s.landable g c = false ∧ s.doc c ≠ docTrapped) ∨ s.switchReady g = false) :
    exec (.landingInstant g) s = .next (s.sendNotice g) := by
  rw [show exec (.landingInstant g) s = execLandingInstant g s from rfl]
  unfold execLandingInstant
  dsimp only
  rw [if_neg (by simp [hs, hl, h0, Nat.not_lt.mpr ht]), if_neg]
  simp only [Bool.and_eq_true, List.isEmpty_iff, List.filter_eq_nil_iff, not_and, Bool.not_eq_true]
  intro hall
  rcases hlate with ⟨c, hc, h1, h2⟩ | h
  · have hn := hall c hc
    simp [h1, h2] at hn
  · exact h

theorem State.landingInstant_quiet (g : Nat) (h : (s.run g).stopped = true ∨ s.landSet g = [] ∨ (s.run g).lam = 0 ∨
      s.rot < (s.run g).lam ∨ ((∀ c ∈ s.landSet g, s.landable g c = true ∨ s.doc c = docTrapped) ∧ s.switchReady g = true)) :
    exec (.landingInstant g) s = .next s := by
  rw [show exec (.landingInstant g) s = execLandingInstant g s from rfl]
  unfold execLandingInstant
  dsimp only
  split
  · rfl
  · next hn =>
    simp only [Bool.or_eq_true, List.isEmpty_iff, decide_eq_true_eq, not_or] at hn
    obtain ⟨⟨⟨h1, h2⟩, h3⟩, h4⟩ := hn
    obtain ⟨hall, hsw⟩ := (((h.resolve_left h1).resolve_left h2).resolve_left h3).resolve_left h4
    rw [if_pos]
    simp only [Bool.and_eq_true, List.isEmpty_iff, List.filter_eq_nil_iff]
    refine ⟨fun c hc => ?_, hsw⟩
    rcases hall c hc with h | h <;> simp [h]

/-- A member whose message is overdue at the landing in progress is found (R346). -/
theorem State.deadAt_isSome (g x : Nat) (h : (s.run g).stopped = false ∨ (s.run g).lsAt = some ((s.run g).idx + 1))
    (hf : ∀ f ∈ (s.run g).finals, f.1 = s.pkg → (s.run g).idx + 1 ≤ f.2) (h0 : (s.run g).lam ≠ 0)
    (hx : x ∈ s.awaited g ((s.run g).idx + 1)) (hm : s.hasMsg g ((s.run g).idx + 1) x = false)
    (hj : s.judgeAt g ((s.run g).idx + 1) (s.run g).lam x ≤ s.rot) : ∃ n y, s.deadAt g = some (n, y) := by
  suffices hs : (s.deadAt g).isSome by
    obtain ⟨⟨n, y⟩, e⟩ := Option.isSome_iff_exists.mp hs
    exact ⟨n, y, e⟩
  have hfin : (s.run g).finals.any (fun f => f.1 = s.pkg && decide (f.2 < (s.run g).idx + 1)) = false := by
    rw [List.any_eq_false]
    intro f hmem
    simp only [Bool.and_eq_true, decide_eq_true_eq, not_and, Nat.not_lt]
    exact hf f hmem
  unfold State.deadAt
  simp only [List.findSome?_isSome_iff]
  refine ⟨((s.run g).idx + 1, (s.run g).lam), by simp [GroupRun.judged, h0], ?_⟩
  rw [hfin, if_neg (by rcases h with h | h <;> simp [h])]
  simp only [Option.isSome_map, List.find?_isSome]
  exact ⟨x, hx, by simp [hm, hj]⟩

/-- What an overdue message of the twin does to memory and the DOC pages (R387). -/
theorem State.twinLost_does (g n : Nat) : (s.twinLost g n).mems = s.mems ∧
    ((Halted s (s.twinLost g n) g) ∨ (∀ c, (s.twinLost g n).doc c = s.doc c) ∧ ∀ c, (s.twinLost g n).grpOf c = s.grpOf c) := by
  unfold State.twinLost
  dsimp only
  have ht := s.raise_told pgDev 6 0x16 (if s.flag pgDev Reg.DEV_DET_CTL_TWINLOSS then 1 else 3) (leBytes 1 g ++ leBytes 8 n)
  have hh := s.raise_enterStop pgDev 6 0x16 (if s.flag pgDev Reg.DEV_DET_CTL_TWINLOSS then 1 else 3) (leBytes 1 g ++ leBytes 8 n) g
  generalize s.raise pgDev 6 0x16 _ _ = u at ht hh
  split
  · have hw (c : Nat) : (u.setF pgDev Reg.DEV_DET_STAT_UNCHECKED 1).word (regIdx (pgDoc c) Reg.DOC_STAT_STATE) =
        u.word (regIdx (pgDoc c) Reg.DOC_STAT_STATE) := u.word_setF_ne _ (regIdx_ne_page _ _ (by unfold pgDoc pgDev; omega))
    exact ⟨ht.mems, .inr ⟨fun c => (congrArg (Fld.get _) (hw c)).trans (ht.doc c),
      fun c => (congrArg (Fld.get Reg.DOC_STAT_GRP) (hw c)).trans (ht.grpOf c)⟩⟩
  · exact ⟨hh.mems, .inl hh⟩

/-- A member found dead stops the group (R347). -/
theorem State.dead_stops (g n x : Nat) :
    let u := s.raise pgDev 0 0x10 3 (leBytes 1 g ++ leBytes 8 n ++ leBytes 2 x)
    let t := ((u.setRun g { u.run g with lsAt := none }).sendStopsAt g n).enterStop g
    Halted s t g ∧ (t.getF pgDev Reg.PG_EVT).testBit 0 = true := by
  intro u t
  have hu := s.raise_told pgDev 0 0x10 3 (leBytes 1 g ++ leBytes 8 n ++ leBytes 2 x)
  have he := (s.raise_occurred pgDev 0 0x10 3 (leBytes 1 g ++ leBytes 8 n ++ leBytes 2 x) (by decide)).isSet
  change Told s u at hu
  change (u.getF pgDev Reg.PG_EVT).testBit 0 = true at he
  clear_value u
  obtain ⟨v, hv⟩ : ∃ v, v = u.setRun g { u.run g with lsAt := none } := ⟨_, rfl⟩
  have hvm : v.mems = u.mems := by rw [hv]; rfl
  have hvw (j : Nat) : v.word j = u.word j := by rw [hv]; rfl
  have ht : t = (v.sendStopsAt g n).enterStop g := by rw [hv]
  clear_value t
  have hw := v.sendStopsAt_told g n
  have hz := (v.sendStopsAt g n).enterStop_stopped g
  rw [← ht] at hz
  refine ⟨hz.halted.before (hw.mems.trans (hvm.trans hu.mems))
    (fun c => (hw.doc c).trans ((congrArg (Fld.get _) (hvw _)).trans (hu.doc c)))
    (fun c => (hw.grpOf c).trans ((congrArg (Fld.get _) (hvw _)).trans (hu.grpOf c))), ?_⟩
  have hev : (v.sendStopsAt g n).getF pgDev Reg.PG_EVT = v.getF pgDev Reg.PG_EVT :=
    congrArg (Fld.get _) (v.word_sendStopsAt g n (unsent_regIdx _ _))
  rw [hz.evt, hev, show v.getF pgDev Reg.PG_EVT = u.getF pgDev Reg.PG_EVT from congrArg (Fld.get _) (hvw _)]
  exact he

theorem State.landingDeadline_stops (g n x : Nat) (h : s.deadAt g = some (n, x)) :
    ∃ t, exec (.landingDeadline g) s = .next t ∧ Halted s t g ∧ (t.getF pgDev Reg.PG_EVT).testBit 0 = true := by
  rw [show exec (.landingDeadline g) s = execLandingDeadline g s from rfl]
  unfold execLandingDeadline
  extract_lets dead u
  have hu : u.mems = s.mems ∧ (Halted s u g ∨ (∀ c, u.doc c = s.doc c) ∧ ∀ c, u.grpOf c = s.grpOf c) := by
    unfold u
    split
    · exact s.twinLost_does g _
    · exact ⟨rfl, .inr ⟨fun _ => rfl, fun _ => rfl⟩⟩
  clear_value u
  obtain ⟨hm, hd⟩ := hu
  rw [show dead = some (n, x) from h]
  obtain ⟨h1, h2⟩ := u.dead_stops g n x
  refine ⟨_, rfl, ?_, h2⟩
  rcases hd with hd | ⟨hd, hg⟩
  · exact hd.trans h1
  · exact h1.before hm hd hg

theorem State.landingDeadline_done (g : Nat) (hs : (s.run g).stopped = true) (hl : (s.run g).lsAt = none) :
    exec (.landingDeadline g) s = .next s := by
  rw [show exec (.landingDeadline g) s = execLandingDeadline g s from rfl]
  have hd : s.deadAt g = none := by
    unfold State.deadAt
    simp [List.findSome?_eq_none_iff, hs, hl]
  unfold execLandingDeadline
  simp only [hd, hs, if_true]

/-- Whom a notice or a stop message is taken from: another member or, in LOCKSTEP mode, the twin. -/
theorem State.heeds_iff (g pkg : Nat) : ((s.others g).contains pkg || (s.lockstep && decide (pkg = s.twinPkg))) = true ↔
    pkg ∈ s.others g ∨ s.lockstep = true ∧ pkg = s.twinPkg := by
  simp

theorem State.stopMessage_stops (g idx pkg : Nat) :
    let data := leBytes 1 g ++ leBytes 8 idx ++ leBytes 2 pkg
    let t := (s.raise pgDev 1 0x11 3 data).enterStop g
    Halted s t g ∧ Occurred s t pgDev 1 0x11 3 data := by
  intro data t
  have hz := (s.raise pgDev 1 0x11 3 data).enterStop_stopped g
  exact ⟨s.raise_enterStop _ _ _ _ _ g, (s.raise_occurred _ _ _ _ _ (by decide)).after hz.evt fun e he => by rw [hz.held]; exact he⟩

end

/-- Settles O45: each message and deadline is one state update, a stop of the group or nothing. (That a landed message counts whatever
state its sender's clusters are in, and the judging behind LS_MISMATCH, are the model's choice, log 75.) -/
theorem landingMessages : Obligations.LandingMessages := by
  unfold Obligations.LandingMessages
  refine ⟨fun s m hm hn => s.landedMessageReceive_keeps m hm hn, fun s m h => ?_, fun s g idx pkg hp hn => ?_, fun s g idx pkg h => ?_,
    fun s g hs hl h0 ht hlate => ⟨_, s.landingInstant_sends g hs hl h0 ht hlate, s.sendNotice_does g⟩,
    fun s g h => s.landingInstant_quiet g h, fun s g x => ?_, fun s g hs hl => s.landingDeadline_done g hs hl,
    fun s g idx pkg hs hp => ?_, fun s g idx pkg h => ?_⟩
  · refine if_pos ?_
    rcases h with h | h <;> simp [h]
  · refine ⟨s.setRun g { s.run g with notices := (s.run g).notices ++ [(idx, pkg, s.rot)] }, if_neg ?_, ?_, rfl⟩
    · have hany : (s.run g).notices.any (fun x => x.1 = idx && x.2.1 = pkg) = false := by
        simpa using hn
      rw [hany, (s.heeds_iff g pkg).mpr hp]
      decide
    · rw [State.run_setRun, if_pos rfl]
  · refine if_pos ?_
    rcases h with ⟨x, hx, h1, h2⟩ | h
    · simp only [Bool.or_eq_true, List.any_eq_true]
      exact .inl ⟨x, hx, by simp [h1, h2]⟩
    · rw [Bool.eq_false_iff.mpr (mt (s.heeds_iff g pkg).mp (not_or.mpr h)), Bool.not_false, Bool.or_true]
  · intro n hs hf h0 hx hm hj
    obtain ⟨m, y, hd⟩ := s.deadAt_isSome g x hs hf h0 hx hm hj
    obtain ⟨t, ht, h1, h2⟩ := s.landingDeadline_stops g m y hd
    exact ⟨t, ht, h1.stopped, h2, h1.doc_of_mem, h1.doc_of_not_mem, h1.mems⟩
  · obtain ⟨h1, h2⟩ := s.stopMessage_stops g idx pkg
    refine ⟨_, if_neg ?_, h1.stopped, h1.doc_of_mem, h1.doc_of_not_mem, h1.mems, h2⟩
    rw [hs, (s.heeds_iff g pkg).mpr hp]
    decide
  · refine if_pos ?_
    rcases h with h | h
    · rw [h, Bool.true_or]
    · rw [Bool.eq_false_iff.mpr (mt (s.heeds_iff g pkg).mp (not_or.mpr h)), Bool.not_false, Bool.or_true]

end Sys2Proof.Machine
end

section
/-! PROOFS of the statements on timed launch (spec/08_timed_launch.md), fourth part: context saves and the twin (R353, R383 to
R388). -/
namespace Sys2Proof.Machine

/-! ### Words that no report of a memory error writes, across a store -/

section
variable {j : Nat} (hj : QuietWord j)
include hj

theorem QuietWord.writeWord (s : State) (a : Nat) (bs : List Byte) (i : Nat) : (s.writeWord a bs i).word j = s.word j := by
  unfold State.writeWord
  extract_lets w cw p io merged
  have hi : CapturePage (instPage io.1) := capturePage_instOf s.part cw
  split
  · exact hj.foundUE s hi _ _
  · change (if (decide (s.errAt cw = 1) && merged) = true then s.foundCE io.1 else s).word j = s.word j
    split
    · exact hj.foundCE s hi
    · rfl

theorem QuietWord.writeBytes (s : State) (slot a : Nat) (bs : List Byte) : (s.writeBytes slot a bs).word j = s.word j := by
  have h0 : (if bs.isEmpty then s else s.tagPages slot a bs.length).word j = s.word j := by
    split
    · rfl
    · exact State.word_congr (congrArg (fun t : State => t.regs) (s.tagPages_sans slot a bs.length) :)
        (congrArg (fun t : State => t.part) (s.tagPages_sans slot a bs.length) :) j
  unfold State.writeBytes
  extract_lets u
  split
  · exact h0
  · exact (foldl_keeps (State.word · j) _ (fun t i => hj.writeWord t a bs i) _ u).trans h0

end

section
variable (s : State)

theorem State.clu_congr {s t : State} (h : t.sched = s.sched) (c : Nat) : t.clu c = s.clu c := by
  unfold State.clu State.clusters
  rw [h]

theorem State.run_congr {s t : State} (h : t.sched = s.sched) (g : Nat) : t.run g = s.run g := by
  unfold State.run State.runs
  rw [h]

theorem State.am_of_mems {s t : State} (h : t.mems = s.mems) : t.am = s.am := congrArg Mems.am h

/-! ### Context saves (R353, R355) -/

/-- The bytes of a saved context, which the spec leaves free. -/
def ctxImage (v n : Nat) : List Byte := (List.range n).map (fun i => BitVec.ofNat 8 (Config.freeDraw (v * 2 ^ 32 + i)))

theorem ctxImage_length (v n : Nat) : (ctxImage v n).length = n := by simp [ctxImage]

/-- The save area of a cluster is written, as far as it lies in memory. -/
def State.storeCtx (c n : Nat) : State :=
  let u : State := { s with draw := s.draw + 1 }
  if u.rangeOk (u.ctxAddr c) n then u.writeBytes 0 (u.ctxAddr c) (ctxImage (Config.free s.draw) n) else u

/-- What a cluster shows once its context is stored. -/
def State.ctxSaved (c : Nat) (x : Ctx) (bad : List Nat) : State :=
  ((s.setClu c { s.clu c with saveInvalid := !bad.isEmpty }).setDoc c docSaved).raise (pgDoc c) 3 0x04 (if bad.isEmpty then 0 else 2)
    (leBytes 1 x.grp ++ leBytes 8 x.idx ++ leBytes 1 bad.isEmpty.toNat)

theorem State.contextSave_eq (c : Nat) (x : Ctx) (hx : (s.clu c).saved = some x) (hd : s.doc c = docWindow) :
    exec (.contextSaveComplete c) s = .next
      ((((s.tilesUe c).foldl (fun s off => s.foundUE (2 * 4096 + c) off 8) s).storeCtx c (ctxBytes x.tiles)).ctxSaved c x (s.tilesUe c)) := by
  rw [show exec (.contextSaveComplete c) s = execContextSaveComplete c s from rfl]
  unfold execContextSaveComplete
  rw [hx]
  dsimp only
  rw [if_neg (not_not.mpr hd)]
  rfl

theorem State.storeCtx_keeps (c n : Nat) : (s.storeCtx c n).sansMem = { s.sansMem with draw := s.draw + 1 } ∧
    (∀ j, QuietWord j → (s.storeCtx c n).word j = s.word j) ∧ BytesKept s (s.storeCtx c n) (s.ctxAddr c) (s.ctxAddr c + n) := by
  unfold State.storeCtx
  extract_lets u
  have hc : u.ctxAddr c = s.ctxAddr c := rfl
  have hm : u.sansMem = { s.sansMem with draw := s.draw + 1 } := rfl
  have hw (j : Nat) : u.word j = s.word j := rfl
  have hb (a : Nat) : u.byteAt a = s.byteAt a := rfl
  clear_value u
  rw [hc]
  split
  · refine ⟨(u.writeBytes_sans 0 _ _).trans hm, fun j hj => (hj.writeBytes u 0 _ _).trans (hw j), fun a ha => ?_⟩
    exact (u.byteAt_writeBytes_out 0 _ _ (by rw [ctxImage_length]; exact ha)).trans (hb a)
  · exact ⟨hm, fun j _ => hw j, fun a _ => hb a⟩

/-- What such a store leaves, by part. -/
theorem State.parts_of_sansMem {s t : State} {d : Nat} (h : t.sansMem = { s.sansMem with draw := d }) :
    t.sched = s.sched ∧ t.am = s.am ∧ t.cur = s.cur :=
  ⟨(congrArg (fun x : State => x.sched) h :), (congrArg (fun x : State => x.mems.am) h :), (congrArg (fun x : State => x.brd.cur) h :)⟩

/-- What the last step of a save shows: SAVED, the mark of the save, and the event. -/
theorem State.ctxSaved_does (c : Nat) (x : Ctx) (bad : List Nat) : (s.ctxSaved c x bad).doc c = docSaved ∧
    (s.ctxSaved c x bad).mems = s.mems ∧
    (∀ c', (s.ctxSaved c x bad).clu c' = if c' = c then { s.clu c with saveInvalid := !bad.isEmpty } else s.clu c') ∧
    Occurred s (s.ctxSaved c x bad) (pgDoc c) 3 0x04 (if bad.isEmpty then 0 else 2)
      (leBytes 1 x.grp ++ leBytes 8 x.idx ++ leBytes 1 bad.isEmpty.toNat) := by
  unfold State.ctxSaved
  obtain ⟨k, hk⟩ : ∃ k, k = ({ s.clu c with saveInvalid := !bad.isEmpty } : Cluster) := ⟨_, rfl⟩
  rw [← hk]
  have hclu (c' : Nat) : ((s.setClu c k).setDoc c docSaved).clu c' = if c' = c then k else s.clu c' :=
    (State.clu_setDoc _ _ _ _).trans (s.clu_setClu c c' k)
  have hmem : ((s.setClu c k).setDoc c docSaved).mems = s.mems := rfl
  have hdoc : ((s.setClu c k).setDoc c docSaved).doc c = docSaved := State.doc_setDoc _ _ _
  have hget (f : Fld) (h : Reg.DOC_STAT_STATE.off / 4 ≠ f.off / 4) (hf : f.off < 4096) :
      ((s.setClu c k).setDoc c docSaved).getF (pgDoc c) f = s.getF (pgDoc c) f :=
    congrArg (Fld.get f) (((s.setClu c k).word_setF_ne docSaved (regIdx_ne_off _ _ Reg.DOC_STAT_STATE f h (by decide) hf)).trans rfl)
  have hcur : ((s.setClu c k).setDoc c docSaved).cur = s.cur := rfl
  generalize (s.setClu c k).setDoc c docSaved = u at hclu hmem hdoc hget hcur ⊢
  have ht := u.raise_told (pgDoc c) 3 0x04 (if bad.isEmpty then 0 else 2) (leBytes 1 x.grp ++ leBytes 8 x.idx ++ leBytes 1 bad.isEmpty.toNat)
  refine ⟨(ht.doc c).trans hdoc, ht.mems.trans hmem, fun c' => ?_, (u.raise_occurred _ _ _ _ _ (by decide)).before
    (hget _ (by decide) (by decide)) (hget _ (by decide) (by decide)) ?_ (by rw [hcur])⟩
  · unfold State.clu
    rw [ht.clusters]
    exact hclu c'
  · unfold State.flag
    rw [hget _ (by decide) (by decide)]

/-- The state in which a context is stored: the errors of its tiles are reported. -/
theorem State.foundUEs_keep (inst cause : Nat) (l : List Nat) :
    (l.foldl (fun s off => s.foundUE inst off cause) s).sched = s.sched ∧
      (l.foldl (fun s off => s.foundUE inst off cause) s).mems = s.mems :=
  ⟨foldl_keeps State.sched _ (fun t _ => t.foundUE_sched _ _ _) l s, foldl_keeps State.mems _ (fun t _ => t.foundUE_mems _ _ _) l s⟩

/-- A context stored in state u, and what the cluster then shows. -/
theorem State.ctxStored_does (u : State) (c n : Nat) (x : Ctx) (bad : List Nat) (hx : (u.clu c).saved = some x) :
    let t := (u.storeCtx c n).ctxSaved c x bad
    (t.clu c).saved = some x ∧ t.am = u.am ∧ t.doc c = docSaved ∧ (t.clu c).saveInvalid = !bad.isEmpty ∧
      BytesKept u t (u.ctxAddr c) (u.ctxAddr c + n) ∧ (∀ c', c' ≠ c → t.clu c' = u.clu c') ∧
      Occurred u t (pgDoc c) 3 0x04 (if bad.isEmpty then 0 else 2) (leBytes 1 x.grp ++ leBytes 8 x.idx ++ leBytes 1 bad.isEmpty.toNat) := by
  obtain ⟨hv, hw, hb⟩ := u.storeCtx_keeps c n
  intro t
  obtain ⟨v, hvt⟩ : ∃ v, v = u.storeCtx c n := ⟨_, rfl⟩
  rw [← hvt] at hv hw hb
  have ht : t = v.ctxSaved c x bad := by rw [hvt]
  clear_value t
  obtain ⟨hvs, hva, hvb⟩ := State.parts_of_sansMem hv
  obtain ⟨h1, h2, h3, h4⟩ := v.ctxSaved_does c x bad
  rw [← ht] at h1 h2 h3 h4
  have hclu (c' : Nat) : v.clu c' = u.clu c' := State.clu_congr hvs c'
  refine ⟨by rw [h3, if_pos rfl, hclu]; exact hx, (State.am_of_mems h2).trans hva, h1, by rw [h3, if_pos rfl], fun a ha => ?_,
    fun c' hc' => by rw [h3, if_neg hc', hclu], h4.before ?_ ?_ ?_ (by rw [hvb])⟩
  · exact (State.byteAt_congr (congrArg Mems.mem h2) a).trans (hb a ha)
  · exact congrArg (Fld.get _) (hw _ (quietWord_pgDoc c _))
  · exact congrArg (Fld.get _) (hw _ (quietWord_pgDoc c _))
  · exact congrArg (fun w => decide (Fld.get Reg.PG_CTL_EN w ≠ 0)) (hw _ (quietWord_pgDoc c Reg.PG_CTL_EN))

theorem State.contextSave_does (c : Nat) (x : Ctx) (hx : (s.clu c).saved = some x) (hd : s.doc c = docWindow) :
    ∃ t, exec (.contextSaveComplete c) s = .next t ∧ (t.clu c).saved = some x ∧ t.am = s.am ∧
      (s.tilesUe c = [] → t.doc c = docSaved ∧ (t.clu c).saveInvalid = false ∧
        BytesKept s t (s.ctxAddr c) (s.ctxAddr c + ctxBytes x.tiles) ∧
        Occurred s t (pgDoc c) 3 0x04 0 (leBytes 1 x.grp ++ leBytes 8 x.idx ++ leBytes 1 1) ∧
        ∀ c', c' ≠ c → t.clu c' = s.clu c') ∧
      (s.tilesUe c ≠ [] → t.doc c = docSaved ∧ (t.clu c).saveInvalid = true ∧ (t.getF (pgDoc c) Reg.PG_EVT).testBit 3 = true) := by
  have he := s.contextSave_eq c x hx hd
  generalize s.tilesUe c = bad at he ⊢
  obtain ⟨hs, hm⟩ := s.foundUEs_keep (2 * 4096 + c) 8 bad
  obtain ⟨u, hu⟩ : ∃ u, u = bad.foldl (fun s off => s.foundUE (2 * 4096 + c) off 8) s := ⟨_, rfl⟩
  rw [← hu] at he hs hm
  obtain ⟨h1, h2, h3, h4, h5, h6, h7⟩ := u.ctxStored_does c (ctxBytes x.tiles) x bad (by rw [State.clu_congr hs]; exact hx)
  refine ⟨_, he, h1, h2.trans (State.am_of_mems hm), fun h0 => ?_, fun h0 => ⟨h3, ?_, h7.isSet⟩⟩
  · subst h0
    rw [List.foldl_nil] at hu
    subst hu
    exact ⟨h3, h4, h5, h7, h6⟩
  · rw [h4]
    cases bad with
    | nil => exact absurd rfl h0
    | cons _ _ => rfl

/-! ### The twin (R383 to R388) -/

/-- The provenance is read in registers that no counter holds. -/
theorem State.provenance_congr {s t : State} (hs : t.sansRegs = s.sansRegs)
    (hg : ∀ pg f, f.off < 0xF00 → t.getF pg f = s.getF pg f) : t.provenance = s.provenance := by
  have hp : t.part = s.part := (congrArg (fun x : State => x.part) hs :)
  have hq : t.plat = s.plat := (congrArg (fun x : State => x.plat) hs :)
  unfold State.provenance State.flag State.pkg State.full State.throtCount
  simp (disch := decide) only [hp, hq, hg]

theorem State.bFields_congr {s t : State} (hs : t.sansRegs = s.sansRegs)
    (hg : ∀ pg f, f.off < 0xF00 → t.getF pg f = s.getF pg f) : t.bFields = s.bFields := by
  unfold State.bFields
  rw [State.provenance_congr hs hg]

theorem State.setF_pgDev_told (f : Fld) (v : Nat) (hf : f.off < 4096) : Told s (s.setF pgDev f v) :=
  ⟨s.setF_mems _ _ _, s.setF_sched _ _ _, fun c => s.word_setF_ne _ (regIdx_ne_page _ _ (by unfold pgDoc pgDev; omega) hf)⟩

theorem State.lsWrite_told (g n clu : Nat) (prov log : Bool) : Told s (s.lsWrite g n clu prov log) :=
  ((((((s.setF_pgDev_told _ _ (by decide)).trans (State.setF_pgDev_told _ _ _ (by decide))).trans
    (State.setF_pgDev_told _ _ _ (by decide))).trans (State.setF_pgDev_told _ _ _ (by decide))).trans
    (State.setF_pgDev_told _ _ _ (by decide))).trans (State.setF_pgDev_told _ _ _ (by decide))).trans
    (State.setF_pgDev_told _ _ _ (by decide))

theorem State.lsCapture_told (g n clu : Nat) (prov log : Bool) : Told s (s.lsCapture g n clu prov log) := by
  unfold State.lsCapture
  split
  · exact ⟨rfl, rfl, fun _ => rfl⟩
  · exact s.lsWrite_told _ _ _ _ _

theorem State.sendClusterSigs_keeps (g n : Nat) : Told s (s.sendClusterSigs g n) ∧
    ∀ j, Unsent j → (s.sendClusterSigs g n).word j = s.word j := by
  unfold State.sendClusterSigs
  extract_lets l h bs
  exact ⟨foldl_inv (Told s ·) _ (fun t i ht => ht.trans (t.sendChunk_told _ 3 0 _)) _ s ⟨rfl, rfl, fun _ => rfl⟩,
    fun j hj => foldl_keeps (State.word · j) _ (fun t i => t.word_sendChunk _ 3 0 _ hj) _ s⟩

/-- A landing is compared with the twin's message (R383). -/
def State.twinCompared (g n : Nat) : State := (s.setRun g { s.run g with checked := n }).count pgDev Reg.DEV_CNT_LSCMP 1

theorem State.twinCompared_does (g n : Nat) : (s.twinCompared g n).mems = s.mems ∧ (s.twinCompared g n).clusters = s.clusters ∧
    (s.twinCompared g n).run g = { s.run g with checked := n } ∧ (∀ c, (s.twinCompared g n).doc c = s.doc c) ∧
    (∀ c, (s.twinCompared g n).grpOf c = s.grpOf c) ∧ (s.twinCompared g n).bFields = s.bFields ∧
    Counted s (s.twinCompared g n) pgDev Reg.DEV_CNT_LSCMP 1 := by
  unfold State.twinCompared
  obtain ⟨u, hu⟩ : ∃ u, u = s.setRun g { s.run g with checked := n } := ⟨_, rfl⟩
  have hword (pg : Nat) (f : Fld) (hf : f.off < 0xF00) : (u.count pgDev Reg.DEV_CNT_LSCMP 1).word (regIdx pg f) = u.word (regIdx pg f) :=
    (uncounted_regIdx pg f hf).count u _ _ _
  have hw (j : Nat) : u.word j = s.word j := by rw [hu]; rfl
  have hrun : u.run g = { s.run g with checked := n } := by rw [hu, State.run_setRun, if_pos rfl]
  have hb : u.bFields = s.bFields := by rw [hu]; rfl
  have hm : u.mems = s.mems := by rw [hu]; rfl
  have hc : u.clusters = s.clusters := by rw [hu]; rfl
  rw [← hu]
  refine ⟨(u.count_mems _ _ _).trans hm, (congrArg (fun x : Sched => x.clusters) (u.count_sched _ _ _)).trans hc, ?_, fun c => ?_,
    fun c => ?_, (State.bFields_congr (u.count_sans _ _ _) fun pg f hf => congrArg (Fld.get f) (hword pg f hf)).trans hb, ?_⟩
  · exact (State.run_congr (u.count_sched _ _ _) g).trans hrun
  · exact (congrArg (Fld.get _) (hword _ _ (by decide))).trans (congrArg (Fld.get _) (hw _))
  · exact (congrArg (Fld.get _) (hword _ _ (by decide))).trans (congrArg (Fld.get _) (hw _))
  · exact (u.counted_count pgDev Reg.DEV_CNT_LSCMP 1).congr (congrArg (Fld.get _) (hw _)) (State.counting_congr (hw _)) rfl

/-- The fields of the provenance differ: the capture, LS_PROV and the stop (R384). -/
def State.twinProv (g n : Nat) : State :=
  ((s.lsCapture g n 0 true false).raise pgDev 5 0x15 3 (s.lsCapture g n 0 true false).lsData).enterStop g

/-- The signatures differ: LS_MISMATCH, the stop, and the cluster signatures are sent (R384, R385). -/
def State.twinDiffers (g n : Nat) : State :=
  let s := (s.raise pgDev 4 0x14 3 s.lsData).enterStop g
  (s.setRun g { s.run g with mismatch := true, lsAt := some n }).sendClusterSigs g n

theorem State.twinProv_does (g n : Nat) : Halted s (s.twinProv g n) g ∧
    ((s.twinProv g n).run g).unstopped = (s.run g).unstopped ∧ ((s.twinProv g n).getF pgDev Reg.PG_EVT).testBit 5 = true := by
  unfold State.twinProv
  have hu := s.lsCapture_told g n 0 true false
  generalize s.lsCapture g n 0 true false = u at hu
  have hz := (u.raise pgDev 5 0x15 3 u.lsData).enterStop_stopped g
  refine ⟨(u.raise_enterStop _ _ _ _ _ g).before hu.mems hu.doc hu.grpOf, (u.raise_enterStop_run _ _ _ _ _ g).trans ?_, ?_⟩
  · rw [hu.run]
  · rw [hz.evt]
    exact (u.raise_occurred _ _ _ _ _ (by decide)).isSet

theorem State.twinDiffers_does (g n : Nat) : Halted s (s.twinDiffers g n) g ∧
    (∃ r : GroupRun, r.unstopped = (s.run g).unstopped ∧
      (s.twinDiffers g n).run g = { r with mismatch := true, lsAt := some n }) ∧
    ((s.twinDiffers g n).getF pgDev Reg.PG_EVT).testBit 4 = true := by
  unfold State.twinDiffers
  extract_lets u
  have hu : Halted s u g := s.raise_enterStop _ _ _ _ _ g
  have hr : (u.run g).unstopped = (s.run g).unstopped := s.raise_enterStop_run _ _ _ _ _ g
  have he : (u.getF pgDev Reg.PG_EVT).testBit 4 = true := by
    rw [show u.getF pgDev Reg.PG_EVT = _ from ((s.raise pgDev 4 0x14 3 s.lsData).enterStop_stopped g).evt]
    exact (s.raise_occurred pgDev 4 0x14 3 s.lsData (by decide)).isSet
  clear_value u
  obtain ⟨v, hv⟩ : ∃ v, v = u.setRun g { u.run g with mismatch := true, lsAt := some n } := ⟨_, rfl⟩
  have hvr : v.run g = { u.run g with mismatch := true, lsAt := some n } := by rw [hv, State.run_setRun, if_pos rfl]
  have hvw (j : Nat) : v.word j = u.word j := by rw [hv]; rfl
  have hvm : v.mems = u.mems := by rw [hv]; rfl
  obtain ⟨ht, hw⟩ := v.sendClusterSigs_keeps g n
  rw [← hv]
  refine ⟨Halted.after ⟨hvm.trans hu.mems, by rw [hvr]; exact hu.stopped, fun c => ?_, fun c => ?_⟩ ht, ⟨u.run g, hr, (ht.run g).trans hvr⟩, ?_⟩
  · exact (congrArg (Fld.get _) (hvw _)).trans (hu.doc c)
  · exact (congrArg (Fld.get _) (hvw _)).trans (hu.grpOf c)
  · rw [show (v.sendClusterSigs g n).getF pgDev Reg.PG_EVT = u.getF pgDev Reg.PG_EVT from
      congrArg (Fld.get _) ((hw _ (unsent_regIdx _ _)).trans (hvw _))]
    exact he

/-- Whether the twin's message shows other fields of the provenance. -/
def State.provDiffers (m : TwinMsg) : Bool := match m.bfields with | some b => decide (b ≠ s.bFields) | none => false

theorem State.provDiffers_congr {s t : State} (h : t.bFields = s.bFields) (m : TwinMsg) : t.provDiffers m = s.provDiffers m := by
  unfold State.provDiffers
  rw [h]

/-- What the comparison with a message of the twin that is there does (R383, R384). -/
theorem State.compareTwin_eq (g n : Nat) (own : Nat × BitVec 64) (m : TwinMsg)
    (ho : (s.run g).sigs.find? (fun p => p.1 = n) = some own) (hm : (s.run g).twin.find? (fun m => m.idx = n) = some m) :
    s.compareTwin g n =
      if n ≤ (s.run g).checked || s.flag pgDev Reg.DEV_DET_STAT_UNCHECKED then s
      else if s.provDiffers m then (s.twinCompared g n).twinProv g n
      else if own.2 ≠ m.sig then (s.twinCompared g n).twinDiffers g n
      else s.twinCompared g n := by
  rw [← State.provDiffers_congr (s.twinCompared_does g n).2.2.2.2.2.1]
  unfold State.compareTwin
  extract_lets r
  rw [show r.sigs.find? (fun (p : Nat × BitVec 64) => p.1 = n) = some own from ho, show r.twin.find? (fun m => m.idx = n) = some m from hm]
  rfl

theorem State.compareTwin_none (g n : Nat) (ho : (s.run g).sigs.find? (fun p => p.1 = n) = none) : s.compareTwin g n = s := by
  unfold State.compareTwin
  extract_lets r
  rw [show r.sigs.find? (fun (p : Nat × BitVec 64) => p.1 = n) = none from ho]

/-- The stop that a comparison brings, seen from before it. -/
theorem Halted.of_twinCompared {s t : State} {g n : Nat} (h : Halted (s.twinCompared g n) t g) : Halted s t g := by
  obtain ⟨hm, -, -, hd, hg, -, -⟩ := s.twinCompared_does g n
  exact h.before hm hd hg

theorem State.twinCompared_unstopped (g n : Nat) :
    ((s.twinCompared g n).run g).unstopped = ({ s.run g with checked := n } : GroupRun).unstopped :=
  congrArg GroupRun.unstopped (s.twinCompared_does g n).2.2.1

/-- A run that a stop or a mark of the mismatch changes keeps the landing compared and the twin's messages. -/
theorem GroupRun.compared_of_unstopped {r r₀ : GroupRun} {n : Nat} (h : r.unstopped = ({ r₀ with checked := n } : GroupRun).unstopped) :
    r.checked = n ∧ r.twin = r₀.twin := ⟨(congrArg GroupRun.checked h :), (congrArg GroupRun.twin h :)⟩

theorem GroupRun.compared_of_marked {r r' r₀ : GroupRun} {n k : Nat} (h : r.unstopped = ({ r₀ with checked := n } : GroupRun).unstopped)
    (h' : r' = { r with mismatch := true, lsAt := some k }) : r'.checked = n ∧ r'.twin = r₀.twin ∧ r'.mismatch = true := by
  subst h'
  obtain ⟨h1, h2⟩ := GroupRun.compared_of_unstopped h
  exact ⟨h1, h2, rfl⟩

/-- What a comparison that finds other provenance fields does. -/
theorem State.twinProv_compared (g n : Nat) :
    let t := (s.twinCompared g n).twinProv g n
    Halted s t g ∧ (t.run g).checked = n ∧ (t.run g).twin = (s.run g).twin ∧ (t.getF pgDev Reg.PG_EVT).testBit 5 = true := by
  obtain ⟨h1, h2, h3⟩ := (s.twinCompared g n).twinProv_does g n
  have hr := h2.trans (s.twinCompared_unstopped g n)
  obtain ⟨hc, ht⟩ := GroupRun.compared_of_unstopped hr
  exact ⟨Halted.of_twinCompared h1, hc, ht, h3⟩

/-- What a comparison that finds another signature does. -/
theorem State.twinDiffers_compared (g n : Nat) :
    let t := (s.twinCompared g n).twinDiffers g n
    Halted s t g ∧ (t.run g).checked = n ∧ (t.run g).twin = (s.run g).twin ∧ (t.run g).mismatch = true ∧
      (t.getF pgDev Reg.PG_EVT).testBit 4 = true := by
  obtain ⟨h1, ⟨r, h2, h3⟩, h4⟩ := (s.twinCompared g n).twinDiffers_does g n
  have hr := h2.trans (s.twinCompared_unstopped g n)
  obtain ⟨hc, ht, hm⟩ := GroupRun.compared_of_marked hr h3
  exact ⟨Halted.of_twinCompared h1, hc, ht, hm, h4⟩

theorem State.compareTwin_keeps (g n : Nat) (m : TwinMsg) (hm : (s.run g).twin.find? (fun m => m.idx = n) = some m) :
    (s.compareTwin g n).mems = s.mems ∧ ((s.compareTwin g n).run g).twin = (s.run g).twin := by
  cases ho : (s.run g).sigs.find? (fun p => p.1 = n) with
  | none =>
    rw [s.compareTwin_none g n ho]
    exact ⟨rfl, rfl⟩
  | some own =>
    rw [s.compareTwin_eq g n own m ho hm]
    split_ifs
    · exact ⟨rfl, rfl⟩
    · obtain ⟨h1, -, h2, -⟩ := s.twinProv_compared g n
      exact ⟨h1.mems, h2⟩
    · obtain ⟨h1, -, h2, -⟩ := s.twinDiffers_compared g n
      exact ⟨h1.mems, h2⟩
    · obtain ⟨h1, -, h2, -⟩ := s.twinCompared_does g n
      exact ⟨h1, by rw [h2]⟩

theorem State.compareTwin_unchecked (g n : Nat) (m : TwinMsg) (hm : (s.run g).twin.find? (fun m => m.idx = n) = some m)
    (hu : s.flag pgDev Reg.DEV_DET_STAT_UNCHECKED = true) : s.compareTwin g n = s := by
  cases ho : (s.run g).sigs.find? (fun p => p.1 = n) with
  | none => exact s.compareTwin_none g n ho
  | some own => rw [s.compareTwin_eq g n own m ho hm, hu, Bool.or_true, if_pos rfl]

theorem State.compareTwin_checks (g n : Nat) (own : Nat × BitVec 64) (m : TwinMsg)
    (ho : (s.run g).sigs.find? (fun p => p.1 = n) = some own) (hm : (s.run g).twin.find? (fun m => m.idx = n) = some m)
    (hn : (s.run g).checked < n) (hu : s.flag pgDev Reg.DEV_DET_STAT_UNCHECKED = false) :
    s.compareTwin g n = if s.provDiffers m then (s.twinCompared g n).twinProv g n
      else if own.2 ≠ m.sig then (s.twinCompared g n).twinDiffers g n
      else s.twinCompared g n := by
  rw [s.compareTwin_eq g n own m ho hm, hu, Bool.or_false, if_neg (by simpa using hn)]

theorem State.provDiffers_of_eq {m : TwinMsg} (h : ∀ b, m.bfields = some b → b = s.bFields) : s.provDiffers m = false := by
  unfold State.provDiffers
  split
  · next b hb => simp [h b hb]
  · rfl

theorem State.provDiffers_of_ne {m : TwinMsg} {b : List Nat} (hb : m.bfields = some b) (h : b ≠ s.bFields) : s.provDiffers m = true := by
  unfold State.provDiffers
  rw [hb]
  exact decide_eq_true h

/-- The state in which a message of the twin has been kept. -/
def State.twinKept (m : TwinMsg) : State := s.setRun m.grp { s.run m.grp with twin := (s.run m.grp).twin ++ [m] }

theorem State.twinKept_does (m : TwinMsg) (hn : ∀ x ∈ (s.run m.grp).twin, x.idx ≠ m.idx) :
    (s.twinKept m).run m.grp = { s.run m.grp with twin := (s.run m.grp).twin ++ [m] } ∧
      ((s.twinKept m).run m.grp).twin.find? (fun x => x.idx = m.idx) = some m ∧ (s.twinKept m).mems = s.mems ∧
      (s.twinKept m).clusters = s.clusters ∧ (∀ j, (s.twinKept m).word j = s.word j) ∧ (s.twinKept m).bFields = s.bFields ∧
      s.twinKept m = { s with sched.runs := (s.twinKept m).runs } := by
  have hr : (s.twinKept m).run m.grp = { s.run m.grp with twin := (s.run m.grp).twin ++ [m] } := by
    unfold State.twinKept
    rw [State.run_setRun, if_pos rfl]
  refine ⟨hr, ?_, rfl, rfl, fun _ => rfl, rfl, rfl⟩
  rw [hr, List.find?_append, List.find?_eq_none.mpr (by simpa using hn)]
  simp

theorem State.twinMessage_eq (m : TwinMsg) (hl : s.lockstep = true) (hn : ∀ x ∈ (s.run m.grp).twin, x.idx ≠ m.idx) :
    exec (.twinMessageReceive m) s = .next ((s.twinKept m).compareTwin m.grp m.idx) := by
  have hany : (s.run m.grp).twin.any (fun x => x.idx = m.idx) = false := by simpa using hn
  exact if_neg (by rw [hl, hany]; decide)

theorem State.twinMessage_does (m : TwinMsg) (hl : s.lockstep = true) (hn : ∀ x ∈ (s.run m.grp).twin, x.idx ≠ m.idx) :
    ∃ t, exec (.twinMessageReceive m) s = .next t ∧ m ∈ (t.run m.grp).twin ∧ t.mems = s.mems ∧
      (s.flag pgDev Reg.DEV_DET_STAT_UNCHECKED = true → t = { s with sched.runs := t.runs }) ∧
      (∀ own, (s.run m.grp).sigs.find? (fun p => p.1 = m.idx) = some own → s.flag pgDev Reg.DEV_DET_STAT_UNCHECKED = false →
        (s.run m.grp).checked < m.idx →
        (t.run m.grp).checked = m.idx ∧
        (own.2 ≠ m.sig → (∀ b, m.bfields = some b → b = s.bFields) →
          (t.run m.grp).stopped = true ∧ (t.run m.grp).mismatch = true ∧ (t.getF pgDev Reg.PG_EVT).testBit 4 = true ∧
          ∀ c ∈ s.stoppable m.grp, t.doc c = docStopped) ∧
        (∀ b, m.bfields = some b → b ≠ s.bFields →
          (t.run m.grp).stopped = true ∧ (t.getF pgDev Reg.PG_EVT).testBit 5 = true ∧ ∀ c ∈ s.stoppable m.grp, t.doc c = docStopped) ∧
        (own.2 = m.sig → (∀ b, m.bfields = some b → b = s.bFields) →
          (t.run m.grp).stopped = (s.run m.grp).stopped ∧ t.clusters = s.clusters ∧
            Counted s t pgDev Reg.DEV_CNT_LSCMP 1)) := by
  refine ⟨_, s.twinMessage_eq m hl hn, ?_⟩
  obtain ⟨hr, hf, hm, hc, hw, hb, hframe⟩ := s.twinKept_does m hn
  generalize s.twinKept m = v at hr hf hm hc hw hb hframe ⊢
  have hflag : v.flag pgDev Reg.DEV_DET_STAT_UNCHECKED = s.flag pgDev Reg.DEV_DET_STAT_UNCHECKED := by
    unfold State.flag State.getF
    rw [hw]
  have hback {t : State} (h : Halted v t m.grp) : Halted s t m.grp :=
    h.before hm (fun _ => congrArg (Fld.get _) (hw _)) (fun _ => congrArg (Fld.get _) (hw _))
  obtain ⟨hkm, hkt⟩ := v.compareTwin_keeps m.grp m.idx m hf
  refine ⟨by rw [hkt, hr]; simp, hkm.trans hm, fun hu => ?_, fun own ho hu hlt => ?_⟩
  · rw [v.compareTwin_unchecked m.grp m.idx m hf (hflag.trans hu)]
    exact hframe
  · have he := v.compareTwin_checks m.grp m.idx own m (by rw [hr]; exact ho) hf (by rw [hr]; exact hlt) (hflag.trans hu)
    obtain ⟨p1, p2, -, p3⟩ := v.twinProv_compared m.grp m.idx
    obtain ⟨d1, d2, -, d3, d4⟩ := v.twinDiffers_compared m.grp m.idx
    obtain ⟨-, c1, c2, -, -, -, c3⟩ := v.twinCompared_does m.grp m.idx
    rw [he]
    refine ⟨?_, fun hs hb' => ?_, fun b hb1 hb2 => ?_, fun hs hb' => ?_⟩
    · split_ifs
      · exact p2
      · exact d2
      · exact congrArg GroupRun.checked c2
    · rw [v.provDiffers_of_eq (by rw [hb]; exact hb'), if_neg Bool.false_ne_true, if_pos hs]
      exact ⟨d1.stopped, d3, d4, (hback d1).doc_of_mem⟩
    · rw [v.provDiffers_of_ne hb1 (by rw [hb]; exact hb2), if_pos rfl]
      exact ⟨p1.stopped, p3, (hback p1).doc_of_mem⟩
    · rw [v.provDiffers_of_eq (by rw [hb]; exact hb'), if_neg Bool.false_ne_true, if_neg (not_not.mpr hs)]
      refine ⟨(congrArg GroupRun.stopped c2).trans ?_, c1.trans hc, c3.congr (congrArg (Fld.get _) (hw _)) (State.counting_congr (hw _)) rfl⟩
      rw [hr]

/-! ### The cluster signatures (R385, R396) -/

/-- The signature of a cluster in a list of them. -/
def sigIn (l : List (Nat × BitVec 64)) (c : Nat) : Option (BitVec 64) := (l.find? (fun p => p.1 = c)).map (·.2)

theorem State.clusterSignatures_eq (g idx : Nat) (own sigs : List (Nat × BitVec 64)) (c : Nat) (hc : c < 512)
    (hm : (s.run g).mismatch = true) (hi : (s.run g).checked = idx)
    (ho : (s.run g).cluSigs.find? (fun p => p.1 = idx) = some (idx, own)) (hd : sigIn own c ≠ sigIn sigs c)
    (hf : ∀ c', c' < c → sigIn own c' = sigIn sigs c') :
    exec (.clusterSignatureExchange g idx sigs) s =
      .next ((s.lsCapture g idx c false false).setRun g { s.run g with mismatch := false }) := by
  have hfind : (List.range 512).find? (fun c => decide (sigIn own c ≠ sigIn sigs c)) = some c := by
    rw [List.find?_range_eq_some]
    exact ⟨decide_eq_true hd, List.mem_range.mpr hc, fun j hj => by simp [hf j hj]⟩
  rw [show exec (.clusterSignatureExchange g idx sigs) s = execClusterSignatureExchange g idx sigs s from rfl]
  unfold execClusterSignatureExchange
  extract_lets r own' sig
  have hown : own' = own := by
    unfold own'
    rw [show r.cluSigs.find? (fun (p : Nat × List (Nat × BitVec 64)) => p.1 = idx) = some (idx, own) from ho]
    rfl
  rw [hown, show (List.range 512).find? (fun c => decide (sig own c ≠ sig sigs c)) = some c from hfind]
  exact if_pos (by rw [show r.mismatch = true from hm, show r.checked = idx from hi]; simp)

theorem State.lsWrite_does (g n c : Nat) (hc : c < 512) : let t := s.lsWrite g n c false false
    t.lsPend = s.lsPend ∧ t.flag pgDev Reg.DEV_LS_FAIL_VALID = true ∧ t.getF pgDev Reg.DEV_LS_FAIL_CLU = c ∧
      t.getF pgDev Reg.DEV_LS_FAIL_GRP = g % 2 ^ 8 ∧ t.getF pgDev Reg.DEV_LS_IDX_LO_IDX = n % 2 ^ 32 ∧
      ∀ j, j / 1024 ≠ pgDev → t.word j = s.word j := by
  have h (f : Fld) (v : Nat) (t : State) : (t.setF pgDev f v).lsPend = t.lsPend := rfl
  have hw (f : Fld) (v : Nat) (t : State) (hf : f.off < 4096) (j : Nat) (hj : j / 1024 ≠ pgDev) :
      (t.setF pgDev f v).word j = t.word j := t.word_setF_ne v (ne_regIdx_of_page hj hf)
  intro t
  refine ⟨?_, ?_, ?_, ?_, ?_, fun j hj => ?_⟩
  · unfold t State.lsWrite
    simp only [h]
  · have ht : t.getF pgDev Reg.DEV_LS_FAIL_VALID = 1 := State.getF_setF_same _ _ _
    unfold State.flag
    rw [ht]
    rfl
  · unfold t State.lsWrite
    rw [State.getF_setF_field, State.getF_setF_off, State.getF_setF_off, State.getF_setF_field, State.getF_setF_field,
      State.getF_setF_field, State.getF_setF_same]
    exact Nat.mod_eq_of_lt hc
  · unfold t State.lsWrite
    rw [State.getF_setF_field, State.getF_setF_off, State.getF_setF_off, State.getF_setF_field, State.getF_setF_field,
      State.getF_setF_same]
    rfl
  · unfold t State.lsWrite
    rw [State.getF_setF_off, State.getF_setF_off, State.getF_setF_same]
    rfl
  · unfold t State.lsWrite
    simp (disch := first | decide | exact hj) only [hw]

/-- What the capture of a mismatch does, at once or behind a capture that is held (R396). -/
theorem State.lsCapture_does (g n c : Nat) (hc : c < 512) : let t := s.lsCapture g n c false false
    PagesKept s t pgDev [] ∧
      (s.flag pgDev Reg.DEV_LS_FAIL_VALID = false → t.lsPend = s.lsPend ∧ t.flag pgDev Reg.DEV_LS_FAIL_VALID = true ∧
        t.getF pgDev Reg.DEV_LS_FAIL_CLU = c ∧ t.getF pgDev Reg.DEV_LS_FAIL_GRP = g % 2 ^ 8 ∧
        t.getF pgDev Reg.DEV_LS_IDX_LO_IDX = n % 2 ^ 32) ∧
      (s.flag pgDev Reg.DEV_LS_FAIL_VALID = true → t.lsPend = s.lsPend ++ [(g, n, c, false, false)] ∧ t.regs = s.regs) := by
  intro t
  cases hv : s.flag pgDev Reg.DEV_LS_FAIL_VALID with
  | false =>
    have ht : t = s.lsWrite g n c false false := if_neg (by rw [hv]; exact Bool.false_ne_true)
    obtain ⟨h1, h2, h3, h4, h5, h6⟩ := s.lsWrite_does g n c hc
    rw [← ht] at h1 h2 h3 h4 h5 h6
    exact ⟨fun j hj _ => h6 j hj, fun _ => ⟨h1, h2, h3, h4, h5⟩, nofun⟩
  | true =>
    have ht : t = { s with inq.lsPend := s.lsPend ++ [(g, n, c, false, false)] } := if_pos hv
    rw [ht]
    exact ⟨fun _ _ _ => rfl, nofun, fun _ => ⟨rfl, rfl⟩⟩

theorem State.clusterSignatures_does (g idx : Nat) (own sigs : List (Nat × BitVec 64)) (c : Nat) (hc : c < 512)
    (hm : (s.run g).mismatch = true) (hi : (s.run g).checked = idx)
    (ho : (s.run g).cluSigs.find? (fun p => p.1 = idx) = some (idx, own)) (hd : sigIn own c ≠ sigIn sigs c)
    (hf : ∀ c', c' < c → sigIn own c' = sigIn sigs c') :
    ∃ t, exec (.clusterSignatureExchange g idx sigs) s = .next t ∧ (t.run g).mismatch = false ∧ t.mems = s.mems ∧
      t.clusters = s.clusters ∧ PagesKept s t pgDev [] ∧
      (s.flag pgDev Reg.DEV_LS_FAIL_VALID = false → t.lsPend = s.lsPend ∧ t.flag pgDev Reg.DEV_LS_FAIL_VALID = true ∧
        t.getF pgDev Reg.DEV_LS_FAIL_CLU = c ∧ t.getF pgDev Reg.DEV_LS_FAIL_GRP = g % 2 ^ 8 ∧
        t.getF pgDev Reg.DEV_LS_IDX_LO_IDX = idx % 2 ^ 32) ∧
      (s.flag pgDev Reg.DEV_LS_FAIL_VALID = true → t.lsPend = s.lsPend ++ [(g, idx, c, false, false)] ∧ t.regs = s.regs) := by
  refine ⟨_, s.clusterSignatures_eq g idx own sigs c hc hm hi ho hd hf, ?_⟩
  have ht := s.lsCapture_told g idx c false false
  have hd := s.lsCapture_does g idx c hc
  generalize s.lsCapture g idx c false false = u at ht hd
  exact ⟨by rw [State.run_setRun, if_pos rfl], ht.mems, ht.clusters, hd⟩

end

/-- Settles O46: a save is a store to its area and an event, and the twin's message meets one of the branches of the comparison. -/
theorem savesAndTwin : Obligations.SavesAndTwin := by
  unfold Obligations.SavesAndTwin
  refine ⟨fun s c x _ hx hd => s.contextSave_does c x hx hd, fun s c h => ?_, fun s m hl hn => s.twinMessage_does m hl hn, fun s m hl => ?_,
    fun s g idx own sigs c hc hm hi ho => fun hd hf => s.clusterSignatures_does g idx own sigs c hc hm hi ho hd hf⟩
  · rw [show exec (.contextSaveComplete c) s = execContextSaveComplete c s from rfl]
    unfold execContextSaveComplete
    split
    · rfl
    · next x hx => exact if_pos (h.resolve_left (by rw [hx]; exact Option.some_ne_none x))
  · exact if_pos (by rw [hl]; rfl)

end Sys2Proof.Machine
end

section
/-! PROOFS of the statements on timed launch (spec/08_timed_launch.md), fifth part: how flights begin (R326, R336, R337, R395). -/
namespace Sys2Proof.Machine

/-- A fold whose every step changes what is seen at its own index alone: elsewhere nothing changes, and at an index of the list the
one step that it takes is seen. -/
theorem foldl_local {α β : Type} (f : α → Nat → α) (obs : α → Nat → β) (Q : Nat → β → β → Prop)
    (hne : ∀ a b c, c ≠ b → obs (f a b) c = obs a c) (hQ : ∀ a b, Q b (obs a b) (obs (f a b) b)) (l : List Nat) (hl : l.Nodup)
    (a : α) (c : Nat) : (c ∉ l → obs (l.foldl f a) c = obs a c) ∧ (c ∈ l → Q c (obs a c) (obs (l.foldl f a) c)) := by
  induction l generalizing a with
  | nil => exact ⟨fun _ => rfl, nofun⟩
  | cons b l ih =>
    obtain ⟨hb, hl⟩ := List.nodup_cons.mp hl
    obtain ⟨h1, h2⟩ := ih hl (f a b)
    rw [List.foldl_cons]
    refine ⟨fun hc => ?_, fun hc => ?_⟩
    · rw [List.mem_cons, not_or] at hc
      rw [h1 hc.2, hne _ _ _ hc.1]
    · by_cases hcb : c = b
      · subst hcb
        rw [h1 hb]
        exact hQ a c
      · have h := h2 ((List.mem_cons.mp hc).resolve_left hcb)
        rwa [hne _ _ _ hcb] at h

section
variable (s : State)

/-! ### A replay (R394, R395) -/

theorem quietWord_pgDev (f : Fld) (hf : f.off < 4096 := by decide) : QuietWord (regIdx pgDev f) := by
  rw [QuietWord, regIdx_page _ f hf, ReportPage, pgDev]
  omega

/-- What reading the log leaves: the calendar of clusters and groups, the platform, every DOC_STAT and DEV_DET_CTL. -/
structure Replayed (s t : State) : Prop where
  sched : t.sched = s.sched
  plat : t.plat = s.plat
  stat : ∀ c, t.word (regIdx (pgDoc c) Reg.DOC_STAT_STATE) = s.word (regIdx (pgDoc c) Reg.DOC_STAT_STATE)
  ctl : t.word (regIdx pgDev Reg.DEV_DET_CTL_DIVERGE) = s.word (regIdx pgDev Reg.DEV_DET_CTL_DIVERGE)

theorem Replayed.trans {s t u : State} (h : Replayed s t) (k : Replayed t u) : Replayed s u :=
  ⟨k.sched.trans h.sched, k.plat.trans h.plat, fun c => (k.stat c).trans (h.stat c), k.ctl.trans h.ctl⟩

theorem Replayed.doc {s t : State} (h : Replayed s t) (c : Nat) : t.doc c = s.doc c := congrArg (Fld.get _) (h.stat c)

theorem Replayed.grpOf {s t : State} (h : Replayed s t) (c : Nat) : t.grpOf c = s.grpOf c :=
  congrArg (Fld.get Reg.DOC_STAT_GRP) (h.stat c)

theorem Replayed.logGrp {s t : State} (h : Replayed s t) :
    t.getF pgDev Reg.DEV_DET_CTL_LOGGRP = s.getF pgDev Reg.DEV_DET_CTL_LOGGRP := congrArg (Fld.get Reg.DEV_DET_CTL_LOGGRP) h.ctl

theorem State.setF_pgDev_replayed (f : Fld) (v : Nat) (hf : f.off < 4096) (hc : f.off / 4 ≠ Reg.DEV_DET_CTL_DIVERGE.off / 4) :
    Replayed s (s.setF pgDev f v) :=
  ⟨s.setF_sched _ _ _, s.setF_plat _ _ _, (s.setF_pgDev_told f v hf).stat, s.word_setF_ne _ (regIdx_ne_off _ _ f _ hc hf)⟩

theorem State.raise_pgDev_replayed (bit code sev : Nat) (data : List Byte) : Replayed s (s.raise pgDev bit code sev data) :=
  ⟨s.raise_sched _ _ _ _ _, s.raise_plat _ _ _ _ _, (s.raise_told _ _ _ _ _).stat,
    s.word_raise _ _ _ _ _ (not_mem_eventWords_of_off _ (by decide))⟩

theorem State.count_replayed (pg : Nat) (f : Fld) (n : Nat) (hf : 0xF00 ≤ f.off ∧ f.off < 4096) : Replayed s (s.count pg f n) :=
  ⟨s.count_sched _ _ _, s.count_plat _ _ _, fun c => (uncounted_regIdx _ _).count s pg f n hf, (uncounted_regIdx _ _).count s pg f n hf⟩

theorem State.writeBytes_replayed (slot a : Nat) (bs : List Byte) : Replayed s (s.writeBytes slot a bs) :=
  ⟨s.writeBytes_sched _ _ _, s.writeBytes_plat _ _ _, fun c => (quietWord_pgDoc c _).writeBytes s _ _ _, (quietWord_pgDev _).writeBytes s _ _ _⟩

theorem State.ringWrite_replayed (base size off : Nat) (bs : List Byte) : Replayed s (s.ringWrite base size off bs) := by
  unfold State.ringWrite
  extract_lets
  split
  · exact s.writeBytes_replayed _ _ _
  · exact (s.writeBytes_replayed _ _ _).trans (State.writeBytes_replayed _ _ _ _)

theorem State.setIq_replayed (q : Nat) (x : Iq) : Replayed s (s.setIq q x) := ⟨rfl, rfl, fun _ => rfl, rfl⟩

theorem State.pushRec_replayed (q : Nat) (r : IqRec) : Replayed s (s.pushRec q r) := by
  unfold State.pushRec
  extract_lets x size n bs
  split
  · exact s.setIq_replayed _ _
  · exact (s.ringWrite_replayed _ _ _ _).trans (State.setIq_replayed _ _ _)

theorem State.lsCapture_replayed (g n clu : Nat) (prov log : Bool) : Replayed s (s.lsCapture g n clu prov log) := by
  unfold State.lsCapture
  split
  · exact ⟨rfl, rfl, fun _ => rfl, rfl⟩
  · unfold State.lsWrite
    have h {t u : State} (ht : Replayed s t) (f : Fld) (v : Nat) (hu : u = t.setF pgDev f v) (hf : f.off < 4096)
        (hc : f.off / 4 ≠ Reg.DEV_DET_CTL_DIVERGE.off / 4) : Replayed s u := hu ▸ ht.trans (t.setF_pgDev_replayed f v hf hc)
    refine h (h (h (h (h (h (h ⟨rfl, rfl, fun _ => rfl, rfl⟩ _ _ rfl ?_ ?_) _ _ rfl ?_ ?_) _ _ rfl ?_ ?_) _ _ rfl ?_ ?_) _ _ rfl ?_ ?_)
      _ _ rfl ?_ ?_) _ _ rfl ?_ ?_ <;> decide

/-- A log that diverges stops the group: clusters, the group's run and the platform. -/
structure Ceased (s t : State) (g : Nat) : Prop where
  clu : ∀ c, t.clu c = if c ∈ s.stoppable g then (s.clu c).stopped else s.clu c
  doc : ∀ c, t.doc c = if c ∈ s.stoppable g then docStopped else s.doc c
  stopped : (t.run g).stopped = true
  plat : t.plat = s.plat

theorem Ceased.before {s u t : State} {g : Nat} (h : Replayed s u) (k : Ceased u t g) : Ceased s t g := by
  have hl : u.stoppable g = s.stoppable g := State.stoppable_congr h.doc h.grpOf g
  refine ⟨fun c => ?_, fun c => ?_, k.stopped, k.plat.trans h.plat⟩
  · rw [k.clu, hl, State.clu_congr h.sched]
  · rw [k.doc, hl, h.doc]

theorem State.sendStops_plat (g : Nat) : (s.sendStops g).plat = s.plat :=
  foldl_keeps State.plat _ (fun t _ => t.sendChunk_plat _ _ _ _) _ s

theorem Stopped.plat {s t : State} {g : Nat} (h : Stopped s t g) : t.plat = s.plat :=
  (congrArg (fun x : State => x.plat) h.sans :)

theorem State.enterStop_sendStops_ceased (g : Nat) : Ceased s ((s.enterStop g).sendStops g) g := by
  have h := s.enterStop_stopped g
  have ht := (s.enterStop g).sendStops_told g
  have hp := (s.enterStop g).sendStops_plat g
  refine ⟨fun c => (State.clu_congr ht.sched c).trans (h.clu c), fun c => (ht.doc c).trans (h.doc c), ?_, hp.trans h.plat⟩
  rw [ht.run]
  exact h.halted.stopped

theorem State.replayDiverge_ceased (n seq : Nat) (log : Bool) :
    Ceased s (s.replayDiverge n seq log) (s.getF pgDev Reg.DEV_DET_CTL_LOGGRP) := by
  unfold State.replayDiverge
  dsimp only [State.drawFree]
  have hu : Replayed s { s with draw := s.draw + 1 } := ⟨rfl, rfl, fun _ => rfl, rfl⟩
  generalize ({ s with draw := s.draw + 1 } : State) = u at hu
  have hv := hu.trans (u.lsCapture_replayed (s.getF pgDev Reg.DEV_DET_CTL_LOGGRP) n (if log then 0 else Config.free s.draw % 512) false log)
  generalize u.lsCapture _ n _ false log = v at hv
  exact Ceased.before (hv.trans (v.raise_pgDev_replayed _ _ _ _)) (State.enterStop_sendStops_ceased _ _)

/-- A landing of the replayed log: it is read, and where it diverges it stops LOGGRP. -/
theorem State.replayStep_does (n f : Nat) (seen : Bool) : Replayed s (s.replayStep n f seen) ∨
    Ceased s (s.replayStep n f seen) (s.getF pgDev Reg.DEV_DET_CTL_LOGGRP) := by
  induction f generalizing seen s with
  | zero => exact .inl ⟨rfl, rfl, fun _ => rfl, rfl⟩
  | succ f ih =>
    have hstep {u : State} (hu : Replayed s u) (seen : Bool) : Replayed s (u.replayStep n f seen) ∨
        Ceased s (u.replayStep n f seen) (s.getF pgDev Reg.DEV_DET_CTL_LOGGRP) := by
      rw [← hu.logGrp]
      exact (ih u seen).imp hu.trans (Ceased.before hu)
    have hstop {u : State} (hu : Replayed s u) (land seq : Nat) (log : Bool) :
        Ceased s (u.replayDiverge land seq log) (s.getF pgDev Reg.DEV_DET_CTL_LOGGRP) := by
      rw [← hu.logGrp]
      exact Ceased.before hu (u.replayDiverge_ceased land seq log)
    rw [State.replayStep]
    split
    · exact .inl ⟨rfl, rfl, fun _ => rfl, rfl⟩
    split
    · have hu : Replayed s { s with inq.replayEnd := true } := ⟨rfl, rfl, fun _ => rfl, rfl⟩
      generalize ({ s with inq.replayEnd := true } : State) = u at hu
      exact .inl ((hu.trans (u.setF_pgDev_replayed _ 0 (by decide) (by decide))).trans (State.raise_pgDev_replayed _ _ _ _ _))
    extract_lets h land seq len kind q src crc size payload inp u own
    split
    · exact .inl ⟨rfl, rfl, fun _ => rfl, rfl⟩
    have hv : Replayed s { s with inq.logRead := (s.logRead + size) % s.logSize } := ⟨rfl, rfl, fun _ => rfl, rfl⟩
    have hu : Replayed s u := hv.trans (State.count_replayed _ pgDev Reg.DEV_CNT_LOGREC 1 (by decide))
    split
    · exact .inr (hstop hu _ _ _)
    split
    · exact hstep (hu.trans (u.pushRec_replayed _ _)) _
    · split
      · exact hstep hu _
      · exact .inr (hstop hu _ _ _)

/-! ### A cluster begins its flight (R336) -/

/-- What is seen of a cluster at a landing: its entry, its state and its group. -/
def State.seen (c : Nat) : Cluster × Nat × Nat := (s.clu c, s.doc c, s.grpOf c)

theorem State.of_seen_eq {s t : State} {c : Nat} (h : t.seen c = s.seen c) : t.clu c = s.clu c ∧ t.doc c = s.doc c :=
  ⟨congrArg (fun x : Cluster × Nat × Nat => x.1) h, congrArg (fun x : Cluster × Nat × Nat => x.2.1) h⟩

/-- A cluster after its flight has begun, scheduled from `t` to `lam`. -/
def FlightBegun (t lam : Nat) (k k' : Cluster × Nat × Nat) : Prop :=
  k'.2.1 = docFlight ∧ k'.1.fS = t ∧ k'.1.fLam = lam ∧ k'.1.next = none ∧ k'.1.barrier = none ∧ k'.1.queue = k.1.queue ∧
    ∀ n st h, k.1.next = some (n, st, h) → k'.1.fLen = n ∧ k'.1.fStep = st ∧ k'.2.2 = h % 2 ^ 8

/-- The entry of a cluster whose flight begins. -/
def Cluster.inFlight (k : Cluster) (t lam len rot now : Nat) (stp : Bool) : Cluster :=
  { k with fS := t, fLam := lam, fLen := len, fStep := stp, begun := max t rot, next := none, barrier := none, units := [],
           issued := 0, collSeq := [], lastDone := now }

theorem State.beginFlight_eq (c t lam len g : Nat) (stp : Bool) (hn : (s.clu c).next = some (len, stp, g)) :
    s.beginFlight c t lam =
      ((s.setClu c ((s.clu c).inFlight t lam len s.rot s.now stp)).setF (pgDoc c) Reg.DOC_STAT_GRP g).setDoc c docFlight := by
  unfold State.beginFlight
  extract_lets k
  rw [show k.next = some (len, stp, g) from hn]
  rfl

theorem State.beginFlight_none (c t lam : Nat) (hn : (s.clu c).next = none) : s.beginFlight c t lam = s := by
  unfold State.beginFlight
  extract_lets k
  rw [show k.next = none from hn]

theorem State.setF_parts (pg : Nat) (f : Fld) (v : Nat) : (s.setF pg f v).mems = s.mems ∧ (s.setF pg f v).plat = s.plat ∧
    (s.setF pg f v).runs = s.runs := ⟨rfl, rfl, rfl⟩

/-- A cluster's entry, its group and its state are written. -/
def State.enter (c : Nat) (k : Cluster) (g v : Nat) : State := ((s.setClu c k).setF (pgDoc c) Reg.DOC_STAT_GRP g).setDoc c v

theorem State.enter_does (c : Nat) (k : Cluster) (g v : Nat) : (s.enter c k g v).mems = s.mems ∧ (s.enter c k g v).plat = s.plat ∧
    (s.enter c k g v).runs = s.runs ∧ (∀ c', c' ≠ c → (s.enter c k g v).seen c' = s.seen c') ∧
    (s.enter c k g v).seen c = (k, v % 8, g % 2 ^ 8) := by
  obtain ⟨u, hu⟩ : ∃ u, u = s.setClu c k := ⟨_, rfl⟩
  have hm : u.mems = s.mems := by rw [hu]; rfl
  have hp : u.plat = s.plat := by rw [hu]; rfl
  have hr : u.runs = s.runs := by rw [hu]; rfl
  have hw (j : Nat) : u.word j = s.word j := by rw [hu]; rfl
  have hclu (c' : Nat) : u.clu c' = if c' = c then k else s.clu c' := by rw [hu]; exact s.clu_setClu c c' k
  have he : s.enter c k g v = (u.setF (pgDoc c) Reg.DOC_STAT_GRP g).setDoc c v := by rw [hu]; rfl
  clear hu
  rw [he]
  obtain ⟨m1, p1, r1⟩ := u.setF_parts (pgDoc c) Reg.DOC_STAT_GRP g
  obtain ⟨m2, p2, r2⟩ := (u.setF (pgDoc c) Reg.DOC_STAT_GRP g).setF_parts (pgDoc c) Reg.DOC_STAT_STATE v
  refine ⟨(m2.trans m1).trans hm, (p2.trans p1).trans hp, (r2.trans r1).trans hr, fun c' hc => ?_, ?_⟩
  · have hw' : ((u.setF (pgDoc c) Reg.DOC_STAT_GRP g).setDoc c v).word (regIdx (pgDoc c') Reg.DOC_STAT_STATE) =
        s.word (regIdx (pgDoc c') Reg.DOC_STAT_STATE) :=
      (State.word_setF_ne _ _ (docStat_ne hc)).trans ((u.word_setF_ne (f := Reg.DOC_STAT_GRP) g (docStat_ne hc)).trans (hw _))
    have hk : ((u.setF (pgDoc c) Reg.DOC_STAT_GRP g).setDoc c v).clu c' = s.clu c' := by
      rw [State.clu_setDoc, State.clu_setF, hclu, if_neg hc]
    unfold State.seen
    rw [hk]
    exact congrArg (fun w => (s.clu c', Fld.get Reg.DOC_STAT_STATE w, Fld.get Reg.DOC_STAT_GRP w)) hw'
  · unfold State.seen
    rw [State.doc_setDoc, State.clu_setDoc, State.clu_setF, hclu, if_pos rfl, State.grpOf_setDoc]
    exact congrArg (fun x => (k, v % 8, x)) (u.getF_setF_same _ _)

theorem State.beginFlight_does (c t lam : Nat) : (s.beginFlight c t lam).mems = s.mems ∧ (s.beginFlight c t lam).plat = s.plat ∧
    (s.beginFlight c t lam).runs = s.runs ∧ (∀ c', c' ≠ c → (s.beginFlight c t lam).seen c' = s.seen c') ∧
    ((s.clu c).next.isSome → FlightBegun t lam (s.seen c) ((s.beginFlight c t lam).seen c)) := by
  cases hn : (s.clu c).next with
  | none =>
    rw [s.beginFlight_none c t lam hn]
    exact ⟨rfl, rfl, rfl, fun _ _ => rfl, nofun⟩
  | some x =>
    obtain ⟨len, stp, g⟩ := x
    obtain ⟨h1, h2, h3, h4, h5⟩ := s.enter_does c ((s.clu c).inFlight t lam len s.rot s.now stp) g docFlight
    have he : s.beginFlight c t lam = s.enter c ((s.clu c).inFlight t lam len s.rot s.now stp) g docFlight :=
      s.beginFlight_eq c t lam len g stp hn
    rw [he]
    refine ⟨h1, h2, h3, h4, fun _ => ?_⟩
    rw [h5]
    refine ⟨rfl, rfl, rfl, rfl, rfl, rfl, fun n st h e => ?_⟩
    have he : (len, stp, g) = (n, st, h) := Option.some.inj (hn.symm.trans e)
    cases he
    exact ⟨rfl, rfl, rfl⟩

/-! ### The flights of a landing window begin (R336, R337) -/

/-- Clusters of a list that may begin do. -/
theorem State.beginFlights_keep (p : Cluster × Nat × Nat → Prop) [DecidablePred p] (t lam : Nat) (l : List Nat) :
    (l.foldl (fun s c => if p (s.seen c) then s.beginFlight c t lam else s) s).mems = s.mems ∧
    (l.foldl (fun s c => if p (s.seen c) then s.beginFlight c t lam else s) s).plat = s.plat ∧
    (l.foldl (fun s c => if p (s.seen c) then s.beginFlight c t lam else s) s).runs = s.runs :=
  foldl_inv (fun u : State => u.mems = s.mems ∧ u.plat = s.plat ∧ u.runs = s.runs) _
    (fun u c hu => by
      split
      · obtain ⟨h1, h2, h3, -, -⟩ := u.beginFlight_does c t lam
        exact ⟨h1.trans hu.1, h2.trans hu.2.1, h3.trans hu.2.2⟩
      · exact hu) l s ⟨rfl, rfl, rfl⟩

theorem State.beginFlights_does (p : Cluster × Nat × Nat → Prop) [DecidablePred p] (t lam : Nat) (l : List Nat) (hl : l.Nodup) (c : Nat) :
    (c ∉ l → (l.foldl (fun s c => if p (s.seen c) then s.beginFlight c t lam else s) s).seen c = s.seen c) ∧
    (c ∈ l → (¬ p (s.seen c) → (l.foldl (fun s c => if p (s.seen c) then s.beginFlight c t lam else s) s).seen c = s.seen c) ∧
      (p (s.seen c) → (s.clu c).next.isSome →
        FlightBegun t lam (s.seen c) ((l.foldl (fun s c => if p (s.seen c) then s.beginFlight c t lam else s) s).seen c))) :=
  foldl_local _ State.seen (fun _ k k' => (¬ p k → k' = k) ∧ (p k → k.1.next.isSome → FlightBegun t lam k k'))
    (fun u b c' hc => by
      split
      · exact (u.beginFlight_does b t lam).2.2.2.1 c' hc
      · rfl)
    (fun u b => by
      split
      · next h => exact ⟨fun h' => absurd h h', fun _ hn => (u.beginFlight_does b t lam).2.2.2.2 hn⟩
      · next h => exact ⟨fun _ => rfl, fun h' => absurd h' h⟩) l hl s c

theorem nodup_filter_range (p : Nat → Bool) (n : Nat) : ((List.range n).filter p).Nodup := List.nodup_range.filter p

/-- The clusters that begin the flight of a landing window (R337). -/
def State.windowed (g : Nat) : List Nat :=
  (List.range 512).filter (fun c => s.doc c = docWindow && !s.copying c && (s.clu c).saved.isNone && !(s.clu c).landed
    && (match (s.clu c).next with | some (_, _, h) => h = g | none => false))

theorem State.flightBegin_eq (g : Nat) (h1 : (s.run g).stopped = false) (h2 : (s.run g).s ≤ s.rot) (h3 : (s.run g).winEnd ≤ s.rot)
    (h4 : s.awaitsTwin g = false) :
    exec (.flightBegin g) s = .next ((s.windowed g).foldl
      (fun u c => if (fun _ : Cluster × Nat × Nat => True) (u.seen c) then u.beginFlight c (s.run g).s (s.run g).lam else u) s) := by
  rw [show exec (.flightBegin g) s = execFlightBegin g s from rfl]
  unfold execFlightBegin
  dsimp only
  rw [if_neg (by simp [h1, h4, Nat.not_lt.mpr h2, Nat.not_lt.mpr h3])]
  simp only [if_true]
  rfl

theorem State.flightBegin_does (g : Nat) (h1 : (s.run g).stopped = false) (h2 : (s.run g).s ≤ s.rot) (h3 : (s.run g).winEnd ≤ s.rot)
    (h4 : s.awaitsTwin g = false) :
    ∃ t, exec (.flightBegin g) s = .next t ∧ t.mems = s.mems ∧
      (∀ c n st, c < 512 → s.doc c = docWindow → s.copying c = false → (s.clu c).saved = none → (s.clu c).landed = false →
        (s.clu c).next = some (n, st, g) →
        t.doc c = docFlight ∧ (t.clu c).fS = (s.run g).s ∧ (t.clu c).fLam = (s.run g).lam ∧ (t.clu c).fLen = n ∧
        (t.clu c).next = none) ∧
      (∀ c, c < 512 → s.doc c ≠ docWindow ∨ s.copying c = true ∨ (s.clu c).landed = true →
        t.clu c = s.clu c ∧ t.doc c = s.doc c) := by
  refine ⟨_, s.flightBegin_eq g h1 h2 h3 h4, (s.beginFlights_keep (fun _ => True) _ _ _).1, fun c n st hc hd hcp hsv hl hn => ?_, fun c hc h => ?_⟩
  · have hm : c ∈ s.windowed g := by
      unfold State.windowed
      rw [List.mem_filter, List.mem_range]
      simp [hc, hd, hcp, hsv, hl, hn]
    have hb := ((s.beginFlights_does (fun _ => True) (s.run g).s (s.run g).lam _ (nodup_filter_range _ _) c).2 hm).2 True.intro
      (by rw [hn]; rfl)
    obtain ⟨b1, b2, b3, b4, -, -, b7⟩ := hb
    exact ⟨b1, b2, b3, (b7 n st g hn).1, b4⟩
  · have hm : c ∉ s.windowed g := by
      unfold State.windowed
      rw [List.mem_filter]
      rcases h with h | h | h <;> simp [h]
    have hb := (s.beginFlights_does (fun _ => True) (s.run g).s (s.run g).lam _ (nodup_filter_range _ _) c).1 hm
    exact State.of_seen_eq hb

/-! ### The flights of a barrier begin (R326, R336, R379) -/

/-- The group's run is scheduled: by the BARRIER that begins, where it is the first of its group to begin. -/
def State.barrierSet (gf T lam : Nat) : State :=
  if (s.run gf).s = T && (s.run gf).lam = lam then s else s.barrierBegins.setRun gf { s.run gf with s := T, lam := lam }

theorem State.barrierBegins_keeps : s.barrierBegins.sched = s.sched ∧ s.barrierBegins.throtCount = 0 ∧
    (∀ c, s.barrierBegins.word (regIdx (pgDoc c) Reg.DOC_STAT_STATE) = s.word (regIdx (pgDoc c) Reg.DOC_STAT_STATE)) ∧
    s.barrierBegins.word (regIdx pgDev Reg.DEV_DET_CTL_DIVERGE) = s.word (regIdx pgDev Reg.DEV_DET_CTL_DIVERGE) ∧
    s.barrierBegins.replayEnd = s.replayEnd := by
  unfold State.barrierBegins
  extract_lets fab pl u
  have h1 : u.sched = s.sched := rfl
  have h2 : u.throtCount = 0 := rfl
  have h3 (j : Nat) : u.word j = s.word j := rfl
  have h4 : u.replayEnd = s.replayEnd := rfl
  clear_value u
  have h := u.setF_pgDev_replayed Reg.DEV_DET_STAT_UNCHECKED 0 (by decide) (by decide)
  exact ⟨h.sched.trans h1, (congrArg (fun p : Plat => p.throtCount) h.plat).trans h2, fun c => (h.stat c).trans (h3 _), h.ctl.trans (h3 _), h4⟩

theorem State.barrierSet_does (gf T lam : Nat) : (∀ c, (s.barrierSet gf T lam).seen c = s.seen c) ∧
    (∀ c, (s.barrierSet gf T lam).grpOf c = s.grpOf c) ∧
    (s.barrierSet gf T lam).replaying = s.replaying ∧
    (s.barrierSet gf T lam).getF pgDev Reg.DEV_DET_CTL_LOGGRP = s.getF pgDev Reg.DEV_DET_CTL_LOGGRP ∧
    ((s.run gf).s ≠ T ∨ (s.run gf).lam ≠ lam → (s.barrierSet gf T lam).throtCount = 0) := by
  unfold State.barrierSet
  split
  · next h =>
    simp only [Bool.and_eq_true, decide_eq_true_eq] at h
    exact ⟨fun _ => rfl, fun _ => rfl, rfl, rfl, fun h' => absurd h (not_and_or.mpr h')⟩
  · obtain ⟨h1, h2, h3, h4, h5⟩ := s.barrierBegins_keeps
    generalize s.barrierBegins = u at h1 h2 h3 h4 h5
    obtain ⟨v, hv⟩ : ∃ v, v = u.setRun gf { s.run gf with s := T, lam := lam } := ⟨_, rfl⟩
    have hclu (c : Nat) : v.clu c = u.clu c := by rw [hv]; rfl
    have hword (j : Nat) : v.word j = u.word j := by rw [hv]; rfl
    have hp : v.throtCount = u.throtCount := by rw [hv]; rfl
    have he : v.replayEnd = u.replayEnd := by rw [hv]; rfl
    rw [← hv]
    refine ⟨fun c => ?_, fun c => congrArg (Fld.get _) ((hword _).trans (h3 c)), ?_, congrArg (Fld.get Reg.DEV_DET_CTL_LOGGRP) ((hword _).trans h4),
      fun _ => hp.trans h2⟩
    · unfold State.seen
      rw [hclu, State.clu_congr h1]
      exact congrArg (fun w => (s.clu c, Fld.get Reg.DOC_STAT_STATE w, Fld.get Reg.DOC_STAT_GRP w)) ((hword _).trans (h3 c))
    · unfold State.replaying
      rw [he, h5, show v.getF pgDev Reg.DEV_DET_CTL_DIVERGE = s.getF pgDev Reg.DEV_DET_CTL_DIVERGE from
        congrArg (Fld.get _) ((hword _).trans h4)]

/-- The clusters of a barrier wait at it, their FLIGHT issued. -/
theorem State.of_mem_barred {g c : Nat} (h : c ∈ s.barred g) : c < 512 ∧ s.doc c = docBarrier ∧ (s.clu c).next.isSome ∧
    ∀ x, (s.clu c).barrier = some x → x.1 ≤ s.rot := by
  unfold State.barred at h
  rw [List.mem_filter, List.mem_range] at h
  simp only [Bool.and_eq_true, decide_eq_true_eq] at h
  obtain ⟨hc, ⟨⟨hd, hn⟩, -⟩, hb⟩ := h
  refine ⟨hc, hd, hn, fun x hx => ?_⟩
  rw [hx] at hb
  simp only [Bool.and_eq_true, decide_eq_true_eq] at hb
  exact hb.2

/-- The first records of a replayed log are read before the flights begin (R395). -/
def State.barrierLog (gf T lam : Nat) : State :=
  let s := s.barrierSet gf T lam
  if s.replaying && s.getF pgDev Reg.DEV_DET_CTL_LOGGRP = gf then s.replayRead 0 else s

theorem State.barrierStart_eq (g c0 : Nat) (cs : List Nat) (T st cl h len gf : Nat) (stp : Bool) (hb : s.barred g = c0 :: cs)
    (hbar : (s.clu c0).barrier = some (T, st, cl, h)) (hn : (s.clu c0).next = some (len, stp, gf)) :
    exec (.barrierStart g) s = .next ((s.barred g).foldl
      (fun u c => if (fun k : Cluster × Nat × Nat => k.2.1 = docBarrier) (u.seen c) then
        u.beginFlight c T (T + unitsAt (s.run gf).code len) else u) (s.barrierLog gf T (T + unitsAt (s.run gf).code len))) := by
  rw [show exec (.barrierStart g) s = execBarrierStart g s from rfl]
  unfold execBarrierStart
  rw [hb]
  dsimp only
  rw [hbar, hn]
  rfl

/-- Before the flights begin nothing is seen to change, or the log has stopped the group. -/
theorem State.barrierLog_does (gf T lam : Nat) : (s.barrierLog gf T lam).plat = (s.barrierSet gf T lam).plat ∧
    ((∀ c, (s.barrierLog gf T lam).clu c = s.clu c ∧ (s.barrierLog gf T lam).doc c = s.doc c) ∨
      s.replaying = true ∧ s.getF pgDev Reg.DEV_DET_CTL_LOGGRP = gf ∧ ((s.barrierLog gf T lam).run gf).stopped = true ∧
        ∀ c, (s.barrierLog gf T lam).doc c = docStopped ∨
          (s.barrierLog gf T lam).clu c = s.clu c ∧ (s.barrierLog gf T lam).doc c = s.doc c) ∧
    (s.replaying = false → ∀ c, (s.barrierLog gf T lam).seen c = s.seen c) := by
  obtain ⟨h1, h2, h3, h4, -⟩ := s.barrierSet_does gf T lam
  unfold State.barrierLog
  extract_lets v
  change ∀ c, v.seen c = s.seen c at h1
  change v.replaying = s.replaying at h3
  change v.getF pgDev Reg.DEV_DET_CTL_LOGGRP = s.getF pgDev Reg.DEV_DET_CTL_LOGGRP at h4
  change (if (v.replaying && decide (v.getF pgDev Reg.DEV_DET_CTL_LOGGRP = gf)) = true then v.replayRead 0 else v).plat = v.plat ∧ _
  clear_value v
  have hv (c : Nat) : v.clu c = s.clu c ∧ v.doc c = s.doc c := State.of_seen_eq (h1 c)
  split
  · next h =>
    simp only [Bool.and_eq_true, decide_eq_true_eq] at h
    obtain ⟨hr, hg⟩ := h
    have hrs : s.replaying = true := h3 ▸ hr
    unfold State.replayRead
    rcases v.replayStep_does 0 (v.logSize / 32 + 2) false with hq | hq
    · exact ⟨hq.plat, .inl fun c => ⟨(State.clu_congr hq.sched c).trans (hv c).1, (hq.doc c).trans (hv c).2⟩,
        fun h' => absurd (hrs.symm.trans h') (by decide)⟩
    · rw [hg] at hq
      refine ⟨hq.plat, .inr ⟨hrs, h4 ▸ hg, hq.stopped, fun c => ?_⟩, fun h' => absurd (hrs.symm.trans h') (by decide)⟩
      by_cases hc : c ∈ v.stoppable gf
      · exact .inl (by rw [hq.doc, if_pos hc])
      · exact .inr ⟨by rw [hq.clu, if_neg hc, (hv c).1], by rw [hq.doc, if_neg hc, (hv c).2]⟩
  · exact ⟨rfl, .inl hv, fun _ => h1⟩

theorem State.throtCount_of_plat {s t : State} (h : t.plat = s.plat) : t.throtCount = s.throtCount :=
  congrArg (fun p : Plat => p.throtCount) h

theorem State.run_of_runs {s t : State} (h : t.runs = s.runs) (g : Nat) : t.run g = s.run g := by
  unfold State.run
  rw [h]

theorem docBarrier_ne_docStopped : docStopped ≠ docBarrier := by decide

theorem State.barrierStart_does (g c0 : Nat) (cs : List Nat) (T st cl h len gf : Nat) (stp : Bool) (hb : s.barred g = c0 :: cs)
    (hbar : (s.clu c0).barrier = some (T, st, cl, h)) (hn : (s.clu c0).next = some (len, stp, gf)) :
    ∃ t, exec (.barrierStart g) s = .next t ∧ T ≤ s.rot ∧
      ((s.run gf).s ≠ T ∨ (s.run gf).lam ≠ T + unitsAt (s.run gf).code len → t.throtCount = 0) ∧
      (∀ c, c < 512 → c ∉ s.barred g → s.replaying = false → t.clu c = s.clu c ∧ t.doc c = s.doc c) ∧
      ∀ c ∈ s.barred g,
        (t.doc c = docFlight ∧ (t.clu c).fS = T ∧ (t.clu c).fLam = T + unitsAt (s.run gf).code len ∧
          (t.clu c).next = none ∧ (t.clu c).barrier = none ∧ (t.clu c).queue = (s.clu c).queue ∧
          (∀ n st' h', (s.clu c).next = some (n, st', h') → (t.clu c).fLen = n ∧ (t.clu c).fStep = st' ∧ t.grpOf c = h' % 2 ^ 8)) ∨
        (s.replaying = true ∧ s.getF pgDev Reg.DEV_DET_CTL_LOGGRP = gf ∧ (t.run gf).stopped = true ∧ t.doc c = docStopped) := by
  have hmem {c : Nat} (hc : c ∈ s.barred g) := s.of_mem_barred hc
  have hT : T ≤ s.rot := (hmem (hb ▸ List.mem_cons_self)).2.2.2 _ hbar
  have he := s.barrierStart_eq g c0 cs T st cl h len gf stp hb hbar hn
  generalize T + unitsAt (s.run gf).code len = lam at he ⊢
  obtain ⟨hp, hw, hq⟩ := s.barrierLog_does gf T lam
  have hthrot := (s.barrierSet_does gf T lam).2.2.2.2
  generalize s.barrierLog gf T lam = w at he hp hw hq
  obtain ⟨-, kp, kr⟩ := w.beginFlights_keep (fun k => k.2.1 = docBarrier) T lam (s.barred g)
  have hone := fun c => w.beginFlights_does (fun k => k.2.1 = docBarrier) T lam (s.barred g) (nodup_filter_range _ _) c
  generalize (s.barred g).foldl _ w = t at he kp kr hone
  refine ⟨t, he, hT, fun hne => ?_, fun c _ hc hr => ?_, fun c hc => ?_⟩
  · exact (State.throtCount_of_plat (kp.trans hp)).trans (hthrot hne)
  · exact State.of_seen_eq (((hone c).1 hc).trans (hq hr c))
  · obtain ⟨-, hd, hsome, -⟩ := hmem hc
    obtain ⟨hno, hyes⟩ := (hone c).2 hc
    have hbegin (hs : w.clu c = s.clu c ∧ w.doc c = s.doc c) : FlightBegun T lam (s.seen c) (t.seen c) := by
      obtain ⟨b1, b2, b3, b4, b5, b6, b7⟩ := hyes (hs.2.trans hd) (by rw [hs.1]; exact hsome)
      unfold State.seen at b6 b7
      rw [hs.1] at b6 b7
      exact ⟨b1, b2, b3, b4, b5, b6, b7⟩
    rcases hw with hw | ⟨hr, hg, hst, hw⟩
    · exact .inl (hbegin (hw c))
    · rcases hw c with hs | hs
      · refine .inr ⟨hr, hg, by rw [State.run_of_runs kr]; exact hst, ?_⟩
        rw [(State.of_seen_eq (hno (by rw [show (w.seen c).2.1 = w.doc c from rfl, hs]; exact docBarrier_ne_docStopped))).2]
        exact hs
      · exact .inl (hbegin hs)

end

/-- Settles O39: the clusters that begin are those of one filtered list, and each begins on its own. (The length that schedules the
landing is that of the first cluster, the model's choice, log 74.) -/
theorem flightsBegin : Obligations.FlightsBegin := by
  unfold Obligations.FlightsBegin
  refine fun s g => ⟨fun c0 cs T st cl h len stp gf hb hbar hn => s.barrierStart_does g c0 cs T st cl h len gf stp hb hbar hn, fun hb => ?_,
    fun h1 h2 h3 h4 => s.flightBegin_does g h1 h2 h3 h4, fun h => ?_⟩
  · rw [show exec (.barrierStart g) s = execBarrierStart g s from rfl]
    unfold execBarrierStart
    rw [hb]
  · refine if_pos ?_
    rcases h with h | h | h | h <;> simp [h]

end Sys2Proof.Machine
end

section
/-! PROOFS of the statements on timed launch (spec/08_timed_launch.md), sixth part: the descriptors of class 6 that open and close
flights (R326, R329, R335). -/
namespace Sys2Proof.Machine

section
variable (s : State)

/-! ### What the issue of a descriptor leaves (R314) -/

/-- The state with registers and clusters blanked. -/
def State.sansClu : State := { s with regFile.regs := [], sched.clusters := [] }

/-- Only the entry of one cluster, now `k`, and counters have changed. -/
structure OnCluster (s t : State) (c : Nat) (k : Cluster) : Prop where
  sans : t.sansClu = s.sansClu
  clu : ∀ c', t.clu c' = if c' = c then k else s.clu c'
  word : ∀ j, Uncounted j → t.word j = s.word j

namespace OnCluster
variable {s t u : State} {c : Nat} {k : Cluster}

theorem own (h : OnCluster s t c k) : t.clu c = k := by rw [h.clu, if_pos rfl]
theorem other (h : OnCluster s t c k) (c' : Nat) (hc : c' ≠ c) : t.clu c' = s.clu c' := by rw [h.clu, if_neg hc]
theorem mems (h : OnCluster s t c k) : t.mems = s.mems := (congrArg (fun x : State => x.mems) h.sans :)
theorem time (h : OnCluster s t c k) : t.time = s.time := (congrArg (fun x : State => x.time) h.sans :)
theorem runs (h : OnCluster s t c k) : t.runs = s.runs := (congrArg (fun x : State => x.runs) h.sans :)
theorem groups (h : OnCluster s t c k) : t.groups = s.groups := (congrArg (fun x : State => x.groups) h.sans :)
theorem inq (h : OnCluster s t c k) : t.inq = s.inq := (congrArg (fun x : State => x.inq) h.sans :)
theorem part (h : OnCluster s t c k) : t.part = s.part := (congrArg (fun x : State => x.part) h.sans :)
theorem plat (h : OnCluster s t c k) : t.plat = s.plat := (congrArg (fun x : State => x.plat) h.sans :)
theorem brd (h : OnCluster s t c k) : t.brd = s.brd := (congrArg (fun x : State => x.brd) h.sans :)
theorem evts (h : OnCluster s t c k) : t.evts = s.evts := (congrArg (fun x : State => x.evts) h.sans :)
theorem run (h : OnCluster s t c k) (g : Nat) : t.run g = s.run g := State.run_of_runs h.runs g

theorem rot (h : OnCluster s t c k) : t.rot = s.rot := (congrArg (fun x : State => x.rot) h.sans :)

theorem getF (h : OnCluster s t c k) (pg : Nat) (f : Fld) (hf : f.off < 0xF00 := by decide) : t.getF pg f = s.getF pg f :=
  congrArg f.get (h.word _ (uncounted_regIdx pg f hf))

theorem flag (h : OnCluster s t c k) (pg : Nat) (f : Fld) (hf : f.off < 0xF00 := by decide) : t.flag pg f = s.flag pg f := by
  unfold State.flag
  rw [h.getF pg f hf]

theorem doc (h : OnCluster s t c k) (c' : Nat) : t.doc c' = s.doc c' := h.getF _ _
theorem grpOf (h : OnCluster s t c k) (c' : Nat) : t.grpOf c' = s.grpOf c' := h.getF _ _

theorem others (h : OnCluster s t c k) (g : Nat) : t.others g = s.others g := by
  unfold State.others State.group State.pkg
  rw [h.groups, h.getF pgDev Reg.DEV_PKG_ID_ID]

/-- An event on a page occurs where it is raised behind such a change. -/
theorem occurred (h : OnCluster s t c k) {pg bit code sev : Nat} {data : List Byte} (ho : Occurred t u pg bit code sev data) :
    Occurred s u pg bit code sev data :=
  ho.before (h.getF _ _) (h.getF _ _) (h.flag _ _) (by rw [State.cur, h.brd])

end OnCluster

theorem State.sansClu_of_regs {s t : State} (h : t.sansRegs = s.sansRegs) : t.sansClu = s.sansClu := (congrArg State.sansClu h :)

theorem State.setClu_sansClu (c : Nat) (k : Cluster) : (s.setClu c k).sansClu = s.sansClu := rfl

theorem OnCluster.setClu {s t : State} {c : Nat} {k : Cluster} (h : OnCluster s t c k) (k' : Cluster) :
    OnCluster s (t.setClu c k') c k' := by
  refine ⟨(t.setClu_sansClu c k').trans h.sans, fun c' => ?_, fun j hj => h.word j hj⟩
  rw [State.clu_setClu]
  split
  · rfl
  · next hc => rw [h.clu, if_neg hc]

theorem OnCluster.count {s t : State} {c : Nat} {k : Cluster} (h : OnCluster s t c k) (pg : Nat) (f : Fld) (n : Nat)
    (hf : 0xF00 ≤ f.off ∧ f.off < 4096) : OnCluster s (t.count pg f n) c k :=
  ⟨(State.sansClu_of_regs (t.count_sans pg f n)).trans h.sans, fun c' => (t.clu_count pg f n c').trans (h.clu c'),
    fun j hj => (hj.count t pg f n hf).trans (h.word j hj)⟩

theorem OnCluster.refl (c : Nat) : OnCluster s s c (s.clu c) :=
  ⟨rfl, fun c' => by split <;> simp_all, fun _ _ => rfl⟩

/-- The head of the queue leaves it. -/
def Cluster.popped (k : Cluster) (at_ : Nat) : Cluster := { k with queue := k.queue.tail, lastIssue := at_ }

theorem State.popHead_on (c : Nat) : OnCluster s (s.popHead c) c ((s.clu c).popped (s.issueAt c)) :=
  (((OnCluster.refl s c).setClu _).count _ _ _ (by decide))

theorem OnCluster.missed {s t : State} {c : Nat} {k : Cluster} (h : OnCluster s t c k) (g T : Nat) : t.missed g T = s.missed g T := by
  unfold State.missed State.locked
  rw [h.rot, h.others, h.flag pgTim Reg.TIM_CFG_ROLE, h.flag pgTim Reg.TIM_STAT_LOCK]

theorem State.setClu_parts (c : Nat) (k : Cluster) : (s.setClu c k).mems = s.mems ∧ (∀ g, (s.setClu c k).run g = s.run g) ∧
    ∀ c', (s.setClu c k).doc c' = s.doc c' := ⟨rfl, fun _ => rfl, fun _ => rfl⟩

/-! ### BARRIER (R326, R329) -/

theorem State.startRun_does (g T step0 clk : Nat) : ((s.startRun g T step0 clk).run g).idx = 0 ∧
    ((s.startRun g T step0 clk).run g).step = step0 ∧ ((s.startRun g T step0 clk).run g).code = clk ∧
    ((s.startRun g T step0 clk).run g).tStart = T ∧ (s.startRun g T step0 clk).mems = s.mems ∧
    (s.startRun g T step0 clk).clusters = s.clusters ∧ ∀ j, (s.startRun g T step0 clk).word j = s.word j := by
  unfold State.startRun
  dsimp only
  split
  · next h =>
    simp only [Bool.and_eq_true, decide_eq_true_eq] at h
    obtain ⟨⟨⟨⟨h1, h2⟩, h3⟩, -⟩, -⟩ := h
    rw [State.run_setRun, if_pos rfl]
    exact ⟨h2, h3, rfl, h1, rfl, rfl, fun _ => rfl⟩
  · rw [State.run_setRun, if_pos rfl]
    exact ⟨rfl, rfl, rfl, rfl, rfl, rfl, fun _ => rfl⟩

/-- A cluster waits at a barrier. -/
def Cluster.withBarrier (k : Cluster) (x : Option (Nat × Nat × Nat × Nat)) : Cluster := { k with barrier := x }

/-- The registers of a cluster whose BARRIER has issued. -/
def State.barrierRegs (c g : Nat) : State :=
  ((s.setF (pgDoc c) Reg.DOC_STAT_GRP g).setF (pgDoc c) Reg.DOC_LAND_LO_IDX 0).setF (pgDoc c) Reg.DOC_LAND_HI_IDX 0

theorem State.barrierRegs_does (c g : Nat) : (s.barrierRegs c g).mems = s.mems ∧ (s.barrierRegs c g).sched = s.sched ∧
    (s.barrierRegs c g).doc c = s.doc c := by
  have h {u : State} (f : Fld) (v : Nat) (hu : u.mems = s.mems ∧ u.sched = s.sched ∧ u.doc c = s.doc c)
      (hd : (u.setF (pgDoc c) f v).doc c = u.doc c) :
      (u.setF (pgDoc c) f v).mems = s.mems ∧ (u.setF (pgDoc c) f v).sched = s.sched ∧ (u.setF (pgDoc c) f v).doc c = s.doc c :=
    ⟨(u.setF_mems _ _ _).trans hu.1, (u.setF_sched _ _ _).trans hu.2.1, hd.trans hu.2.2⟩
  exact h _ _ (h _ _ (h _ _ ⟨rfl, rfl, rfl⟩ (State.getF_setF_field _ _ _ _)) (State.getF_setF_off _ _ _ _)) (State.getF_setF_off _ _ _ _)

section
variable {c : Nat} {d n : Desc} {rest : List Desc} (hq : (s.clu c).queue = d :: n :: rest) (h6 : d.cls = 6) (h2 : d.opc = 2)
  (hd : s.doc c = docBarrier) (hb : (s.clu c).barrier = none) (hbad : s.badBarrier d = false)
include hq h6 h2 hd hb hbad

/-- The branches of a BARRIER at the head, in order. -/
theorem State.barrier_eq : exec (.barrier c) s = .next
    (if !(n.cls = 6 && n.opc = 1) then s.refuseDesc c n
    else if (s.popHead c).missed d.grp (d.f 127 64) then
      ((s.popHead c).barrierMissed c d.grp (d.f 127 64)).setDoc c docStopped
    else
      let u := (s.popHead c).startRun d.grp (d.f 127 64) (d.f 191 128) (d.f 195 192)
      (u.barrierRegs c d.grp).setClu c ((u.clu c).withBarrier (some (d.f 127 64, d.f 191 128, d.f 195 192, d.grp)))) := by
  rw [show exec (.barrier c) s = execBarrier c s from rfl]
  unfold execBarrier
  dsimp only
  rw [hq]
  dsimp only
  rw [if_neg (by simp [h6, h2, hd, hb]), if_neg (by rw [hbad]; exact Bool.false_ne_true)]
  dsimp only [List.head?_cons]
  split
  · rfl
  · split <;> rfl

theorem State.barrier_starts (hn : n.cls = 6 ∧ n.opc = 1) (hm : s.missed d.grp (d.f 127 64) = false) :
    ∃ t, exec (.barrier c) s = .next t ∧ (t.clu c).barrier = some (d.f 127 64, d.f 191 128, d.f 195 192, d.grp) ∧
      (t.clu c).queue = n :: rest ∧ (t.run d.grp).idx = 0 ∧ (t.run d.grp).step = d.f 191 128 ∧
      (t.run d.grp).code = d.f 195 192 ∧ (t.run d.grp).tStart = d.f 127 64 ∧ t.doc c = docBarrier ∧ t.mems = s.mems := by
  have hp := s.popHead_on c
  rw [s.barrier_eq hq h6 h2 hd hb hbad, hp.missed, hm, if_neg (by simp [hn]), if_neg Bool.false_ne_true]
  generalize s.popHead c = v at hp
  obtain ⟨h1, h2, h3, h4, h5, h6, h7⟩ := v.startRun_does d.grp (d.f 127 64) (d.f 191 128) (d.f 195 192)
  generalize v.startRun d.grp (d.f 127 64) (d.f 191 128) (d.f 195 192) = u at h1 h2 h3 h4 h5 h6 h7
  obtain ⟨k1, k2, k3⟩ := u.barrierRegs_does c d.grp
  dsimp only
  generalize u.barrierRegs c d.grp = w at k1 k2 k3
  have hk : u.clu c = (s.clu c).popped (s.issueAt c) := by
    rw [show u.clu c = v.clu c by unfold State.clu; rw [h6]]
    exact hp.own
  obtain ⟨m1, m2, m3⟩ := w.setClu_parts c ((u.clu c).withBarrier (some (d.f 127 64, d.f 191 128, d.f 195 192, d.grp)))
  have hrun := (m2 d.grp).trans (State.run_congr k2 d.grp)
  have hqueue : ((u.clu c).withBarrier (some (d.f 127 64, d.f 191 128, d.f 195 192, d.grp))).queue = n :: rest := by
    rw [hk]
    change (s.clu c).queue.tail = _
    rw [hq]
    rfl
  refine ⟨_, rfl, ?_, ?_, by rw [hrun, h1], by rw [hrun, h2], by rw [hrun, h3], by rw [hrun, h4], ?_, m1.trans (k1.trans (h5.trans hp.mems))⟩
  · rw [State.clu_setClu, if_pos rfl]
    rfl
  · rw [State.clu_setClu, if_pos rfl]
    exact hqueue
  · rw [m3, k3]
    exact (congrArg (Fld.get _) (h7 _)).trans ((hp.doc c).trans hd)

theorem State.barrier_late (hn : n.cls = 6 ∧ n.opc = 1) (hm : s.missed d.grp (d.f 127 64) = true) :
    ∃ t, exec (.barrier c) s = .next t ∧ t.doc c = docStopped ∧ t.mems = s.mems ∧ t.runs = s.runs ∧
      Occurred s t (pgDoc c) 2 0x03 3 (leBytes 1 d.grp ++ leBytes 8 (d.f 127 64)) := by
  have hp := s.popHead_on c
  rw [s.barrier_eq hq h6 h2 hd hb hbad, hp.missed, hm, if_neg (by simp [hn]), if_pos rfl]
  generalize s.popHead c = v at hp
  unfold State.barrierMissed
  have ho := v.raise_occurred (pgDoc c) 2 0x03 3 (leBytes 1 d.grp ++ leBytes 8 (d.f 127 64)) (by decide)
  have ht := v.raise_told (pgDoc c) 2 0x03 3 (leBytes 1 d.grp ++ leBytes 8 (d.f 127 64))
  generalize v.raise (pgDoc c) 2 0x03 3 (leBytes 1 d.grp ++ leBytes 8 (d.f 127 64)) = u at ho ht
  exact ⟨_, rfl, State.doc_setDoc _ _ _, ht.mems.trans hp.mems, (congrArg Sched.runs ht.sched).trans hp.runs,
    hp.occurred (ho.after (State.getF_setF_off _ _ _ _) fun _ h => h)⟩

theorem State.barrier_refuses (hn : ¬ (n.cls = 6 ∧ n.opc = 1)) :
    ∃ t, exec (.barrier c) s = .next t ∧ t.doc c = docStopped ∧ t.mems = s.mems ∧ t.sched = s.sched ∧
      Occurred s t (pgDoc c) 0 0x01 3 (leBytes 2 n.slot ++ leBytes 1 n.cls ++ leBytes 1 n.opc) := by
  rw [s.barrier_eq hq h6 h2 hd hb hbad, if_pos (by have h := not_and_or.mp hn; simpa using h)]
  exact ⟨_, rfl, State.doc_setDoc _ _ _, s.refuseDesc_mems _ _, s.refuseDesc_sched _ _, s.refuseDesc_occurred _ _⟩

end

/-! ### FLIGHT (R326, R335) -/

/-- A cluster whose next flight is opened. -/
def Cluster.opened (k : Cluster) (d : Desc) (bar : Option (Nat × Nat × Nat × Nat)) : Cluster :=
  { k with next := some (d.f 87 64, d.w.getLsbD 88, d.grp), barrier := bar }

theorem Cluster.opened_popped (k : Cluster) (d : Desc) (bar : Option (Nat × Nat × Nat × Nat)) (at_ : Nat) :
    ((k.popped at_).opened d bar).next = some (d.f 87 64, d.w.getLsbD 88, d.grp) ∧ ((k.popped at_).opened d bar).queue = k.queue.tail ∧
      ((k.popped at_).opened d bar).barrier = bar := ⟨rfl, rfl, rfl⟩

section
variable {c : Nat} {d : Desc} (hq : (s.clu c).queue.head? = some d) (h6 : d.cls = 6) (h1 : d.opc = 1)
  (hn : (s.clu c).next = none) (hh : (s.clu c).halting = false)
include hq h6 h1 hn hh

theorem State.flight_refuses (hs : s.doc c = docFlight ∨ s.doc c = docBarrier) (hb : badFlight d = true) :
    exec (.flight c) s = .next (s.refuseDesc c d) := by
  rw [show exec (.flight c) s = execFlight c s from rfl]
  unfold execFlight
  dsimp only
  rw [hq]
  dsimp only
  rw [if_neg (by rcases hs with h | h <;> simp [h6, h1, hn, hh, h]), if_pos hb]

/-- A FLIGHT behind its BARRIER, or in a flight, opens the next flight. -/
theorem State.flight_opens (hs : s.doc c = docFlight ∨ (s.doc c = docBarrier ∧ (s.clu c).barrier.isSome)) (hb : badFlight d = false) :
    ∃ t, exec (.flight c) s = .next t ∧ OnCluster s t c (((s.clu c).popped (s.issueAt c)).opened d (s.clu c).barrier) := by
  rw [show exec (.flight c) s = execFlight c s from rfl]
  unfold execFlight
  dsimp only
  rw [hq]
  dsimp only
  have hne : ¬ (s.doc c = docBarrier ∧ (s.clu c).barrier = none) := by
    rintro ⟨e1, e2⟩
    rcases hs with h | ⟨-, h⟩
    · exact absurd (h.symm.trans e1) (by decide)
    · rw [e2] at h
      cases h
  have hpre : s.preFlight c = false := by
    unfold State.preFlight
    by_cases hd : s.doc c = docBarrier
    · have : (s.clu c).barrier.isNone = false := by
        rw [Option.isNone_eq_false_iff, Option.isSome_iff_ne_none]
        exact fun e => hne ⟨hd, e⟩
      simp [this]
    · simp [hd]
  rw [if_neg (by rcases hs with h | ⟨h, -⟩ <;> simp [h6, h1, hn, hh, h]), if_neg (by rw [hb]; exact Bool.false_ne_true), hpre,
    Bool.false_and, if_neg Bool.false_ne_true]
  have hp := s.popHead_on c
  generalize s.popHead c = v at hp
  have hcond : (decide (v.doc c = docBarrier) && (v.clu c).barrier.isNone) = false := by
    rw [hp.doc, hp.own, Bool.eq_false_iff]
    intro h
    simp only [Bool.and_eq_true, decide_eq_true_eq, Option.isNone_iff_eq_none] at h
    exact hne h
  rw [hcond, if_neg Bool.false_ne_true, if_neg Bool.false_ne_true, hp.own]
  exact ⟨_, rfl, hp.setClu _⟩

/-- A FLIGHT that no BARRIER precedes. -/
theorem State.flight_unbarred_eq (hd : s.doc c = docBarrier) (hb : (s.clu c).barrier = none) (hbad : badFlight d = false) :
    exec (.flight c) s = .next
      (if (s.run d.grp).stopped then (s.popHead c).stopCluster c
      else
        let v := s.popHead c
        (v.setRun d.grp { v.run d.grp with idx := 0, code := v.clkCode (dieOf c), tStart := v.rot }).setClu c
          ((v.clu c).opened d (some (v.rot, (v.run d.grp).step, v.clkCode (dieOf c), d.grp)))) := by
  rw [show exec (.flight c) s = execFlight c s from rfl]
  unfold execFlight
  dsimp only
  rw [hq]
  dsimp only
  have hpre : s.preFlight c = true := by simp [State.preFlight, hd, hn, hb]
  rw [if_neg (by simp [h6, h1, hn, hh, hd]), if_neg (by rw [hbad]; exact Bool.false_ne_true), hpre, Bool.true_and]
  have hp := s.popHead_on c
  generalize s.popHead c = v at hp
  have hcond : (decide (v.doc c = docBarrier) && (v.clu c).barrier.isNone) = true := by
    rw [hp.doc, hp.own, hd]
    change (true && (s.clu c).barrier.isNone) = true
    rw [hb]
    rfl
  rw [hcond, if_pos rfl, if_pos rfl]
  split <;> rfl

theorem State.flight_stopped (hd : s.doc c = docBarrier) (hb : (s.clu c).barrier = none) (hbad : badFlight d = false)
    (hs : (s.run d.grp).stopped = true) :
    ∃ t, exec (.flight c) s = .next t ∧ t.doc c = docStopped ∧ (t.clu c).queue = (s.clu c).queue.tail ∧ t.runs = s.runs ∧
      t.mems = s.mems := by
  rw [s.flight_unbarred_eq hq h6 h1 hn hh hd hb hbad, hs, if_pos rfl]
  have hp := s.popHead_on c
  generalize s.popHead c = v at hp
  refine ⟨_, rfl, State.doc_setDoc _ _ _, ?_, Eq.trans rfl hp.runs, Eq.trans rfl hp.mems⟩
  rw [v.stopCluster_eq, State.clu_setDoc, State.clu_setClu, if_pos rfl, hp.own]
  rfl

theorem State.flight_unbarred (hd : s.doc c = docBarrier) (hb : (s.clu c).barrier = none) (hbad : badFlight d = false)
    (hs : (s.run d.grp).stopped = false) :
    ∃ t, exec (.flight c) s = .next t ∧ (t.clu c).next = some (d.f 87 64, d.w.getLsbD 88, d.grp) ∧
      (t.clu c).queue = (s.clu c).queue.tail ∧ t.doc c = docBarrier ∧ t.mems = s.mems ∧
      (t.clu c).barrier = some (s.rot, (s.run d.grp).step, s.clkCode (dieOf c), d.grp) ∧
      (t.run d.grp).idx = 0 ∧ (t.run d.grp).tStart = s.rot ∧ (t.run d.grp).code = s.clkCode (dieOf c) := by
  rw [s.flight_unbarred_eq hq h6 h1 hn hh hd hb hbad, hs, if_neg Bool.false_ne_true]
  have hp := s.popHead_on c
  generalize s.popHead c = v at hp
  have hclk : v.clkCode (dieOf c) = s.clkCode (dieOf c) := by
    unfold State.clkCode
    rw [hp.getF pgPwr Reg.PWR_CLK_CODE]
  dsimp only
  rw [hp.own, hp.run, hp.rot, hclk]
  generalize hr : ({ s.run d.grp with idx := 0, code := s.clkCode (dieOf c), tStart := s.rot } : GroupRun) = r
  generalize some (s.rot, (s.run d.grp).step, s.clkCode (dieOf c), d.grp) = bar
  obtain ⟨o1, o2, o3⟩ := (s.clu c).opened_popped d bar (s.issueAt c)
  generalize ((s.clu c).popped (s.issueAt c)).opened d bar = k at o1 o2 o3
  have hk : ((v.setRun d.grp r).setClu c k).clu c = k := by rw [State.clu_setClu, if_pos rfl]
  have hrun : ((v.setRun d.grp r).setClu c k).run d.grp = r :=
    (State.run_of_runs (s := v.setRun d.grp r) rfl d.grp).trans (by rw [State.run_setRun, if_pos rfl])
  refine ⟨_, rfl, by rw [hk]; exact o1, by rw [hk]; exact o2, ?_, ?_, by rw [hk]; exact o3, ?_⟩
  · exact Eq.trans rfl ((hp.doc c).trans hd)
  · exact Eq.trans rfl hp.mems
  · rw [hrun, ← hr]
    exact ⟨rfl, rfl, rfl⟩

end

/-! ### HALT (R326, R335) -/

section
variable {c : Nat} {d : Desc} (hq : (s.clu c).queue.head? = some d) (h6 : d.cls = 6) (h7 : d.opc = 7)
  (hn : (s.clu c).next = none) (hh : (s.clu c).halting = false) (h0 : d.f 255 64 = 0) (hslot : d.slot < 8191)
include hq h6 h7 hn hh h0 hslot

theorem State.halt_eq (hs : s.doc c = docFlight ∨ s.doc c = docBarrier) :
    exec (.halt c) s = .next
      (let v := s.popHead c
      if v.doc c = docFlight then v.setClu c { v.clu c with halting := true }
      else (v.setDoc c docDone).raise (pgDoc c) 5 0x06 0 (leBytes 1 (v.grpOf c) ++ leBytes 8 (v.run (v.grpOf c)).idx)) := by
  rw [show exec (.halt c) s = execHalt c s from rfl]
  unfold execHalt
  dsimp only
  rw [hq]
  dsimp only
  have habove : d.above 63 = true := decide_eq_true h0
  rw [if_neg (by rcases hs with h | h <;> simp [h6, h7, hn, hh, h]), if_neg (by simp [habove, Nat.ne_of_lt hslot])]
  split <;> rfl

theorem State.halt_inFlight (hs : s.doc c = docFlight) :
    ∃ t, exec (.halt c) s = .next t ∧ (t.clu c).halting = true ∧ (t.clu c).queue = (s.clu c).queue.tail ∧ t.doc c = docFlight ∧
      t.mems = s.mems := by
  rw [s.halt_eq hq h6 h7 hn hh h0 hslot (.inl hs)]
  have hp := s.popHead_on c
  generalize s.popHead c = v at hp
  dsimp only
  rw [if_pos ((hp.doc c).trans hs), hp.own]
  have hv := hp.setClu { (s.clu c).popped (s.issueAt c) with halting := true }
  exact ⟨_, rfl, by rw [hv.own], by rw [hv.own]; rfl, (hv.doc c).trans hs, hv.mems⟩

theorem State.halt_atBarrier (hs : s.doc c = docBarrier) :
    ∃ t, exec (.halt c) s = .next t ∧ t.doc c = docDone ∧ t.mems = s.mems ∧
      Occurred s t (pgDoc c) 5 0x06 0 (leBytes 1 (s.grpOf c) ++ leBytes 8 (s.run (s.grpOf c)).idx) := by
  rw [s.halt_eq hq h6 h7 hn hh h0 hslot (.inr hs)]
  have hp := s.popHead_on c
  generalize s.popHead c = v at hp
  dsimp only
  rw [if_neg (by rw [hp.doc, hs]; decide), hp.grpOf, hp.run]
  have hd : (v.setDoc c docDone).doc c = docDone := State.doc_setDoc _ _ _
  have hm : (v.setDoc c docDone).mems = v.mems := v.setF_mems _ _ _
  have hf (f : Fld) (hf : Reg.DOC_STAT_STATE.off / 4 ≠ f.off / 4) (hl : f.off < 4096) :
      (v.setDoc c docDone).getF (pgDoc c) f = v.getF (pgDoc c) f := State.getF_setF_off _ _ _ _ hf (by decide) hl
  have hc : (v.setDoc c docDone).cur = v.cur := rfl
  generalize v.setDoc c docDone = u at hd hm hf hc
  have ht := u.raise_told (pgDoc c) 5 0x06 0 (leBytes 1 (s.grpOf c) ++ leBytes 8 (s.run (s.grpOf c)).idx)
  refine ⟨_, rfl, (ht.doc c).trans hd, ht.mems.trans (hm.trans hp.mems), hp.occurred ((u.raise_occurred _ _ _ _ _ (by decide)).before
    (hf _ (by decide) (by decide)) (hf _ (by decide) (by decide)) ?_ (by rw [hc]))⟩
  unfold State.flag
  rw [hf _ (by decide) (by decide)]

end

end

/-- Settles O37: the head leaves the queue, and one branch of its operation is taken. (A FLIGHT that no BARRIER precedes opens flight 1
at once: the model's choice, log 32.) -/
theorem barrierFlightHalt : Obligations.BarrierFlightHalt := by
  unfold Obligations.BarrierFlightHalt
  intro s c d _ hq h6 k
  refine ⟨fun n rest hql h2 hd hb hbad => ?_, fun h1 hn hh hs => ⟨fun hb => ?_, fun hlen => ?_⟩, fun h1 hn hh hd hb hbad => ⟨fun hs => ?_, fun hs => ?_⟩,
    fun h7 hn hh h0 hslot => ⟨fun hs => ?_, fun hs => ?_⟩⟩
  · exact ⟨fun a b hm => s.barrier_starts hql h6 h2 hd hb hbad ⟨a, b⟩ hm, fun a b hm => s.barrier_late hql h6 h2 hd hb hbad ⟨a, b⟩ hm,
      fun hn => s.barrier_refuses hql h6 h2 hd hb hbad hn⟩
  · obtain ⟨t, ht, ho⟩ := s.flight_opens hq h6 h1 hn hh hs hb
    obtain ⟨o1, o2, o3⟩ := (s.clu c).opened_popped d (s.clu c).barrier (s.issueAt c)
    exact ⟨t, ht, by rw [ho.own]; exact o1, by rw [ho.own]; exact o2, by rw [ho.own]; exact o3, ho.doc c, ho.mems, ho.runs, ho.other⟩
  · refine ⟨_, s.flight_refuses hq h6 h1 hn hh (hs.imp_right And.left) ?_, State.doc_setDoc _ _ _, s.refuseDesc_mems _ _,
      s.refuseDesc_sched _ _, s.refuseDesc_occurred _ _⟩
    simp [badFlight, hlen]
  · exact s.flight_stopped hq h6 h1 hn hh hd hb hbad hs
  · exact s.flight_unbarred hq h6 h1 hn hh hd hb hbad hs
  · exact s.halt_inFlight hq h6 h7 hn hh h0 hslot hs
  · exact s.halt_atBarrier hq h6 h7 hn hh h0 hslot hs

end Sys2Proof.Machine
end

section
/-! PROOFS of the statements on timed launch (spec/08_timed_launch.md), seventh part: LOOP, FENCE, SIGNAL and INTAKE (R326 to R328,
R552). -/
namespace Sys2Proof.Machine

/-- A descriptor that can issue does what its plan says, from the state in which it has issued. -/
theorem exec_of_canIssue {i : Instr} {a : Ask} {s : State} {d : Desc} (ha : askOf i = some a) (h : s.AtHead a d)
    (hk : s.CanIssue a d) : exec i s = .next ((a.plan s d).go (s.issue a.c d)) := by
  rw [exec_eq_tryIssue ha, tryIssue_atHead h, hk.good, hk.common, hk.free, hk.deps, if_neg (by decide), if_neg (by decide)]

/-- The operations of class 6 that are launches. -/
inductive CtlAsk : Ask → Prop
  | loop (c : Nat) : CtlAsk { c := c, cls := 6, opc := 3, plan := loopPlan c }
  | fence (c : Nat) : CtlAsk { c := c, cls := 6, opc := 4, plan := fencePlan c }
  | intake (c : Nat) : CtlAsk { c := c, cls := 6, opc := 5, plan := intakePlan c }
  | signal (c : Nat) : CtlAsk { c := c, cls := 6, opc := 6, plan := signalPlan c }

theorem ctlAsk_of_askOf {i : Instr} {a : Ask} (h : askOf i = some a) (hc : a.cls = 6) : CtlAsk a := by
  unfold askOf at h
  split at h <;> cases h <;> simp at hc <;> constructor

section
variable (s : State)

/-! ### The issue (R314) -/

theorem OnCluster.trans {s t u : State} {c : Nat} {k k' : Cluster} (h : OnCluster s t c k) (h' : OnCluster t u c k') :
    OnCluster s u c k' := by
  refine ⟨h'.sans.trans h.sans, fun c' => ?_, fun j hj => (h'.word j hj).trans (h.word j hj)⟩
  rw [h'.clu]
  split
  · rfl
  · next hc => rw [h.clu, if_neg hc]

/-- The entry of a cluster whose head descriptor has issued. -/
def Cluster.issuedAt (k : Cluster) (wait at_ : Nat) : Cluster := { k with waitAt := wait, queue := k.queue.tail, lastIssue := at_ }

theorem State.issue_on (c : Nat) (d : Desc) : ∃ wait at_, OnCluster s (s.issue c d) c ((s.clu c).issuedAt wait at_) := by
  unfold State.issue
  rw [s.waited_eq c d _ _ rfl]
  generalize (s.issueAt c - s.dueFrom c d) * s.freq (dieOf c) / 512 = n
  split
  · exact ⟨(s.clu c).waitAt, s.issueAt c, s.popHead_on c⟩
  · have h := ((OnCluster.refl s c).setClu { s.clu c with waitAt := s.dueFrom c d + s.cyc c n }).count (pgDoc c) Reg.DOC_CNT_WAIT n
      (by decide)
    generalize (s.setClu c { s.clu c with waitAt := s.dueFrom c d + s.cyc c n }).count (pgDoc c) Reg.DOC_CNT_WAIT n = u at h
    have hp := u.popHead_on c
    rw [h.own] at hp
    exact ⟨s.dueFrom c d + s.cyc c n, u.issueAt c, h.trans hp⟩

/-- What LOOP, FENCE and SIGNAL share: only the cluster's entry, now `k`, and the counts of the issue change. -/
structure CtlIssued (s t : State) (c : Nat) (d : Desc) (k : Cluster) : Prop where
  on : OnCluster s t c k
  counted : Counted s t (pgDoc c) Reg.DOC_CNT_ISSUE 1
  waited : Counted s t (pgDoc c) Reg.DOC_CNT_WAIT ((s.issueAt c - s.dueFrom c d) * s.freq (dieOf c) / 512)

theorem State.issue_ctl (c : Nat) (d : Desc) : ∃ wait at_, CtlIssued s (s.issue c d) c d ((s.clu c).issuedAt wait at_) := by
  obtain ⟨wait, at_, h⟩ := s.issue_on c d
  have hi := s.issue_issued c d
  exact ⟨wait, at_, h, hi.counted, hi.waited⟩

theorem CtlIssued.setClu {s t : State} {c : Nat} {d : Desc} {k : Cluster} (h : CtlIssued s t c d k) (k' : Cluster) :
    CtlIssued s (t.setClu c k') c d k' := ⟨h.on.setClu k', h.counted.congr rfl rfl rfl, h.waited.congr rfl rfl rfl⟩

/-! ### LOOP (R327) -/

/-- What a LOOP of count `n` does to the queue, the fetch and its counter. -/
structure LoopStep (k k' : Cluster) (target ctr n : Nat) : Prop where
  other : ∀ j, j ≠ ctr → k'.loops.getD j none = k.loops.getD j none
  once : k.loops.getD ctr none = none → n = 1 → k'.queue = k.queue.tail ∧ k'.loops.getD ctr none = none
  first : k.loops.getD ctr none = none → 2 ≤ n → k'.queue = [] ∧ k'.fetchPc = target ∧ k'.loops.getD ctr none = some (n - 2)
  last : k.loops.getD ctr none = some 0 → k'.queue = k.queue.tail ∧ k'.loops.getD ctr none = none
  again : ∀ v, k.loops.getD ctr none = some (v + 1) → k'.queue = [] ∧ k'.fetchPc = target ∧ k'.loops.getD ctr none = some v

theorem getD_set_same {α : Type} (l : List α) {i : Nat} (x y : α) (h : i < l.length) : (l.set i x).getD i y = x := by
  simp [List.getD_eq_getElem?_getD, h]

theorem getD_set_ne {α : Type} (l : List α) {i j : Nat} (x y : α) (h : j ≠ i) : (l.set i x).getD j y = l.getD j y := by
  simp [List.getD_eq_getElem?_getD, List.getElem?_set_ne h.symm]

theorem Desc.f_lt (d : Desc) (hi lo : Nat) : d.f hi lo < 2 ^ (hi + 1 - lo) := Nat.mod_lt _ (Nat.two_pow_pos _)

/-- A LOOP that issues: its counter starts, counts down, or ends. -/
theorem State.loop_steps (c : Nat) (d : Desc) (hg : (loopPlan c s d).bad = false) :
    ∃ k', CtlIssued s ((loopPlan c s d).go (s.issue c d)) c d k' ∧ k'.launches = (s.clu c).launches ∧
      ((s.clu c).loops.length = 4 → LoopStep (s.clu c) k' (d.f 76 64) (d.f 78 77) (d.f 110 79)) := by
  obtain ⟨wait, at_, hv⟩ := s.issue_ctl c d
  have hn : d.f 110 79 ≠ 0 := by
    have h : (decide (d.f 110 79 = 0) || decide (d.slot < d.f 76 64) || !d.above 110) = false := hg
    simp only [Bool.or_eq_false_iff, decide_eq_false_iff_not] at h
    exact h.1.1
  have hctr : d.f 78 77 < 4 := d.f_lt 78 77
  have hk : (s.issue c d).clu c = (s.clu c).issuedAt wait at_ := hv.on.own
  unfold loopPlan ctlPlan
  dsimp only
  generalize d.f 78 77 = ctr at hctr
  generalize d.f 110 79 = n at hn
  generalize d.f 76 64 = target
  have hset (hl : (s.clu c).loops.length = 4) (x : Option Nat) : ((s.clu c).loops.set ctr x).getD ctr none = x :=
    getD_set_same _ x none (hl ▸ hctr)
  have hne (x : Option Nat) (j : Nat) (hj : j ≠ ctr) : ((s.clu c).loops.set ctr x).getD j none = (s.clu c).loops.getD j none :=
    getD_set_ne _ x none hj
  cases hx : (s.clu c).loops.getD ctr none with
  | none =>
    dsimp only
    by_cases h1 : n = 1
    · rw [if_pos h1]
      exact ⟨_, hv, rfl, fun _ => ⟨fun _ _ => rfl, fun _ _ => ⟨rfl, hx⟩, fun _ h => by omega, fun h => absurd (hx.symm.trans h) nofun,
        fun v h => absurd (hx.symm.trans h) nofun⟩⟩
    · rw [if_neg h1]
      refine ⟨_, hv.setClu _, ?_, fun hl => ⟨hne _, fun _ h => absurd h h1, fun _ _ => ⟨rfl, rfl, hset hl _⟩,
        fun h => absurd (hx.symm.trans h) nofun, fun v h => absurd (hx.symm.trans h) nofun⟩⟩
      rw [hk]
      rfl
  | some m =>
    cases m with
    | zero =>
      dsimp only
      refine ⟨_, hv.setClu _, ?_, fun hl => ⟨hne _, fun h => absurd (hx.symm.trans h) nofun, fun h => absurd (hx.symm.trans h) nofun,
        fun _ => ⟨?_, hset hl _⟩, fun v h => absurd (hx.symm.trans h) nofun⟩⟩ <;> rw [hk] <;> rfl
    | succ m =>
      dsimp only
      refine ⟨_, hv.setClu _, ?_, fun hl => ⟨hne _, fun h => absurd (hx.symm.trans h) nofun, fun h => absurd (hx.symm.trans h) nofun,
        fun h => absurd (hx.symm.trans h) nofun, fun v h => ⟨rfl, rfl, (hset hl _).trans ?_⟩⟩⟩
      · rw [hk]
        rfl
      · rw [hx] at h
        cases h
        rfl

/-! ### SIGNAL (R326) and FENCE (R326) -/

theorem State.signal_notes (c : Nat) (d : Desc) : ∃ k', CtlIssued s ((signalPlan c s d).go (s.issue c d)) c d k' ∧
    k'.launches = (s.clu c).launches ∧ k'.queue = (s.clu c).queue.tail ∧ k'.signals = (s.clu c).signals ++ [d.f 79 64] := by
  obtain ⟨wait, at_, hv⟩ := s.issue_ctl c d
  have hk : (s.issue c d).clu c = (s.clu c).issuedAt wait at_ := hv.on.own
  refine ⟨_, hv.setClu _, ?_, ?_, ?_⟩ <;> rw [hk] <;> rfl

/-! ### What the stop of a replay leaves (R395) -/

/-- The words that the stop of a landing group and its event leave. -/
def Unstopped (j : Nat) : Prop := Unsent j ∧ (∀ c, j ≠ regIdx (pgDoc c) Reg.DOC_STAT_STATE) ∧ j ∉ eventWords pgDev

/-- What a stop keeps of the sequencer: the table and the queue of every cluster; memory, the queues of records, other words. -/
structure StopKeeps (s t : State) : Prop where
  mems : t.mems = s.mems
  inq : t.inq = s.inq
  launches : ∀ c, (t.clu c).launches = (s.clu c).launches
  queue : ∀ c, (t.clu c).queue = (s.clu c).queue
  word : ∀ j, Unstopped j → t.word j = s.word j

theorem Cluster.stopped_keeps (k : Cluster) : k.stopped.launches = k.launches ∧ k.stopped.queue = k.queue := ⟨rfl, rfl⟩

theorem Stopped.keeps {s t : State} {g : Nat} (h : Stopped s t g) : StopKeeps s t := by
  refine ⟨h.mems, (congrArg (fun x : State => x.inq) h.sans :), fun c => ?_, fun c => ?_, fun j hj => h.word j hj.1 hj.2.1⟩
  · rw [h.clu]
    split
    · exact (s.clu c).stopped_keeps.1
    · rfl
  · rw [h.clu]
    split
    · exact (s.clu c).stopped_keeps.2
    · rfl

theorem StopKeeps.trans {s t u : State} (h : StopKeeps s t) (k : StopKeeps t u) : StopKeeps s u :=
  ⟨k.mems.trans h.mems, k.inq.trans h.inq, fun c => (k.launches c).trans (h.launches c), fun c => (k.queue c).trans (h.queue c),
    fun j hj => (k.word j hj).trans (h.word j hj)⟩

theorem StopKeeps.ofClusters {s t : State} (hm : t.mems = s.mems) (hi : t.inq = s.inq) (hc : t.sched = s.sched)
    (hw : ∀ j, Unstopped j → t.word j = s.word j) : StopKeeps s t :=
  ⟨hm, hi, fun c => by rw [State.clu_congr hc], fun c => by rw [State.clu_congr hc], hw⟩

theorem State.sendStops_inq (g : Nat) : (s.sendStops g).inq = s.inq :=
  foldl_keeps State.inq _ (fun t _ => t.sendChunk_inq _ _ _ _) _ s

theorem State.sendStops_keeps (g : Nat) : StopKeeps s (s.sendStops g) :=
  .ofClusters (s.sendStops_told g).mems (s.sendStops_inq g) (s.sendStops_told g).sched fun _ hj => s.word_sendStopsAt g _ hj.1

/-- The stop of a replay whose session key is gone, in full. -/
def State.keyGone (s : State) (g : Nat) (data : List Byte) : State := ((s.raise pgDev 10 0x1A 3 data).enterStop g).sendStops g

theorem State.keyGone_does (g : Nat) (data : List Byte) : StopKeeps s (s.keyGone g data) ∧ Halted s (s.keyGone g data) g ∧
    ((s.keyGone g data).getF pgDev Reg.PG_EVT).testBit 10 = true := by
  unfold State.keyGone
  have hu : StopKeeps s (s.raise pgDev 10 0x1A 3 data) :=
    .ofClusters (s.raise_mems _ _ _ _ _) (s.raise_inq _ _ _ _ _) (s.raise_sched _ _ _ _ _) fun j hj => s.word_raise _ _ _ _ _ hj.2.2
  have hh := s.raise_enterStop pgDev 10 0x1A 3 data g
  have he := (s.raise_occurred pgDev 10 0x1A 3 data (by decide)).isSet
  generalize s.raise pgDev 10 0x1A 3 data = u at hu hh he
  have hz := u.enterStop_stopped g
  have hv : (u.enterStop g).getF pgDev Reg.PG_EVT = u.getF pgDev Reg.PG_EVT := hz.evt
  have hk := hu.trans hz.keeps
  generalize u.enterStop g = v at hz hh hv hk
  refine ⟨hk.trans (v.sendStops_keeps g), hh.after (v.sendStops_told g), ?_⟩
  rw [show (v.sendStops g).getF pgDev Reg.PG_EVT = v.getF pgDev Reg.PG_EVT from
    congrArg (Fld.get _) (v.word_sendStopsAt g _ (unsent_regIdx _ _)), hv]
  exact he

/-- REPLAY_KEY acts on a record whose key is gone, in a replay. -/
theorem State.replayKey_cases (g : Nat) (r : IqRec) :
    (s.replayKey g r = s ∧ ¬ (s.getF pgDev Reg.DEV_DET_CTL_DIVERGE = 3 ∧ s.intakeData r = none)) ∨
      ∃ data, s.replayKey g r = s.keyGone g data ∧ s.intakeData r = none := by
  unfold State.replayKey
  cases ha : r.acc with
  | none => exact .inl ⟨rfl, fun h => by simp [State.intakeData, ha] at h⟩
  | some x =>
    obtain ⟨sid, ep, seq⟩ := x
    dsimp only
    split
    · next h =>
      simp only [Bool.and_eq_true, Option.isNone_iff_eq_none] at h
      exact .inr ⟨_, rfl, h.2⟩
    · next h =>
      simp only [Bool.and_eq_true, decide_eq_true_eq, Option.isNone_iff_eq_none] at h
      exact .inl ⟨rfl, h⟩

/-! ### INTAKE (R328, R552) -/

/-- What an INTAKE sees hangs on the queues, the group's run and the mode. -/
theorem OnCluster.visible {s t : State} {c : Nat} {k : Cluster} (h : OnCluster s t c k) (q g : Nat) : t.visible q g = s.visible q g := by
  unfold State.visible State.iq State.iqs State.replayEnd
  rw [h.inq, h.run, h.getF pgDev Reg.DEV_DET_CTL_DIVERGE, h.flag pgDev Reg.DEV_DET_STAT_UNCHECKED]

theorem State.intakeData_congr {s t : State} (h : t.accSess = s.accSess) (r : IqRec) : t.intakeData r = s.intakeData r := by
  unfold State.intakeData
  rw [h]

theorem State.head_of_visible {q g : Nat} {r : IqRec} (h : s.visible q g = some r) : (s.iq q).recs.head? = some r := by
  unfold State.visible at h
  dsimp only at h
  cases hr : (s.iq q).recs.head? with
  | none =>
    rw [hr] at h
    cases h
  | some x =>
    rw [hr] at h
    dsimp only at h
    have hx : x = r := by
      split_ifs at h <;> cases h <;> rfl
    rw [hx]

/-- The record that the cluster takes leaves its queue. -/
def State.takeRec (q : Nat) (r : Option IqRec) : State := if r.isSome then s.dropRec q else s

theorem State.takeRec_does (q : Nat) (r : Option IqRec) : ∃ x, s.takeRec q r = { s with inq.iqs := x } ∧
    ((s.takeRec q r).iq q).recs = if r.isSome then (s.iq q).recs.tail else (s.iq q).recs := by
  unfold State.takeRec
  split
  · unfold State.dropRec
    dsimp only
    split
    · next h => exact ⟨s.iqs, rfl, by rw [h]; rfl⟩
    · next h =>
      refine ⟨_, rfl, ?_⟩
      rw [show ((s.setIq q _).iq q) = _ from (sget_sset _ _ _ _ _).trans (if_pos rfl), h]
      rfl
  · exact ⟨s.iqs, rfl, rfl⟩

/-- The bytes of an INTAKE are written, and its flag. -/
def State.storeIntake (c lo : Nat) (bs : List Byte) (inv : Bool) : State :=
  let k := s.clu c
  let s := (s.setClu c { k with issued := k.issued + 1 }).writeBytes 0 lo bs
  let s := s.addUnits c (2 * k.issued) (storeUnits false [(lo, bs)])
  if inv then s.setVecFlags c Flags.INV.word else s

/-- The record that an INTAKE sees. -/
def State.seenRec (c q : Nat) : Option IqRec := if s.doc c = docFlight then s.visible q (s.grpOf c) else none

/-- A replay stops where the key of the record taken is gone. -/
def State.checkKey (c : Nat) (r : Option IqRec) : State :=
  match r with
  | some x => s.replayKey (s.grpOf c) x
  | none => s

theorem State.intakeGo_eq (c q dst mx : Nat) : s.intakeGo c q dst mx =
    ((s.takeRec q (s.seenRec c q)).storeIntake c (localAddr c dst) (s.intakeBytes (s.seenRec c q) mx).1
      (s.intakeBytes (s.seenRec c q) mx).2).checkKey c (s.seenRec c q) := rfl

/-- What the store of an INTAKE changes. -/
structure IntakeStored (s t : State) (c lo : Nat) (bs : List Byte) (inv : Bool) : Prop where
  kept : BytesKept s t lo (lo + bs.length)
  mem : s.errs = [] → t.mem = written s.mem [(lo, bs)]
  cat : t.cat = s.cat
  im : t.im = s.im
  am : t.am = s.am
  inq : t.inq = s.inq
  launches : (t.clu c).launches = (s.clu c).launches
  queue : (t.clu c).queue = (s.clu c).queue
  word : ∀ j, QuietWord j → j ≠ regIdx (pgVec c) vecFlagsF → t.word j = s.word j
  flag : inv = true → (t.getF (pgVec c) vecFlagsF).testBit 3 = true

theorem State.inv_setVecFlags (c : Nat) : ((s.setVecFlags c Flags.INV.word).getF (pgVec c) vecFlagsF).testBit 3 = true := by
  have h : (s.setVecFlags c Flags.INV.word).getF (pgVec c) vecFlagsF = (s.getF (pgVec c) vecFlagsF ||| Flags.INV.word) % 2 ^ 5 :=
    s.getF_setF_same _ _
  rw [h, Nat.testBit_mod_two_pow, Nat.testBit_or, show Flags.INV.word.testBit 3 = true by decide]
  simp

theorem State.addUnits_inq (c key : Nat) (bs : List Byte) : (s.addUnits c key bs).inq = s.inq := by
  rcases s.addUnits_eq c key bs with e | ⟨u, e⟩ <;> rw [e]
  rfl

theorem State.addUnits_queue (c key : Nat) (bs : List Byte) : ((s.addUnits c key bs).clu c).launches = (s.clu c).launches ∧
    ((s.addUnits c key bs).clu c).queue = (s.clu c).queue := by
  obtain ⟨u, e⟩ := s.clu_addUnits_same c key bs
  rw [e]
  exact ⟨rfl, rfl⟩

theorem State.writeBytes_stored (c lo : Nat) (bs : List Byte) : IntakeStored s (s.writeBytes 0 lo bs) c lo bs false where
  kept a ha := s.byteAt_writeBytes_out 0 lo bs ha
  mem h := s.writeBytes_mem 0 lo bs h
  cat := s.writeBytes_cat 0 lo bs
  im := s.writeBytes_im 0 lo bs
  am := s.writeBytes_am 0 lo bs
  inq := s.writeBytes_inq 0 lo bs
  launches := by rw [State.clu_congr (s.writeBytes_sched 0 lo bs)]
  queue := by rw [State.clu_congr (s.writeBytes_sched 0 lo bs)]
  word j hj _ := hj.writeBytes s 0 lo bs
  flag := nofun

/-- What precedes the store leaves memory, the queues of records, the cluster's table and queue, and registers. -/
theorem IntakeStored.before {s u t : State} {c lo : Nat} {bs : List Byte} {inv : Bool} (h : IntakeStored u t c lo bs inv)
    (hm : u.mems = s.mems) (hi : u.inq = s.inq) (hl : (u.clu c).launches = (s.clu c).launches) (hq : (u.clu c).queue = (s.clu c).queue)
    (hw : ∀ j, u.word j = s.word j) : IntakeStored s t c lo bs inv where
  kept a ha := (h.kept a ha).trans (State.byteAt_congr (congrArg Mems.mem hm) a)
  mem he := by
    have hu : u.errs = [] := (congrArg Mems.errs hm).trans he
    rw [h.mem hu, show u.mem = s.mem from congrArg Mems.mem hm]
  cat := h.cat.trans (congrArg Mems.cat hm)
  im := h.im.trans (congrArg Mems.im hm)
  am := h.am.trans (congrArg Mems.am hm)
  inq := h.inq.trans hi
  launches := h.launches.trans hl
  queue := h.queue.trans hq
  word j hj hf := (h.word j hj hf).trans (hw j)
  flag := h.flag

/-- What follows it leaves them too, and sets the flag. -/
theorem IntakeStored.after {s t u : State} {c lo : Nat} {bs : List Byte} {inv inv' : Bool} (h : IntakeStored s t c lo bs inv)
    (hm : u.mems = t.mems) (hi : u.inq = t.inq) (hl : (u.clu c).launches = (t.clu c).launches) (hq : (u.clu c).queue = (t.clu c).queue)
    (hw : ∀ j, j ≠ regIdx (pgVec c) vecFlagsF → u.word j = t.word j)
    (hf : inv' = true → (u.getF (pgVec c) vecFlagsF).testBit 3 = true) : IntakeStored s u c lo bs inv' where
  kept a ha := (State.byteAt_congr (congrArg Mems.mem hm) a).trans (h.kept a ha)
  mem he := (congrArg Mems.mem hm).trans (h.mem he)
  cat := (congrArg Mems.cat hm).trans h.cat
  im := (congrArg Mems.im hm).trans h.im
  am := (congrArg Mems.am hm).trans h.am
  inq := hi.trans h.inq
  launches := hl.trans h.launches
  queue := hq.trans h.queue
  word j hj hv := (hw j hv).trans (h.word j hj hv)
  flag := hf

theorem State.storeIntake_stored (c lo : Nat) (bs : List Byte) (inv : Bool) :
    IntakeStored s (s.storeIntake c lo bs inv) c lo bs inv := by
  unfold State.storeIntake
  extract_lets k u v
  have hu : IntakeStored s u c lo bs false := by
    have hk : (s.setClu c { k with issued := k.issued + 1 }).clu c = { k with issued := k.issued + 1 } := by
      rw [State.clu_setClu, if_pos rfl]
    exact (State.writeBytes_stored _ c lo bs).before rfl rfl (by rw [hk]) (by rw [hk]) fun _ => rfl
  clear_value u
  have hv : IntakeStored s v c lo bs false :=
    hu.after (u.addUnits_mems _ _ _) (u.addUnits_inq _ _ _) (u.addUnits_queue c _ _).1 (u.addUnits_queue c _ _).2
      (fun _ _ => u.word_addUnits _ _ _ _) nofun
  clear_value v
  cases inv with
  | false => exact hv
  | true =>
    exact hv.after rfl rfl rfl rfl (fun _ hj => v.word_setF_ne _ hj) fun _ => v.inv_setVecFlags c

/-- The words of the counters of a cluster's sequencer, and of its state, are no vector flags. -/
theorem pgDoc_ne_vecFlags (c : Nat) (f : Fld) (hf : f.off < 4096 := by decide) : regIdx (pgDoc c) f ≠ regIdx (pgVec c) vecFlagsF :=
  regIdx_ne_page _ _ (by unfold pgDoc pgVec; omega) (by decide) hf

theorem pgDev_ne_vecFlags (c : Nat) (f : Fld) (hf : f.off < 4096 := by decide) : regIdx pgDev f ≠ regIdx (pgVec c) vecFlagsF :=
  regIdx_ne_page _ _ (by unfold pgDev pgVec; omega) (by decide) hf

theorem unstopped_regIdx (pg : Nat) (f : Fld)
    (hf : f.off / 4 ≠ Reg.LNK_CNT_REROUTE.off / 4 ∧ f.off / 4 ≠ Reg.CLO_CNT_DISCARD.off / 4 ∧ f.off < 4096 := by decide)
    (hs : Reg.DOC_STAT_STATE.off / 4 ≠ f.off / 4 := by decide) (hp : pg ≠ pgDev) : Unstopped (regIdx pg f) := by
  refine ⟨unsent_regIdx pg f hf, fun c => regIdx_ne_off _ _ Reg.DOC_STAT_STATE f hs (by decide) hf.2.2, ?_⟩
  have h : eventWords pgDev = [regIdx pgDev Reg.PG_EVT] := rfl
  rw [h, List.mem_singleton]
  exact regIdx_ne_page _ _ hp (by decide) hf.2.2

theorem OnCluster.seenRec {s t : State} {c : Nat} {k : Cluster} (h : OnCluster s t c k) (q : Nat) : t.seenRec c q = s.seenRec c q := by
  unfold State.seenRec
  rw [h.doc, h.grpOf, h.visible]

/-- What an INTAKE of queue q does, from the state in which it has issued. -/
structure IntakeDone (s t : State) (c q lo : Nat) (r : Option IqRec) (bs : List Byte) (inv : Bool) : Prop where
  kept : BytesKept s t lo (lo + bs.length)
  mem : s.errs = [] → t.mem = written s.mem [(lo, bs)]
  cat : t.cat = s.cat
  im : t.im = s.im
  am : t.am = s.am
  recs : (t.iq q).recs = if r.isSome then (s.iq q).recs.tail else (s.iq q).recs
  launches : (t.clu c).launches = (s.clu c).launches
  queue : (t.clu c).queue = (s.clu c).queue
  count : ∀ f : Fld, f = Reg.DOC_CNT_ISSUE ∨ f = Reg.DOC_CNT_WAIT → t.getF (pgDoc c) f = s.getF (pgDoc c) f
  flag : inv = true → (t.getF (pgVec c) vecFlagsF).testBit 3 = true

/-- A replay's stop behind the store changes nothing of this but the state of the group. -/
theorem IntakeDone.after {s t u : State} {c q lo : Nat} {r : Option IqRec} {bs : List Byte} {inv : Bool}
    (h : IntakeDone s t c q lo r bs inv) (k : StopKeeps t u) :
    IntakeDone s u c q lo r bs inv where
  kept a ha := (State.byteAt_congr (congrArg Mems.mem k.mems) a).trans (h.kept a ha)
  mem he := (congrArg Mems.mem k.mems).trans (h.mem he)
  cat := (congrArg Mems.cat k.mems).trans h.cat
  im := (congrArg Mems.im k.mems).trans h.im
  am := (congrArg Mems.am k.mems).trans h.am
  recs := (congrArg (fun x : Inputs => (sget (fun _ => ({} : Iq)) x.iqs q).recs) k.inq).trans h.recs
  launches := (k.launches c).trans h.launches
  queue := (k.queue c).trans h.queue
  count f hf := by
    have hw : Unstopped (regIdx (pgDoc c) f) := by
      rcases hf with rfl | rfl <;> exact unstopped_regIdx _ _ (by decide) (by decide) (by unfold pgDoc pgDev; omega)
    exact (congrArg f.get (k.word _ hw)).trans (h.count f hf)
  flag hi := by
    rw [show u.getF (pgVec c) vecFlagsF = t.getF (pgVec c) vecFlagsF from
      congrArg (Fld.get _) (k.word _ (unstopped_regIdx _ _ (by decide) (by decide) (by unfold pgVec pgDev; omega)))]
    exact h.flag hi

theorem State.mem_stoppable {c : Nat} (hc : c < 512) (hd : s.doc c = docFlight) : c ∈ s.stoppable (s.grpOf c) := by
  unfold State.stoppable State.running
  rw [List.mem_filter, List.mem_range, hd]
  exact ⟨hc, by simp [docFlight]⟩

theorem State.intakeGo_done (c q dst mx : Nat) :
    IntakeDone s (s.intakeGo c q dst mx) c q (localAddr c dst) (s.seenRec c q) (s.intakeBytes (s.seenRec c q) mx).1
      (s.intakeBytes (s.seenRec c q) mx).2 ∧
    ∀ x, s.seenRec c q = some x → s.intakeData x = none → s.getF pgDev Reg.DEV_DET_CTL_DIVERGE = 3 → s.doc c = docFlight → c < 512 →
      (s.intakeGo c q dst mx).doc c = docStopped ∧ ((s.intakeGo c q dst mx).run (s.grpOf c)).stopped = true ∧
        ((s.intakeGo c q dst mx).getF pgDev Reg.PG_EVT).testBit 10 = true := by
  rw [s.intakeGo_eq]
  generalize s.seenRec c q = r
  obtain ⟨x, hx, hrecs⟩ := s.takeRec_does q r
  have hst := (s.takeRec q r).storeIntake_stored c (localAddr c dst) (s.intakeBytes r mx).1 (s.intakeBytes r mx).2
  generalize (s.intakeBytes r mx).1 = bs at hst ⊢
  generalize (s.intakeBytes r mx).2 = inv at hst ⊢
  generalize localAddr c dst = lo at hst ⊢
  generalize s.takeRec q r = v at hx hrecs hst ⊢
  generalize v.storeIntake c lo bs inv = u at hst ⊢
  have hm : v.mems = s.mems := by rw [hx]
  have hw (j : Nat) : v.word j = s.word j := by rw [hx]; rfl
  have hk : v.clu c = s.clu c := by rw [hx]; rfl
  have hacc : v.accSess = s.accSess := by rw [hx]
  have hword (pg : Nat) (f : Fld) (hq : QuietWord (regIdx pg f)) (hf : regIdx pg f ≠ regIdx (pgVec c) vecFlagsF) :
      u.getF pg f = s.getF pg f := congrArg f.get ((hst.word _ hq hf).trans (hw _))
  have hgrp : u.grpOf c = s.grpOf c := hword _ _ (quietWord_pgDoc c _) (pgDoc_ne_vecFlags c _)
  have hdoc : u.doc c = s.doc c := hword _ _ (quietWord_pgDoc c _) (pgDoc_ne_vecFlags c _)
  have hdiv : u.getF pgDev Reg.DEV_DET_CTL_DIVERGE = s.getF pgDev Reg.DEV_DET_CTL_DIVERGE :=
    hword _ _ (quietWord_pgDev _) (pgDev_ne_vecFlags c _)
  have hdata (y : IqRec) : u.intakeData y = s.intakeData y :=
    State.intakeData_congr ((congrArg (fun i : Inputs => i.accSess) hst.inq).trans hacc) y
  have hdone : IntakeDone s u c q lo r bs inv :=
    { kept := fun a ha => (hst.kept a ha).trans (State.byteAt_congr (congrArg Mems.mem hm) a)
      mem := fun he => (hst.mem ((congrArg Mems.errs hm).trans he)).trans (congrArg (fun m : Mems => written m.mem [(lo, bs)]) hm)
      cat := hst.cat.trans (congrArg Mems.cat hm)
      im := hst.im.trans (congrArg Mems.im hm)
      am := hst.am.trans (congrArg Mems.am hm)
      recs := (congrArg (fun i : Inputs => (sget (fun _ => ({} : Iq)) i.iqs q).recs) hst.inq).trans hrecs
      launches := hst.launches.trans (by rw [hk])
      queue := hst.queue.trans (by rw [hk])
      count := fun f hf => by
        rcases hf with rfl | rfl <;> exact hword _ _ (quietWord_pgDoc c _) (pgDoc_ne_vecFlags c _)
      flag := hst.flag }
  cases hr : r with
  | none =>
    rw [hr] at hdone
    exact ⟨hdone, fun y hy => nomatch hy⟩
  | some y =>
    rw [hr] at hdone
    rcases u.replayKey_cases (u.grpOf c) y with ⟨e, hno⟩ | ⟨data, e, -⟩
    · rw [hdiv, hdata] at hno
      rw [State.checkKey, e]
      exact ⟨hdone, fun z hz h1 h2 => absurd ⟨h2, by cases hz; exact h1⟩ hno⟩
    · rw [State.checkKey, e]
      obtain ⟨h1, h2, h3⟩ := u.keyGone_does (u.grpOf c) data
      refine ⟨hdone.after h1, fun z _ _ _ hd hc => ⟨h2.doc_of_mem c (u.mem_stoppable hc (hdoc.trans hd)), ?_, h3⟩⟩
      rw [← hgrp]
      exact h2.stopped

theorem State.intakeBytes_none (mx : Nat) : s.intakeBytes none mx = (leBytes 8 0, false) := rfl

theorem State.intakeBytes_gone {r : IqRec} (h : s.intakeData r = none) (mx : Nat) : s.intakeBytes (some r) mx = (leBytes 8 0, true) := by
  unfold State.intakeBytes
  dsimp only
  rw [h]

theorem State.intakeBytes_some {r : IqRec} {bs : List Byte} (h : s.intakeData r = some bs) (mx : Nat) :
    s.intakeBytes (some r) mx = (leBytes 8 bs.length ++ bs.take mx, decide (mx < bs.length)) := by
  unfold State.intakeBytes
  dsimp only
  rw [h]

theorem State.intakeBytes_length (r : Option IqRec) (mx : Nat) : (s.intakeBytes r mx).1.length ≤ 8 + mx := by
  cases r with
  | none =>
    rw [s.intakeBytes_none, leBytes_length]
    omega
  | some x =>
    cases h : s.intakeData x with
    | none =>
      rw [s.intakeBytes_gone h, leBytes_length]
      omega
    | some bs =>
      rw [s.intakeBytes_some h, List.length_append, leBytes_length, List.length_take]
      omega

theorem OnCluster.intakeBytes {s t : State} {c : Nat} {k : Cluster} (h : OnCluster s t c k) (r : Option IqRec) (mx : Nat) :
    t.intakeBytes r mx = s.intakeBytes r mx := by
  have hd (x : IqRec) : t.intakeData x = s.intakeData x := State.intakeData_congr (congrArg (fun i : Inputs => i.accSess) h.inq) x
  unfold State.intakeBytes
  simp only [hd]

theorem BytesKept.mono {s t : State} {lo hi hi' : Nat} (h : BytesKept s t lo hi) (hle : hi ≤ hi') : BytesKept s t lo hi' :=
  fun a ha => h a (ha.imp_right hle.trans)

/-- What an INTAKE that issues does. -/
theorem State.intake_does (c : Nat) (d : Desc) (hc : c < 512) :
    let t := (intakePlan c s d).go (s.issue c d)
    let k := s.clu c
    let q := d.f 67 64
    let lo := localAddr c (d.f 87 68)
    let mx := d.f 111 88
    Counted s t (pgDoc c) Reg.DOC_CNT_ISSUE 1 ∧
    Counted s t (pgDoc c) Reg.DOC_CNT_WAIT ((s.issueAt c - s.dueFrom c d) * s.freq (dieOf c) / 512) ∧ (t.clu c).launches = k.launches ∧
    t.cat = s.cat ∧ t.im = s.im ∧ t.am = s.am ∧ (t.clu c).queue = k.queue.tail ∧ BytesKept s t lo (lo + 8 + mx) ∧
    (s.seenRec c q = none → (t.iq q).recs = (s.iq q).recs ∧ (s.errs = [] → t.mem = written s.mem [(lo, leBytes 8 0)])) ∧
    (∀ r, s.seenRec c q = some r → s.intakeData r = none → (t.iq q).recs = (s.iq q).recs.tail ∧
      (s.errs = [] → t.mem = written s.mem [(lo, leBytes 8 0)]) ∧ (t.getF (pgVec c) vecFlagsF).testBit 3 = true ∧
      (s.getF pgDev Reg.DEV_DET_CTL_DIVERGE = 3 → t.doc c = docStopped ∧ (t.run (s.grpOf c)).stopped = true ∧
        (t.getF pgDev Reg.PG_EVT).testBit 10 = true)) ∧
    (∀ r bs, s.seenRec c q = some r → s.intakeData r = some bs → (t.iq q).recs = (s.iq q).recs.tail ∧
      (s.errs = [] → t.mem = written s.mem [(lo, leBytes 8 bs.length ++ bs.take mx)]) ∧
      (mx < bs.length → (t.getF (pgVec c) vecFlagsF).testBit 3 = true)) := by
  obtain ⟨wait, at_, hv⟩ := s.issue_ctl c d
  intro t k q lo mx
  have ht : t = (s.issue c d).intakeGo c q (d.f 87 68) mx := rfl
  clear_value t
  generalize s.issue c d = v at hv ht
  have hon := hv.on
  obtain ⟨hd, hstop⟩ := v.intakeGo_done c q (d.f 87 68) mx
  rw [← ht, hon.seenRec, hon.intakeBytes] at hd
  rw [← ht, hon.seenRec] at hstop
  have hiq : v.iq q = s.iq q := congrArg (fun i : Inputs => sget (fun _ => ({} : Iq)) i.iqs q) hon.inq
  have herrs (h : s.errs = []) : v.errs = [] := (congrArg Mems.errs hon.mems).trans h
  have hmem : v.mem = s.mem := congrArg Mems.mem hon.mems
  have hrecs := hd.recs
  have hflight {r : IqRec} (hr : s.seenRec c q = some r) : s.doc c = docFlight := by
    by_contra hne
    rw [State.seenRec, if_neg hne] at hr
    cases hr
  refine ⟨hv.counted.congr rfl rfl (hd.count _ (.inl rfl)), hv.waited.congr rfl rfl (hd.count _ (.inr rfl)), ?_,
    hd.cat.trans (congrArg Mems.cat hon.mems), hd.im.trans (congrArg Mems.im hon.mems), hd.am.trans (congrArg Mems.am hon.mems), ?_, ?_,
    fun hr => ?_, fun r hr hg => ?_, fun r bs hr hg => ?_⟩
  · rw [hd.launches, hon.own]
    rfl
  · rw [hd.queue, hon.own]
    rfl
  · intro a ha
    refine (hd.kept.mono (hi' := lo + 8 + mx) ?_ a ha).trans (State.byteAt_congr (congrArg Mems.mem hon.mems) a)
    have := s.intakeBytes_length (s.seenRec c q) mx
    omega
  · rw [hr, s.intakeBytes_none] at hd
    rw [hr] at hrecs
    exact ⟨hrecs.trans (by rw [hiq]; rfl), fun he => (hd.mem (herrs he)).trans (by rw [hmem])⟩
  · rw [hr, s.intakeBytes_gone hg] at hd
    rw [hr] at hrecs
    refine ⟨hrecs.trans (by rw [hiq]; rfl), fun he => (hd.mem (herrs he)).trans (by rw [hmem]), hd.flag rfl, fun h3 => ?_⟩
    have hdata : v.intakeData r = none :=
      (State.intakeData_congr (congrArg (fun i : Inputs => i.accSess) hon.inq) r).trans hg
    have hs := hstop r hr hdata ((hon.getF pgDev Reg.DEV_DET_CTL_DIVERGE).trans h3) ((hon.doc c).trans (hflight hr)) hc
    rwa [hon.grpOf] at hs
  · rw [hr, s.intakeBytes_some hg] at hd
    rw [hr] at hrecs
    exact ⟨hrecs.trans (by rw [hiq]; rfl), fun he => (hd.mem (herrs he)).trans (by rw [hmem]), fun h => hd.flag (decide_eq_true h)⟩

end

/-- Settles O36, operation by operation. (That these issue before the first flight too, where an INTAKE sees no record, is the model's
choice, log 32; that the length is the record's own, and that a record whose keys are gone is taken, log 34.) -/
theorem loopFenceSignalIntake : Obligations.LoopFenceSignalIntake := by
  intro i a s d hi hcls hc h hk k
  have hexec := exec_of_canIssue hi h hk
  cases ctlAsk_of_askOf hi hcls with
  | loop c =>
    obtain ⟨k', hv, hl, hstep⟩ := s.loop_steps c d hk.good
    have hm := hv.on.mems
    refine ⟨_, hexec, hv.counted, hv.waited, by rw [hv.on.own]; exact hl, congrArg Mems.cat hm, congrArg Mems.im hm, congrArg Mems.am hm,
      fun _ h4 => ⟨hm, ?_⟩, nofun, nofun, nofun⟩
    rw [show ((loopPlan c s d).go (s.issue c d)).clu c = k' from hv.on.own]
    exact ⟨(hstep h4).other, (hstep h4).once, (hstep h4).first, (hstep h4).last, (hstep h4).again⟩
  | fence c =>
    obtain ⟨wait, at_, hv⟩ := s.issue_ctl c d
    have hfree : ((s.clu c).launches.isEmpty && (s.clu c).colls.isEmpty) = true := hk.free
    simp only [Bool.and_eq_true, List.isEmpty_iff] at hfree
    have hm := hv.on.mems
    refine ⟨s.issue c d, hexec, hv.counted, hv.waited, by rw [hv.on.own]; rfl, congrArg Mems.cat hm, congrArg Mems.im hm, congrArg Mems.am hm,
      nofun, fun _ => ⟨hfree.1, hfree.2, by rw [hv.on.own]; rfl, hm⟩, nofun, nofun⟩
  | intake c =>
    obtain ⟨h1, h2, h3, h4, h5, h6, h7, h8, h9, h10, h11⟩ := s.intake_does c d hc
    exact ⟨_, hexec, h1, h2, h3, h4, h5, h6, nofun, nofun, nofun, fun _ => ⟨h7, h8, h9, h10, h11⟩⟩
  | signal c =>
    obtain ⟨k', hv, h1, h2, h3⟩ := s.signal_notes c d
    have hm := hv.on.mems
    exact ⟨_, hexec, hv.counted, hv.waited, by rw [hv.on.own]; exact h1, congrArg Mems.cat hm, congrArg Mems.im hm, congrArg Mems.am hm,
      nofun, nofun, fun _ => ⟨by rw [hv.on.own]; exact h2, by rw [hv.on.own]; exact h3, hm⟩, nofun⟩

end Sys2Proof.Machine
end

section
/-! PROOFS of the statements on timed launch (spec/08_timed_launch.md), eighth part: the descriptor fetch (R312, R313, R429) and the
commands of DOC_CTL (R352, R356, R357). -/
namespace Sys2Proof.Machine

/-! ### Entries that are put back into a sparse map -/

theorem lt_of_skeysAbove {α : Type} {l : List (Nat × α)} {j : Nat} (h : skeysAbove j l = true) {p : Nat × α} (hp : p ∈ l) : j < p.1 := by
  induction l with
  | nil => cases hp
  | cons q l ih =>
    obtain ⟨i, a⟩ := q
    simp only [skeysAbove, Bool.and_eq_true, decide_eq_true_eq] at h
    rcases List.mem_cons.mp hp with rfl | hp
    · exact h.1
    · exact ih h.2 hp

/-- The entries of a well-formed map, written over another one: a read finds an entry that has been written, else what stood there. -/
theorem sget_foldl_sset {α : Type} [DecidableEq α] (d : Nat → α) {l : List (Nat × α)} (hl : swf d l = true) (m : List (Nat × α)) (k : Nat) :
    sget d (l.foldl (fun m p => sset d m p.1 p.2) m) k = if ∃ p ∈ l, p.1 = k then sget d l k else sget d m k := by
  induction l generalizing m with
  | nil => simp
  | cons q l ih =>
    obtain ⟨j, a⟩ := q
    simp only [swf, Bool.and_eq_true, decide_eq_true_eq] at hl
    obtain ⟨⟨-, habove⟩, hl⟩ := hl
    rw [List.foldl_cons, ih hl]
    by_cases hk : k = j
    · subst hk
      have hno : ¬ ∃ p ∈ l, p.1 = k := by
        rintro ⟨p, hp, rfl⟩
        exact absurd (lt_of_skeysAbove habove hp) (lt_irrefl _)
      rw [if_neg hno, if_pos ⟨(k, a), List.mem_cons_self, rfl⟩, sget_sset_same, sget, if_pos rfl]
    · have hiff : (∃ p ∈ (j, a) :: l, p.1 = k) ↔ ∃ p ∈ l, p.1 = k := by
        simp [Ne.symm hk]
      simp only [hiff, sget_sset_ne d m a hk]
      rw [sget, if_neg hk]

/-- The entries of one range are replaced by those of a well-formed map whose keys all lie in it. -/
theorem sget_restored {α : Type} [DecidableEq α] (d : Nat → α) {l : List (Nat × α)} (hl : swf d l = true) {lo hi : Nat}
    (hr : ∀ p ∈ l, lo ≤ p.1 ∧ p.1 < hi) (m : List (Nat × α)) (k : Nat) :
    sget d (l.foldl (fun m p => sset d m p.1 p.2) (sclear m lo hi)) k = if lo ≤ k ∧ k < hi then sget d l k else sget d m k := by
  rw [sget_foldl_sset d hl, sget_sclear]
  by_cases hk : ∃ p ∈ l, p.1 = k
  · obtain ⟨p, hp, rfl⟩ := hk
    rw [if_pos ⟨p, hp, rfl⟩, if_pos (hr p hp)]
  · rw [if_neg hk]
    split
    · exact ((sget_mem_or d l k).resolve_left fun h => hk ⟨_, h, rfl⟩).symm
    · rfl

theorem mem_sput_new {α : Type} {m : List (Nat × α)} {k : Nat} {v : α} (h : ∀ p ∈ m, p.1 ≠ k) (p : Nat × α) :
    p ∈ sput m k v ↔ p = (k, v) ∨ p ∈ m := by
  induction m with
  | nil => simp [sput]
  | cons q m ih =>
    obtain ⟨j, a⟩ := q
    have hj : k ≠ j := fun e => h (j, a) List.mem_cons_self e.symm
    rw [sput, if_neg hj]
    split
    · simp
    · rw [List.mem_cons, ih fun q hq => h q (List.mem_cons_of_mem _ hq), List.mem_cons]
      tauto

theorem mem_foldl_sput {α : Type} (l : List (Nat × α)) (hl : (l.map (·.1)).Nodup) (m : List (Nat × α))
    (h : ∀ p ∈ m, ∀ q ∈ l, p.1 ≠ q.1) (p : Nat × α) : p ∈ l.foldl (fun m p => sput m p.1 p.2) m ↔ p ∈ l ∨ p ∈ m := by
  induction l generalizing m with
  | nil => simp
  | cons q l ih =>
    rw [List.map_cons, List.nodup_cons] at hl
    have hm (r : Nat × α) := mem_sput_new (v := q.2) (fun r hr => h r hr q List.mem_cons_self) r
    rw [List.foldl_cons, ih hl.2, hm, List.mem_cons]
    · tauto
    · intro r hr r' hr' e
      rcases (hm r).mp hr with rfl | hr
      · exact hl.1 (List.mem_map.mpr ⟨r', hr', e.symm⟩)
      · exact h r hr r' (List.mem_cons_of_mem _ hr') e

section
variable (s : State)

/-! ### An uncorrectable word of the instruction memory (R429) -/

theorem State.slotOf_le (c : Nat) : s.slotOf c ≤ 16 := by
  unfold State.slotOf
  dsimp only
  split <;> omega

theorem State.slotOf_congr {s t : State} (c : Nat)
    (h : t.word (regIdx (pgRgn (regionOf c)) Reg.RGN_SPARE_USED) = s.word (regIdx (pgRgn (regionOf c)) Reg.RGN_SPARE_USED)) :
    t.slotOf c = s.slotOf c := by
  have h1 : t.getF (pgRgn (regionOf c)) Reg.RGN_SPARE_USED = s.getF (pgRgn (regionOf c)) Reg.RGN_SPARE_USED := congrArg (Fld.get _) h
  have h2 : t.getF (pgRgn (regionOf c)) Reg.RGN_SPARE_LOCAL = s.getF (pgRgn (regionOf c)) Reg.RGN_SPARE_LOCAL := congrArg (Fld.get _) h
  unfold State.slotOf State.flag
  dsimp only
  rw [h1, h2]

theorem testBit_or_two_pow_mod (x i n : Nat) (h : i < n) : ((x ||| 2 ^ i) % 2 ^ n).testBit i = true := by
  rw [Nat.testBit_mod_two_pow, Nat.testBit_or, Nat.testBit_two_pow_self]
  simp [h]

theorem pgRgn_ne_pgClu (r c : Nat) (hr : r < 32) : pgRgn r ≠ pgClu c := by
  unfold pgRgn pgClu
  omega

/-- What the report of an uncorrectable word shows on the cluster's page and its region's. -/
theorem State.foundUE_fetch {c : Nat} (hc : c < 512) (off : Nat) :
    ((s.foundUE (3 * 4096 + c) off 1).getF (pgClu c) Reg.PG_EVT).testBit 0 = true ∧
    ((s.foundUE (3 * 4096 + c) off 1).getF (pgRgn (regionOf c)) Reg.RGN_SLOT_FAIL_SLOTS).testBit (s.slotOf c) = true := by
  have h3 : (3 * 4096 + c) / 4096 = 3 := by omega
  have hm : (3 * 4096 + c) % 4096 = c := by omega
  have hr : regionOf c < 32 := by unfold regionOf; omega
  unfold State.foundUE
  extract_lets pg addr synd c1 c2 c3 c4 c5 c6 c7 s1 u1 u2 s2
  have hpg : pg = pgClu c := by
    unfold pg instPage
    rw [h3, hm]
    rfl
  have hset (t : State) (f : Fld) (v j : Nat) (hj : j / 1024 ≠ pg) (hf : f.off < 4096) : (t.setF pg f v).word j = t.word j :=
    t.word_setF_ne v (ne_regIdx_of_page hj hf)
  have h1 (j : Nat) (hj : j / 1024 ≠ pg) : s1.word j = s.word j := by
    unfold s1
    split
    · exact hset _ _ _ j hj (by decide)
    · simp (disch := first | exact hj | decide) only [hset, c1, c2, c3, c4, c5, c6, c7]
  have hu1 (j : Nat) (hj : j / 1024 ≠ pg) : u1.word j = s1.word j := by
    unfold u1
    split
    · exact s1.word_count_ne _ (ne_regIdx_of_page hj (by decide))
    · rfl
  have hs2 : s2 = u2.count pgEcc Reg.ECC_CNT_UE_SRAM 1 := if_neg (by omega)
  have hu2 : u2 = u1.failSlot (regionOf c) (s.slotOf c) := by
    have hslot : u1.slotOf c = s.slotOf c := by
      have hj : regIdx (pgRgn (regionOf c)) Reg.RGN_SPARE_USED / 1024 ≠ pg := by
        rw [regIdx_page _ _ (by decide), hpg]
        exact pgRgn_ne_pgClu _ _ hr
      exact State.slotOf_congr c ((hu1 _ hj).trans (h1 _ hj))
    have hf : faultsSlot (3 * 4096 + c) 1 = true := by
      unfold faultsSlot
      rw [h3]
      rfl
    unfold u2
    rw [if_pos hf, hm, hslot]
  have hfail : (u2.getF (pgRgn (regionOf c)) Reg.RGN_SLOT_FAIL_SLOTS).testBit (s.slotOf c) = true := by
    rw [hu2, State.failSlot, State.orF, State.getF_setF_same]
    exact testBit_or_two_pow_mod _ _ _ (Nat.lt_succ_of_le (s.slotOf_le c))
  refine ⟨?_, ?_⟩
  · rw [← hpg]
    exact (s2.raise_occurred pg 0 0x08 2 _ (by decide)).isSet
  · rw [State.getF_raise _ _ _ _ _ _ _ _ (not_mem_eventWords_of_off _ (by rw [regIdx, Nat.mul_comm, Nat.mul_add_mod]; decide)), hs2,
      State.getF_count_ne _ _ (regIdx_ne_off _ _ Reg.ECC_CNT_UE_SRAM Reg.RGN_SLOT_FAIL_SLOTS)]
    exact hfail

/-- A trap leaves the words that neither its registers nor its event touch. -/
theorem State.word_trap (c bit slot : Nat) (after : Option (Nat × Nat)) {j : Nat} (h1 : j ≠ regIdx (pgDoc c) Reg.DOC_TRAP_CAUSE)
    (h2 : j ≠ regIdx (pgDoc c) Reg.DOC_STAT_STATE) (h3 : j ∉ eventWords (pgDoc c)) : (s.trap c bit slot after).word j = s.word j := by
  unfold State.trap
  extract_lets t u
  have hu : u.word j = s.word j := (t.word_raiseBy _ _ _ _ _ _ h3).trans (s.word_setF_ne _ h1)
  split
  · exact hu
  · exact (u.word_setF_ne _ h2).trans hu

/-- The event word of another page belongs to no other page's events. -/
theorem evt_not_mem_eventWords {pg pg' : Nat} (h : pg ≠ pg') : regIdx pg Reg.PG_EVT ∉ eventWords pg' := by
  have h0 : regIdx pg Reg.PG_EVT ≠ regIdx pg' Reg.PG_EVT := regIdx_ne_page _ _ h
  unfold eventWords
  split
  · simpa using h0
  · next d _ =>
    have h1 := regIdx_ne_off (pgDie d) pg Reg.DIE_EVTQ Reg.PG_EVT
    have h2 := regIdx_ne_off (pgDie d) pg Reg.DIE_CNT_EVT Reg.PG_EVT
    have h3 := regIdx_ne_off (pgDie d) pg Reg.DIE_CNT_EVTDROP Reg.PG_EVT
    simp [h0, h1, h2, h3]

/-! ### DESCRIPTOR_FETCH (R312, R313) -/

theorem Desc.len_eq (d : Desc) : d.len = if d.w.getLsbD 14 && decide (d.slot < 8191) then 2 else 1 := rfl

theorem State.imErr_noErrs (c i : Nat) (h : s.errs = []) : s.imErr c i = 0 := if_pos (by rw [h]; rfl)

section
variable {c : Nat} (hr : s.running c = true)
include hr

/-- The fetch of a listed descriptor, by the error marks of its slots. -/
theorem State.fetch_eq (hl : ∀ d, (s.clu c).queue.head? = some d → listedOpc d.cls d.opc = true) (hq : (s.clu c).queue.length < 32)
    (hp : (s.clu c).fetchPc < 8192) :
    exec (.descriptorFetch c) s =
      (let k := s.clu c
       let d := s.descAt c k.fetchPc
       let e := if d.len = 2 then max (s.imErr c d.slot) (s.imErr c (d.slot + 1)) else s.imErr c d.slot
       let bad := if s.imErr c d.slot = 2 then d.slot else d.slot + 1
       if e = 2 then .next ((s.foundUE (3 * 4096 + c) (32 * bad) 1).trap c 2 bad (some (0x08, pgClu c)))
       else
         let s := if e = 1 then s.foundCE (3 * 4096 + c) else s
         .next (s.setClu c { k with queue := k.queue ++ [d], fetchPc := k.fetchPc + d.len })) := by
  have hj : (match (s.clu c).queue.head? with
      | some d => (s.issuable c || s.preFlight c) && !listedOpc d.cls d.opc
      | none => false) = false := by
    cases h : (s.clu c).queue.head? with
    | none => rfl
    | some d =>
      dsimp only
      rw [hl d h, Bool.not_true, Bool.and_false]
  have hroom : ¬ (decide (32 ≤ (s.clu c).queue.length) || decide (8192 ≤ (s.clu c).fetchPc)) = true := by
    simp only [Bool.or_eq_true, decide_eq_true_eq]
    omega
  rw [show exec (.descriptorFetch c) s = execDescriptorFetch c s from rfl]
  unfold execDescriptorFetch
  dsimp only
  rw [if_neg (by rw [hr]; decide), if_neg (by rw [Bool.not_eq_true]; exact hj), if_neg hroom]

theorem State.fetch_refuses (d : Desc) (hq : (s.clu c).queue.head? = some d) (hi : s.issuable c = true ∨ s.preFlight c = true)
    (hl : listedOpc d.cls d.opc = false) : exec (.descriptorFetch c) s = .next (s.refuseDesc c d) := by
  rw [show exec (.descriptorFetch c) s = execDescriptorFetch c s from rfl]
  have hj : ((s.issuable c || s.preFlight c) && !listedOpc d.cls d.opc) = true := by
    rw [hl]
    simpa using hi
  unfold execDescriptorFetch
  dsimp only
  rw [hq]
  dsimp only
  rw [if_neg (by rw [hr]; decide), if_pos hj]

/-- A slot without an error enters the queue, with its extension. -/
theorem State.fetch_enters (hl : ∀ d, (s.clu c).queue.head? = some d → listedOpc d.cls d.opc = true) (hq : (s.clu c).queue.length < 32)
    (hp : (s.clu c).fetchPc < 8192) (he : s.errs = []) :
    ∃ t, exec (.descriptorFetch c) s = .next t ∧ (t.clu c).queue = (s.clu c).queue ++ [s.descAt c (s.clu c).fetchPc] ∧
      (t.clu c).fetchPc = (s.clu c).fetchPc +
        (if (s.descAt c (s.clu c).fetchPc).w.getLsbD 14 && decide ((s.clu c).fetchPc < 8191) then 2 else 1) ∧
      t = { s with sched.clusters := t.clusters } ∧ ∀ c', c' ≠ c → t.clu c' = s.clu c' := by
  rw [s.fetch_eq hr hl hq hp]
  dsimp only
  generalize hd : s.descAt c (s.clu c).fetchPc = d
  have hslot : d.slot = (s.clu c).fetchPc := by rw [← hd]; rfl
  rw [s.imErr_noErrs _ _ he, s.imErr_noErrs _ _ he, Nat.max_self, ite_self, if_neg (by decide), if_neg (by decide), Desc.len_eq, hslot]
  refine ⟨_, rfl, ?_, ?_, rfl, fun c' hc => ?_⟩
  · rw [State.clu_setClu, if_pos rfl]
  · rw [State.clu_setClu, if_pos rfl]
  · rw [State.clu_setClu, if_neg hc]

/-- A word that cannot be corrected traps the cluster (R429). -/
theorem State.fetch_traps (hc : c < 512) (hl : ∀ d, (s.clu c).queue.head? = some d → listedOpc d.cls d.opc = true)
    (hq : (s.clu c).queue.length < 32) (hp : (s.clu c).fetchPc < 8192) (h2 : s.imErr c (s.clu c).fetchPc = 2)
    (h3 : s.imErr c ((s.clu c).fetchPc + 1) ≤ 2) :
    ∃ t, exec (.descriptorFetch c) s = .next t ∧ (t.clu c).queue = (s.clu c).queue ∧
      (t.doc c = docTrapped ∨ t.doc c = docDone) ∧ (t.getF (pgDoc c) Reg.DOC_TRAP_CAUSE).testBit 2 = true ∧
      (t.getF (pgDoc c) Reg.PG_EVT).testBit 1 = true ∧ (t.getF (pgClu c) Reg.PG_EVT).testBit 0 = true ∧
      (t.getF (pgRgn (regionOf c)) Reg.RGN_SLOT_FAIL_SLOTS).testBit (s.slotOf c) = true ∧
      t.mems.mem = s.mems.mem ∧ t.im = s.im := by
  rw [s.fetch_eq hr hl hq hp]
  dsimp only
  have hslot : (s.descAt c (s.clu c).fetchPc).slot = (s.clu c).fetchPc := rfl
  generalize s.descAt c (s.clu c).fetchPc = d at hslot
  rw [hslot, h2, Nat.max_eq_left h3, ite_self, if_pos rfl, if_pos rfl]
  obtain ⟨e1, e2⟩ := s.foundUE_fetch hc (32 * (s.clu c).fetchPc)
  have hs := s.foundUE_sched (3 * 4096 + c) (32 * (s.clu c).fetchPc) 1
  have hm := s.foundUE_mems (3 * 4096 + c) (32 * (s.clu c).fetchPc) 1
  generalize s.foundUE (3 * 4096 + c) (32 * (s.clu c).fetchPc) 1 = u at e1 e2 hs hm
  obtain ⟨t1, t2, t3, t4, t5⟩ := u.trap_does c 2 (s.clu c).fetchPc (some (0x08, pgClu c))
  have hw {j : Nat} (k1 : j ≠ regIdx (pgDoc c) Reg.DOC_TRAP_CAUSE) (k2 : j ≠ regIdx (pgDoc c) Reg.DOC_STAT_STATE)
      (k3 : j ∉ eventWords (pgDoc c)) := u.word_trap c 2 (s.clu c).fetchPc (some (0x08, pgClu c)) k1 k2 k3
  generalize u.trap c 2 (s.clu c).fetchPc (some (0x08, pgClu c)) = t at t1 t2 t3 t4 t5 hw
  have hpg : pgClu c ≠ pgDoc c := by unfold pgClu pgDoc; omega
  have hpr : pgRgn (regionOf c) ≠ pgDoc c := by unfold pgRgn pgDoc regionOf; omega
  refine ⟨t, rfl, ?_, t1, ?_, t2, ?_, ?_, congrArg Mems.mem (t4.trans hm), congrArg Mems.im (t4.trans hm)⟩
  · rw [State.clu_congr (t5.trans hs)]
  · rw [t3]
    exact testBit_or_two_pow_mod _ _ _ (by decide)
  · rw [show t.getF (pgClu c) Reg.PG_EVT = u.getF (pgClu c) Reg.PG_EVT from
      congrArg (Fld.get _) (hw (regIdx_ne_page _ _ hpg) (regIdx_ne_page _ _ hpg) (evt_not_mem_eventWords hpg))]
    exact e1
  · rw [show t.getF (pgRgn (regionOf c)) Reg.RGN_SLOT_FAIL_SLOTS = u.getF (pgRgn (regionOf c)) Reg.RGN_SLOT_FAIL_SLOTS from
      congrArg (Fld.get _) (hw (regIdx_ne_page _ _ hpr) (regIdx_ne_off _ _ Reg.DOC_STAT_STATE Reg.RGN_SLOT_FAIL_SLOTS)
        (not_mem_eventWords_of_off _ (by rw [regIdx, Nat.mul_comm, Nat.mul_add_mod]; decide)))]
    exact e2

end

/-! ### Writes of DOC_CTL (R356, R357) -/

/-- A write of DOC_CTL to a page that takes it stores nothing: its bits are actions (R673). -/
theorem State.writeReg_docCtl {c : Nat} (hc : c < 512) (val : Nat)
    (h : (s.writeReg (pgDoc c) docCtlOff val true).reaches (pgDoc c) = true) : s.writeReg (pgDoc c) docCtlOff val true = s := by
  have hp : s.writePage .doc c (pgDoc c) docCtlOff val = s := by
    have hne : pgDoc c ≠ pgDev := by unfold pgDoc pgDev; omega
    unfold State.writePage
    rw [if_neg (by decide), if_neg (by decide), if_neg (by decide), if_neg (by decide), if_neg (by decide)]
    exact if_neg hne
  have hne1 : ¬ (decide (0x100 ≤ pgDoc c) && decide (pgDoc c < 0x108)) = true := by
    unfold pgDoc
    simp only [Bool.and_eq_true, decide_eq_true_eq]
    omega
  have hne2 : pgDoc c ≠ 0x108 := by
    unfold pgDoc
    omega
  cases hx : s.writable (pgDoc c) with
  | none =>
    have hw : s.writeReg (pgDoc c) docCtlOff val true = s.count pgPci Reg.PCI_CNT_BADREG 1 := by
      unfold State.writeReg
      dsimp only
      rw [if_neg hne1, if_neg hne2, if_neg (by decide)]
      simp only [hx]
    rw [hw] at h
    have hn : (s.count pgPci Reg.PCI_CNT_BADREG 1).writable (pgDoc c) = none :=
      (State.writable_congr (s.count_part _ _ _) (s.getF_count_ne _ (regIdx_ne_page _ _ (by decide))) _).trans hx
    simp [State.reaches, hn] at h
  | some x =>
    obtain ⟨b, i⟩ := x
    obtain ⟨rfl, rfl⟩ : Block.doc = b ∧ c = i := by simpa [pageBlock_pgDoc hc] using s.pageBlock_of_writable hx
    unfold State.writeReg
    dsimp only
    rw [if_neg hne1, if_neg hne2, if_neg (by decide)]
    simp only [hx, hp, ite_self]

/-- The group's run, that was `r`, and the entry of the cluster go on from the saved context, at instant `T`. -/
def State.resumed (c : Nat) (x : Ctx) (T : Nat) (r : GroupRun) : State :=
  let u := s.setRun x.grp { r with idx := x.idx, step := x.step, tStart := T }
  (u.setClu c { u.clu c with
    barrier := if x.next.isSome then some (T, x.step, (u.run x.grp).code, x.grp) else none }).setDoc c docBarrier

section
variable {c val : Nat} (hc : c < 512)
  (hr : (s.writeReg (pgDoc c) docCtlOff val true).reaches (pgDoc c) = true)
include hc hr

/-- GO (R356, log 33). -/
theorem State.docGo_does (h0 : val.testBit 0 = true) (hd : s.doc c = docIdle) (hl : s.released c = true) :
    ∃ t, exec (.docGo c val) s = .next t ∧ t.doc c = docBarrier ∧
      (t.clu c).fetchPc = s.getF (pgDoc c) Reg.DOC_START_START ∧ (t.clu c).queue = [] ∧
      (∀ j, (t.clu c).loops.getD j none = none) ∧ (t.clu c).next = none ∧ t.mems = s.mems ∧
      ∀ c', c' ≠ c → t.clu c' = s.clu c' := by
  have hu := s.writeReg_docCtl hc val hr
  rw [hu] at hr
  rw [show exec (.docGo c val) s = execDocGo c val s from rfl]
  unfold execDocGo
  dsimp only
  rw [hu, if_neg (by simp [h0, hd, hr, hl])]
  refine ⟨_, rfl, State.doc_setDoc _ _ _, ?_, ?_, fun j => ?_, ?_, rfl, fun c' h => ?_⟩
  · rw [State.clu_setDoc, State.clu_setClu, if_pos rfl]
  · rw [State.clu_setDoc, State.clu_setClu, if_pos rfl]
  · rw [State.clu_setDoc, State.clu_setClu, if_pos rfl]
    match j with
    | 0 | 1 | 2 | 3 | _ + 4 => rfl
  · rw [State.clu_setDoc, State.clu_setClu, if_pos rfl]
  · rw [State.clu_setDoc, State.clu_setClu, if_neg h]

/-- ABORT, in every state (R357, log 33). -/
theorem State.docAbort_does (h2 : val.testBit 2 = true) :
    ∃ t, exec (.docAbort c val) s = .next t ∧ t.doc c = docStopped ∧ t.mems = s.mems ∧
      (t.clu c).launches = (s.clu c).launches ∧ ∀ c', c' ≠ c → t.clu c' = s.clu c' := by
  have hu := s.writeReg_docCtl hc val hr
  rw [hu] at hr
  rw [show exec (.docAbort c val) s = execDocAbort c val s from rfl]
  unfold execDocAbort
  dsimp only
  rw [hu, if_pos (by simp [h2, hr])]
  refine ⟨_, rfl, State.doc_setDoc _ _ _, rfl, ?_, fun c' h => ?_⟩
  · rw [s.stopCluster_eq, State.clu_setDoc, State.clu_setClu, if_pos rfl]
    rfl
  · rw [s.stopCluster_eq, State.clu_setDoc, State.clu_setClu, if_neg h]

/-- The instant written for a resume. -/
def State.resumeAt (c : Nat) : Nat := s.getF (pgDoc c) Reg.DOC_RESUME_LO_T + s.getF (pgDoc c) Reg.DOC_RESUME_HI_T * 2 ^ 32

/-- The branches of a RESUME of a saved cluster. -/
theorem State.docResume_eq (x : Ctx) (hx : (s.clu c).saved = some x) (h1 : val.testBit 1 = true) (hd : s.doc c = docSaved) :
    exec (.docResume c val) s =
      (if s.missed x.grp (s.resumeAt c) then .next (s.barrierMissed c x.grp (s.resumeAt c))
      else if s.ueIn (s.ctxAddr c) (ctxBytes x.tiles) then
        .next ((s.touch (s.ctxAddr c) (ctxBytes x.tiles) 8).raise (pgDoc c) 3 0x04 2 (leBytes 1 x.grp ++ leBytes 8 x.idx ++ leBytes 1 0))
      else
        .next ((s.restoreCtx c x).resumed c x (s.resumeAt c) (s.run x.grp))) := by
  have hu := s.writeReg_docCtl hc val hr
  rw [hu] at hr
  rw [show exec (.docResume c val) s = execDocResume c val s from rfl]
  unfold execDocResume
  dsimp only
  rw [hu, hx]
  dsimp only
  rw [if_neg (by simp [h1, hd, hr])]
  rfl

end

/-! ### A context comes back (R355, R356) -/

/-- The entry of a cluster whose context has come back. -/
def Cluster.restored (k : Cluster) (x : Ctx) : Cluster :=
  { k with saved := none, fetchPc := x.pc, queue := x.queue, loops := x.loops, next := x.next }

/-- The tiles and their entries come back. -/
def State.restoreTiles (c : Nat) (x : Ctx) : State :=
  { s with
    mems.tiles := x.tiles.foldl (fun m (p : Nat × TileRec) => sput m p.1 p.2) (sclear s.tiles (c * 256) ((c + 1) * 256)),
    mems.am := x.am.foldl (fun m (p : Nat × BitVec 512) => sset (fun _ => 0) m p.1 p.2) (sclear s.am (c * 131072) ((c + 1) * 131072)) }

/-- The sticky flags of the arrays come back. -/
def State.restoreArr (c : Nat) (ws : List Nat) : State := (ws.zipIdx).foldl (fun s (w, a) => s.setF (pgArr c) (arrFlagsF a) w) s

/-- Those of the vector engine come back. -/
def State.restoreVec (c : Nat) (x : Ctx) : State :=
  ((s.setF (pgVec c) vecFlagsF x.vecFlags).setF (pgVec c) sfuFlagsF x.sfuFlags).setWord (regIdx (pgVec c) Reg.VEC_ROW_STAT_ROW_NAR) x.rowStat

theorem State.restoreCtx_eq (c : Nat) (x : Ctx) : s.restoreCtx c x =
    (((s.setClu c ((s.clu c).restored x)).restoreTiles c x).restoreArr c x.arrFlags).restoreVec c x := rfl

theorem State.restoreTiles_does (c : Nat) (x : Ctx) : (s.restoreTiles c x).sched = s.sched ∧ (s.restoreTiles c x).mem = s.mem ∧
    (s.restoreTiles c x).cat = s.cat ∧ (s.restoreTiles c x).im = s.im ∧
    (swf (fun _ => 0) x.am = true → (∀ p ∈ x.am, 131072 * c ≤ p.1 ∧ p.1 < 131072 * (c + 1)) → ∀ k,
      sget (fun _ => 0) (s.restoreTiles c x).am k =
        if 131072 * c ≤ k ∧ k < 131072 * (c + 1) then sget (fun _ => 0) x.am k else sget (fun _ => 0) s.am k) ∧
    ((x.tiles.map (·.1)).Nodup → (∀ p ∈ x.tiles, 256 * c ≤ p.1 ∧ p.1 < 256 * (c + 1)) → ∀ p,
      p ∈ (s.restoreTiles c x).tiles ↔ p ∈ x.tiles ∨ p ∈ s.tiles ∧ (p.1 < 256 * c ∨ 256 * (c + 1) ≤ p.1)) := by
  refine ⟨rfl, rfl, rfl, rfl, fun hw hr k => ?_, fun hn hr p => ?_⟩
  · unfold State.restoreTiles
    dsimp only [State.am]
    rw [Nat.mul_comm c, Nat.mul_comm (c + 1)]
    exact sget_restored _ hw hr s.am k
  · unfold State.restoreTiles
    dsimp only [State.tiles]
    rw [Nat.mul_comm c, Nat.mul_comm (c + 1), mem_foldl_sput _ hn, mem_sclear]
    intro q hq r hr' e
    obtain ⟨-, hout⟩ := mem_sclear.mp hq
    have := hr r hr'
    omega

theorem State.restoreArr_keeps (c : Nat) (ws : List Nat) : (s.restoreArr c ws).mems = s.mems ∧ (s.restoreArr c ws).sched = s.sched :=
  ⟨foldl_keeps State.mems _ (fun t (p : Nat × Nat) => t.setF_mems (pgArr c) (arrFlagsF p.2) p.1) _ s,
    foldl_keeps State.sched _ (fun t (p : Nat × Nat) => t.setF_sched (pgArr c) (arrFlagsF p.2) p.1) _ s⟩

theorem State.getF_restoreArr (c : Nat) {ws : List Nat} (hw : ws.length = 4) {a : Nat} (ha : a < 4) :
    (s.restoreArr c ws).getF (pgArr c) (arrFlagsF a) = ws.getD a 0 % 2 ^ (arrFlagsF a).width := by
  have hne (t : State) (i : Nat) (v : Nat) (h : i < 4) (hi : i ≠ a) :
      (t.setF (pgArr c) (arrFlagsF i) v).getF (pgArr c) (arrFlagsF a) = t.getF (pgArr c) (arrFlagsF a) :=
    t.getF_setF_off _ _ v (by simp only [arrFlagsF]; omega) (by simp only [arrFlagsF]; omega) (by simp only [arrFlagsF]; omega)
  have hsame (t : State) (v : Nat) : (t.setF (pgArr c) (arrFlagsF a) v).getF (pgArr c) (arrFlagsF a) = v % 2 ^ (arrFlagsF a).width :=
    t.getF_setF_same _ v (by simp only [arrFlagsF]; omega) (by simp only [arrFlagsF]; omega)
  match ws, hw with
  | [w0, w1, w2, w3], _ =>
    change ((((s.setF (pgArr c) (arrFlagsF 0) w0).setF (pgArr c) (arrFlagsF 1) w1).setF (pgArr c) (arrFlagsF 2) w2).setF (pgArr c)
      (arrFlagsF 3) w3).getF (pgArr c) (arrFlagsF a) = _
    interval_cases a
    · rw [hne _ 3 _ (by decide) (by decide), hne _ 2 _ (by decide) (by decide), hne _ 1 _ (by decide) (by decide), hsame]
      rfl
    · rw [hne _ 3 _ (by decide) (by decide), hne _ 2 _ (by decide) (by decide), hsame]
      rfl
    · rw [hne _ 3 _ (by decide) (by decide), hsame]
      rfl
    · rw [hsame]
      rfl

theorem State.restoreVec_does (c : Nat) (x : Ctx) :
    (s.restoreVec c x).getF (pgVec c) vecFlagsF = x.vecFlags % 2 ^ vecFlagsF.width ∧
    (s.restoreVec c x).getF (pgVec c) sfuFlagsF = x.sfuFlags % 2 ^ sfuFlagsF.width ∧
    (s.restoreVec c x).word (regIdx (pgVec c) Reg.VEC_ROW_STAT_ROW_NAR) = x.rowStat ∧
    ∀ f, f.off < 4096 → (s.restoreVec c x).getF (pgArr c) f = s.getF (pgArr c) f := by
  have hw (t : State) (pg : Nat) (f : Fld) (h : regIdx pg f ≠ regIdx (pgVec c) Reg.VEC_ROW_STAT_ROW_NAR) :
      (t.setWord (regIdx (pgVec c) Reg.VEC_ROW_STAT_ROW_NAR) x.rowStat).getF pg f = t.getF pg f :=
    congrArg f.get (t.word_setWord_ne x.rowStat h)
  have h1 := regIdx_ne_off (pgVec c) (pgVec c) Reg.VEC_ROW_STAT_ROW_NAR vecFlagsF
  have h2 := regIdx_ne_off (pgVec c) (pgVec c) Reg.VEC_ROW_STAT_ROW_NAR sfuFlagsF
  refine ⟨?_, ?_, State.word_setWord_same _ _ _, fun f hf => ?_⟩
  · rw [State.restoreVec, hw _ _ _ h1, State.getF_setF_off, State.getF_setF_same]
  · rw [State.restoreVec, hw _ _ _ h2, State.getF_setF_same]
  · have hp : pgArr c ≠ pgVec c := by unfold pgArr pgVec; omega
    rw [State.restoreVec, hw _ _ f (regIdx_ne_page _ _ hp (hg := hf)), State.getF_setF_ne _ _ (regIdx_ne_page _ _ hp (hg := hf)),
      State.getF_setF_ne _ _ (regIdx_ne_page _ _ hp (hg := hf))]

/-- What the memories, the flags and the calendar hold once a context has come back. -/
structure Restored (s t : State) (c : Nat) (x : Ctx) : Prop where
  sched : t.sched = (s.setClu c ((s.clu c).restored x)).sched
  mem : t.mem = s.mem
  cat : t.cat = s.cat
  im : t.im = s.im
  am : swf (fun _ => 0) x.am = true → (∀ p ∈ x.am, 131072 * c ≤ p.1 ∧ p.1 < 131072 * (c + 1)) → ∀ k,
    sget (fun _ => 0) t.am k = if 131072 * c ≤ k ∧ k < 131072 * (c + 1) then sget (fun _ => 0) x.am k else sget (fun _ => 0) s.am k
  tiles : (x.tiles.map (·.1)).Nodup → (∀ p ∈ x.tiles, 256 * c ≤ p.1 ∧ p.1 < 256 * (c + 1)) → ∀ p,
    p ∈ t.tiles ↔ p ∈ x.tiles ∨ p ∈ s.tiles ∧ (p.1 < 256 * c ∨ 256 * (c + 1) ≤ p.1)
  arr : ∀ a, a < 4 → x.arrFlags.length = 4 → t.getF (pgArr c) (arrFlagsF a) = x.arrFlags.getD a 0 % 2 ^ (arrFlagsF a).width
  vec : t.getF (pgVec c) vecFlagsF = x.vecFlags % 2 ^ vecFlagsF.width
  sfu : t.getF (pgVec c) sfuFlagsF = x.sfuFlags % 2 ^ sfuFlagsF.width
  row : t.word (regIdx (pgVec c) Reg.VEC_ROW_STAT_ROW_NAR) = x.rowStat

theorem State.restoreCtx_restored (c : Nat) (x : Ctx) : Restored s (s.restoreCtx c x) c x := by
  rw [s.restoreCtx_eq]
  obtain ⟨m1, -, -⟩ := s.setClu_parts c ((s.clu c).restored x)
  obtain ⟨u1, hu1⟩ : ∃ v, v = s.setClu c ((s.clu c).restored x) := ⟨_, rfl⟩
  rw [← hu1] at m1 ⊢
  obtain ⟨t1, t2, t3, t4, t5, t6⟩ := u1.restoreTiles_does c x
  generalize u1.restoreTiles c x = u2 at t1 t2 t3 t4 t5 t6
  obtain ⟨a1, a2⟩ := u2.restoreArr_keeps c x.arrFlags
  have a3 (a : Nat) (ha : a < 4) (hl : x.arrFlags.length = 4) := u2.getF_restoreArr c hl ha
  generalize u2.restoreArr c x.arrFlags = u3 at a1 a2 a3
  obtain ⟨v1, v2, v3, v4⟩ := u3.restoreVec_does c x
  have v5 : (u3.restoreVec c x).mems = u3.mems := rfl
  have v6 : (u3.restoreVec c x).sched = u3.sched := rfl
  generalize u3.restoreVec c x = u4 at v1 v2 v3 v4 v5 v6
  have hm := v5.trans a1
  constructor
  · rw [← hu1]
    exact v6.trans (a2.trans t1)
  · exact (congrArg Mems.mem hm).trans (t2.trans (congrArg Mems.mem m1))
  · exact (congrArg Mems.cat hm).trans (t3.trans (congrArg Mems.cat m1))
  · exact (congrArg Mems.im hm).trans (t4.trans (congrArg Mems.im m1))
  · intro hw hr k
    rw [am_of_mems hm, t5 hw hr k, am_of_mems m1]
  · intro hn hr p
    rw [show u4.tiles = u2.tiles from congrArg Mems.tiles hm, t6 hn hr p, show u1.tiles = s.tiles from congrArg Mems.tiles m1]
  · intro a ha hl
    rw [v4 _ (by simp only [arrFlagsF]; omega), a3 a ha hl]
  · exact v1
  · exact v2
  · exact v3

theorem State.resumed_does (c : Nat) (x : Ctx) (T : Nat) (r : GroupRun) : (s.resumed c x T r).mems = s.mems ∧
    (s.resumed c x T r).doc c = docBarrier ∧
    (s.resumed c x T r).run x.grp = { r with idx := x.idx, step := x.step, tStart := T } ∧
    (s.resumed c x T r).clu c =
      { s.clu c with barrier := if x.next.isSome then some (T, x.step, r.code, x.grp) else none } ∧
    ∀ pg f, pg ≠ pgDoc c → f.off < 4096 → (s.resumed c x T r).word (regIdx pg f) = s.word (regIdx pg f) := by
  have hrun := s.run_setRun x.grp x.grp { r with idx := x.idx, step := x.step, tStart := T }
  rw [if_pos rfl] at hrun
  have hclu : (s.setRun x.grp { r with idx := x.idx, step := x.step, tStart := T }).clu c = s.clu c := rfl
  refine ⟨rfl, State.doc_setDoc _ _ _, hrun, ?_, fun pg f hp hf => ?_⟩
  · unfold State.resumed
    dsimp only
    rw [State.clu_setDoc, State.clu_setClu, if_pos rfl, hrun, hclu]
  · exact State.word_setF_ne _ _ (regIdx_ne_page _ _ hp (hf := by decide) (hg := hf))

section
variable {c val : Nat} (hc : c < 512)
  (hr : (s.writeReg (pgDoc c) docCtlOff val true).reaches (pgDoc c) = true)
  (x : Ctx) (hx : (s.clu c).saved = some x) (h1 : val.testBit 1 = true) (hd : s.doc c = docSaved)
include hc hr hx h1 hd

/-- The saved context comes back (R356). -/
theorem State.docResume_restores (hm : s.missed x.grp (s.resumeAt c) = false) (hu : s.ueIn (s.ctxAddr c) (ctxBytes x.tiles) = false) :
    ∃ t, exec (.docResume c val) s = .next t ∧ t.doc c = docBarrier ∧ (t.clu c).saved = none ∧
      (t.clu c).fetchPc = x.pc ∧ (t.clu c).queue = x.queue ∧ (t.clu c).loops = x.loops ∧ (t.clu c).next = x.next ∧
      (t.run x.grp).idx = x.idx ∧ (t.run x.grp).step = x.step ∧ (t.run x.grp).tStart = s.resumeAt c ∧
      (t.run x.grp).stopped = (s.run x.grp).stopped ∧
      (t.clu c).barrier = (if x.next.isSome then some (s.resumeAt c, x.step, (s.run x.grp).code, x.grp) else none) ∧
      (swf (fun _ => 0) x.am = true → (∀ p ∈ x.am, 131072 * c ≤ p.1 ∧ p.1 < 131072 * (c + 1)) → ∀ k,
        sget (fun _ => 0) t.am k = if 131072 * c ≤ k ∧ k < 131072 * (c + 1) then sget (fun _ => 0) x.am k else sget (fun _ => 0) s.am k) ∧
      ((x.tiles.map (·.1)).Nodup → (∀ p ∈ x.tiles, 256 * c ≤ p.1 ∧ p.1 < 256 * (c + 1)) → ∀ p,
        p ∈ t.tiles ↔ p ∈ x.tiles ∨ p ∈ s.tiles ∧ (p.1 < 256 * c ∨ 256 * (c + 1) ≤ p.1)) ∧
      (∀ a, a < 4 → x.arrFlags.length = 4 → t.getF (pgArr c) (arrFlagsF a) = x.arrFlags.getD a 0 % 2 ^ (arrFlagsF a).width) ∧
      t.getF (pgVec c) vecFlagsF = x.vecFlags % 2 ^ vecFlagsF.width ∧ t.getF (pgVec c) sfuFlagsF = x.sfuFlags % 2 ^ sfuFlagsF.width ∧
      t.word (regIdx (pgVec c) Reg.VEC_ROW_STAT_ROW_NAR) = x.rowStat ∧ t.mem = s.mem ∧ t.cat = s.cat ∧ t.im = s.im := by
  have h := s.restoreCtx_restored c x
  rw [s.docResume_eq hc hr x hx h1 hd, if_neg (by rw [hm]; decide), if_neg (by rw [hu]; decide)]
  refine ⟨(s.restoreCtx c x).resumed c x (s.resumeAt c) (s.run x.grp), rfl, ?_⟩
  have hclu : (s.restoreCtx c x).clu c = (s.clu c).restored x := by
    rw [State.clu_congr h.sched, State.clu_setClu, if_pos rfl]
  generalize s.restoreCtx c x = v at h hclu
  obtain ⟨r1, r2, r3, r4, r5⟩ := v.resumed_does c x (s.resumeAt c) (s.run x.grp)
  generalize v.resumed c x (s.resumeAt c) (s.run x.grp) = t at r1 r2 r3 r4 r5
  rw [hclu] at r4
  have ha : pgArr c ≠ pgDoc c := by unfold pgArr pgDoc; omega
  have hv : pgVec c ≠ pgDoc c := by unfold pgVec pgDoc; omega
  rw [r2, r3, r4]
  refine ⟨rfl, rfl, rfl, rfl, rfl, rfl, rfl, rfl, rfl, rfl, rfl, fun hw hr' k => ?_, fun hn hr' p => ?_, fun a ha4 hl => ?_, ?_, ?_, ?_,
    (congrArg Mems.mem r1).trans h.mem, (congrArg Mems.cat r1).trans h.cat, (congrArg Mems.im r1).trans h.im⟩
  · rw [am_of_mems r1, h.am hw hr' k]
  · rw [show t.tiles = v.tiles from congrArg Mems.tiles r1, h.tiles hn hr' p]
  · exact (congrArg (Fld.get _) (r5 _ _ ha (by simp only [arrFlagsF]; omega))).trans (h.arr a ha4 hl)
  · exact (congrArg (Fld.get _) (r5 _ _ hv (by decide))).trans h.vec
  · exact (congrArg (Fld.get _) (r5 _ _ hv (by decide))).trans h.sfu
  · exact (r5 _ _ hv (by decide)).trans h.row

/-- A save area with an uncorrectable word is reported (R429). -/
theorem State.docResume_invalid (hm : s.missed x.grp (s.resumeAt c) = false) (hu : s.ueIn (s.ctxAddr c) (ctxBytes x.tiles) = true) :
    ∃ t, exec (.docResume c val) s = .next t ∧ t.doc c = docSaved ∧ (t.clu c).saved = some x ∧
      Occurred s t (pgDoc c) 3 0x04 2 (leBytes 1 x.grp ++ leBytes 8 x.idx ++ leBytes 1 0) := by
  rw [s.docResume_eq hc hr x hx h1 hd, if_neg (by rw [hm]; decide), if_pos hu]
  have h := (OnlyReports.refl s).touch (s.ctxAddr c) (ctxBytes x.tiles) 8
  generalize s.touch (s.ctxAddr c) (ctxBytes x.tiles) 8 = u at h
  have ht := u.raise_told (pgDoc c) 3 0x04 2 (leBytes 1 x.grp ++ leBytes 8 x.idx ++ leBytes 1 0)
  refine ⟨_, rfl, (ht.doc c).trans ((h.getF_pgDoc c _).trans hd), ?_, ?_⟩
  · rw [State.clu_congr ht.sched, h.clu, hx]
  · refine (u.raise_occurred (pgDoc c) 3 0x04 2 _ (by decide)).before (h.getF_pgDoc c _) (h.getF_pgDoc c _) ?_ ?_
    · unfold State.flag
      rw [h.getF_pgDoc c _]
    · have hb : u.brd = s.brd := (congrArg (fun y : State => y.brd) h.sans :)
      rw [State.cur, hb]

/-- An instant that has passed is reported (R356). -/
theorem State.docResume_missed (hm : s.missed x.grp (s.resumeAt c) = true) :
    ∃ t, exec (.docResume c val) s = .next t ∧ t.doc c = docSaved ∧ (t.clu c).saved = some x ∧
      Occurred s t (pgDoc c) 2 0x03 3 (leBytes 1 x.grp ++ leBytes 8 (s.resumeAt c)) := by
  rw [s.docResume_eq hc hr x hx h1 hd, if_pos hm]
  have ht := s.raise_told (pgDoc c) 2 0x03 3 (leBytes 1 x.grp ++ leBytes 8 (s.resumeAt c))
  exact ⟨_, rfl, (ht.doc c).trans hd, by rw [State.barrierMissed, State.clu_congr ht.sched, hx],
    s.raise_occurred (pgDoc c) 2 0x03 3 _ (by decide)⟩

end

/-! ### Writes without an action -/

theorem State.docGo_idle (c val : Nat) (h : (s.writeReg (pgDoc c) docCtlOff val true).doc c ≠ docIdle ∨ val.testBit 0 = false) :
    exec (.docGo c val) s = .next (s.writeReg (pgDoc c) docCtlOff val true) := by
  rw [show exec (.docGo c val) s = execDocGo c val s from rfl]
  unfold execDocGo
  dsimp only
  rw [if_pos]
  rcases h with h | h
  · simp [h]
  · simp [h]

theorem State.docAbort_idle (c val : Nat) (h : val.testBit 2 = false) :
    exec (.docAbort c val) s = .next (s.writeReg (pgDoc c) docCtlOff val true) := by
  rw [show exec (.docAbort c val) s = execDocAbort c val s from rfl]
  unfold execDocAbort
  dsimp only
  rw [if_neg (by simp [h])]

theorem State.docResume_idle (c val : Nat) (h : val.testBit 1 = false) :
    exec (.docResume c val) s = .next (s.writeReg (pgDoc c) docCtlOff val true) := by
  rw [show exec (.docResume c val) s = execDocResume c val s from rfl]
  unfold execDocResume
  dsimp only
  split
  · rfl
  · rw [if_pos (by simp [h])]

end

/-- Settles O38: a write of DOC_CTL to a page that takes it stores nothing, so each action works on the state itself. That GO reads
BARRIER and that ABORT acts in every state are the model's choice (log 33), as is the context held beside its area (log 57). -/
theorem fetchAndSequencerCommands : Obligations.FetchAndSequencerCommands := by
  unfold Obligations.FetchAndSequencerCommands
  refine ⟨fun s c val hc => ?_, fun s c hc hr => ?_⟩
  · refine ⟨fun h0 hd hr hl => ?_, s.docGo_idle c val, s.docAbort_idle c val, s.docResume_idle c val, fun h2 hr => ?_,
      fun x hx h1 hd hr => ?_⟩
    · have hu := s.writeReg_docCtl hc val hr
      rw [hu] at hd hl ⊢
      exact s.docGo_does hc hr h0 hd hl
    · rw [s.writeReg_docCtl hc val hr]
      exact s.docAbort_does hc hr h2
    · have hu := s.writeReg_docCtl hc val hr
      rw [hu] at hx hd ⊢
      exact ⟨s.docResume_restores hc hr x hx h1 hd, s.docResume_invalid hc hr x hx h1 hd, s.docResume_missed hc hr x hx h1 hd⟩
  · refine ⟨fun hl hq hp => ⟨rfl, rfl, fun h14 h => ?_, s.fetch_enters hr hl hq hp, s.fetch_traps hr hc hl hq hp⟩, fun d hd hi hl => ?_⟩
    · change (if (s.imSlot c (s.clu c).fetchPc).getLsbD 14 && decide ((s.clu c).fetchPc < 8191) then _ else _) = _
      rw [if_pos]
      rw [decide_eq_true h, Bool.and_true]
      exact h14
    · exact ⟨_, s.fetch_refuses hr d hd hi hl, State.doc_setDoc _ _ _, s.refuseDesc_sched _ _, s.refuseDesc_mems _ _,
        s.refuseDesc_occurred _ _⟩
end Sys2Proof.Machine
end

section
/-! PROOFS of the statements on timed launch (spec/08_timed_launch.md), ninth part: the issue of moves (R323, R411, R412). -/
namespace Sys2Proof.Machine

/-! ### Sessions read behind the issue -/

section
variable {s t : State} {c : Nat} {k : Cluster} (h : OnCluster s t c k)
include h

theorem OnCluster.readByte (slot a : Nat) : t.readByte slot a = s.readByte slot a := by
  have hk (x : Nat) : t.keyTag x slot = s.keyTag x slot := by
    unfold State.keyTag State.keys
    rw [h.flag _ _, h.brd]
  unfold State.readByte State.unitKey
  rw [h.part, h.mems, State.byteAt_congr (congrArg Mems.mem h.mems)]
  simp only [hk]

theorem OnCluster.sess (n : Nat) : t.sess n = s.sess n := by
  have hb : t.sessBase = s.sessBase := by
    unfold State.sessBase
    rw [h.getF _ _, h.getF _ _]
  have hr (a m : Nat) : t.readNat a m = s.readNat a m := by
    unfold State.readNat State.readBytes
    simp only [h.readByte]
  unfold State.sess
  rw [hb, hr, h.flag _ _]

theorem OnCluster.arcFault (w : ArcAddr) (rows cols : Nat) : t.arcFault w rows cols = s.arcFault w rows cols := by
  unfold State.arcFault State.hasKey State.keys
  rw [h.sess, h.brd]

theorem OnCluster.variedEff (d : Desc) : t.variedEff d = s.variedEff d := by
  unfold State.variedEff State.freeRunning
  rw [h.flag _ _]

end

/-! ### A move enters the table (R314, R323) -/

/-- What the work of a move leaves as it is before its launch enters the table. -/
structure Moving (v u : State) : Prop where
  sched : u.sched = v.sched
  plat : u.plat = v.plat
  word : ∀ j, QuietWord j → u.word j = v.word j

theorem OnlyReports.moving {v u : State} (h : OnlyReports v u) : Moving v u := ⟨h.sched, h.plat, h.word⟩

theorem Moving.trans {v u w : State} (h : Moving v u) (h' : Moving u w) : Moving v w :=
  ⟨h'.sched.trans h.sched, h'.plat.trans h.plat, fun j hj => (h'.word j hj).trans (h.word j hj)⟩

theorem Moving.variedEff {v u : State} (h : Moving v u) (d : Desc) : u.variedEff d = v.variedEff d := by
  unfold State.variedEff State.freeRunning State.flag State.getF
  rw [h.word _ (quietWord_pgDev _)]

/-- The launch of a move, from the state in which its descriptor has issued. -/
theorem Moving.launched {s u : State} {a : Ask} {d : Desc} (h : s.AtHead a d) (hm : Moving (s.issue a.c d) u) (effs : List Eff) :
    ∃ l, Launched s (u.moveLaunch a.c d (a.plan s d).holds effs) a d l ∧ l.effs = effs ++ s.variedEff d ∧
      l.due = l.start + s.cyc a.c 1 := by
  have hi := s.issue_issued a.c d
  obtain ⟨wait, at_, hon⟩ := s.issue_on a.c d
  obtain ⟨l, ht, hslot, hcls, hopc, hdeps, heffs, hstart, hdue⟩ :=
    u.addLaunch_enters a.c d (a.plan s d).holds 1 0 (effs ++ u.variedEff d)
  obtain ⟨w, hv⟩ := hi.clu
  have hcyc : u.cyc a.c 1 = s.cyc a.c 1 := (State.cyc_congr hm.plat (hm.word _ (quietWord_pgPwr _)) _ _).trans (hi.cyc _ _)
  rw [State.clu_congr hm.sched, hv] at ht hstart hdue
  rw [hm.variedEff, hon.variedEff] at heffs
  have ht' : u.moveLaunch a.c d (a.plan s d).holds effs = _ := ht
  have htc : (u.moveLaunch a.c d (a.plan s d).holds effs).clu a.c = _ :=
    (congrArg (State.clu · a.c) ht').trans ((State.clu_setClu _ _ _ _).trans (if_pos rfl))
  have htf (f : Fld) (hf : f.off < 4096) :
      (u.moveLaunch a.c d (a.plan s d).holds effs).getF (pgDoc a.c) f = (s.issue a.c d).getF (pgDoc a.c) f := by
    rw [ht', State.getF_setClu]
    exact congrArg f.get (hm.word _ (quietWord_pgDoc _ _ hf))
  refine ⟨l, ⟨?_, fun _ => ?_, ?_, hslot, hcls.trans h.cls, hopc.trans h.opc, hdeps, hstart.ge, fun _ => hstart, ?_, fun _ => ?_,
    fun c hc => ?_⟩, heffs, ?_⟩
  · rw [htc]
  · rw [htc]
  · rw [htc]
    simp
  · exact hi.counted.congr rfl rfl (htf _ (by decide))
  · exact hi.waited.congr rfl rfl (htf _ (by decide))
  · rw [ht', State.clu_setClu, if_neg hc, State.clu_congr hm.sched, hi.others c hc]
  · rw [hdue, hstart, hcyc]

/-! ### COPY, CATLOAD, CATSAVE and PAGEIN -/

/-- What the launch commands of class 3 ask. -/
inductive MoveAsk : Ask → Prop
  | copy (c : Nat) : MoveAsk { c := c, cls := 3, opc := 1, plan := copyPlan c }
  | catload (c : Nat) : MoveAsk { c := c, cls := 3, opc := 2, plan := catloadPlan c }
  | catsave (c : Nat) : MoveAsk { c := c, cls := 3, opc := 3, plan := catsavePlan c }
  | pagein (c : Nat) : MoveAsk { c := c, cls := 3, opc := 4, plan := pageinPlan c }
  | pageout (c : Nat) : MoveAsk { c := c, cls := 3, opc := 5, plan := pageoutPlan c }

theorem moveAsk_of_askOf {i : Instr} {a : Ask} (h : askOf i = some a) (hc : a.cls = 3) : MoveAsk a := by
  unfold askOf at h
  split at h <;> cases h <;> simp at hc <;> constructor

theorem OnlyReports.touchPos {v u : State} (h : OnlyReports v u) (r : SessRec) (t p : Nat) : OnlyReports v (u.touchPos r t p) := by
  unfold State.touchPos
  dsimp only
  split
  · exact h
  · split
    · exact (h.touch _ _ _).touch _ _ _
    · exact h.touch _ _ _

theorem State.pageinGo_eq {c : Nat} (hc : c < 512) (v : State) (d : Desc) (x : MoveDesc) (w : ArcAddr) (df : Fmt) (holds : List DepRange) :
    ∃ u, OnlyReports v u ∧ v.pageinGo c d x w df holds = u.moveLaunch c d holds (v.pageinEffs c d x w df) := by
  unfold State.pageinGo
  dsimp only
  split
  · exact ⟨v, OnlyReports.refl v, rfl⟩
  · exact ⟨_, ((foldl_inv (OnlyReports v) _ (fun _ _ hx => hx.touchPos _ _ _) _ _ (OnlyReports.refl v)).vary d).touchCats hc 5 _, rfl⟩

/-- A move other than a PAGEOUT that is in order reads its operands and enters the table with its effects. -/
theorem moves_of_good {a : Ask} (ha : MoveAsk a) (hc : a.c < 512) (h5 : a.opc ≠ 5) {s : State} {d : Desc}
    (hg : (a.plan s d).bad = false) (v : State) :
    ∃ u effs, OnlyReports v u ∧ (a.plan s d).go v = u.moveLaunch a.c d (a.plan s d).holds effs ∧ moveWork v a d = effs ++ v.variedEff d := by
  cases ha with
  | copy c =>
    dsimp only at hg hc ⊢
    unfold copyPlan at hg ⊢
    dsimp only at hg ⊢
    split at hg
    · next sf df hs hd =>
      refine ⟨_, _, (((OnlyReports.refl v).touch _ _ 6).touchCats hc 5 _).vary d, rfl, ?_⟩
      unfold moveWork
      dsimp only
      rw [hs, hd]
      rfl
    · cases hg
  | catload c => exact ⟨_, _, (OnlyReports.refl v).touch _ _ 6, rfl, rfl⟩
  | catsave c => exact ⟨_, _, (OnlyReports.refl v).touchCats hc 6 _, rfl, rfl⟩
  | pagein c =>
    dsimp only at hg hc ⊢
    unfold pageinPlan at hg ⊢
    dsimp only at hg ⊢
    split at hg
    · next w df hs hd =>
      obtain ⟨u, hu, e⟩ := v.pageinGo_eq hc d d.move w df (localDep c d.move.dst (d.move.tensor d.move.dst df).size true)
      refine ⟨u, _, hu, e, ?_⟩
      unfold moveWork
      dsimp only
      rw [hs, hd]
      rfl
    · cases hg
  | pageout c => exact absurd rfl h5

/-! ### What a PAGEOUT may write (R410, R412, R413, R417) -/

/-- The state with what reports and writes of memory change, the Archive's pool and the draws blanked. -/
def State.sansPages (s : State) : State := { s.sansMem with arch := {}, draw := 0 }

/-- Only memory, reports of errors, the Archive's pool and the free-running draw may differ. -/
structure Paged (v u : State) : Prop where
  sans : u.sansPages = v.sansPages
  word : ∀ j, QuietWord j → u.word j = v.word j

namespace Paged
variable {v u w : State}

theorem refl (v : State) : Paged v v := ⟨rfl, fun _ _ => rfl⟩

theorem trans (h : Paged v u) (h' : Paged u w) : Paged v w :=
  ⟨h'.sans.trans h.sans, fun j hj => (h'.word j hj).trans (h.word j hj)⟩

theorem moving (h : Paged v u) : Moving v u :=
  ⟨(congrArg (fun x : State => x.sched) h.sans :), (congrArg (fun x : State => x.plat) h.sans :), h.word⟩

theorem memories (h : Paged v u) : u.cat = v.cat ∧ u.am = v.am ∧ u.im = v.im ∧ u.tiles = v.tiles :=
  ⟨(congrArg (fun x : State => x.mems.cat) h.sans :), (congrArg (fun x : State => x.mems.am) h.sans :),
    (congrArg (fun x : State => x.mems.im) h.sans :), (congrArg (fun x : State => x.mems.tiles) h.sans :)⟩

theorem of_reports (h : OnlyReports v u) : Paged v u := ⟨(congrArg State.sansPages h.sans :), h.word⟩

theorem writeBytes (h : Paged v u) (slot a : Nat) (bs : List Byte) : Paged v (u.writeBytes slot a bs) :=
  h.trans ⟨(congrArg (fun x : State => { x with arch := {}, draw := 0 }) (u.writeBytes_sans slot a bs) :),
    fun _ hj => hj.writeBytes u slot a bs⟩

theorem setSpan (h : Paged v u) (r : SessRec) (t k : Nat) (e : Span) : Paged v (u.setSpan r t k e) := h.writeBytes _ _ _

theorem setSess (h : Paged v u) (n : Nat) (r : SessRec) : Paged v (u.setSess n r) := h.writeBytes _ _ _

theorem withArch (h : Paged v u) (x : Arch) : Paged v { u with arch := x } := ⟨h.sans, h.word⟩

theorem grant (h : Paged v u) {b : Bool} {p : Nat} (e : u.grant b = some (p, w)) : Paged v w := by
  unfold State.grant at e
  split at e
  · cases e
  · dsimp only at e
    split at e
    · cases e
    · cases e
      exact h.withArch _

theorem grantN (h : Paged v u) {b : Bool} {n : Nat} {ps : List Nat} (e : u.grantN b n = some (ps, w)) : Paged v w := by
  induction n generalizing ps w with
  | zero =>
    cases e
    exact h
  | succ n ih =>
    rw [State.grantN] at e
    split at e
    · cases e
    · next qs t ht =>
      split at e
      · cases e
      · next p u' hp =>
        cases e
        exact (ih ht).grant hp

theorem cancelRequant (h : Paged v u) (n t k : Nat) : Paged v (u.cancelRequant n t k) := by
  unfold State.cancelRequant
  split
  · exact h
  · next q _ =>
    extract_lets r u1 x s1 s2 r2
    have h1 : Paged v s1 := h.withArch _
    have h2 : Paged v s2 := by
      unfold s2
      split
      · exact Paged.setSess (h1.withArch _) _ _
      · exact h1
    exact h2.setSpan _ _ _ _

theorem openSpan (h : Paged v u) {n t k : Nat} (e : u.openSpan n t k = some w) : Paged v w := by
  unfold State.openSpan at e
  dsimp only at e
  split at e
  · split at e
    · cases e
    · next ps s' hs =>
      cases e
      exact (h.grantN hs).setSpan _ _ _ _
  · split at e
    · cases e
      exact h.cancelRequant _ _ _
    · cases e
      exact h

end Paged

/-- What a PAGEOUT has left so far keeps to the frame of its writes. -/
def PageOut.Frames (v : State) (o : PageOut) : Prop := Paged v o.s

section
variable {v : State} {o : PageOut} (h : PageOut.Frames v o)
include h

theorem PageOut.write_frames (kslot a : Nat) (bs : List Byte) : PageOut.Frames v (o.write kslot a bs) := Paged.writeBytes h _ _ _

theorem PageOut.position_frames (r : SessRec) (e : Span) (i : Nat) (vals : List Val) (raw : Option (List Nat × List Nat))
    (rnd : Nat → Rnd) (sat : Bool) : PageOut.Frames v (o.position r e i vals raw rnd sat) := by
  unfold PageOut.position
  split
  · dsimp only
    split <;> exact PageOut.write_frames (PageOut.write_frames h _ _ _) _ _ _
  · exact PageOut.write_frames h _ _ _

theorem PageOut.zero_frames (r : SessRec) (e : Span) (i : Nat) : PageOut.Frames v (o.zero r e i) := by
  unfold PageOut.zero
  split
  · exact PageOut.write_frames (PageOut.write_frames h _ _ _) _ _ _
  · exact PageOut.write_frames h _ _ _

end

section
variable {v : State} {o : PageOut} (h : PageOut.Frames v o)
include h

theorem PageOut.zeros_frames (r : SessRec) (e : Span) (n first : Nat) :
    PageOut.Frames v ((List.range n).foldl (fun o i => o.zero r e (first + i)) o) :=
  foldl_inv (PageOut.Frames v) _ (fun _ _ hx => PageOut.zero_frames hx _ _ _) _ _ h

theorem PageOut.positions_frames (r : SessRec) (e : Span) (first : Nat) (rnd : Nat → Nat → Rnd) (sat : Bool)
    (rows : List (Nat × List Val × Option (List Nat × List Nat) × Nat)) :
    PageOut.Frames v (rows.foldl (fun (o : PageOut) p => o.position r e (p.1 - first) p.2.1 p.2.2.1 (fun j => rnd p.2.2.2 j) sat) o) :=
  foldl_inv (PageOut.Frames v) _ (fun _ _ hx => PageOut.position_frames hx _ _ _ _ _ _ _) _ _ h

theorem PageOut.span_frames (d : Desc) (x : MoveDesc) (w : ArcAddr) (k : Nat)
    (rows : List (Nat × List Val × Option (List Nat × List Nat) × Nat)) : PageOut.Frames v (o.span d x w k rows) := by
  have hdef : @PageOut.span = @PageOut.span := rfl
  conv at hdef => rhs; delta PageOut.span
  rw [hdef]
  beta_reduce
  cases hs : o.s.openSpan w.sess w.stream k with
  | none => exact h
  | some s =>
    have h1 : PageOut.Frames v { o with s := s } := Paged.openSpan h hs
    dsimp only
    exact (Paged.setSpan (PageOut.positions_frames (PageOut.zeros_frames h1 _ _ _ _) _ _ _ (fun i j => (s.rndCtx d).at 0 0 (i * x.cols + j)) _ _) _ _ _ _).setSess _ _

theorem PageOut.spans_frames (d : Desc) (x : MoveDesc) (w : ArcAddr) (ks : List Nat)
    (rows : Nat → List (Nat × List Val × Option (List Nat × List Nat) × Nat)) :
    PageOut.Frames v (ks.foldl (fun (o : PageOut) k => o.span d x w k (rows k)) o) :=
  foldl_inv (PageOut.Frames v) _ (fun _ _ hx => PageOut.span_frames hx _ _ _ _ _) _ _ h

end

theorem State.pageoutWork_frames {c : Nat} (hc : c < 512) (v : State) (d : Desc) (x : MoveDesc) (w : ArcAddr) (sf : Fmt) :
    PageOut.Frames v (v.pageoutWork c d x w sf).1 := by
  have h := Paged.of_reports ((((OnlyReports.refl v).touch x.src (x.tensor x.src sf).size 6).touchCats hc 5 (x.cats sf .p8)).vary d)
  unfold State.pageoutWork
  extract_lets r ts l raw row s1 rows spans o same fl evs
  have h1 : PageOut.Frames v { s := s1, runs := [], fl := {}, noPage := [] } := h
  exact PageOut.spans_frames h1 d x w spans (fun k => rows.filter (fun p => p.1 / r.spanLen = k))

/-! ### PAGEOUT (R410, R412, R585) -/

section
variable (v : State) (c : Nat) (d : Desc) (x : MoveDesc) (w : ArcAddr) (sf : Fmt)

theorem State.pageoutGo_fault (hf : v.arcFault w x.rows x.cols = true) :
    v.pageoutGo c d x w sf = v.moveLaunch c d [] (arcFaultEffs c w ++ d.report 1 none ++ d.report 2 none) := by
  rw [State.pageoutGo, if_pos hf]

theorem State.pageoutGo_works (hf : v.arcFault w x.rows x.cols = false) :
    v.pageoutGo c d x w sf =
      ((v.pageoutWork c d x w sf).1.s.moveLaunch c d [] (v.pageoutWork c d x w sf).2).addUnits c (2 * (v.clu c).issued)
        (storeUnits true (v.pageoutWork c d x w sf).1.runs) := by
  rw [State.pageoutGo, if_neg (by rw [hf]; decide)]

end

theorem Launched.addUnits {s t : State} {a : Ask} {d : Desc} {l : Launch} (h : Launched s t a d l) (key : Nat) (bs : List Byte) :
    Launched s (t.addUnits a.c key bs) a d l := by
  obtain ⟨u, hu⟩ := t.clu_addUnits_same a.c key bs
  have hw (f : Fld) : (t.addUnits a.c key bs).getF (pgDoc a.c) f = t.getF (pgDoc a.c) f := congrArg f.get (t.word_addUnits a.c key bs _)
  exact
    { queue := by rw [hu]; exact h.queue
      table := fun h0 => by rw [hu]; exact h.table h0
      last := by rw [hu]; exact h.last
      slot := h.slot
      cls := h.cls
      opc := h.opc
      deps := h.deps
      notBefore := h.notBefore
      start := h.start
      counted := h.counted.congr rfl rfl (hw _)
      waited := fun h0 => (h.waited h0).congr rfl rfl (hw _)
      others := fun c hc => (t.clu_addUnits_ne a.c key bs hc).trans (h.others c hc) }

theorem State.addUnits_arch (s : State) (c key : Nat) (bs : List Byte) : (s.addUnits c key bs).arch = s.arch := by
  rcases s.addUnits_eq c key bs with e | ⟨u, e⟩ <;> rw [e]
  rfl

/-- The plan of a PAGEOUT that is in order. -/
theorem pageoutPlan_good {c : Nat} {s : State} {d : Desc} (hg : (pageoutPlan c s d).bad = false) :
    ∃ w sf, arcAddr d.move.dst = some w ∧ d.move.sf = some sf ∧ (pageoutPlan c s d).holds = [] ∧
      (pageoutPlan c s d).go = fun t => t.pageoutGo c d d.move w sf := by
  unfold pageoutPlan at hg ⊢
  dsimp only at hg ⊢
  split at hg
  · next w sf hw hs =>
    exact ⟨w, sf, hw, hs, rfl, rfl⟩
  · cases hg

/-- What class 3 promises of the issue of a move. -/
def MoveIssued (s t : State) (a : Ask) (d : Desc) (l : Launch) : Prop :=
  Launched s t a d l ∧ l.due = l.start + s.cyc a.c 1 ∧ t.cat = s.cat ∧ t.am = s.am ∧
    t.im = s.im ∧ t.tiles = s.tiles ∧
    (a.opc ≠ 5 → t.mem = s.mem ∧ l.effs = moveWork (s.issue a.c d) a d) ∧
    (∀ w, a.opc = 5 → arcAddr d.move.dst = some w → s.arcFault w d.move.rows d.move.cols = true →
      t.mem = s.mem ∧ l.effs = arcFaultEffs a.c w ++ d.report 1 none ++ d.report 2 none ++ s.variedEff d) ∧
    (∀ w f, a.opc = 5 → arcAddr d.move.dst = some w → d.move.sf = some f → s.arcFault w d.move.rows d.move.cols = false →
      t.mem = ((s.issue a.c d).pageoutWork a.c d d.move w f).1.s.mem ∧
      t.alloc = ((s.issue a.c d).pageoutWork a.c d d.move w f).1.s.alloc ∧
      l.effs = ((s.issue a.c d).pageoutWork a.c d d.move w f).2 ++ s.variedEff d)

/-- A move other than a PAGEOUT issues. -/
theorem move_issues {s : State} {a : Ask} {d : Desc} (ha : MoveAsk a) (hc : a.c < 512) (h5 : a.opc ≠ 5) (h : s.AtHead a d)
    (hk : s.CanIssue a d) : ∃ l, MoveIssued s ((a.plan s d).go (s.issue a.c d)) a d l := by
  obtain ⟨u, effs, hu, hgo, hwork⟩ := moves_of_good ha hc h5 hk.good (s.issue a.c d)
  obtain ⟨wait, at_, hon⟩ := s.issue_on a.c d
  obtain ⟨l, hl, he, hd⟩ := hu.moving.launched h effs
  have hm : u.mems.mem = s.mems.mem ∧ u.mems.cat = s.mems.cat ∧ u.mems.am = s.mems.am ∧ u.mems.im = s.mems.im ∧
      u.mems.tiles = s.mems.tiles := by
    have e := hu.mems
    rw [hon.mems] at e
    exact ⟨(congrArg Mems.mem e :), (congrArg Mems.cat e :), (congrArg Mems.am e :), (congrArg Mems.im e :), (congrArg Mems.tiles e :)⟩
  obtain ⟨m1, m2, m3, m4, m5⟩ := hm
  rw [hgo]
  refine ⟨l, hl, hd, m2, m3, m4, m5, fun _ => ⟨m1, ?_⟩, fun _ h5' => absurd h5' h5, fun _ _ h5' => absurd h5' h5⟩
  rw [he, hwork, hon.variedEff]

/-- A PAGEOUT issues. -/
theorem pageout_issues {s : State} {c : Nat} {d : Desc} (hc : c < 512)
    (h : s.AtHead { c := c, cls := 3, opc := 5, plan := pageoutPlan c } d) (hk : s.CanIssue { c := c, cls := 3, opc := 5, plan := pageoutPlan c } d) :
    ∃ l, MoveIssued s ((pageoutPlan c s d).go (s.issue c d)) { c := c, cls := 3, opc := 5, plan := pageoutPlan c } d l := by
  obtain ⟨w, sf, hw, hsf, hh, hgo⟩ := pageoutPlan_good hk.good
  obtain ⟨wait, at_, hon⟩ := s.issue_on c d
  have hv := hon.mems
  rw [hgo]
  cases hf : s.arcFault w d.move.rows d.move.cols with
  | true =>
    dsimp only
    rw [State.pageoutGo_fault _ _ _ _ _ _ ((hon.arcFault _ _ _).trans hf), ← hh]
    obtain ⟨l, hl, he, hd⟩ := (OnlyReports.refl (s.issue c d)).moving.launched h (arcFaultEffs c w ++ d.report 1 none ++ d.report 2 none)
    refine ⟨l, hl, hd, congrArg Mems.cat hv, congrArg Mems.am hv, congrArg Mems.im hv, congrArg Mems.tiles hv,
      fun h5 => absurd rfl h5, fun w' _ hw' _ => ⟨congrArg Mems.mem hv, ?_⟩, fun w' _ _ hw' _ hf' => ?_⟩
    · obtain rfl : w = w' := Option.some.inj (hw.symm.trans hw')
      exact he
    · obtain rfl : w = w' := Option.some.inj (hw.symm.trans hw')
      exact absurd (hf.symm.trans hf') (by decide)
  | false =>
    dsimp only
    rw [State.pageoutGo_works _ _ _ _ _ _ ((hon.arcFault _ _ _).trans hf), ← hh]
    have hp := (s.issue c d).pageoutWork_frames hc d d.move w sf
    obtain ⟨⟨o, effs⟩, hwork⟩ : ∃ p, p = (s.issue c d).pageoutWork c d d.move w sf := ⟨_, rfl⟩
    rw [← hwork] at hp ⊢
    have hu : Paged (s.issue c d) o.s := hp
    obtain ⟨m1, m2, m3, m4⟩ := hu.memories
    obtain ⟨l, hl, he, hd⟩ := hu.moving.launched h effs
    have hm := (o.s.moveLaunch c d (pageoutPlan c s d).holds effs).addUnits_mems c (2 * ((s.issue c d).clu c).issued) (storeUnits true o.runs)
    have ha := (o.s.moveLaunch c d (pageoutPlan c s d).holds effs).addUnits_arch c (2 * ((s.issue c d).clu c).issued) (storeUnits true o.runs)
    refine ⟨l, hl.addUnits _ _, hd, (congrArg Mems.cat hm).trans (m1.trans (congrArg Mems.cat hv)),
      (congrArg Mems.am hm).trans (m2.trans (congrArg Mems.am hv)), (congrArg Mems.im hm).trans (m3.trans (congrArg Mems.im hv)),
      (congrArg Mems.tiles hm).trans (m4.trans (congrArg Mems.tiles hv)),
      fun h5 => absurd rfl h5, fun w' _ hw' hf' => ?_, fun w' f _ hw' hsf' _ => ?_⟩
    · obtain rfl : w = w' := Option.some.inj (hw.symm.trans hw')
      exact absurd (hf.symm.trans hf') (by decide)
    · obtain rfl : w = w' := Option.some.inj (hw.symm.trans hw')
      obtain rfl : sf = f := Option.some.inj (hsf.symm.trans hsf')
      dsimp only
      rw [← hwork]
      exact ⟨congrArg Mems.mem hm, congrArg Arch.alloc ha, he⟩

/-- Every move that can issue does what class 3 promises. -/
theorem moves_issue {i : Instr} {s : State} {a : Ask} {d : Desc} (ha : askOf i = some a) (h3 : a.cls = 3) (hc : a.c < 512)
    (h : s.AtHead a d) (hk : s.CanIssue a d) : ∃ t l, exec i s = .next t ∧ MoveIssued s t a d l := by
  have hm := moveAsk_of_askOf ha h3
  have he := exec_of_canIssue ha h hk
  by_cases h5 : a.opc = 5
  · cases hm with
    | pageout c => exact (pageout_issues hc h hk).elim fun l hl => ⟨_, l, he, hl⟩
    | copy c | catload c | catsave c | pagein c => cases h5
  · exact (move_issues hm hc h5 h hk).elim fun l hl => ⟨_, l, he, hl⟩

end Sys2Proof.Machine
end

section
/-! PROOFS of the statements on timed launch (spec/08_timed_launch.md), tenth part: the issue of matrix launches (R180, R199, R200,
R314; logs 31, 83). -/
namespace Sys2Proof.Machine

/-! ### Geometry (R161, R168 to R178) -/

theorem shapeUnits_cases (code n : Nat) : shapeUnits code n = 32 ∨ shapeUnits code n = 16 ∨ shapeUnits code n = 8 := by
  unfold shapeUnits
  split
  · exact .inl rfl
  · exact .inr (.inl rfl)
  · exact .inr (.inr rfl)
  · split
    · exact .inr (.inr rfl)
    · split
      · exact .inr (.inl rfl)
      · exact .inl rfl

/-- What the fields of any class-0 descriptor obey. -/
theorem Desc.mat_fields {d : Desc} {x : MatDesc} (h : d.mat = some x) :
    (x.units = 32 ∨ x.units = 16 ∨ x.units = 8) ∧ x.rid < 64 := by
  unfold Desc.mat at h
  split at h
  · obtain rfl := Option.some.inj h
    exact ⟨shapeUnits_cases _ _, d.f_lt 157 152⟩
  · cases h

theorem MatDesc.lines_pos (x : MatDesc) : 0 < x.lines := by
  unfold MatDesc.lines
  split
  · exact Nat.one_pos
  · cases x.op.quire <;> decide

theorem lt_ceilDiv_of_lt {i m w : Nat} (hw : 0 < w) (h : i < m) : i / w < ceilDiv m w := by
  unfold ceilDiv
  rw [Nat.div_lt_iff_lt_mul hw]
  have h1 := Nat.div_add_mod (m + w - 1) w
  have h2 := Nat.mod_lt (m + w - 1) hw
  rw [Nat.mul_comm]
  omega

/-- The entries of a tile that fits lie in the accumulator memory of their array. -/
theorem MatDesc.key_range (x : MatDesc) (hu : x.units = 32 ∨ x.units = 16 ∨ x.units = 8) (hfit : x.trow + x.tileRows * x.lines ≤ 1024)
    (c a : Nat) {i j : Nat} (hi : i < x.m) (hj : j < x.n) :
    (4 * c + a) * 32768 ≤ x.key c a i j ∧ x.key c a i j < (4 * c + a) * 32768 + 32768 := by
  have hwide : 0 < x.wide ∧ x.units * x.wide = 32 ∧ 0 < x.units := by
    unfold MatDesc.wide
    rcases hu with h | h | h <;> rw [h] <;> decide
  obtain ⟨hw, huw, hup⟩ := hwide
  have hrow := lt_ceilDiv_of_lt hw hi
  have hcol := lt_ceilDiv_of_lt hup hj
  have hplace : x.units * (i % x.wide) + j % x.units < 32 := by
    have h1 := Nat.mod_lt i hw
    have h2 := Nat.mod_lt j hup
    calc x.units * (i % x.wide) + j % x.units < x.units * (i % x.wide) + x.units := by omega
      _ = x.units * (i % x.wide + 1) := by ring
      _ ≤ x.units * x.wide := Nat.mul_le_mul_left _ h1
      _ = 32 := huw
  have hrho : i / x.wide * ceilDiv x.n x.units + j / x.units + 1 ≤ x.tileRows := by
    unfold MatDesc.tileRows
    calc i / x.wide * ceilDiv x.n x.units + j / x.units + 1 ≤ i / x.wide * ceilDiv x.n x.units + ceilDiv x.n x.units := by omega
      _ = (i / x.wide + 1) * ceilDiv x.n x.units := by ring
      _ ≤ _ := Nat.mul_le_mul_right _ hrow
  have hl := Nat.mul_le_mul_right x.lines hrho
  have hlp := x.lines_pos
  unfold MatDesc.key MatDesc.place
  dsimp only
  generalize i / x.wide * ceilDiv x.n x.units + j / x.units = rho at hl
  rw [Nat.add_mul, Nat.one_mul] at hl
  generalize rho * x.lines = p at hl
  omega

section
variable (s : State)

/-! ### The tile of one array (R180, R181) -/

/-- A launch has one entry for every position of its tile. -/
theorem State.matTile_codes (c a : Nat) (x : MatDesc) (la lb : Loaded) :
    ∃ f : Nat → Nat → Nat, (s.matTile c a x la lb).codes = (List.range x.m).map fun i => (List.range x.n).map fun j => f i j := by
  unfold State.matTile
  extract_lets q za zb rowsA colsB sumA tp lp opUe amUe old pi preQ cells pairs fl0 rec0
  split
  · dsimp only [cells]
    simp only [List.map_map, Function.comp_def]
    exact ⟨_, rfl⟩
  · next start ent es nkb fold overs first hf =>
    dsimp only [es, cells]
    simp only [List.map_map, Function.comp_def]
    exact ⟨_, rfl⟩


theorem mem_sput_self {α : Type} (m : List (Nat × α)) (k : Nat) (v : α) : (k, v) ∈ sput m k v := by
  induction m with
  | nil => exact List.mem_singleton.mpr rfl
  | cons q m ih =>
    rw [sput]
    split
    · exact List.mem_cons_self
    · split
      · exact List.mem_cons_self
      · exact List.mem_cons_of_mem _ ih

theorem mem_sput_of_mem {α : Type} {m : List (Nat × α)} {p : Nat × α} (hp : p ∈ m) {k : Nat} (h : p.1 ≠ k) (v : α) :
    p ∈ sput m k v := by
  induction m with
  | nil => cases hp
  | cons q m ih =>
    rw [sput]
    rcases List.mem_cons.mp hp with rfl | hp
    · rw [if_neg (Ne.symm h)]
      split
      · exact List.mem_cons_of_mem _ List.mem_cons_self
      · exact List.mem_cons_self
    · split
      · exact List.mem_cons_of_mem _ hp
      · split
        · exact List.mem_cons_of_mem _ (List.mem_cons_of_mem _ hp)
        · exact List.mem_cons_of_mem _ (ih hp)

/-- The record that a launch leaves of its tile. -/
def MatDesc.Recorded (x : MatDesc) (r : TileRec) : Prop :=
  r.m = x.m ∧ r.n = x.n ∧ r.trow = x.trow ∧ r.rows = x.tileRows ∧ r.shape = x.units ∧ r.f32 = x.f32

/-- The keys of an array that is not `a`. -/
theorem tileKey_ne {c a b rid : Nat} (hrid : rid < 64) (h : b ≠ a) : tileKey c b rid / 64 ≠ 4 * c + a := by
  unfold tileKey
  omega

theorem State.putTile_tiles (c a : Nat) (x : MatDesc) (t : TileOut) :
    (∃ r, (tileKey c a x.rid, r) ∈ (s.putTile c a x t).tiles ∧ x.Recorded r) ∧
    ∀ p ∈ s.tiles, p.1 / 64 ≠ 4 * c + a → tileKey c a x.rid / 64 = 4 * c + a → p ∈ (s.putTile c a x t).tiles := by
  unfold State.putTile
  extract_lets am k old cnt hi clash tiles r o errs
  refine ⟨⟨r, mem_sput_self _ _ _, rfl, rfl, rfl, rfl, rfl, rfl⟩, fun p hp hne hk => ?_⟩
  have hpk : p.1 ≠ k := fun e => hne (e ▸ hk)
  refine mem_sput_of_mem ?_ hpk _
  unfold tiles
  split
  · exact hp
  · refine List.mem_filter.mpr ⟨hp, ?_⟩
    simp [clash, hne]

theorem State.putTile_am (c a : Nat) (x : MatDesc) (t : TileOut) (f : Nat → Nat → Nat)
    (ht : t.codes = (List.range x.m).map fun i => (List.range x.n).map fun j => f i j) {k : Nat}
    (hk : ∀ i j, i < x.m → j < x.n → k ≠ x.key c a i j) :
    sget (fun _ => 0) (s.putTile c a x t).am k = sget (fun _ => 0) s.am k := by
  unfold State.putTile
  dsimp only [State.am]
  refine foldl_keeps_of_mem (fun m => sget (fun _ => 0) m k) _ _ (fun m p hp => ?_) s.am
  obtain ⟨row, i⟩ := p
  obtain ⟨hi, hrow⟩ := List.mem_zipIdx' hp
  refine foldl_keeps_of_mem (fun m => sget (fun _ => 0) m k) _ _ (fun m q hq => ?_) m
  obtain ⟨v, j⟩ := q
  obtain ⟨hj, -⟩ := List.mem_zipIdx' hq
  refine sget_sset_ne _ _ _ (hk i j ?_ ?_)
  · simpa [ht] using hi
  · simpa [hrow, ht] using hj


theorem OnlyReports.foundUE {s t : State} (h : OnlyReports s t) {inst : Nat} (hi : CapturePage (instPage inst)) (off cause : Nat) :
    OnlyReports s (t.foundUE inst off cause) :=
  h.trans ⟨(congrArg (fun x : State => { x with mems.buckets := [], draw := 0 }) (t.foundUE_sans inst off cause) :),
    fun _ hj => hj.foundUE t hi off cause⟩

/-! ### The arrays of a launch (R186) -/

/-- What the steps of a launch on its arrays leave. -/
structure ArraysWork (v u : State) : Prop where
  moving : Moving v u
  mem : u.mem = v.mem
  cat : u.cat = v.cat
  im : u.im = v.im

theorem ArraysWork.trans {v u w : State} (h : ArraysWork v u) (h' : ArraysWork u w) : ArraysWork v w :=
  ⟨h.moving.trans h'.moving, h'.mem.trans h.mem, h'.cat.trans h.cat, h'.im.trans h.im⟩

theorem OnlyReports.arraysWork {v u : State} (h : OnlyReports v u) : ArraysWork v u :=
  ⟨h.moving, h.mem, (congrArg Mems.cat h.mems :), (congrArg Mems.im h.mems :)⟩

theorem State.putTile_work (c a : Nat) (x : MatDesc) (t : TileOut) : ArraysWork s (s.putTile c a x t) :=
  ⟨⟨rfl, rfl, fun _ _ => rfl⟩, rfl, rfl, rfl⟩

section
variable {c : Nat} (hc : c < 512) {x : MatDesc} (hu : x.units = 32 ∨ x.units = 16 ∨ x.units = 8) (hrid : x.rid < 64)
  (hfit : x.trow + x.tileRows * x.lines ≤ 1024)

/-- Entries and records of the arrays other than `a` stay, and `a` has its record. -/
structure TileDone (v u : State) (c a : Nat) (x : MatDesc) : Prop where
  am : ∀ b k, b ≠ a → k < 32768 → sget (fun _ => 0) u.am ((4 * c + b) * 32768 + k) = sget (fun _ => 0) v.am ((4 * c + b) * 32768 + k)
  tiles : ∀ b r, b ≠ a → (tileKey c b x.rid, r) ∈ v.tiles → (tileKey c b x.rid, r) ∈ u.tiles
  own : ∃ r, (tileKey c a x.rid, r) ∈ u.tiles ∧ x.Recorded r

include hu hrid hfit in
theorem State.putTile_done (a : Nat) (t : TileOut) (f : Nat → Nat → Nat)
    (ht : t.codes = (List.range x.m).map fun i => (List.range x.n).map fun j => f i j) : TileDone s (s.putTile c a x t) c a x := by
  obtain ⟨h1, h2⟩ := s.putTile_tiles c a x t
  refine ⟨fun b k hb hk => ?_, fun b r hb hp => h2 _ hp (tileKey_ne hrid hb) (by unfold tileKey; omega), h1⟩
  refine s.putTile_am c a x t f ht fun i j hi hj => ?_
  have := x.key_range hu hfit c a hi hj
  omega

include hc hu hrid hfit in
theorem State.matArray_does (a : Nat) (d : Desc) (lb : Loaded) :
    ArraysWork s (s.matArray c a d x lb).1 ∧ TileDone s (s.matArray c a d x lb).1 c a x := by
  obtain ⟨f, hf⟩ := s.matTile_codes c a x (s.load c (x.tensorA c a) x.op) lb
  have hr : OnlyReports s ((if x.init = 1 then s.tileUe c a x else []).foldl (fun s off => s.foundUE (2 * 4096 + c) off 3) s) :=
    foldl_inv (OnlyReports s) _ (fun _ _ hx => hx.foundUE (capturePage_cluster (k := 2) (by decide) hc) _ _) _ _ (OnlyReports.refl s)
  unfold State.matArray
  dsimp only
  generalize (if x.init = 1 then s.tileUe c a x else []).foldl (fun s off => s.foundUE (2 * 4096 + c) off 3) s = u at hr ⊢
  generalize s.matTile c a x (s.load c (x.tensorA c a) x.op) lb = t at hf ⊢
  have hm := hr.mems
  obtain ⟨h1, h2, h3⟩ := u.putTile_done (c := c) hu hrid hfit a t f hf
  refine ⟨hr.arraysWork.trans (u.putTile_work c a x t), fun b k hb hk => (h1 b k hb hk).trans ?_, fun b r hb hp => h2 b r hb ?_, h3⟩
  · rw [show u.am = s.am from (congrArg Mems.am hm :)]
  · rw [show u.tiles = s.tiles from (congrArg Mems.tiles hm :)]
    exact hp


/-- The arrays of `l` have taken their steps, and each has its run. -/
structure ArraysDone (v : State) (c : Nat) (x : MatDesc) (l : List Nat) (acc : State × List MatRun) : Prop where
  work : ArraysWork v acc.1
  arrs : acc.2.map (·.arr) = l
  am : ∀ b k, b ∉ l → k < 32768 →
    sget (fun _ => 0) acc.1.am ((4 * c + b) * 32768 + k) = sget (fun _ => 0) v.am ((4 * c + b) * 32768 + k)
  tiles : ∀ b ∈ l, ∃ r, (tileKey c b x.rid, r) ∈ acc.1.tiles ∧ x.Recorded r

theorem ArraysDone.next {v u : State} {l : List Nat} {acc : State × List MatRun} (h : ArraysDone v c x l acc) {a : Nat} {r : MatRun}
    (hw : ArraysWork acc.1 u) (hd : TileDone acc.1 u c a x) (hr : r.arr = a) : ArraysDone v c x (l ++ [a]) (u, acc.2 ++ [r]) := by
  refine ⟨h.work.trans hw, by rw [List.map_append, h.arrs, List.map_singleton, hr], fun b k hb hk => ?_, fun b hb => ?_⟩
  · rw [List.mem_append, not_or, List.mem_singleton] at hb
    exact (hd.am b k hb.2 hk).trans (h.am b k hb.1 hk)
  · by_cases hba : b = a
    · exact hba ▸ hd.own
    · rw [List.mem_append, List.mem_singleton] at hb
      obtain ⟨r', hr', hrec⟩ := h.tiles b (hb.resolve_right hba)
      exact ⟨r', hd.tiles b r' hba hr', hrec⟩

end

end

theorem foldl_prefix {α β : Type} (P : List β → α → Prop) (f : α → β → α) (h : ∀ l a b, P l a → P (l ++ [b]) (f a b))
    {l₀ : List β} {a : α} (ha : P l₀ a) (l : List β) : P (l₀ ++ l) (l.foldl f a) := by
  induction l generalizing l₀ a with
  | nil => rwa [List.append_nil]
  | cons b l ih =>
    have := ih (h l₀ a b ha)
    rwa [List.append_assoc] at this

/-! ### What the launch does besides (R197 to R200, R233) -/

section
variable (s : State)

/-- Levels, rises and other launches of one cluster may have changed, and the free-running draw; its queue, its table's length and its
Docent's page are as before. -/
structure Beside (v u : State) (c : Nat) : Prop where
  mems : u.mems = v.mems
  queue : (u.clu c).queue = (v.clu c).queue
  others : ∀ c', c' ≠ c → u.clu c' = v.clu c'
  word : ∀ f, f.off < 4096 → f.off / 4 ≠ Reg.DOC_CNT_WAIT.off / 4 → u.word (regIdx (pgDoc c) f) = v.word (regIdx (pgDoc c) f)

theorem Beside.refl (c : Nat) : Beside s s c := ⟨rfl, rfl, fun _ _ => rfl, fun _ _ _ => rfl⟩

theorem Beside.trans {v u w : State} {c : Nat} (h : Beside v u c) (h' : Beside u w c) : Beside v w c :=
  ⟨h'.mems.trans h.mems, h'.queue.trans h.queue, fun c' hc => (h'.others c' hc).trans (h.others c' hc),
    fun f h1 h2 => (h'.word f h1 h2).trans (h.word f h1 h2)⟩

theorem Beside.setClu {c : Nat} {k : Cluster} (hk : k.queue = (s.clu c).queue) : Beside s (s.setClu c k) c :=
  ⟨rfl, by rw [State.clu_setClu, if_pos rfl, hk], fun c' hc => by rw [State.clu_setClu, if_neg hc], fun _ _ _ => rfl⟩

theorem Beside.setF {c pg : Nat} (f : Fld) (v : Nat) (hp : pg ≠ pgDoc c) (hf : f.off < 4096) : Beside s (s.setF pg f v) c :=
  ⟨rfl, rfl, fun _ _ => rfl, fun _ hg _ => s.word_setF_ne v (regIdx_ne_page _ _ hp.symm hf hg)⟩

theorem Beside.count {c pg : Nat} (f : Fld) (n : Nat) (h : ∀ g, g.off < 4096 → g.off / 4 ≠ Reg.DOC_CNT_WAIT.off / 4 → regIdx (pgDoc c) g ≠ regIdx pg f) :
    Beside s (s.count pg f n) c :=
  ⟨s.count_mems _ _ _, by rw [State.clu_count], fun _ _ => State.clu_count _ _ _ _ _, fun g h1 h2 => s.word_count_ne n (h g h1 h2)⟩


theorem regIdx_pgDoc_ne_pgArr (c : Nat) (f g : Fld) (hf : f.off < 4096) (hg : g.off < 4096) : regIdx (pgDoc c) f ≠ regIdx (pgArr c) g :=
  regIdx_ne_page _ _ (by unfold pgDoc pgArr; omega) hg hf

theorem State.levelGo_does (c t0 ramp : Nat) (x : MatDesc) (r : MatRun) (ha : r.arr < 4) :
    Beside s (s.levelGo c t0 ramp x r) c ∧ ((s.levelGo c t0 ramp x r).clu c).launches = (s.clu c).launches ∧
    (s.levelGo c t0 ramp x r).getF (pgArr c) (arrLevel r.arr) = 8 ∧
    ∀ b, b < 4 → b ≠ r.arr → (s.levelGo c t0 ramp x r).getF (pgArr c) (arrLevel b) = s.getF (pgArr c) (arrLevel b) := by
  have hoff : (Reg.ARR_CNT_BALLAST r.arr).off < 4096 := by
    simp only [Reg.ARR_CNT_BALLAST]
    omega
  have hlev : (arrLevel r.arr).hi < 32 := by
    simp only [arrLevel]
    omega
  unfold State.levelGo
  extract_lets lv from_ since s1 k
  have h1 : Beside s s1 c := Beside.count s _ _ fun g hg _ => regIdx_pgDoc_ne_pgArr c g _ hg hoff
  have hk1 : s1.clu c = s.clu c := State.clu_count _ _ _ _ _
  have hlv (b : Nat) : s1.getF (pgArr c) (arrLevel b) = s.getF (pgArr c) (arrLevel b) :=
    s.getF_count_ne _ (regIdx_ne_off _ _ _ _ (by simp only [arrLevel, Reg.ARR_CNT_BALLAST]; omega) hoff (by simp only [arrLevel]; omega))
  have hpg : pgArr c ≠ pgDoc c := by
    unfold pgDoc pgArr
    omega
  have h2 : Beside s (s1.setClu c { k with
      rise := k.rise.set r.arr (t0, from_), levelAt := k.levelAt.set r.arr (t0 + s1.cyc c (r.busy x - 1)),
      ballAt := k.ballAt.set r.arr (t0 + s1.cyc c (r.busy x)) }) c := h1.trans (Beside.setClu s1 rfl)
  refine ⟨h2.trans (Beside.setF _ (arrLevel r.arr) 8 hpg (by simp only [arrLevel]; omega)), ?_, ?_, fun b hb hne => ?_⟩
  · change ((s1.setClu c _).clu c).launches = _
    rw [State.clu_setClu, if_pos rfl]
    exact (congrArg Cluster.launches hk1 : k.launches = _)
  · have hw : (arrLevel r.arr).width = 4 := by
      simp only [Fld.width, arrLevel]
      omega
    rw [State.getF_setF_same _ _ 8 (by simp only [arrLevel]; omega) hlev, hw]
    rfl
  · rw [State.getF_setF_field _ _ _ _ (by simp only [arrLevel]; omega) (by simp only [arrLevel]; omega) hlev, State.getF_setClu]
    exact hlv b

/-- The arrays of some runs have gone to level 8. -/
structure LevelsGone (s u : State) (c : Nat) (l : List MatRun) : Prop where
  beside : Beside s u c
  launches : (u.clu c).launches = (s.clu c).launches
  levels : ∀ r ∈ l, u.getF (pgArr c) (arrLevel r.arr) = 8

theorem State.levelsGo_gone (c t0 ramp : Nat) (x : MatDesc) (l : List MatRun) (hl : ∀ r ∈ l, r.arr < 4) :
    LevelsGone s (l.foldl (fun (s : State) r => s.levelGo c t0 ramp x r) s) c l := by
  have h := foldl_prefix (fun l u => (∀ r ∈ l, r.arr < 4) → LevelsGone s u c l) (fun (s : State) r => s.levelGo c t0 ramp x r)
    (fun l u r h hl => by
      have hr := hl r (List.mem_append_right _ (List.mem_singleton.mpr rfl))
      have hd := h fun r' hr' => hl r' (List.mem_append_left _ hr')
      obtain ⟨h1, h2, h3, h4⟩ := u.levelGo_does c t0 ramp x r hr
      refine ⟨hd.beside.trans h1, h2.trans hd.launches, fun r' hr' => ?_⟩
      by_cases hne : r'.arr = r.arr
      · rw [hne, h3]
      · rw [h4 _ (hl r' hr') hne]
        rw [List.mem_append, List.mem_singleton] at hr'
        exact hd.levels r' (hr'.resolve_right fun e => hne (e ▸ rfl)))
    (l₀ := []) (a := s) (fun _ => ⟨Beside.refl s c, rfl, nofun⟩) l
  exact h hl

theorem State.takeSfu_does (c : Nat) (cyc : List Nat) : Beside s (s.takeSfu c cyc) c ∧
    (∀ m ∈ (s.clu c).launches, m.cls ≠ 2 → m ∈ ((s.takeSfu c cyc).clu c).launches) ∧
    (cyc = [] → ((s.takeSfu c cyc).clu c).launches = (s.clu c).launches) ∧
    ∀ pg f, (s.takeSfu c cyc).getF pg f = s.getF pg f := by
  cases cyc with
  | nil => exact ⟨Beside.refl s c, fun _ hm _ => hm, fun _ => rfl, fun _ _ => rfl⟩
  | cons g gs =>
    unfold State.takeSfu
    rw [if_neg (by simp)]
    refine ⟨Beside.setClu s rfl, fun m hm h2 => ?_, fun h => absurd h (by simp), fun _ _ => rfl⟩
    dsimp only
    rw [State.clu_setClu, if_pos rfl]
    refine List.mem_map.mpr ⟨m, hm, ?_⟩
    exact if_pos (if_neg h2)


/-! ### The entry of a matrix launch -/

/-- The end of the issue of a matrix launch: levels go up, the SFU is taken, and the launch enters the table. -/
def State.matEnter (c : Nat) (d : Desc) (x : MatDesc) (holds : List DepRange) (t0 ramp endAt first : Nat) (grants : List Nat)
    (vary : Bool) (free : List Nat → List Nat) (runs : List MatRun) (effs : List Eff) (er : List EpiRun)
    (stalls : List (Nat × Nat × Nat)) : State :=
  let u := (runs.foldl (fun (s : State) r => s.levelGo c t0 ramp x r) (s.count (pgDoc c) Reg.DOC_CNT_WAIT ramp)).takeSfu c grants
  let u := if vary then { u with draw := u.draw + 1 } else u
  let k := u.clu c
  let u := u.setClu c { k with lastIssue := t0, arrFree := free k.arrFree }
  u.addLaunch c d holds endAt first 0 x.amask effs er stalls

/-- The launch `l` stands in the table. -/
structure MatEntered (s t : State) (c : Nat) (d : Desc) (x : MatDesc) (holds : List DepRange) (t0 : Nat) (grants : List Nat)
    (runs : List MatRun) (er : List EpiRun) (l : Launch) : Prop where
  beside : Beside s t c
  last : (t.clu c).launches.getLast? = some l
  kept : ∀ m ∈ (s.clu c).launches, m.cls ≠ 2 → m ∈ (t.clu c).launches
  table : grants = [] → (t.clu c).launches = (s.clu c).launches ++ [l]
  slot : l.slot = d.slot
  cls : l.cls = d.cls
  opc : l.opc = d.opc
  deps : l.deps = holds
  start : l.start = t0
  due : t0 ≤ l.due
  phase : l.phase = 0
  amask : l.amask = x.amask
  desc : l.desc = d
  epis : l.epis = er
  levels : ∀ r ∈ runs, t.getF (pgArr c) (arrLevel r.arr) = 8

/-- The entry that a matrix launch is given. -/
theorem State.addLaunch_matrix (c : Nat) (d : Desc) (holds : List DepRange) (dur epi amask : Nat) (effs : List Eff) (er : List EpiRun)
    (stalls : List (Nat × Nat × Nat)) : ∃ l : Launch, s.addLaunch c d holds dur epi 0 amask effs er stalls =
      s.setClu c { s.clu c with launches := (s.clu c).launches ++ [l], issued := (s.clu c).issued + 1 } ∧
      l.slot = d.slot ∧ l.cls = d.cls ∧ l.opc = d.opc ∧ l.deps = holds ∧ l.start = (s.clu c).lastIssue ∧ (s.clu c).lastIssue ≤ l.due ∧
      l.phase = 0 ∧ l.amask = amask ∧ l.desc = d ∧ l.epis = er :=
  ⟨_, rfl, rfl, rfl, rfl, rfl, rfl, Nat.le_add_right _ _, rfl, rfl, rfl, rfl⟩

theorem State.matEnter_enters (c : Nat) (d : Desc) (x : MatDesc) (holds : List DepRange) (t0 ramp endAt first : Nat) (grants : List Nat)
    (vary : Bool) (free : List Nat → List Nat) (runs : List MatRun) (hr : ∀ r ∈ runs, r.arr < 4) (effs : List Eff) (er : List EpiRun)
    (stalls : List (Nat × Nat × Nat)) :
    ∃ l, MatEntered s (s.matEnter c d x holds t0 ramp endAt first grants vary free runs effs er stalls) c d x holds t0 grants runs er l := by
  have h0 : Beside s (s.count (pgDoc c) Reg.DOC_CNT_WAIT ramp) c := Beside.count s _ _ fun _ hg hne =>
    regIdx_ne_off _ _ _ _ (Ne.symm hne) (hg := hg)
  have hk0 : (s.count (pgDoc c) Reg.DOC_CNT_WAIT ramp).clu c = s.clu c := State.clu_count _ _ _ _ _
  unfold State.matEnter
  generalize s.count (pgDoc c) Reg.DOC_CNT_WAIT ramp = u0 at h0 hk0 ⊢
  obtain ⟨h1, hl1, hlev⟩ := u0.levelsGo_gone c t0 ramp x runs hr
  generalize runs.foldl (fun (s : State) r => s.levelGo c t0 ramp x r) u0 = u1 at h1 hl1 hlev ⊢
  obtain ⟨h2, hkept, hnone, hget⟩ := u1.takeSfu_does c grants
  generalize u1.takeSfu c grants = u2 at h2 hkept hnone hget ⊢
  have h3 : Beside u2 (if vary then { u2 with draw := u2.draw + 1 } else u2) c ∧
      (if vary then { u2 with draw := u2.draw + 1 } else u2).clu c = u2.clu c ∧
      ∀ pg f, (if vary then { u2 with draw := u2.draw + 1 } else u2).getF pg f = u2.getF pg f := by
    split
    · exact ⟨⟨rfl, rfl, fun _ _ => rfl, fun _ _ _ => rfl⟩, rfl, fun _ _ => rfl⟩
    · exact ⟨Beside.refl u2 c, rfl, fun _ _ => rfl⟩
  dsimp only
  generalize (if vary then { u2 with draw := u2.draw + 1 } else u2) = u3 at h3 ⊢
  obtain ⟨h3, hk3, hget3⟩ := h3
  rw [hk0] at hl1
  rw [hl1] at hkept hnone
  rw [← hk3] at hkept hnone
  have hb := (((h0.trans h1).trans h2).trans h3).trans (Beside.setClu u3 (k := { u3.clu c with lastIssue := t0, arrFree := free (u3.clu c).arrFree }) rfl)
  have hk4 : (u3.setClu c { u3.clu c with lastIssue := t0, arrFree := free (u3.clu c).arrFree }).clu c =
      { u3.clu c with lastIssue := t0, arrFree := free (u3.clu c).arrFree } := by rw [State.clu_setClu, if_pos rfl]
  have hget4 (pg : Nat) (f : Fld) : (u3.setClu c { u3.clu c with lastIssue := t0, arrFree := free (u3.clu c).arrFree }).getF pg f = u3.getF pg f := rfl
  generalize u3.setClu c { u3.clu c with lastIssue := t0, arrFree := free (u3.clu c).arrFree } = u4 at hb hk4 hget4 ⊢
  obtain ⟨l, ht, e1, e2, e3, e4, e5, e6, e7, e8, e9, e10⟩ := u4.addLaunch_matrix c d holds endAt first x.amask effs er stalls
  rw [ht]
  have hb5 := hb.trans (Beside.setClu u4 (k := { u4.clu c with launches := (u4.clu c).launches ++ [l], issued := (u4.clu c).issued + 1 }) rfl)
  have hl5 : ((u4.setClu c { u4.clu c with launches := (u4.clu c).launches ++ [l], issued := (u4.clu c).issued + 1 }).clu c).launches =
      (u3.clu c).launches ++ [l] := by rw [State.clu_setClu, if_pos rfl, hk4]
  rw [hk4] at e5 e6
  refine ⟨l, hb5, ?_, fun m hm h2 => ?_, fun hg => ?_, e1, e2, e3, e4, e5, e6, e7, e8, e9, e10, fun r hr => ?_⟩
  · rw [hl5, List.getLast?_concat]
  · rw [hl5]
    exact List.mem_append_left _ (hkept m hm h2)
  · rw [hl5, hnone hg]
  · rw [State.getF_setClu, hget4, hget3, hget]
    exact hlev r hr


/-- The parts of what issuing a matrix launch does: its arrays take their steps, then its entry is made. -/
theorem State.matGo_enters {c : Nat} (hc : c < 512) {x : MatDesc} (hu : x.units = 32 ∨ x.units = 16 ∨ x.units = 8) (hrid : x.rid < 64)
    (hfit : x.trow + x.tileRows * x.lines ≤ 1024) (d : Desc) (holds : List DepRange) :
    ∃ acc endAt first grants vary free effs er stalls,
      s.matGo c d x holds = acc.1.matEnter c d x holds ((s.clu c).lastIssue + s.cyc c (s.rampCycles c d x)) (s.rampCycles c d x)
        endAt first grants vary free acc.2 effs er stalls ∧
      ArraysDone s c x (arraysOf x.amask) acc ∧ (x.fin = false ∨ x.eact = 0 → grants = []) ∧
      er.map (·.arr) = (if x.fin then arraysOf x.amask else []) ∧
      ∀ e ∈ er, e.begun = false ∧ (s.clu c).lastIssue + s.cyc c (s.rampCycles c d x) ≤ e.at_ := by
  generalize hgo : s.matGo c d x holds = u
  unfold State.matGo at hgo
  extract_lets lb s0 s1 ramp t0 one taken at hgo
  have hr : OnlyReports s s1 :=
    (foldl_inv (OnlyReports s) _ (fun _ _ hx => hx.touch _ _ _) _ _ (OnlyReports.refl s)).touchCats hc 5 _
  have h0 : ArraysDone s c x [] (s1, []) := ⟨hr.arraysWork, rfl, fun b k _ _ => by
    rw [show s1.am = s.am from (congrArg Mems.am hr.mems :)], nofun⟩
  split at hgo
  next t runs hfold =>
  have hdone : ArraysDone s c x ([] ++ arraysOf x.amask) (t, runs) := by
    rw [← hfold]
    refine foldl_prefix (ArraysDone s c x) _ (fun l acc a h => ?_) h0 _
    obtain ⟨hw, hd⟩ := acc.1.matArray_does hc hu hrid hfit a d lb
    generalize acc.1.matArray c a d x lb = p at hw hd ⊢
    exact h.next hw hd rfl
  extract_lets most epis effs er first at hgo
  split at hgo
  next endAt grants hend =>
  have her : er = if x.fin then runs.map (fun r =>
      { arr := r.arr, at_ := t0 + s.cyc c (r.busy x - 1 + x.lambda), begun := false, effs := r.epi }) else [] := by
    have hz : runs.zip epis = runs.map (fun r => (r, (r.arr, r.busy x - 1 + x.lambda))) := by
      unfold epis
      rw [List.zip_map_right, List.zip_eq_zipWith, List.zipWith_self, List.map_map]
      rfl
    unfold er
    rw [hz, List.map_map]
    rfl
  refine ⟨(t, runs), endAt, first, grants.map (fun g => t0 + s.cyc c g), s.freeRunning d,
    fun l => l.zipIdx.map (fun (p : Nat × Nat) => if x.amask.testBit p.2 then t0 + s.cyc c most else p.1), effs, er, _, hgo.symm, hdone,
    fun h => ?_, ?_, fun e he => ?_⟩
  · have hg : grants = [] := by
      rcases h with h | h
      · rw [if_neg (by rw [h]; decide)] at hend
        exact (congrArg Prod.snd hend).symm
      · unfold MatDesc.epiRun at hend
        simp only [h, if_true] at hend
        split at hend
        · exact (congrArg Prod.snd hend).symm
        · exact (congrArg Prod.snd hend).symm
    rw [hg, List.map_nil]
  · rw [her]
    split
    · rw [List.map_map]
      exact hdone.arrs
    · rfl
  · rw [her] at he
    split at he
    · obtain ⟨r, -, rfl⟩ := List.mem_map.mp he
      exact ⟨rfl, Nat.le_add_right _ _⟩
    · cases he


theorem badMat_fits {c : Nat} {d : Desc} {x : MatDesc} (h : s.badMat c d x = false) : x.trow + x.tileRows * x.lines ≤ 1024 := by
  unfold State.badMat at h
  simp only [Bool.or_eq_false_iff, decide_eq_false_iff_not, Nat.not_lt] at h
  tauto

/-- The plan of a MATMUL that is in order. -/
theorem matPlan_good {c : Nat} {d : Desc} (hg : (matPlan c s d).bad = false) :
    ∃ x, d.mat = some x ∧ s.badMat c d x = false ∧ (matPlan c s d).go = fun t => t.matGo c d x (matPlan c s d).holds := by
  unfold matPlan at hg ⊢
  split at hg
  · cases hg
  · next x hx => exact ⟨x, hx, hg, rfl⟩

theorem mem_arraysOf {m b : Nat} : b ∈ arraysOf m ↔ b < 4 ∧ m.testBit b = true := by
  unfold arraysOf
  rw [List.mem_filter, List.mem_range]

/-- A MATMUL in order that can issue: its steps are done on every array, its entry stands in the table. -/
theorem matmul_issues {c : Nat} {d : Desc} (hc : c < 512) (h : s.AtHead { c := c, cls := 0, opc := 1, plan := matPlan c } d)
    (hk : s.CanIssue { c := c, cls := 0, opc := 1, plan := matPlan c } d) :
    ∃ u t x grants runs er l, exec (.matmul c) s = .next t ∧ d.mat = some x ∧
      ArraysDone (s.issue c d) c x (arraysOf x.amask) (u, runs) ∧
      MatEntered u t c d x (matPlan c s d).holds (s.issueAt c + s.cyc c ((s.issue c d).rampCycles c d x)) grants runs er l ∧
      (x.fin = false ∨ x.eact = 0 → grants = []) ∧ er.map (·.arr) = (if x.fin then arraysOf x.amask else []) ∧
      ∀ e ∈ er, e.begun = false ∧ s.issueAt c + s.cyc c ((s.issue c d).rampCycles c d x) ≤ e.at_ := by
  obtain ⟨x, hx, hbad, hgo⟩ := matPlan_good s hk.good
  obtain ⟨hu, hrid⟩ := Desc.mat_fields hx
  have hi := s.issue_issued c d
  obtain ⟨w, hclu⟩ := hi.clu
  obtain ⟨acc, endAt, first, grants, vary, free, effs, er, stalls, e, hdone, hgr, her, hat⟩ :=
    (s.issue c d).matGo_enters hc hu hrid (badMat_fits s hbad) d (matPlan c s d).holds
  have hlast : ((s.issue c d).clu c).lastIssue = s.issueAt c := by rw [hclu]
  rw [hlast, hi.cyc] at e hat
  have hr4 : ∀ r ∈ acc.2, r.arr < 4 := fun r hr =>
    (mem_arraysOf.mp (hdone.arrs ▸ List.mem_map_of_mem (f := fun r : MatRun => r.arr) hr)).1
  obtain ⟨l, hl⟩ := acc.1.matEnter_enters c d x (matPlan c s d).holds _ _ endAt first grants vary free acc.2 hr4 effs er stalls
  refine ⟨acc.1, _, x, grants, acc.2, er, l, ?_, hx, hdone, hl, hgr, her, hat⟩
  rw [exec_of_canIssue rfl h hk, ← e]
  exact congrArg Host.Outcome.next (congrFun hgo _)

end

/-- Settles O32: a move reads its operands and enters the table with its effects, a PAGEOUT after the Archive has been written; a
matrix launch enters after its arrays have taken their steps. That a PAGEOUT writes at once is the model's choice (log 31), as is the
rise before a launch (log 83). -/
theorem moveAndMatrixLaunchIssue : Obligations.MoveAndMatrixLaunchIssue := by
  unfold Obligations.MoveAndMatrixLaunchIssue
  refine ⟨fun i a s d ha h3 hc h hk => moves_issue ha h3 hc h hk, fun c s d hc => ?_⟩
  intro a h hk
  obtain ⟨u, t, x, grants, runs, er, l, he, hx, hdone, hl, hgr, her, hat⟩ := matmul_issues s hc h hk
  have hi := s.issue_issued c d
  obtain ⟨w, hclu⟩ := hi.clu
  have hus : u.clu c = (s.issue c d).clu c := State.clu_congr hdone.work.moving.sched c
  have hlaunches : (u.clu c).launches = (s.clu c).launches := by rw [hus, hclu]
  have hqueue : (u.clu c).queue = (s.clu c).queue.tail := by rw [hus, hclu]
  have hcnt : t.getF (pgDoc c) Reg.DOC_CNT_ISSUE = (s.issue c d).getF (pgDoc c) Reg.DOC_CNT_ISSUE :=
    congrArg (Fld.get _) ((hl.beside.word Reg.DOC_CNT_ISSUE (by decide) (by decide)).trans
      (hdone.work.moving.word _ (quietWord_pgDoc c _)))
  have hlaunched : Launched s t a d l :=
    { queue := hl.beside.queue.trans hqueue
      table := fun h0 => absurd rfl h0
      last := hl.last
      slot := hl.slot
      cls := hl.cls.trans h.cls
      opc := hl.opc.trans h.opc
      deps := hl.deps
      notBefore := hl.start ▸ Nat.le_add_right _ _
      start := fun h0 => absurd rfl h0
      counted := hi.counted.congr rfl rfl hcnt
      waited := fun h0 => absurd rfl h0
      others := fun c' hc' => (hl.beside.others c' hc').trans
        ((State.clu_congr hdone.work.moving.sched c').trans (hi.others c' hc')) }
  have hm := hl.beside.mems
  have hv := hi.mems
  refine ⟨t, l, x, he, hlaunched, hx, hl.start, hl.phase, hl.amask, hl.desc, hl.start ▸ hl.due, hl.epis ▸ her, ?_, ?_, ?_,
    ?_, ?_, ?_, fun b hb hm => ?_, fun b k hb hm' hk' => ?_, fun b hb hm' => ?_⟩
  · rw [hl.epis, hl.start]
    exact hat
  · rw [← hlaunches]
    exact hl.kept
  · intro hf
    rw [← hlaunches]
    exact hl.table (hgr hf)
  · exact (congrArg Mems.mem hm).trans (hdone.work.mem.trans (congrArg Mems.mem hv))
  · exact (congrArg Mems.cat hm).trans (hdone.work.cat.trans (congrArg Mems.cat hv))
  · exact (congrArg Mems.im hm).trans (hdone.work.im.trans (congrArg Mems.im hv))
  · have hb' : b ∈ runs.map (·.arr) := hdone.arrs ▸ mem_arraysOf.mpr ⟨hb, hm⟩
    obtain ⟨r, hr, rfl⟩ := List.mem_map.mp hb'
    exact hl.levels r hr
  · have hb' : b ∉ arraysOf x.amask := fun e => by
      rw [mem_arraysOf, hm'] at e
      exact absurd e.2 (by decide)
    rw [State.am_of_mems hm, hdone.am b k hb' hk', State.am_of_mems hv]
  · rw [show t.tiles = u.tiles from congrArg Mems.tiles hm]
    exact hdone.tiles b (mem_arraysOf.mpr ⟨hb, hm'⟩)

end Sys2Proof.Machine
end

section
/-! PROOFS of the statements on timed launch (spec/08_timed_launch.md), eleventh part: the clusters of a group land, each on its own
(R338, R340). -/
namespace Sys2Proof.Machine

section
variable (s : State)

/-! ### One cluster lands -/

/-- What a landing reads and writes of a cluster: its entry, what its Docent's page shows, and whether and how early it lands. -/
structure LandView where
  clu : Cluster
  doc : Nat
  grp : Nat
  slack : Nat
  lates : Nat
  counting : Bool
  late : Bool
  early : Nat

def State.landView (g lam c : Nat) : LandView :=
  { clu := s.clu c, doc := s.doc c, grp := s.grpOf c, slack := s.getF (pgDoc c) Reg.DOC_SLACK_MIN_SLACK,
    lates := s.getF (pgDoc c) Reg.DOC_CNT_LATE, counting := s.counting (pgDoc c), late := s.lateAt g c lam,
    early := (lam - s.rotAt (s.clu c).lastDone) * s.freq (dieOf c) / 512 }

/-- A cluster that has landed. -/
structure LandView.Landed (v w : LandView) : Prop where
  clu : w.clu = { v.clu with landed := true }
  doc : w.doc = docWindow
  grp : w.grp = v.grp
  slack : w.slack = min (if v.late then 0 else v.early) v.slack
  late : v.late = true → w.lates = if v.counting then min (2 ^ 32 - 1) (v.lates + 1) else v.lates
  inTime : v.late = false → w.lates = v.lates

/-- The frame of a landing of cluster `c`. -/
structure LandFrame (s t : State) (c : Nat) : Prop where
  sans : t.sansClu = s.sansClu
  clu : ∀ c', c' ≠ c → t.clu c' = s.clu c'
  word : ∀ j, j / 1024 ≠ pgDoc c → t.word j = s.word j

theorem LandFrame.trans {s t u : State} {c : Nat} (h : LandFrame s t c) (h' : LandFrame t u c) : LandFrame s u c :=
  ⟨h'.sans.trans h.sans, fun c' hc => (h'.clu c' hc).trans (h.clu c' hc), fun j hj => (h'.word j hj).trans (h.word j hj)⟩

theorem LandFrame.setF (c : Nat) (f : Fld) (v : Nat) (hf : f.off < 4096 := by decide) : LandFrame s (s.setF (pgDoc c) f v) c :=
  ⟨State.sansClu_of_regs (s.setF_sans _ _ _), fun _ _ => rfl, fun _ hj => s.word_setF_ne v (ne_regIdx_of_page hj hf)⟩

theorem LandFrame.count (c : Nat) (f : Fld) (n : Nat) (hf : f.off < 4096 := by decide) : LandFrame s (s.count (pgDoc c) f n) c :=
  ⟨State.sansClu_of_regs (s.count_sans _ _ _), fun _ _ => State.clu_count _ _ _ _ _, fun _ hj => s.word_count_ne n (ne_regIdx_of_page hj hf)⟩

theorem LandFrame.setClu (c : Nat) (k : Cluster) : LandFrame s (s.setClu c k) c :=
  ⟨rfl, fun c' hc => by rw [State.clu_setClu, if_neg hc], fun _ _ => rfl⟩

theorem pgClu_ne_docPage (c c' : Nat) : pgClu c' ≠ pgDoc c := by
  unfold pgClu pgDoc
  omega

/-- A cluster's own counters depend on its CLU page. -/
theorem LandFrame.counting {s t : State} {c : Nat} (h : LandFrame s t c) (pg : Nat) : t.counting pg = s.counting pg := by
  unfold State.counting State.flag State.getF
  rw [h.word _ (by rw [regIdx_page _ _ (by decide)]; exact pgClu_ne_docPage c _)]

theorem LandFrame.parts {s t : State} {c : Nat} (h : LandFrame s t c) : t.runs = s.runs ∧ t.groups = s.groups ∧ t.time = s.time ∧
    t.plat = s.plat ∧ t.mems = s.mems ∧ t.out = s.out ∧ t.arch = s.arch :=
  ⟨(congrArg (fun x : State => x.runs) h.sans :), (congrArg (fun x : State => x.groups) h.sans :), (congrArg (fun x : State => x.time) h.sans :),
    (congrArg (fun x : State => x.plat) h.sans :), (congrArg (fun x : State => x.mems) h.sans :), (congrArg (fun x : State => x.out) h.sans :),
    (congrArg (fun x : State => x.arch) h.sans :)⟩

theorem pgPwr_ne_pgDoc (c : Nat) : pgPwr ≠ pgDoc c := by
  unfold pgPwr pgDoc
  omega

theorem LandFrame.freq {s t : State} {c : Nat} (h : LandFrame s t c) (d : Nat) : t.freq d = s.freq d := by
  obtain ⟨-, -, -, hp, -⟩ := h.parts
  unfold State.freq State.clkCode State.throttle State.throttles State.getF
  rw [hp, h.word _ (by rw [regIdx_page _ _ (by decide)]; exact pgPwr_ne_pgDoc c)]

/-- Whether and how early a cluster lands does not hang on another cluster's Docent. -/
theorem LandFrame.late {s t : State} {c : Nat} (h : LandFrame s t c) (g lam c' : Nat) (hk : t.clu c' = s.clu c') :
    t.lateAt g c' lam = s.lateAt g c' lam ∧
    (lam - t.rotAt (t.clu c').lastDone) * t.freq (dieOf c') / 512 = (lam - s.rotAt (s.clu c').lastDone) * s.freq (dieOf c') / 512 := by
  obtain ⟨hr, -, ht, -⟩ := h.parts
  have hrun : t.run g = s.run g := State.run_of_runs hr g
  have hrot (x : Nat) : t.rotAt x = s.rotAt x := by
    unfold State.rotAt State.rot State.now
    rw [ht]
  have hcyc (n : Nat) : t.cyc c' n = s.cyc c' n := by
    unfold State.cyc
    rw [h.freq]
  constructor
  · unfold State.lateAt
    rw [hk, hrun, hcyc]
    dsimp only
    rw [hrot]
  · rw [hk, hrot, h.freq]

/-- The Docent's page of another cluster. -/
theorem LandFrame.getF_other {s t : State} {c c' : Nat} (h : LandFrame s t c) (hc : c' ≠ c) (f : Fld) (hf : f.off < 4096 := by decide) :
    t.getF (pgDoc c') f = s.getF (pgDoc c') f :=
  congrArg f.get (h.word _ (by rw [regIdx_page _ _ hf]; unfold pgDoc; omega))

theorem LandFrame.view_other {s t : State} {c : Nat} (h : LandFrame s t c) (g lam : Nat) {c' : Nat} (hc : c' ≠ c) :
    t.landView g lam c' = s.landView g lam c' := by
  obtain ⟨h1, h2⟩ := h.late g lam c' (h.clu c' hc)
  unfold State.landView State.doc State.grpOf
  rw [h1, h2, h.clu c' hc, h.counting, h.getF_other hc _, h.getF_other hc _, h.getF_other hc _, h.getF_other hc _]

theorem State.landCluster_does (g c lam : Nat) : LandFrame s (s.landCluster g c lam) c ∧
    (s.landView g lam c).Landed ((s.landCluster g c lam).landView g lam c) := by
  have hslack : (if s.lateAt g c lam then 0 else (lam - s.rotAt (s.clu c).lastDone) * s.freq (dieOf c) / 512) =
      if (s.landView g lam c).late then 0 else (s.landView g lam c).early := rfl
  unfold State.landCluster
  extract_lets pg late slack k s1 s2
  have h1 : LandFrame s s1 c := (LandFrame.setClu s c { s.clu c with landed := true }).trans (LandFrame.setF _ c _ _)
  have hc1 : s1.clu c = { s.clu c with landed := true } := (State.clu_setClu _ _ _ _).trans (if_pos rfl)
  have hd1 : s1.doc c = docWindow := State.doc_setDoc _ _ _
  have hg1 : s1.grpOf c = s.grpOf c := State.grpOf_setDoc _ _ _ _
  have hs1 : s1.getF (pgDoc c) Reg.DOC_SLACK_MIN_SLACK = s.getF (pgDoc c) Reg.DOC_SLACK_MIN_SLACK := State.getF_setF_off _ _ _ _
  have hl1 : s1.getF (pgDoc c) Reg.DOC_CNT_LATE = s.getF (pgDoc c) Reg.DOC_CNT_LATE := State.getF_setF_off _ _ _ _
  have h2 : LandFrame s s2 c := h1.trans (LandFrame.setF s1 c _ _)
  have hc2 : s2.clu c = s1.clu c := rfl
  have hd2 : s2.doc c = s1.doc c := State.getF_setF_off _ _ _ _
  have hg2 : s2.grpOf c = s1.grpOf c := State.getF_setF_off _ _ _ _
  have hs2 : s2.getF (pgDoc c) Reg.DOC_SLACK_MIN_SLACK = min slack (s.getF (pgDoc c) Reg.DOC_SLACK_MIN_SLACK) := by
    have hlt := s.getF_lt (pgDoc c) Reg.DOC_SLACK_MIN_SLACK
    rw [← hs1] at hlt ⊢
    exact (s1.getF_setF_same (pgDoc c) (f := Reg.DOC_SLACK_MIN_SLACK) _).trans
      (Nat.mod_eq_of_lt (lt_of_le_of_lt (Nat.min_le_right _ _) hlt))
  have hl2 : s2.getF (pgDoc c) Reg.DOC_CNT_LATE = s1.getF (pgDoc c) Reg.DOC_CNT_LATE := State.getF_setF_off _ _ _ _
  cases hlate : late with
  | false =>
    rw [if_neg (by decide)]
    refine ⟨h2, hc2.trans hc1, hd2.trans hd1, hg2.trans hg1, hs2.trans (congrArg (min · _) hslack), fun h => ?_, fun _ => hl2.trans hl1⟩
    exact absurd (hlate.symm.trans h) (by decide)
  | true =>
    rw [if_pos rfl]
    have hoff (f : Fld) (h : f.off / 4 ≠ Reg.DOC_CNT_LATE.off / 4 := by decide) (hf : f.off < 4096 := by decide) :
        (s2.count (pgDoc c) Reg.DOC_CNT_LATE 1).getF (pgDoc c) f = s2.getF (pgDoc c) f :=
      s2.getF_count_ne _ (regIdx_ne_off _ _ _ _ (Ne.symm h) (hg := hf))
    refine ⟨h2.trans (LandFrame.count s2 c _ _), (State.clu_count _ _ _ _ _).trans (hc2.trans hc1), (hoff _).trans (hd2.trans hd1),
      (hoff _).trans (hg2.trans hg1), (hoff _).trans (hs2.trans (congrArg (min · _) hslack)), fun _ => ?_, fun h => ?_⟩
    · have hcnt := s2.counted_count (pgDoc c) Reg.DOC_CNT_LATE 1
      unfold Counted at hcnt
      rw [h2.counting, hl2, hl1] at hcnt
      exact hcnt
    · exact absurd (hlate.symm.trans h) (by decide)


/-! ### The clusters that land now -/

/-- The clusters of `l` have landed, and nothing else has changed but their Docents' pages. -/
structure AllLanded (s t : State) (g : Nat) (l : List Nat) : Prop where
  sans : t.sansClu = s.sansClu
  word : ∀ j, (∀ c, j / 1024 ≠ pgDoc c) → t.word j = s.word j
  stay : ∀ c, c ∉ l → t.landView g (s.run g).lam c = s.landView g (s.run g).lam c
  land : ∀ c ∈ l, (s.landView g (s.run g).lam c).Landed (t.landView g (s.run g).lam c)

/-- What the landing instant of the group does before the window. -/
def State.landAll (g : Nat) : State := (s.landing g).foldl (fun s c => s.landCluster g c (s.run g).lam) s

theorem foldl_landCluster (g lam : Nat) (l : List Nat) (h : (s.run g).lam = lam) :
    l.foldl (fun (s : State) c => s.landCluster g c (s.run g).lam) s = l.foldl (fun (s : State) c => s.landCluster g c lam) s := by
  induction l generalizing s with
  | nil => rfl
  | cons c l ih =>
    have hrun := State.run_of_runs (s.landCluster_does g c lam).1.parts.1 g
    rw [List.foldl_cons, List.foldl_cons, h]
    exact ih _ ((congrArg GroupRun.lam hrun).trans h)

theorem State.landAll_landed (g : Nat) (hn : (s.landing g).Nodup) : AllLanded s (s.landAll g) g (s.landing g) := by
  unfold State.landAll
  rw [foldl_landCluster s g _ _ rfl]
  have hview (c : Nat) := foldl_local (fun (u : State) c => u.landCluster g c (s.run g).lam) (fun u c => u.landView g (s.run g).lam c)
    (fun _ => LandView.Landed) (fun u b c hc => (u.landCluster_does g b _).1.view_other g _ hc)
    (fun u b => (u.landCluster_does g b _).2) (s.landing g) hn s c
  have hsans : ((s.landing g).foldl (fun (u : State) c => u.landCluster g c (s.run g).lam) s).sansClu = s.sansClu :=
    foldl_keeps State.sansClu _ (fun u c => (u.landCluster_does g c _).1.sans) _ _
  have hword (j : Nat) (hj : ∀ c, j / 1024 ≠ pgDoc c) :
      ((s.landing g).foldl (fun (u : State) c => u.landCluster g c (s.run g).lam) s).word j = s.word j :=
    foldl_keeps (State.word · j) _ (fun u c => (u.landCluster_does g c _).1.word j (hj c)) _ _
  exact ⟨hsans, hword, fun c => (hview c).1, fun c => (hview c).2⟩

end

end Sys2Proof.Machine
end

section
/-! PROOFS of the statements on timed launch (spec/08_timed_launch.md), twelfth part: what a landing window leaves as it is
(R341). -/
namespace Sys2Proof.Machine

/-! ### Steps that leave clusters, runs and the state registers -/

/-- The words at the offsets of the states of clusters, the failed slots of regions and the regions in service, and the control of
divergence; none of an Ethernet page, which uses such offsets otherwise. -/
def Settled (j : Nat) : Prop :=
  (j % 1024 ∈ [Reg.DOC_STAT_STATE.off / 4, Reg.RGN_SLOT_FAIL_SLOTS.off / 4, Reg.DEV_RGN_AVAIL_MASK.off / 4] ∨
    j = regIdx pgDev Reg.DEV_DET_CTL_DIVERGE) ∧ j / 1024 ≠ pgEth 0 ∧ j / 1024 ≠ pgEth 1

/-- The offset of a field is none of a settled word. -/
def Unsettled (pg off : Nat) : Prop :=
  off < 4096 ∧ off / 4 ∉ [Reg.DOC_STAT_STATE.off / 4, Reg.RGN_SLOT_FAIL_SLOTS.off / 4, Reg.DEV_RGN_AVAIL_MASK.off / 4] ∧
    (off / 4 ≠ Reg.DEV_DET_CTL_DIVERGE.off / 4 ∨ pg ≠ pgDev)

theorem regIdx_mod (pg : Nat) (f : Fld) (hf : f.off < 4096 := by decide) : regIdx pg f % 1024 = f.off / 4 := by
  rw [regIdx, Nat.mul_comm, Nat.mul_add_mod]
  omega

theorem Settled.ne {j pg : Nat} (hj : Settled j) {f : Fld} (hf : Unsettled pg f.off) : j ≠ regIdx pg f := by
  obtain ⟨h1, h2, h3⟩ := hf
  rintro rfl
  obtain ⟨h | h, -⟩ := hj
  · exact h2 (by rwa [regIdx_mod _ _ h1] at h)
  · have hp : pg = pgDev := by rw [← regIdx_page pg f h1, h, regIdx_page _ _ (by decide)]
    have ho : f.off / 4 = Reg.DEV_DET_CTL_DIVERGE.off / 4 := by rw [← regIdx_mod pg f h1, h, regIdx_mod _ _ (by decide)]
    exact h3.elim (· ho) (· hp)

theorem Settled.mod {j : Nat} (hj : Settled j) : j % 1024 ∈ [0x804 / 4, 0x810 / 4, 0x8D0 / 4, 0x140 / 4] := by
  obtain ⟨h | rfl, -⟩ := hj
  · exact List.mem_append_left [0x140 / 4] h
  · rw [regIdx_mod _ _ (by decide)]
    decide

theorem Settled.not_mem_eventWords {j : Nat} (hj : Settled j) (pg : Nat) : j ∉ eventWords pg := by
  refine not_mem_eventWords_of_off pg fun h => ?_
  have hm := hj.mod
  generalize j % 1024 = o at h hm
  simp only [List.mem_cons, List.not_mem_nil, or_false] at h hm
  omega

theorem Settled.unsent {j : Nat} (hj : Settled j) : Unsent j := by
  have hm := hj.mod
  unfold Unsent
  generalize j % 1024 = o at hm
  simp only [List.mem_cons, List.not_mem_nil, or_false] at hm
  rcases hm with rfl | rfl | rfl | rfl <;> decide

/-- Clusters and runs stay, and, where no error is marked in a memory, none is afterwards and the settled words stay. -/
structure Steady (s t : State) : Prop where
  errs : s.errs = [] → t.errs = []
  clusters : t.clusters = s.clusters
  runs : t.runs = s.runs
  word : s.errs = [] → ∀ j, Settled j → t.word j = s.word j

namespace Steady
variable {s t u : State}

theorem refl (s : State) : Steady s s := ⟨id, rfl, rfl, fun _ _ _ => rfl⟩

theorem trans (h : Steady s t) (h' : Steady t u) : Steady s u :=
  ⟨fun he => h'.errs (h.errs he), h'.clusters.trans h.clusters, h'.runs.trans h.runs,
    fun he j hj => (h'.word (h.errs he) j hj).trans (h.word he j hj)⟩

theorem foldl {α : Type} (f : State → α → State) (l : List α) (hf : ∀ u, ∀ x ∈ l, Steady u (f u x)) (s : State) :
    Steady s (l.foldl f s) := by
  induction l generalizing s with
  | nil => exact refl s
  | cons x l ih => exact (hf s x (List.mem_cons_self ..)).trans (ih (fun u y hy => hf u y (List.mem_cons_of_mem x hy)) _)

theorem of_regs (hm : t.mems.errs = s.mems.errs) (hs : t.sched = s.sched) (hw : ∀ j, Settled j → t.word j = s.word j) : Steady s t :=
  ⟨fun he => hm.trans he, by unfold State.clusters; rw [hs], by unfold State.runs; rw [hs], fun _ => hw⟩

theorem of_parts (hm : t.mems.errs = s.mems.errs) (hc : t.clusters = s.clusters) (hr : t.runs = s.runs)
    (hw : ∀ j, Settled j → t.word j = s.word j) : Steady s t := ⟨fun he => hm.trans he, hc, hr, fun _ => hw⟩

theorem setF (s : State) {pg : Nat} {f : Fld} (v : Nat) (hf : Unsettled pg f.off) : Steady s (s.setF pg f v) :=
  of_regs rfl rfl fun _ hj => s.word_setF_ne v (hj.ne hf)

theorem count (s : State) {pg : Nat} {f : Fld} (n : Nat) (hf : Unsettled pg f.off) : Steady s (s.count pg f n) :=
  of_regs (congrArg Mems.errs (s.count_mems pg f n)) (s.count_sched pg f n) fun _ hj => s.word_count_ne n (hj.ne hf)

theorem raise (s : State) (pg bit code sev : Nat) (data : List Byte) : Steady s (s.raise pg bit code sev data) :=
  of_regs (congrArg Mems.errs (s.raise_mems ..)) (s.raise_sched ..) fun _ hj => s.word_raise _ _ _ _ _ (hj.not_mem_eventWords pg)

theorem sendChunk (s : State) (dst vc kind : Nat) (data : List Byte) : Steady s (s.sendChunk dst vc kind data) :=
  of_regs (congrArg Mems.errs (s.sendChunk_mems ..)) (s.sendChunk_sched ..) fun _ hj => s.word_sendChunk _ _ _ _ hj.unsent

theorem writeBytes (s : State) (slot a : Nat) (bs : List Byte) : Steady s (s.writeBytes slot a bs) :=
  ⟨fun he => (s.writeBytes_noErrs slot a bs he).2, by unfold State.clusters; rw [State.writeBytes_sched],
    by unfold State.runs; rw [State.writeBytes_sched],
    fun he j _ => State.word_congr (s.writeBytes_noErrs slot a bs he).1 (s.writeBytes_part slot a bs) j⟩

/-- What happens later within the effect of a command. -/
theorem later {f : State → State} (hf : ∀ u, Steady u (f u)) (s : State) (n : Nat) : Steady s (s.later n f) := by
  have h := hf { s with time.now := s.now + n, time.rot := s.rot + n, time.stamp := s.stamp + n }
  exact ⟨h.errs, h.clusters, h.runs, h.word⟩

theorem clu (h : Steady s t) (c : Nat) : t.clu c = s.clu c := by
  unfold State.clu
  rw [h.clusters]

theorem run (h : Steady s t) (g : Nat) : t.run g = s.run g := State.run_of_runs h.runs g

end Steady

/-! ### Pending commits (R632, R635) -/

/-- The blocks whose pages a landing commits. -/
def landBlocks : List Block := [.clu, .arr, .vec, .doc, .rgn, .upd, .con]

theorem stagedFields_landBlocks : ∀ b ∈ landBlocks, ∀ p ∈ stagedFields b, 0x100 ≤ p.1.off ∧ p.1.off < 0x500 ∧ p.2 ≤ 65 := by
  decide +kernel

/-- A group of the block is the group of a staged field. -/
theorem mem_groupsOf {b : Block} {g : Nat} (hg : g ∈ groupsOf b) : ∃ p ∈ stagedFields b, p.2 = g := by
  have key (l acc : List Nat) (h : g ∈ l.foldl (fun l g => if l.contains g then l else l ++ [g]) acc) : g ∈ acc ∨ g ∈ l := by
    induction l generalizing acc with
    | nil => exact .inl h
    | cons x l ih =>
      rcases ih _ h with h | h
      · beta_reduce at h
        split at h
        · exact .inl h
        · rcases List.mem_append.mp h with h | h
          · exact .inl h
          · exact .inr (List.mem_cons.mpr (.inl (List.mem_singleton.mp h)))
      · exact .inr (List.mem_cons_of_mem _ h)
  unfold groupsOf at hg
  exact List.mem_map.mp ((key _ _ hg).resolve_left (List.not_mem_nil))

theorem pageOf_landBlocks {b : Block} (hb : b ∈ landBlocks) (i : Nat) : pageOf b i ≠ pgDev := by
  unfold landBlocks at hb
  simp only [List.mem_cons, List.not_mem_nil, or_false] at hb
  rcases hb with rfl | rfl | rfl | rfl | rfl | rfl | rfl <;>
    simp only [pageOf, pgDev, pgClu, pgArr, pgVec, pgDoc, pgRgn, pgUpd, pgCon] <;> omega

theorem unsettled_of_lt {pg off : Nat} (hp : pg ≠ pgDev) (h : off < 0x800 ∨ 0xA00 ≤ off ∧ off < 0x1000) : Unsettled pg off := by
  refine ⟨by omega, fun hm => ?_, .inr hp⟩
  have hm' : off / 4 = 0x201 ∨ off / 4 = 0x204 ∨ off / 4 = 0x234 := by simpa [Reg.DOC_STAT_STATE, Reg.RGN_SLOT_FAIL_SLOTS, Reg.DEV_RGN_AVAIL_MASK] using hm
  omega

theorem pgRgn_ne_pgDev (r : Nat) : pgRgn r ≠ pgDev := by
  unfold pgRgn pgDev
  omega

/-- A write to a gatherer slot's status or history. -/
theorem Steady.gath {s t : State} (h : Steady s t) (r v : Nat) {x : Nat} (hx : x < 64) (f : Fld)
    (hf : f.off = 0xA00 + 4 * x ∨ f.off = 0xB00 + 4 * x) : Steady s (t.setF (pgRgn r) f v) :=
  h.trans (Steady.setF t v (unsettled_of_lt (pgRgn_ne_pgDev r) (.inr (by omega))))

theorem Steady.withGathHist {s t : State} (h : Steady s t) (m : List (Nat × List (Option Int))) :
    Steady s { t with sched.gathHist := m } := h.trans (Steady.of_parts rfl rfl rfl fun _ _ => rfl)

theorem Steady.withSnap {s t : State} (h : Steady s t) (m : List (Nat × BitVec 32)) :
    Steady s { t with regFile.snap := m } := h.trans (Steady.of_parts rfl rfl rfl fun _ _ => rfl)

/-- A gatherer slot as its configuration leaves it (R287). -/
def State.freshSlot (s : State) (i x : Nat) : State :=
  let pg := pgRgn i
  let s := s.setF pg (Reg.RGN_GATH_STAT_CUR x) 0x800
  let s := s.setF pg (Reg.RGN_GATH_STAT_NEXT x) 0
  let s := s.setF pg (Reg.RGN_GATH_STAT_VALID x) 0
  let s := s.setF pg (Reg.RGN_GATH_HIST_WMAX x) 0x800
  let s := s.setF pg (Reg.RGN_GATH_HIST_DEPTH x) 0
  { s with sched.gathHist := sdel s.gathHist (64 * i + x) }

theorem State.afterGroup_rgn (s old : State) (i g : Nat) : s.afterGroup old .rgn i g = if g = 1 then s else s.freshSlot i (g - 2) := rfl

theorem State.freshSlot_steady (s : State) (i : Nat) {x : Nat} (hx : x < 64) : Steady s (s.freshSlot i x) := by
  unfold State.freshSlot
  extract_lets pg s1 s2 s3 s4 s5
  have h1 : Steady s s1 := (Steady.refl s).gath i 0x800 hx (Reg.RGN_GATH_STAT_CUR x) (.inl rfl)
  have h2 : Steady s s2 := h1.gath i 0 hx (Reg.RGN_GATH_STAT_NEXT x) (.inl rfl)
  have h3 : Steady s s3 := h2.gath i 0 hx (Reg.RGN_GATH_STAT_VALID x) (.inl rfl)
  have h4 : Steady s s4 := h3.gath i 0x800 hx (Reg.RGN_GATH_HIST_WMAX x) (.inr rfl)
  have h5 : Steady s s5 := h4.gath i 0 hx (Reg.RGN_GATH_HIST_DEPTH x) (.inr rfl)
  exact h5.withGathHist _

theorem State.afterGroup_steady (s old : State) {b : Block} (hb : b ∈ landBlocks) (i : Nat) {g : Nat} (hg : g ∈ groupsOf b) :
    Steady s (s.afterGroup old b i g) := by
  obtain ⟨p, hp, rfl⟩ := mem_groupsOf hg
  obtain ⟨-, -, hle⟩ := stagedFields_landBlocks b hb p hp
  unfold landBlocks at hb
  simp only [List.mem_cons, List.not_mem_nil, or_false] at hb
  rcases hb with rfl | rfl | rfl | rfl | rfl | rfl | rfl
  case inr.inr.inr.inr.inl =>
    rw [s.afterGroup_rgn old i p.2]
    split
    · exact Steady.refl s
    · exact s.freshSlot_steady i (by omega)
  all_goals exact Steady.refl s

/-- What the page shows of the groups that its commit refused (R635). -/
def State.refuseGroups (t : State) (pg : Nat) (bad : List Nat) : State :=
  match bad with
  | [] => t
  | g :: _ =>
    let t := if t.flag pg Reg.PG_COMMIT_STAT_REJECTED then t else t.setF pg Reg.PG_COMMIT_STAT_FGRP g
    let t := t.setF pg Reg.PG_COMMIT_STAT_REJECTED 1
    let t := if 2 ≤ bad.length then t.setF pg Reg.PG_COMMIT_STAT_MULTI 1 else t
    t.raise pg 31 0x3F 1
      (leBytes 1 (t.getF pg Reg.PG_COMMIT_STAT_FGRP) ++ leBytes 1 (t.getF pg Reg.PG_COMMIT_STAT_MULTI))

theorem Steady.setF_low (t : State) {pg : Nat} (hpg : pg ≠ pgDev) (f : Fld) (v : Nat) (hf : f.off < 0x800) : Steady t (t.setF pg f v) :=
  Steady.setF t v (unsettled_of_lt hpg (.inl hf))

theorem State.refuseGroups_steady (t : State) {pg : Nat} (hpg : pg ≠ pgDev) (bad : List Nat) : Steady t (t.refuseGroups pg bad) := by
  unfold State.refuseGroups
  split
  · exact Steady.refl t
  · extract_lets t5 t6 t7
    have h5 : Steady t t5 := by
      unfold t5
      split
      · exact Steady.refl _
      · exact Steady.setF_low _ hpg _ _ (by decide)
    have h6 : Steady t5 t6 := Steady.setF_low _ hpg _ _ (by decide)
    have h7 : Steady t6 t7 := by
      unfold t7
      split
      · exact Steady.setF_low _ hpg _ _ (by decide)
      · exact Steady.refl _
    exact ((h5.trans h6).trans h7).trans (Steady.raise _ _ _ _ _ _)

/-- A commit, its last part under a name of its own. -/
theorem State.applyCommit_eq (s : State) (b : Block) (i : Nat) : s.applyCommit b i =
    (let pg := pageOf b i
     let bad := (groupsOf b).filter (fun g => !s.groupOk b i g)
     let t := (stagedFields b).foldl (fun t (f, g) => if bad.contains g then t else t.setF pg f (s.snapF pg f)) s
     let t := (groupsOf b).foldl (fun t g => if bad.contains g then t else t.afterGroup s b i g) t
     let t := { t with regFile.snap := sclear t.snap (pg * 1024) (pg * 1024 + 1024) }
     (t.setF pg Reg.PG_COMMIT_STAT_PENDING 0).refuseGroups pg bad) := rfl

theorem State.applyCommit_steady (s : State) {b : Block} (hb : b ∈ landBlocks) (i : Nat) : Steady s (s.applyCommit b i) := by
  have hpg := pageOf_landBlocks hb i
  rw [s.applyCommit_eq]
  extract_lets pg bad t1 t2 rf t3
  have h1 : Steady s t1 := Steady.foldl _ _ (fun u p hp => by
    obtain ⟨-, hlt, -⟩ := stagedFields_landBlocks b hb p hp
    dsimp only
    split
    · exact Steady.refl u
    · exact Steady.setF_low u hpg _ _ (by omega)) _
  have h2 : Steady t1 t2 := Steady.foldl _ _ (fun u g hg => by
    split
    · exact Steady.refl u
    · exact u.afterGroup_steady s hb i hg) _
  have h3 : Steady s t3 := (h1.trans h2).withSnap _
  exact (h3.trans (Steady.setF_low t3 hpg Reg.PG_COMMIT_STAT_PENDING 0 (by decide))).trans (State.refuseGroups_steady _ hpg bad)

theorem State.commitAt_steady (s : State) {b : Block} (hb : b ∈ landBlocks) (i : Nat) : Steady s (s.commitAt b i) := by
  unfold State.commitAt
  split
  · exact s.applyCommit_steady hb i
  · exact Steady.refl s

end Sys2Proof.Machine
end

section
/-! PROOFS of the statements on timed launch (spec/08_timed_launch.md), thirteenth part: the gatherer, the Archive and the
repairs in a landing window keep its clusters and runs (R285, R341, R415, R642). -/
namespace Sys2Proof.Machine

namespace Steady
variable {s t : State}

theorem withArch (h : Steady s t) (x : Arch) : Steady s { t with arch := x } := h.trans (Steady.of_parts rfl rfl rfl fun _ _ => rfl)

theorem withReported (h : Steady s t) (l : List Nat) : Steady s { t with sched.reported := l } :=
  h.trans (Steady.of_parts rfl rfl rfl fun _ _ => rfl)

theorem withDraw (h : Steady s t) (n : Nat) : Steady s { t with draw := n } := h.trans (Steady.of_parts rfl rfl rfl fun _ _ => rfl)

theorem withTime (h : Steady s t) (x : Times) : Steady s { t with time := x } := h.trans (Steady.of_parts rfl rfl rfl fun _ _ => rfl)

theorem setRgn (h : Steady s t) (r : Nat) (k : Region) : Steady s (t.setRgn r k) := h.trans (Steady.of_parts rfl rfl rfl fun _ _ => rfl)

theorem setSpan (h : Steady s t) (r : SessRec) (n k : Nat) (e : Span) : Steady s (t.setSpan r n k e) := h.trans (Steady.writeBytes _ _ _ _)

theorem setSess (h : Steady s t) (n : Nat) (r : SessRec) : Steady s (t.setSess n r) := h.trans (Steady.writeBytes _ _ _ _)

theorem grant (h : Steady s t) {b : Bool} {p : Nat} {u : State} (e : t.grant b = some (p, u)) : Steady s u := by
  unfold State.grant at e
  split at e
  · cases e
  · dsimp only at e
    split at e
    · cases e
    · cases e
      exact h.withArch _

/-- A write of a Catalogue entry removes its error marks, and makes none. -/
theorem cat (h : Steady s t) (c i : Nat) (v : BitVec 64) : Steady s (t.applyEff c 0 (.cat i v)) := by
  refine h.trans ⟨fun he => ?_, rfl, rfl, fun _ _ _ => rfl⟩
  change sset (fun _ => 0) t.errs _ 0 = []
  rw [he]
  simp [sset, sdel]

theorem ite {p : Prop} [Decidable p] {u : State} (h : Steady s t) (h' : Steady s u) : Steady s (if p then t else u) := by
  split
  · exact h
  · exact h'

end Steady

/-! ### The gatherer (R283 to R285) -/

theorem State.takeReport_steady (s : State) (r : Nat) {x : Nat} (hx : x < 64) : Steady s (s.takeReport r x) := by
  unfold State.takeReport
  exact ((Steady.refl s).gath r 0x800 hx (Reg.RGN_GATH_STAT_CUR x) (.inl rfl)).withReported _

theorem State.resetShared_steady (s : State) (g : Nat) (rs : List Nat) : Steady s (s.resetShared g rs) := by
  unfold State.resetShared
  refine Steady.foldl _ _ (fun u r _ => Steady.foldl _ _ (fun v x hx => ?_) u) s
  exact Steady.ite (v.takeReport_steady r (List.mem_range.mp hx)) (Steady.refl v)

/-- The scale that an advance writes (R284). -/
def State.writeScale (s : State) (r x : Nat) (v : Int) : State :=
  let pg := pgRgn r
  let e := v - signed 5 (s.getF pg (Reg.RGN_GATH_CFG_TGT x))
  let e' := clampScale e
  let s := if e ≠ e' then s.setF pg (Reg.RGN_GATH_STAT_CLAMP x) 1 else s
  let i := s.getF pg (Reg.RGN_GATH_CFG_CIDX x)
  let s := (List.range 16).foldl (fun s j => s.applyEff (16 * r + j) 0 (.cat i (BitVec.ofNat 64 (unsigned 6 e')))) s
  (s.setF pg (Reg.RGN_GATH_STAT_NEXT x) (unsigned 6 e')).setF pg (Reg.RGN_GATH_STAT_VALID x) 1

theorem State.writeScale_steady (s : State) (r : Nat) {x : Nat} (hx : x < 64) (v : Int) : Steady s (s.writeScale r x v) := by
  unfold State.writeScale
  extract_lets pg e e' s1 i s2
  have h1 : Steady s s1 := Steady.ite ((Steady.refl s).gath r 1 hx (Reg.RGN_GATH_STAT_CLAMP x) (.inl rfl)) (Steady.refl s)
  have h2 : Steady s s2 := h1.trans (Steady.foldl _ _ (fun u j _ => (Steady.refl u).cat _ _ _) _)
  exact (h2.gath r _ hx (Reg.RGN_GATH_STAT_NEXT x) (.inl rfl)).gath r 1 hx (Reg.RGN_GATH_STAT_VALID x) (.inl rfl)

theorem Steady.countAdv (s : State) (r : Nat) : Steady s (s.count (pgRgn r) Reg.RGN_CNT_ADV 1) :=
  Steady.count s 1 (unsettled_of_lt (pgRgn_ne_pgDev r) (.inr (by decide)))

theorem State.advanceSlot_steady (s : State) (r : Nat) {x : Nat} (hx : x < 64) (cls : Option Int) : Steady s (s.advanceSlot r x cls) := by
  unfold State.advanceSlot
  extract_lets pg key hist sch s1 s2 top s3
  have h1 : Steady s s1 := (Steady.refl s).withGathHist _
  have h2 : Steady s s2 := (h1.gath r _ hx (Reg.RGN_GATH_HIST_DEPTH x) (.inr rfl)).trans (Steady.countAdv _ r)
  have h3 : Steady s s3 := h2.gath r _ hx (Reg.RGN_GATH_HIST_WMAX x) (.inr rfl)
  cases top with
  | none => exact h3
  | some v => exact h3.trans (s3.writeScale_steady r hx v)

theorem State.advanceLocal_steady (s : State) (r : Nat) : Steady s (s.advanceLocal r) := by
  unfold State.advanceLocal
  refine Steady.foldl _ _ (fun u x hx => ?_) s
  have hx := List.mem_range.mp hx
  exact Steady.ite ((u.takeReport_steady r hx).trans (State.advanceSlot_steady _ r hx _)) (Steady.refl u)

theorem State.advanceShared_steady (s : State) (g n : Nat) (rs : List Nat) : Steady s (s.advanceShared g n rs) := by
  unfold State.advanceShared
  extract_lets cur
  refine Steady.foldl _ _ (fun u x hx => ?_) s
  extract_lets mine cls
  exact Steady.ite (Steady.refl u) (Steady.foldl _ _ (fun v r _ =>
    Steady.ite (v.advanceSlot_steady r (List.mem_range.mp hx) cls) (Steady.refl v)) u)

/-! ### Repairs and the Archive (R415, R642) -/

theorem Steady.setRgnF (s : State) (r v : Nat) (f : Fld) (hf : Unsettled 1 f.off := by
      exact ⟨by decide, by decide, .inr (by decide)⟩) : Steady s (s.setF (pgRgn r) f v) :=
  Steady.setF s v ⟨hf.1, hf.2.1, .inr (pgRgn_ne_pgDev r)⟩

theorem State.startCopy_steady (s : State) (r n : Nat) : Steady s (s.startCopy r n) := by
  have h (t : State) : Steady t (t.advanceEpoch r) := by
    unfold State.advanceEpoch State.drawFree
    dsimp only
    refine Steady.setRgn ?_ _ _
    exact ((((Steady.refl t).withDraw (t.draw + 1)).trans (Steady.setRgnF _ r _ Reg.PG_EPOCH_EPOCH)).trans (Steady.setRgnF _ r _ Reg.PG_EPOCH_RETIRING)).trans
      ((Steady.setRgnF _ r _ Reg.PG_EPOCH_RVALID).trans (Steady.setRgnF _ r _ Reg.RGN_EPOCH_OUT_COUNT))
  unfold State.startCopy
  exact ((h s).trans (Steady.setRgnF _ r 2 Reg.RGN_REPAIR_STAT_STATE)).setRgn _ _

theorem State.switchSpans_steady (s : State) : Steady s s.switchSpans := by
  unfold State.switchSpans
  extract_lets due a u
  refine ((Steady.refl s).withArch { a with requant := [] }).trans (Steady.foldl _ _ (fun v q _ => ?_) u)
  extract_lets r e v1 v2
  have h1 : Steady v v1 := (Steady.refl v).setSpan _ _ _ _
  have h2 : Steady v v2 := h1.trans (Steady.foldl _ _ (fun w k _ => (Steady.refl w).withArch _) _)
  exact h2.trans (Steady.count _ _ ⟨by decide, by decide, .inl (by decide)⟩)

/-- What a start writes once its pages are granted keeps what a step keeps. -/
theorem Steady.started {s u : State} (h : Steady s u) (r : SessRec) (e : Span) (n t k : Nat) (rec : SessRec) (q : Requant) :
    Steady s { (u.setSess n rec).setSpan r t k e with arch.requant := ((u.setSess n rec).setSpan r t k e).requant ++ [q] } :=
  ((h.setSess n rec).setSpan r t k e).withArch _

/-- A step that goes on where a page was granted, and stays as it is elsewhere. -/
theorem Steady.onGrant {s : State} {o : Option (Nat × State)} {F : Nat → State → State} (h : ∀ p u, o = some (p, u) → Steady s (F p u)) :
    Steady s (match (generalizing := false) o with
      | none => s
      | some (p, u) => F p u) := by
  rcases o with _ | ⟨p, u⟩
  · exact Steady.refl s
  · exact h p u rfl

theorem State.startSpan_steady (s : State) (n t k : Nat) : Steady s (s.startSpan n t k) := by
  unfold State.startSpan
  extract_lets r e
  refine Steady.onGrant fun p s1 hg => ?_
  have h1 := (Steady.refl s).grant hg
  by_cases hc : r.scnext < 16
  · rw [if_pos hc]
    exact h1.started r _ n t k _ _
  · rw [if_neg hc]
    generalize hg2 : s1.grant true = o2
    rcases o2 with _ | ⟨q, s2⟩
    · exact Steady.refl s
    · exact (h1.grant hg2).started r _ n t k _ _

theorem State.ageAt_steady (s : State) (g : Nat) : Steady s (s.ageAt g) := by
  unfold State.ageAt State.startSpans
  refine Steady.ite (s.switchSpans_steady.trans ?_) (Steady.refl s)
  extract_lets cand
  exact Steady.foldl _ _ (fun u x _ => u.startSpan_steady _ _ _) _

theorem Steady.countStep (s : State) : Steady s (s.count pgTim Reg.TIM_CNT_STEP 1) :=
  Steady.count s 1 ⟨by decide, by decide, .inl (by decide)⟩

theorem State.windowStep_steady (s : State) : Steady s s.windowStep := by
  unfold State.windowStep State.stepCount
  refine Steady.ite (Steady.refl s) ?_
  extract_lets d left up
  exact (((Steady.refl s).withTime _).trans (Steady.countStep _)).withTime _

end Sys2Proof.Machine
end

section
/-! PROOFS of the statements on timed launch (spec/08_timed_launch.md), fourteenth part: the end of a landing window in its
clusters, and what follows it (R326, R341, R553). -/
namespace Sys2Proof.Machine

/-! ### Cycle 31 in one cluster (R326, R341) -/

theorem managerOf_pgDoc {c d : Nat} (h : managerOf (pgDoc c) = some d) : d < 4 := by
  by_cases hc : c < 512
  · unfold managerOf at h
    rw [pageBlock_pgDoc hc] at h
    cases h
    unfold dieOf
    omega
  · have hn : pageBlock (pgDoc c) = none := by
      have h1 (n : Nat) (hn : n ≤ 0x1000) : ¬ pgDoc c < n := by unfold pgDoc; omega
      have h2 (n : Nat) (hn : n ≤ 0x1000) : ¬ pgDoc c = n := by unfold pgDoc; omega
      unfold pageBlock
      simp only [h1, h2, reduceIte, Nat.reduceLeDiff]
    unfold managerOf at h
    rw [hn] at h
    cases h

/-- An event of a Docent writes its own page's event word, and pages of die managers. -/
theorem doc_not_mem_eventWords (c : Nat) {j : Nat} (hj : 0x800 ≤ j / 1024) (hne : j ≠ regIdx (pgDoc c) Reg.PG_EVT) :
    j ∉ eventWords (pgDoc c) := by
  unfold eventWords
  split
  · simpa using hne
  · next d hd =>
    have hd4 := managerOf_pgDoc hd
    have h (f : Fld) (hf : f.off < 4096) : j ≠ regIdx (pgDie d) f := ne_regIdx_of_page (by unfold pgDie; omega) hf
    simp [hne, h Reg.DIE_EVTQ (by decide), h Reg.DIE_CNT_EVT (by decide), h Reg.DIE_CNT_EVTDROP (by decide)]

/-- What the end of a window reads and writes of a cluster. -/
structure EndView where
  clu : Cluster
  doc : Nat
  lo : Nat
  evt : Nat

def State.endView (s : State) (c : Nat) : EndView :=
  { clu := s.clu c, doc := s.doc c, lo := s.getF (pgDoc c) Reg.DOC_LAND_LO_IDX, evt := s.getF (pgDoc c) Reg.PG_EVT }

/-- A cluster at the end of the window of landing `n`. -/
structure EndView.Ended (n : Nat) (v w : EndView) : Prop where
  clu : w.clu = { v.clu with signals := [], landed := false }
  doc : w.doc = if v.clu.halting then docDone else if v.clu.next.isNone && v.clu.saved.isNone then docBarrier else v.doc
  lo : w.lo = n % 2 ^ 32
  signal : v.clu.signals ≠ [] → w.evt.testBit 4 = true
  done : v.clu.halting = true → w.evt.testBit 5 = true

/-- The frame of the end of a window in cluster `c`. -/
structure EndFrame (s t : State) (c : Nat) : Prop where
  errs : t.errs = s.errs
  runs : t.runs = s.runs
  clu : ∀ c', c' ≠ c → t.clu c' = s.clu c'
  word : ∀ j, j / 1024 ≠ pgDoc c → j ∉ eventWords (pgDoc c) → t.word j = s.word j

namespace EndFrame
variable {s t u : State} {c : Nat}

theorem trans (h : EndFrame s t c) (h' : EndFrame t u c) : EndFrame s u c :=
  ⟨h'.errs.trans h.errs, h'.runs.trans h.runs, fun c' hc => (h'.clu c' hc).trans (h.clu c' hc),
    fun j h1 h2 => (h'.word j h1 h2).trans (h.word j h1 h2)⟩

theorem setF (s : State) (c : Nat) (f : Fld) (v : Nat) (hf : f.off < 4096 := by decide) : EndFrame s (s.setF (pgDoc c) f v) c :=
  ⟨rfl, rfl, fun _ _ => rfl, fun _ h _ => s.word_setF_ne v (ne_regIdx_of_page h hf)⟩

theorem setClu (s : State) (c : Nat) (k : Cluster) : EndFrame s (s.setClu c k) c :=
  ⟨rfl, rfl, fun c' hc => by rw [State.clu_setClu, if_neg hc], fun _ _ _ => rfl⟩

theorem raise (s : State) (c bit code sev : Nat) (data : List Byte) : EndFrame s (s.raise (pgDoc c) bit code sev data) c :=
  ⟨congrArg Mems.errs (s.raise_mems ..), by unfold State.runs; rw [State.raise_sched], fun c' _ => State.clu_congr (s.raise_sched ..) c',
    fun _ _ h => s.word_raise _ _ _ _ _ h⟩

/-- The page of another Docent. -/
theorem getF_other (h : EndFrame s t c) {c' : Nat} (hc : c' ≠ c) (f : Fld) (hf : f.off < 4096 := by decide) :
    t.getF (pgDoc c') f = s.getF (pgDoc c') f := by
  have hp : regIdx (pgDoc c') f / 1024 = pgDoc c' := regIdx_page _ _ hf
  have hne : pgDoc c' ≠ pgDoc c := by unfold pgDoc; omega
  refine congrArg f.get (h.word _ (by rwa [hp]) (doc_not_mem_eventWords c ?_ (ne_regIdx_of_page (by rwa [hp]) (by decide))))
  rw [hp]
  unfold pgDoc
  omega

end EndFrame

/-- A raised event of a Docent: its event word, and every other word of the page. -/
theorem State.raise_doc (s : State) (c bit code sev : Nat) (data : List Byte) :
    (s.raise (pgDoc c) bit code sev data).getF (pgDoc c) Reg.PG_EVT = (s.getF (pgDoc c) Reg.PG_EVT ||| 2 ^ bit) % 2 ^ 32 ∧
    ∀ f : Fld, f.off < 4096 → f.off / 4 ≠ Reg.PG_EVT.off / 4 →
      (s.raise (pgDoc c) bit code sev data).getF (pgDoc c) f = s.getF (pgDoc c) f := by
  refine ⟨s.getF_raiseBy_evt _ _ _ _ _ _, fun f hf hne => s.getF_raise _ _ _ _ _ _ _ (doc_not_mem_eventWords c ?_ ?_)⟩
  · rw [regIdx_page _ _ hf]
    unfold pgDoc
    omega
  · intro h
    have := congrArg (· % 1024) h
    simp only [regIdx_mod _ _ hf, regIdx_mod (pgDoc c) Reg.PG_EVT] at this
    exact hne this

/-- The signals of a cluster are reported (R326). -/
def State.reportSignals (s : State) (g n c : Nat) (l : List Nat) : State :=
  l.foldl (fun s code => s.raise (pgDoc c) 4 0x05 0 (leBytes 2 code ++ leBytes 1 g ++ leBytes 8 n)) s

theorem testBit_orBit (x i j : Nat) (hj : j < 32) (h : x.testBit j = true) : ((x ||| 2 ^ i) % 2 ^ 32).testBit j = true := by
  rw [Nat.testBit_mod_two_pow, Nat.testBit_or, h]
  simp [hj]

theorem State.reportSignals_does (s : State) (g n c : Nat) (l : List Nat) : EndFrame s (s.reportSignals g n c l) c ∧
    (s.reportSignals g n c l).clu c = s.clu c ∧
    (∀ f : Fld, f.off < 4096 → f.off / 4 ≠ Reg.PG_EVT.off / 4 → (s.reportSignals g n c l).getF (pgDoc c) f = s.getF (pgDoc c) f) ∧
    ((s.getF (pgDoc c) Reg.PG_EVT).testBit 4 = true ∨ l ≠ [] → ((s.reportSignals g n c l).getF (pgDoc c) Reg.PG_EVT).testBit 4 = true) := by
  unfold State.reportSignals
  induction l generalizing s with
  | nil => exact ⟨⟨rfl, rfl, fun _ _ => rfl, fun _ _ _ => rfl⟩, rfl, fun _ _ _ => rfl, fun h => h.resolve_right (· rfl)⟩
  | cons code l ih =>
    obtain ⟨e1, e2⟩ := s.raise_doc c 4 0x05 0 (leBytes 2 code ++ leBytes 1 g ++ leBytes 8 n)
    obtain ⟨h1, h2, h3, h4⟩ := ih (s.raise (pgDoc c) 4 0x05 0 (leBytes 2 code ++ leBytes 1 g ++ leBytes 8 n))
    rw [List.foldl_cons]
    refine ⟨(EndFrame.raise s c _ _ _ _).trans h1, h2.trans (State.clu_congr (s.raise_sched ..) c), fun f hf hne => (h3 f hf hne).trans (e2 f hf hne),
      fun _ => h4 (.inl ?_)⟩
    rw [e1]
    exact testBit_or_two_pow_mod _ 4 32 (by omega)

/-- What a cluster that halts, waits at a barrier or goes on shows at the end of the window. -/
def State.endDoc (s : State) (g n c : Nat) (k : Cluster) : State :=
  if k.halting then (s.setDoc c docDone).raise (pgDoc c) 5 0x06 0 (leBytes 1 g ++ leBytes 8 n)
  else if k.next.isNone && k.saved.isNone then s.setDoc c docBarrier
  else s

theorem State.endDoc_does (s : State) (g n c : Nat) (k : Cluster) : EndFrame s (s.endDoc g n c k) c ∧
    (s.endDoc g n c k).clu c = s.clu c ∧
    (s.endDoc g n c k).doc c = (if k.halting then docDone else if k.next.isNone && k.saved.isNone then docBarrier else s.doc c) ∧
    (s.endDoc g n c k).getF (pgDoc c) Reg.DOC_LAND_LO_IDX = s.getF (pgDoc c) Reg.DOC_LAND_LO_IDX ∧
    ((s.getF (pgDoc c) Reg.PG_EVT).testBit 4 = true → ((s.endDoc g n c k).getF (pgDoc c) Reg.PG_EVT).testBit 4 = true) ∧
    (k.halting = true → ((s.endDoc g n c k).getF (pgDoc c) Reg.PG_EVT).testBit 5 = true) := by
  have hset (v : Nat) : (s.setDoc c v).getF (pgDoc c) Reg.PG_EVT = s.getF (pgDoc c) Reg.PG_EVT ∧
      (s.setDoc c v).getF (pgDoc c) Reg.DOC_LAND_LO_IDX = s.getF (pgDoc c) Reg.DOC_LAND_LO_IDX :=
    ⟨State.getF_setF_off _ _ _ _, State.getF_setF_off _ _ _ _⟩
  unfold State.endDoc
  split
  · next hk =>
    obtain ⟨e1, e2⟩ := (s.setDoc c docDone).raise_doc c 5 0x06 0 (leBytes 1 g ++ leBytes 8 n)
    obtain ⟨h1, h2⟩ := hset docDone
    refine ⟨(EndFrame.setF s c _ _).trans (EndFrame.raise _ c _ _ _ _), State.clu_congr (State.raise_sched ..) c,
      (e2 Reg.DOC_STAT_STATE (by decide) (by decide)).trans (State.doc_setDoc _ _ _), (e2 _ (by decide) (by decide)).trans h2,
      fun h => ?_, fun _ => ?_⟩
    · rw [e1, h1]
      exact testBit_orBit _ _ _ (by omega) h
    · rw [e1]
      exact testBit_or_two_pow_mod _ 5 32 (by omega)
  · next hk =>
    split
    · obtain ⟨h1, h2⟩ := hset docBarrier
      exact ⟨EndFrame.setF s c _ _, rfl, State.doc_setDoc _ _ _, h2, fun h => h1.symm ▸ h, fun h => absurd h hk⟩
    · exact ⟨⟨rfl, rfl, fun _ _ => rfl, fun _ _ _ => rfl⟩, rfl, rfl, rfl, id, fun h => absurd h hk⟩

theorem State.endCluster_does (s : State) (g n c : Nat) : EndFrame s (s.endCluster g n c) c ∧
    (s.endView c).Ended n ((s.endCluster g n c).endView c) := by
  obtain ⟨s1, hs1⟩ : ∃ u, u = (s.setF (pgDoc c) Reg.DOC_LAND_LO_IDX n).setF (pgDoc c) Reg.DOC_LAND_HI_IDX (n / 2 ^ 32) := ⟨_, rfl⟩
  obtain ⟨s2, hs2⟩ : ∃ u, u = s1.reportSignals g n c (s.clu c).signals := ⟨_, rfl⟩
  obtain ⟨s3, hs3⟩ : ∃ u, u = s2.setClu c { s2.clu c with signals := [], landed := false } := ⟨_, rfl⟩
  have he : s.endCluster g n c = s3.endDoc g n c (s.clu c) := by
    subst hs3 hs2 hs1
    rfl
  have f1 : EndFrame s s1 c := hs1 ▸ (EndFrame.setF s c _ _).trans (EndFrame.setF _ c _ _)
  have f3 : EndFrame s2 s3 c := hs3 ▸ EndFrame.setClu s2 c _
  have hlo : s1.getF (pgDoc c) Reg.DOC_LAND_LO_IDX = n % 2 ^ 32 := by
    rw [hs1]
    exact (State.getF_setF_off _ _ _ _).trans (State.getF_setF_same _ _ _)
  have hdoc : s1.doc c = s.doc c := by
    rw [hs1]
    exact (State.getF_setF_off _ _ _ _).trans (State.getF_setF_off _ _ _ _)
  have hclu : s1.clu c = s.clu c := by
    rw [hs1]
    rfl
  obtain ⟨r1, r2, r3, r4⟩ := s1.reportSignals_does g n c (s.clu c).signals
  rw [← hs2] at r1 r2 r3 r4
  have hclu3 : s3.clu c = { s.clu c with signals := [], landed := false } := by
    rw [hs3, State.clu_setClu, if_pos rfl, r2, hclu]
  have hword3 (f : Fld) : s3.getF (pgDoc c) f = s2.getF (pgDoc c) f := by
    rw [hs3]
    rfl
  obtain ⟨d1, d2, d3, d4, d5, d6⟩ := s3.endDoc_does g n c (s.clu c)
  rw [he]
  refine ⟨((f1.trans r1).trans f3).trans d1, d2.trans hclu3, d3.trans ?_, ?_, fun h => d5 ?_, d6⟩
  · have hd3 : s3.doc c = s.doc c := (hword3 _).trans ((r3 Reg.DOC_STAT_STATE (by decide) (by decide)).trans hdoc)
    rw [hd3]
    rfl
  · exact d4.trans ((hword3 _).trans ((r3 _ (by decide) (by decide)).trans hlo))
  · rw [hword3]
    exact r4 (.inr h)

/-! ### The egress rings (R553) -/

/-- The frame of the egress scan. -/
structure Egressed (s t : State) : Prop where
  errs : s.errs = [] → t.errs = []
  clusters : t.clusters = s.clusters
  runs : t.runs = s.runs
  word : s.errs = [] → ∀ j, j / 1024 ≠ pgEth 0 → j / 1024 ≠ pgEth 1 → t.word j = s.word j

namespace Egressed
variable {s t u : State}

theorem refl (s : State) : Egressed s s := ⟨id, rfl, rfl, fun _ _ _ _ => rfl⟩

theorem trans (h : Egressed s t) (h' : Egressed t u) : Egressed s u :=
  ⟨fun he => h'.errs (h.errs he), h'.clusters.trans h.clusters, h'.runs.trans h.runs,
    fun he j h0 h1 => (h'.word (h.errs he) j h0 h1).trans (h.word he j h0 h1)⟩

theorem writeBytes (s : State) (slot a : Nat) (bs : List Byte) : Egressed s (s.writeBytes slot a bs) :=
  ⟨(Steady.writeBytes s slot a bs).errs, (Steady.writeBytes s slot a bs).clusters, (Steady.writeBytes s slot a bs).runs,
    fun he j _ _ => State.word_congr (s.writeBytes_noErrs slot a bs he).1 (s.writeBytes_part slot a bs) j⟩

theorem ringWrite (s : State) (base size off : Nat) (bs : List Byte) : Egressed s (s.ringWrite base size off bs) := by
  unfold State.ringWrite
  dsimp only
  split
  · exact writeBytes s _ _ _
  · exact (writeBytes s _ _ _).trans (writeBytes _ _ _ _)

/-- An Ethernet page changes. -/
theorem of_page (e : Nat) (he : e = 0 ∨ e = 1) (hm : t.mems = s.mems) (hs : t.sched = s.sched)
    (hw : ∀ j, j / 1024 ≠ pgEth e → t.word j = s.word j) : Egressed s t :=
  ⟨fun h => (congrArg Mems.errs hm).trans h, by unfold State.clusters; rw [hs], by unfold State.runs; rw [hs],
    fun _ j h0 h1 => hw j (by rcases he with rfl | rfl <;> assumption)⟩

theorem count (s : State) {e : Nat} (he : e = 0 ∨ e = 1) (f : Fld) (n : Nat) (hf : f.off < 4096 := by decide) :
    Egressed s (s.count (pgEth e) f n) :=
  of_page e he (s.count_mems _ _ _) (s.count_sched _ _ _) fun _ h => s.word_count_ne n (ne_regIdx_of_page h hf)

theorem setF (s : State) {e : Nat} (he : e = 0 ∨ e = 1) (f : Fld) (v : Nat) (hf : f.off < 4096 := by decide) :
    Egressed s (s.setF (pgEth e) f v) :=
  of_page e he rfl rfl fun _ h => s.word_setF_ne v (ne_regIdx_of_page h hf)

theorem accSend (s : State) {e : Nat} (he : e = 0 ∨ e = 1) (x : AccSess) (type : Nat) (plain : List Byte) :
    Egressed s (s.accSend e x type plain) := of_page e he rfl rfl fun _ _ => rfl

end Egressed

theorem State.egress_egressed {e : Nat} (he : e = 0 ∨ e = 1) (n : Nat) (s : State) : Egressed s (State.egress e n s) := by
  induction n generalizing s with
  | zero => exact Egressed.refl s
  | succ n ih =>
    unfold State.egress
    extract_lets base size off h sid len s1 word s2
    split
    · exact Egressed.refl s
    · have h1 : Egressed s s1 := by
        unfold s1
        split
        · split
          · exact Egressed.count s he _ _
          · exact Egressed.accSend s he _ _ _
        · exact Egressed.count s he _ _
      have h2 : Egressed s1 s2 := Egressed.ringWrite _ _ _ _ _
      exact ((h1.trans h2).trans (Egressed.setF _ he Reg.ETH_EGR_HEAD_OFF _)).trans (ih _)

theorem State.egressAt_egressed (s : State) (g : Nat) : Egressed s (s.egressAt g) := by
  have step (u : State) {e : Nat} (he : e = 0 ∨ e = 1) (p : Prop) [Decidable p] (n : Nat) :
      Egressed u (if p then State.egress e n u else u) := by
    split
    · exact State.egress_egressed he n u
    · exact Egressed.refl u
  unfold State.egressAt
  exact (step s (.inl rfl) _ _).trans (step _ (.inr rfl) _ _)

end Sys2Proof.Machine
end

section
/-! PROOFS of the statements on timed launch (spec/08_timed_launch.md), fifteenth part: a landing (R326, R336, R338 to R342). -/
namespace Sys2Proof.Machine

/-! ### Whether the package lands does not hang on its clusters' having landed (R338, log 89) -/

namespace AllLanded
variable {s t : State} {g : Nat} {l : List Nat}

theorem parts (h : AllLanded s t g l) : t.runs = s.runs ∧ t.groups = s.groups ∧ t.time = s.time ∧ t.plat = s.plat ∧ t.mems = s.mems ∧
    t.out = s.out ∧ t.arch = s.arch :=
  ⟨(congrArg (fun x : State => x.runs) h.sans :), (congrArg (fun x : State => x.groups) h.sans :), (congrArg (fun x : State => x.time) h.sans :),
    (congrArg (fun x : State => x.plat) h.sans :), (congrArg (fun x : State => x.mems) h.sans :), (congrArg (fun x : State => x.out) h.sans :),
    (congrArg (fun x : State => x.arch) h.sans :)⟩

theorem run (h : AllLanded s t g l) (g' : Nat) : t.run g' = s.run g' := State.run_of_runs h.parts.1 g'

/-- No register but of a Docent's page changes. -/
theorem getF (h : AllLanded s t g l) {pg : Nat} (hp : pg < 0x800) (f : Fld) (hf : f.off < 4096 := by decide) : t.getF pg f = s.getF pg f :=
  congrArg f.get (h.word _ fun c => by rw [regIdx_page _ _ hf]; unfold pgDoc; omega)

theorem pkg (h : AllLanded s t g l) : t.pkg = s.pkg := h.getF (by decide) Reg.DEV_PKG_ID_ID

theorem group (h : AllLanded s t g l) (g' : Nat) : t.group g' = s.group g' := by
  obtain ⟨-, hg, -⟩ := h.parts
  unfold State.group
  rw [hg]

theorem myClusters (h : AllLanded s t g l) (g' : Nat) : t.myClusters g' = s.myClusters g' := by
  unfold State.myClusters
  rw [h.group, h.pkg]

theorem heard (h : AllLanded s t g l) (g' : Nat) : t.heard g' = s.heard g' := by
  unfold State.heard State.awaited State.others State.hasMsg
  rw [h.run, h.group, h.pkg]

theorem switchReady (h : AllLanded s t g l) (g' : Nat) : t.switchReady g' = s.switchReady g' := by
  obtain ⟨-, -, -, -, -, -, ha⟩ := h.parts
  unfold State.switchReady State.flag State.requant
  rw [h.getF (by decide) _, h.getF (by decide) _, ha]

end AllLanded

/-- What a cluster may have become. -/
inductive LandCase (s t : State) (g c : Nat) : Prop where
  | stays (clu : t.clu c = s.clu c) (doc : t.doc c = s.doc c) (grp : t.grpOf c = s.grpOf c)
  | lands (ready : s.clusterReady g c = true) (heard : s.heard g = true) (clu : t.clu c = { s.clu c with landed := true })
      (doc : t.doc c = docWindow) (grp : t.grpOf c = s.grpOf c)

theorem AllLanded.cases {s t : State} {g : Nat} (h : AllLanded s t g (s.landing g)) (c : Nat) : LandCase s t g c := by
  by_cases hc : c ∈ s.landing g
  · have hl := h.land c hc
    have hr : s.clusterReady g c = true ∧ s.heard g = true := by
      unfold State.landing at hc
      dsimp only at hc
      split at hc
      · cases hc
      · rw [List.mem_filter, Bool.and_eq_true] at hc
        exact hc.2
    exact .lands hr.1 hr.2 hl.clu hl.doc hl.grp
  · have hv := h.stay c hc
    exact .stays (congrArg LandView.clu hv :) (congrArg LandView.doc hv :) (congrArg LandView.grp hv :)

theorem docs_of_clusterReady {s : State} {g c : Nat} (h : s.clusterReady g c = true) : s.doc c = docFlight ∧ s.grpOf c = g := by
  unfold State.clusterReady at h
  simp only [Bool.and_eq_true, decide_eq_true_eq] at h
  obtain ⟨⟨⟨⟨h1, h2⟩, -⟩, -⟩, -⟩ := h
  exact ⟨h1, h2⟩

theorem AllLanded.landSet {s t : State} {g : Nat} (h : AllLanded s t g (s.landing g)) : t.landSet g = s.landSet g := by
  unfold State.landSet
  rw [h.myClusters]
  dsimp only
  split
  · refine List.filter_congr fun c _ => ?_
    rcases h.cases c with ⟨e1, e2, e3⟩ | ⟨e0, -, e1, e2, e3⟩
    · rw [e1, e2, e3]
    · obtain ⟨hd, hg⟩ := docs_of_clusterReady e0
      rw [e1, e3, hd, hg]
      simp
  · refine List.filter_congr fun c _ => ?_
    rcases h.cases c with ⟨-, e2, -⟩ | ⟨e0, -, -, e2, -⟩
    · rw [e2]
    · rw [e2, (docs_of_clusterReady e0).1]
      decide

theorem AllLanded.landable {s t : State} {g : Nat} (h : AllLanded s t g (s.landing g)) (c : Nat) : t.landable g c = s.landable g c := by
  unfold State.landable
  rcases h.cases c with ⟨e1, e2, e3⟩ | ⟨e0, e4, e1, e2, e3⟩
  · unfold State.clusterReady
    rw [e1, e2, e3, h.heard]
  · rw [e1, e2, e0, e4]
    simp

theorem AllLanded.canLand {s t : State} {g : Nat} (h : AllLanded s t g (s.landing g)) : t.canLand g = s.canLand g := by
  obtain ⟨-, -, ht, -⟩ := h.parts
  have hl : t.landable g = s.landable g := funext h.landable
  have hr : t.rot = s.rot := by unfold State.rot; rw [ht]
  unfold State.canLand
  rw [h.landSet, h.run, hl, hr, h.switchReady]

theorem landSet_nodup (s : State) (g : Nat) : (s.landSet g).Nodup := by
  unfold State.landSet
  dsimp only
  split
  · exact nodup_filter_range _ _
  · refine List.Nodup.filter _ ?_
    unfold State.myClusters
    split
    · exact List.nodup_nil
    · split
      · exact List.nodup_nil
      · exact nodup_filter_range _ _

theorem landing_nodup (s : State) (g : Nat) : (s.landing g).Nodup := by
  unfold State.landing
  dsimp only
  split
  · exact List.nodup_nil
  · exact (landSet_nodup s g).filter _

theorem State.landAll_all (s : State) (g : Nat) : AllLanded s (s.landAll g) g (s.landing g) := s.landAll_landed g (landing_nodup s g)

theorem landing_eq (s : State) (g : Nat) : exec (.landing g) s =
    if s.canLand g then .next ((s.landAll g).landWindow g) else .next (s.landAll g) := by
  rw [← (s.landAll_all g).canLand]
  rfl

/-- The clusters land, and the package does not yet. -/
theorem State.landing_alone (s : State) (g : Nat) (h : s.canLand g = false) :
    ∃ t, exec (.landing g) s = .next t ∧ (s.landing g = [] → t = s) ∧ t.runs = s.runs ∧ t.mems = s.mems ∧ t.out = s.out ∧
      (∀ c, c < 512 → c ∉ s.landing g → t.clu c = s.clu c ∧ t.doc c = s.doc c) ∧
      ∀ c ∈ s.landing g, c < 512 → t.doc c = docWindow ∧ t.clu c = { s.clu c with landed := true } ∧
        t.getF (pgDoc c) Reg.DOC_SLACK_MIN_SLACK =
          min (if s.lateAt g c (s.run g).lam then 0
               else ((s.run g).lam - s.rotAt (s.clu c).lastDone) * s.freq (dieOf c) / 512)
            (s.getF (pgDoc c) Reg.DOC_SLACK_MIN_SLACK) ∧
        (s.lateAt g c (s.run g).lam = true → Counted s t (pgDoc c) Reg.DOC_CNT_LATE 1) ∧
        (s.lateAt g c (s.run g).lam = false → t.getF (pgDoc c) Reg.DOC_CNT_LATE = s.getF (pgDoc c) Reg.DOC_CNT_LATE) := by
  have ha := s.landAll_all g
  obtain ⟨h1, -, -, -, h2, h3, -⟩ := ha.parts
  refine ⟨s.landAll g, by rw [landing_eq, h]; rfl, fun hl => ?_, h1, h2, h3, fun c _ hc => ?_, fun c hc _ => ?_⟩
  · unfold State.landAll
    rw [hl]
    rfl
  · have hv := ha.stay c hc
    exact ⟨(congrArg LandView.clu hv :), (congrArg LandView.doc hv :)⟩
  · obtain ⟨e1, e2, -, e3, e4, e5⟩ := ha.land c hc
    exact ⟨e2, e1, e3, e4, e5⟩

end Sys2Proof.Machine
end

section
/-! PROOFS of the statements on timed launch (spec/08_timed_launch.md), sixteenth part: the landing window (R326, R336, R341,
R342). -/
namespace Sys2Proof.Machine

/-! ### The message, the schedule and the end of the window -/

/-- A package's run with its own landed message. -/
def GroupRun.withMsg (r : GroupRun) (m : LandedMsg) : GroupRun :=
  { r with msgs := r.msgs ++ [m], finals := if m.final then r.finals ++ [(m.pkg, m.idx)] else r.finals }

theorem State.sendLanded_steady (s : State) (m : LandedMsg) :
    Steady (s.setRun m.grp ((s.run m.grp).withMsg m)) (s.sendLanded m) :=
  Steady.foldl _ _ (fun u p _ => Steady.sendChunk u p _ _ _) _

/-- What the schedule of the next flight does to the run of its group (R336). -/
structure Scheduled (r r' : GroupRun) (n : Nat) (stp : Bool) : Prop where
  idx : r'.idx = n
  step : r'.step = (r.step + stp.toNat) % 2 ^ 64
  stopped : r'.stopped = r.stopped
  kept : ∀ m ∈ r.msgs, n ≤ m.idx → m ∈ r'.msgs
  old : ∀ m ∈ r'.msgs, m ∈ r.msgs

/-- The step of the flight that landed. -/
def State.headStep (s : State) (ms : List Nat) : Bool := match ms.head? with | some c => (s.clu c).fStep | none => false

theorem State.schedule_does (s : State) (g n : Nat) (ms : List Nat) (pre : Bool) :
    ∃ r', s.schedule g n ms pre = s.setRun g r' ∧ Scheduled (s.run g) r' n (s.headStep ms) := by
  unfold State.schedule
  extract_lets r go code rel stp len changed longer t w r'
  refine ⟨_, rfl, rfl, rfl, rfl, fun m hm hn => ?_, fun m hm => ?_⟩
  · exact List.mem_filter.mpr ⟨hm, decide_eq_true hn⟩
  · exact (List.mem_filter.mp hm).1

/-- The clusters at the end of the window. -/
structure EndedAll (s t : State) (n : Nat) (ms : List Nat) : Prop where
  errs : t.errs = s.errs
  runs : t.runs = s.runs
  word : ∀ j, Settled j → (∀ c, j / 1024 ≠ pgDoc c) → t.word j = s.word j
  ended : ∀ c ∈ ms, (s.endView c).Ended n (t.endView c)

theorem State.endView_other {s t : State} {c c' : Nat} (h : EndFrame s t c) (hc : c' ≠ c) : t.endView c' = s.endView c' := by
  unfold State.endView State.doc
  rw [h.clu c' hc, h.getF_other hc _, h.getF_other hc _, h.getF_other hc _]

theorem State.endClusters_does (s : State) (g n u : Nat) {ms : List Nat} (hn : ms.Nodup) :
    EndedAll s (s.later u (fun s => ms.foldl (fun s c => s.endCluster g n c) s)) n ms := by
  obtain ⟨v, hv⟩ : ∃ v : State, v = { s with time.now := s.now + u, time.rot := s.rot + u, time.stamp := s.stamp + u } := ⟨_, rfl⟩
  have h : EndedAll v (ms.foldl (fun s c => s.endCluster g n c) v) n ms :=
    { errs := foldl_keeps State.errs _ (fun a c => (a.endCluster_does g n c).1.errs) _ _
      runs := foldl_keeps State.runs _ (fun a c => (a.endCluster_does g n c).1.runs) _ _
      word := fun j hj hp => foldl_keeps (State.word · j) _ (fun a c => (a.endCluster_does g n c).1.word j (hp c) (hj.not_mem_eventWords _)) _ _
      ended := fun c hc => (foldl_local (fun (a : State) c => a.endCluster g n c) State.endView (fun _ => EndView.Ended n)
        (fun a b c' hc' => State.endView_other (a.endCluster_does g n b).1 hc') (fun a b => (a.endCluster_does g n b).2) ms hn v c).2 hc }
  subst hv
  exact ⟨h.errs, h.runs, h.word, h.ended⟩

theorem State.later_stays (s : State) (u : Nat) (f : State → State)
    (h : f { s with time.now := s.now + u, time.rot := s.rot + u, time.stamp := s.stamp + u } =
      { s with time.now := s.now + u, time.rot := s.rot + u, time.stamp := s.stamp + u }) : s.later u f = s := by
  unfold State.later
  generalize f _ = t at h ⊢
  subst h
  rfl

/-- Nothing is latched while divergence control is off (R380). -/
theorem State.later_latchSigs (s : State) (u g n lam : Nat) (ms : List Nat) (h : s.getF pgDev Reg.DEV_DET_CTL_DIVERGE = 0) :
    s.later u (fun s => s.latchSigs g n lam ms) = s := by
  have hl (t : State) (ht : t.getF pgDev Reg.DEV_DET_CTL_DIVERGE = 0) : t.latchSigs g n lam ms = t := by
    unfold State.latchSigs
    exact if_pos ht
  exact s.later_stays u _ (hl _ h)

theorem State.windowCommits_steady (s : State) (g : Nat) (ms : List Nat) : Steady s (s.windowCommits g ms) := by
  unfold State.windowCommits
  have hb (l : List Block) (hl : ∀ b ∈ l, b ∈ landBlocks) (i : Nat) (P : State → Block → Prop) [∀ s b, Decidable (P s b)] (s : State) :
      Steady s (l.foldl (fun s b => if P s b then s.commitAt b i else s) s) :=
    Steady.foldl _ _ (fun u b hb => Steady.ite (u.commitAt_steady (hl b hb) i) (Steady.refl u)) s
  dsimp only
  refine (Steady.foldl _ _ (fun u c _ => ?_) s).trans (Steady.foldl _ _ (fun u r _ => ?_) _)
  · exact Steady.foldl _ _ (fun v b hb => v.commitAt_steady (by revert b; decide) c) u
  · exact hb _ (by decide) r _ u

/-! ### The window as a whole -/

/-- What the last clause of a landing supposes of the package when its last cluster has landed. -/
structure WindowReady (s : State) (g : Nat) : Prop where
  errs : s.errs = []
  diverge : s.getF pgDev Reg.DEV_DET_CTL_DIVERGE = 0
  whole : s.preempts g (s.run g).lam = false
  msgs : ∀ m ∈ (s.run g).msgs, m.preempt = false
  stays : ∀ r, r < 32 → s.draining r = false
  clusters : ∀ c ∈ s.landSet g, c < 512 ∧ (s.clu c).srst = false

/-- The package's own landed message (R339). -/
def State.ownMsg (s : State) (g : Nat) : LandedMsg :=
  { grp := g, idx := (s.run g).idx + 1, pkg := s.pkg, code := s.wantedCode (s.landSet g),
    final := (s.landSet g).all (fun c => (s.clu c).halting), preempt := s.preempts g (s.run g).lam,
    cur := s.sharedCur g (regionsOf (s.landSet g)) }

/-- The registers that tell whether a region must leave service. -/
theorem settled_gates (r : Nat) (hr : r < 32) : Settled (regIdx pgDev Reg.DEV_RGN_AVAIL_MASK) ∧
    Settled (regIdx (pgRgn r) Reg.RGN_SLOT_FAIL_SLOTS) ∧ Settled (regIdx pgDev Reg.DEV_DET_CTL_DIVERGE) := by
  have h (pg : Nat) (f : Fld) (hf : f.off < 4096) (hp : pg ≠ pgEth 0 ∧ pg ≠ pgEth 1) :
      regIdx pg f / 1024 ≠ pgEth 0 ∧ regIdx pg f / 1024 ≠ pgEth 1 := by rwa [regIdx_page pg f hf]
  refine ⟨⟨.inl ?_, h _ _ (by decide) (by decide)⟩, ⟨.inl ?_, h _ _ (by decide) ?_⟩, ⟨.inr rfl, h _ _ (by decide) (by decide)⟩⟩
  · rw [regIdx_mod _ _ (by decide)]
    decide
  · rw [regIdx_mod _ _ (by decide)]
    decide
  · unfold pgRgn pgEth
    omega

/-- The part of a window before its schedule, from the run that holds the package's message: everything settled stays. -/
def State.windowWork (s : State) (g u n : Nat) (ms rs : List Nat) : State :=
  let s := s.later u (fun s => s.windowCommits g ms)
  let s := (rs.foldl State.advanceLocal s).advanceShared g n rs
  let s := (s.armedRegions g).foldl (fun s x => s.startCopy x 32) s
  (s.ageAt g).windowStep

theorem State.windowWork_steady (s : State) (g u n : Nat) (ms rs : List Nat) : Steady s (s.windowWork g u n ms rs) := by
  unfold State.windowWork
  extract_lets s1 s2 s3
  have h1 : Steady s s1 := Steady.later (fun v => v.windowCommits_steady g ms) s u
  have h2 : Steady s1 s2 := (Steady.foldl _ _ (fun v r _ => v.advanceLocal_steady r) _).trans (State.advanceShared_steady _ _ _ _)
  have h3 : Steady s2 s3 := Steady.foldl _ _ (fun v x _ => v.startCopy_steady x 32) _
  exact ((h1.trans h2).trans h3).trans ((s3.ageAt_steady g).trans (State.windowStep_steady _))

/-- What follows the end of a window in its clusters (R43, R55, R354, R553). -/
def State.windowAfter (s : State) (g n : Nat) (ms : List Nat) : State :=
  let s := (s.egressAt g).splitCheck g n
  let s := if s.replaying && decide (s.getF pgDev Reg.DEV_DET_CTL_LOGGRP = g) then s.replayRead n else s
  (ms.foldl (fun s c => if (s.clu c).srst then s.softReset c else s) s).drainAt ms

theorem draining_congr {s t : State} (h : s.errs = [] → ∀ j, Settled j → (∀ c, j / 1024 ≠ pgDoc c) → t.word j = s.word j)
    (he : s.errs = []) {r : Nat} (hr : r < 32) : t.draining r = s.draining r := by
  obtain ⟨h1, h2, -⟩ := settled_gates r hr
  have e1 := h he _ h1 fun c => by rw [regIdx_page _ _ (by decide)]; unfold pgDoc pgDev; omega
  have e2 := h he _ h2 fun c => by rw [regIdx_page _ _ (by decide)]; unfold pgDoc pgRgn; omega
  unfold State.draining State.avail State.getF
  rw [e1, e2]

/-- With no divergence control, no reset waiting, and no region to leave service, the egress scan is all that follows. -/
theorem State.windowAfter_eq (s : State) (g n : Nat) (ms : List Nat) (he : s.errs = [])
    (hd : s.getF pgDev Reg.DEV_DET_CTL_DIVERGE = 0) (hm : ∀ m ∈ (s.run g).msgs, m.preempt = false)
    (hs : ∀ c ∈ ms, c < 512 ∧ (s.clu c).srst = false) (hr : ∀ r, r < 32 → s.draining r = false) :
    s.windowAfter g n ms = s.egressAt g := by
  have h := s.egressAt_egressed g
  unfold State.windowAfter
  generalize s.egressAt g = t at h
  have hpage (j : Nat) (hj : Settled j) : t.word j = s.word j := h.word he j hj.2.1 hj.2.2
  have hsplit : t.splitCheck g n = t := by
    unfold State.splitCheck
    rw [State.run_of_runs h.runs g]
    dsimp only
    split
    · rfl
    · have hnone : (s.run g).msgs.find? (fun m => m.idx = n && m.preempt && decide (m.pkg ≠ t.pkg)) = none :=
        List.find?_eq_none.mpr fun m hm' => by simp [hm m hm']
      rw [hnone]
  have hrep : t.replaying = false := by
    unfold State.replaying State.getF
    rw [hpage _ (settled_gates 0 (by decide)).2.2]
    refine Bool.and_eq_false_iff.mpr (.inl (decide_eq_false ?_))
    unfold State.getF at hd
    rw [hd]
    decide
  have hdrain (r : Nat) (hr' : r < 32) : t.draining r = false :=
    (draining_congr (fun _ j hj _ => hpage j hj) he hr').trans (hr r hr')
  have hsoft : ms.foldl (fun (s : State) c => if (s.clu c).srst then s.softReset c else s) t = t :=
    foldl_stays fun c hc => by
      rw [show t.clu c = s.clu c by unfold State.clu; rw [h.clusters], (hs c hc).2]
      rfl
  dsimp only
  rw [hsplit, hrep, Bool.false_and, if_neg (by decide), hsoft]
  unfold State.drainAt
  have hstop : ms.foldl (fun (s : State) c => if s.draining (regionOf c) && s.running c then s.stopCluster c else s) t = t :=
    foldl_stays fun c hc => by
      obtain ⟨hlt, -⟩ := hs c hc
      rw [hdrain _ (show regionOf c < 32 by unfold regionOf; omega), Bool.false_and]
      rfl
  rw [hstop, t.endDrains_idle hdrain]

theorem EndView.Ended.of_eq {n : Nat} {v v' w : EndView} (h : v'.Ended n w) (hc : v'.clu = v.clu) (hd : v'.doc = v.doc) : v.Ended n w := by
  obtain ⟨h1, h2, h3, h4, h5⟩ := h
  rw [hc] at h1 h2 h4 h5
  exact ⟨h1, by rw [h2, hd], h3, h4, h5⟩

theorem Egressed.endView {s t : State} (h : Egressed s t) (he : s.errs = []) (c : Nat) : t.endView c = s.endView c := by
  have hw (f : Fld) (hf : f.off < 4096 := by decide) : t.getF (pgDoc c) f = s.getF (pgDoc c) f := by
    refine congrArg f.get (h.word he _ ?_ ?_) <;>
    · rw [regIdx_page _ _ hf]
      unfold pgDoc pgEth
      omega
  unfold State.endView State.doc State.clu
  rw [h.clusters, hw _, hw _, hw _]

theorem settled_doc (c : Nat) : Settled (regIdx (pgDoc c) Reg.DOC_STAT_STATE) := by
  refine ⟨.inl ?_, ?_⟩
  · rw [regIdx_mod _ _ (by decide)]
    decide
  · rw [regIdx_page _ _ (by decide)]
    unfold pgDoc pgEth
    omega

/-- A landing window that does not pre-empt (R341). -/
theorem State.landWindow_does (s : State) (g : Nat) (h : WindowReady s g) :
    ((s.landWindow g).run g).idx = (s.run g).idx + 1 ∧ ((s.landWindow g).run g).stopped = (s.run g).stopped ∧
    ((s.landWindow g).run g).step = ((s.run g).step + (s.headStep (s.landSet g)).toNat) % 2 ^ 64 ∧
    s.ownMsg g ∈ ((s.landWindow g).run g).msgs ∧
    ∀ c ∈ s.landSet g, (s.endView c).Ended ((s.run g).idx + 1) ((s.landWindow g).endView c) := by
  unfold State.landWindow
  extract_lets r n ms rs pre final msg s1 at_ s2 s3 s4 s5 step' s6 s7 s8 s9 s10 s11
  have h0 : Steady s (s.resetShared g rs) := s.resetShared_steady g rs
  have h1 := (s.resetShared g rs).sendLanded_steady msg
  have h6 : Steady ((s.resetShared g rs).setRun g ((s.run g).withMsg (s.ownMsg g))) s6 := by
    rw [show s6 = s5 from if_neg (by rw [show pre = false from h.whole]; decide), ← h0.run g]
    exact h1.trans (s1.windowWork_steady g (at_ 2) n ms rs)
  have herr6 : s6.errs = [] := h6.errs (h0.errs h.errs)
  have hclu6 (c : Nat) : s6.clu c = s.clu c := (h6.clu c).trans (h0.clu c)
  have hword6 (j : Nat) (hj : Settled j) : s6.word j = s.word j := (h6.word (h0.errs h.errs) j hj).trans (h0.word h.errs j hj)
  have hrun6 : s6.run g = (s.run g).withMsg (s.ownMsg g) := by
    rw [h6.run g, State.run_setRun, if_pos rfl]
  have hdiv6 : s6.getF pgDev Reg.DEV_DET_CTL_DIVERGE = 0 :=
    (congrArg _ (hword6 _ (settled_gates 0 (by decide)).2.2)).trans h.diverge
  have h7 : s7 = s6 := s6.later_latchSigs _ g n _ ms hdiv6
  obtain ⟨r', e8, hr'⟩ := s7.schedule_does g n ms pre
  have h8 : s8 = s6.setRun g r' := by rw [← h7]; exact e8
  rw [h7, hrun6] at hr'
  have h9 : EndedAll s8 s9 n ms := s8.endClusters_does g n (at_ 31) (landSet_nodup s g)
  have herr9 : s9.errs = [] := h9.errs.trans (by rw [h8]; exact herr6)
  have hrun9 : s9.run g = r' := by rw [State.run_of_runs h9.runs g, h8, State.run_setRun, if_pos rfl]
  have hword9 (j : Nat) (hj : Settled j) (hp : ∀ c, j / 1024 ≠ pgDoc c) : s9.word j = s.word j :=
    (h9.word j hj hp).trans (by rw [h8]; exact hword6 j hj)
  have hended (c : Nat) (hc : c ∈ ms) : (s.endView c).Ended n (s9.endView c) :=
    (h9.ended c hc).of_eq (by rw [h8]; exact hclu6 c) (by rw [h8]; exact congrArg (Fld.get _) (hword6 _ (settled_doc c)))
  have hmsgs : ∀ m ∈ r'.msgs, m.preempt = false := fun m hm => by
    rcases List.mem_append.mp (hr'.old m hm) with hm | hm
    · exact h.msgs m hm
    · rw [List.mem_singleton.mp hm]
      exact h.whole
  have hafter : s9.windowAfter g n ms = s9.egressAt g := by
    refine s9.windowAfter_eq g n ms herr9 ?_ (by rwa [hrun9]) (fun c hc => ⟨(h.clusters c hc).1, ?_⟩)
      fun r hr => (draining_congr (fun _ j => hword9 j) h.errs hr).trans (h.stays r hr)
    · exact (congrArg _ (hword9 _ (settled_gates 0 (by decide)).2.2 fun c => by
        rw [regIdx_page _ _ (by decide)]; unfold pgDoc pgDev; omega)).trans h.diverge
    · exact (congrArg Cluster.srst (hended c hc).clu).trans (h.clusters c hc).2
  have heg := s9.egressAt_egressed g
  suffices H : ∀ t, t = s9.egressAt g → (t.run g).idx = n ∧ (t.run g).stopped = (s.run g).stopped ∧
      (t.run g).step = ((s.run g).step + (s.headStep ms).toNat) % 2 ^ 64 ∧ s.ownMsg g ∈ (t.run g).msgs ∧
      ∀ c ∈ ms, (s.endView c).Ended n (t.endView c) from H _ hafter
  rintro t rfl
  have hrun : (s9.egressAt g).run g = r' := (State.run_of_runs heg.runs g).trans hrun9
  rw [hrun]
  refine ⟨hr'.idx, hr'.stopped, hr'.step.trans ?_, hr'.kept _ (List.mem_append_right _ (List.mem_singleton.mpr rfl)) le_rfl,
    fun c hc => ?_⟩
  · have hstep : s6.headStep ms = s.headStep ms := by
      unfold State.headStep
      simp only [hclu6]
    rw [hstep]
    rfl
  · rw [heg.endView herr9]
    exact hended c hc

end Sys2Proof.Machine
end

section
/-! PROOFS of the statements on timed launch (spec/08_timed_launch.md), seventeenth part: the package lands (R326, R338 to R342). -/
namespace Sys2Proof.Machine

section
variable {s t : State} {g : Nat} (h : AllLanded s t g (s.landing g))
include h

/-- A landing writes of a cluster's entry its mark alone. -/
theorem AllLanded.clu_landed (c : Nat) : ∃ b, t.clu c = { s.clu c with landed := b } := by
  rcases h.cases c with ⟨e, -, -⟩ | ⟨-, -, e, -, -⟩
  · exact ⟨(s.clu c).landed, e⟩
  · exact ⟨true, e⟩

theorem AllLanded.fields (c : Nat) : (t.clu c).halting = (s.clu c).halting ∧ (t.clu c).next = (s.clu c).next ∧
    (t.clu c).saved = (s.clu c).saved ∧ (t.clu c).srst = (s.clu c).srst ∧ (t.clu c).signals = (s.clu c).signals ∧
    (t.clu c).fStep = (s.clu c).fStep := by
  obtain ⟨b, e⟩ := h.clu_landed c
  rw [e]
  exact ⟨rfl, rfl, rfl, rfl, rfl, rfl⟩

theorem AllLanded.preempts (g' lam : Nat) : t.preempts g' lam = s.preempts g' lam := by
  have hf (f : Fld) (hf : f.off < 4096 := by decide) : t.getF pgTim f = s.getF pgTim f := h.getF (by decide) f hf
  unfold State.preempts State.flag
  rw [hf _, hf _, hf _, hf _]

theorem AllLanded.draining {r : Nat} (hr : r < 32) : t.draining r = s.draining r := by
  unfold State.draining State.avail
  rw [h.getF (by decide) _, h.getF (by unfold pgRgn; omega) _]

/-- Where the package lands, every awaited cluster shows WINDOW (R338). -/
theorem AllLanded.doc_window (hc : s.canLand g = true) {c : Nat} (hm : c ∈ s.landSet g) : t.doc c = docWindow := by
  unfold State.canLand at hc
  simp only [Bool.and_eq_true, Bool.not_eq_true', decide_eq_true_eq] at hc
  obtain ⟨⟨⟨⟨-, hs⟩, hl⟩, hall⟩, -⟩ := hc
  have hland := List.all_eq_true.mp hall c hm
  unfold State.landable at hland
  rw [Bool.or_eq_true] at hland
  rcases hland with hland | hready
  · rw [Bool.and_eq_true, decide_eq_true_eq] at hland
    rcases h.cases c with ⟨-, e, -⟩ | ⟨-, -, -, e, -⟩
    · exact e.trans hland.2
    · exact e
  · have hin : c ∈ s.landing g := by
      unfold State.landing
      dsimp only
      rw [if_neg (by simp [hs, Nat.not_lt.mpr hl])]
      exact List.mem_filter.mpr ⟨hm, hready⟩
    exact (h.land c hin).doc

end

theorem stopped_of_canLand {s : State} {g : Nat} (h : s.canLand g = true) : (s.run g).stopped = false ∧ s.landSet g ≠ [] := by
  unfold State.canLand at h
  simp only [Bool.and_eq_true, Bool.not_eq_true', decide_eq_true_eq] at h
  obtain ⟨⟨⟨⟨h1, h2⟩, -⟩, -⟩, -⟩ := h
  exact ⟨h2, fun e => by rw [e] at h1; cases h1⟩

/-- The step of the flight that landed is a cluster's own. -/
theorem State.headStep_mem (s : State) {ms : List Nat} (h : ms ≠ []) : ∃ c ∈ ms, s.headStep ms = (s.clu c).fStep := by
  cases ms with
  | nil => exact absurd rfl h
  | cons c ms => exact ⟨c, List.mem_cons_self .., rfl⟩

theorem State.landing_window (s : State) (g : Nat) (hc : s.canLand g = true) (hd : s.getF pgDev Reg.DEV_DET_CTL_DIVERGE = 0)
    (hp : s.preempts g (s.run g).lam = false) (hm : ∀ m ∈ (s.run g).msgs, m.preempt = false)
    (hr : ∀ r, r < 32 → s.draining r = false) (he : s.errs = [])
    (hcl : ∀ c ∈ s.landSet g, c < 512 ∧ (s.clu c).srst = false ∧ (s.clu c).saved = none) :
    let n := (s.run g).idx + 1
    ∃ t, exec (.landing g) s = .next t ∧ (t.run g).idx = n ∧ (t.run g).stopped = false ∧
      (∃ c ∈ s.landSet g, (t.run g).step = ((s.run g).step + (s.clu c).fStep.toNat) % 2 ^ 64) ∧
      (∃ m ∈ (t.run g).msgs, m.idx = n ∧ m.pkg = s.pkg ∧ m.preempt = false ∧
        (m.final = true ↔ ∀ c ∈ s.landSet g, (s.clu c).halting = true)) ∧
      ∀ c ∈ s.landSet g, t.getF (pgDoc c) Reg.DOC_LAND_LO_IDX = n % 2 ^ 32 ∧
        t.doc c = (if (s.clu c).halting then docDone else if (s.clu c).next.isSome then docWindow else docBarrier) ∧
        (t.clu c).signals = [] ∧ ((s.clu c).signals ≠ [] → (t.getF (pgDoc c) Reg.PG_EVT).testBit 4 = true) ∧
        ((s.clu c).halting = true → (t.getF (pgDoc c) Reg.PG_EVT).testBit 5 = true) := by
  intro n
  have hexec : exec (.landing g) s = .next ((s.landAll g).landWindow g) := by rw [landing_eq, hc, if_pos rfl]
  have ha := s.landAll_all g
  generalize s.landAll g = v at ha hexec
  obtain ⟨hst, hne⟩ := stopped_of_canLand hc
  obtain ⟨-, -, -, -, hmems, -⟩ := ha.parts
  have hset := ha.landSet
  have hrun := ha.run g
  have hready : WindowReady v g :=
    { errs := (congrArg Mems.errs hmems).trans he
      diverge := (ha.getF (by decide) _).trans hd
      whole := by rw [hrun, ha.preempts]; exact hp
      msgs := by rw [hrun]; exact hm
      stays := fun r hr' => (ha.draining hr').trans (hr r hr')
      clusters := fun c hc' => by
        rw [hset] at hc'
        obtain ⟨hlt, hs, -⟩ := hcl c hc'
        obtain ⟨-, -, -, hsr, -⟩ := ha.fields c
        exact ⟨hlt, hsr.trans hs⟩ }
  obtain ⟨h1, h2, h3, h4, h5⟩ := v.landWindow_does g hready
  rw [hset, hrun] at h3 h5
  obtain ⟨x, hx, hstep⟩ := v.headStep_mem hne
  refine ⟨_, hexec, by rw [h1, hrun], by rw [h2, hrun, hst], ⟨x, hx, ?_⟩, ⟨_, h4, ?_, ?_, ?_, ?_⟩, fun c hc' => ?_⟩
  · obtain ⟨-, -, -, -, -, hf⟩ := ha.fields x
    rw [h3, hstep, hf]
  · exact congrArg (GroupRun.idx · + 1) hrun
  · exact ha.pkg
  · exact hready.whole
  · have hfin : (v.ownMsg g).final = (v.landSet g).all (fun c => (v.clu c).halting) := rfl
    rw [hfin, hset, List.all_eq_true]
    refine forall₂_congr fun c _ => ?_
    rw [(ha.fields c).1]
  · obtain ⟨e1, e2, e3, e4, e5⟩ := h5 c hc'
    obtain ⟨f1, f2, f3, -, f5, -⟩ := ha.fields c
    have hdoc : v.doc c = docWindow := ha.doc_window hc hc'
    refine ⟨e3, e2.trans ?_, (congrArg Cluster.signals e1).trans rfl, fun h => e4 (by rwa [← f5] at h), fun h => e5 (by rwa [← f1] at h)⟩
    have hv : (v.endView c).clu = v.clu c := rfl
    have hw : (v.endView c).doc = v.doc c := rfl
    rw [hv, hw, f1, f2, f3, (hcl c hc').2.2, hdoc]
    cases (s.clu c).next <;> rfl

/-- Settles O44. A cluster lands on its own, and the package when its last cluster has; that the whole window is then taken in one step
is the model's choice (logs 84, 89). -/
theorem landingWindow : Obligations.LandingWindow := by
  unfold Obligations.LandingWindow
  exact fun s g => ⟨s.landing_alone g, s.landing_window g⟩

end Sys2Proof.Machine
end
